-- ==== Sys2Proof/Word.lean ====
section
/-! DEFINITION. The word types of Skatas and their plainest arithmetic (R2, R3: bit 0 is the least significant bit,
fields are unsigned unless said signed). -/

namespace Sys2Proof

/-- A byte of memory, of a buffer or of an instruction word. -/
abbrev Byte := BitVec 8

/-- A 32-bit word: a lane, a tile element, an FP32 or INT32 pattern. -/
abbrev W32 := BitVec 32

/-- A 64-bit word: a scalar register, a generic pointer, a control and status register. -/
abbrev Word := BitVec 64

/-- The number of a scalar register s0 to s31. -/
abbrev Reg := BitVec 5

/-- Sign extension of a field to a 64-bit word. -/
abbrev sx64 {n : Nat} (x : BitVec n) : Word := x.signExtend 64

/-- Zero extension of a field to a 64-bit word. -/
abbrev zx64 {n : Nat} (x : BitVec n) : Word := x.zeroExtend 64

end Sys2Proof
end

