-- ==== Sys2Proof/Config.lean ====
section
/-! DEFINITION. What an implementation fixes and the manual does not, and the free values: constants without a body, so
that nothing can evaluate them and no proof can use a value of them. -/

namespace Sys2Proof

/-- A value the manual leaves open: applied to the counter `fresh` of the state, which the step then advances. -/
opaque Config.freeWord : Nat → Word

/-- An open byte, as `Config.freeWord`. -/
opaque Config.freeByte : Nat → Byte

/-- The bound that a header BOUND or a record's CAL or INB stands for when software has written a negative value, −0 or a NaN into it
(R217). -/
opaque Config.badBound : W32 → W32

/-- The firmware public key whose SHA-256 is fused (R444 step 2), as a point of P-256. -/
opaque Config.firmwareKey : Nat × Nat

/-- The certificate chain of the identity key held in flash (R446). -/
opaque Config.certChain : List Byte

/-- The identity key's signature over a digest (R446, R447): the private half never leaves the security block. -/
opaque Config.identitySign : List Byte → List Byte

/-- The dies that fail the firmware's test at boot, as a 4-bit mask (R444). -/
opaque Config.failedDies : BitVec 4

/-- The device's own number on the fabric, which the member lists of R431 name it by. -/
opaque Config.deviceNumber : BitVec 20

/-- How many ordered-reduction entries the overflow area of a die holds: system software sets it, and no rule says how many
(R289). -/
opaque Config.overflowEntries : Nat → Nat

/-- How many bytes of graph images scheduler memory holds: 32 MiB (R326). -/
def Config.schedBytes : Nat := 32 * 1024 * 1024

/-- Entries of the dependency table (R323). -/
def Config.depEntries : Nat := 262144

end Sys2Proof
end

