-- ==== Sys2Proof/Machine/Maps.lean ====
section
/-! DEFINITION. Sparse tables in one canonical form, and bytes: the one representation of memories, register files and
numbered objects. A table is a list of key and value pairs with rising keys that lists no entry equal to the value an
unlisted key reads as. Byte order is decided once here (R2: little-endian). -/

namespace Sys2Proof.Machine

/-- The value of a key; `d` is what an unlisted key reads as. -/
def look {α : Type} (d : α) : List (Nat × α) → Nat → α
  | [], _ => d
  | (k, v) :: r, a => if k = a then v else look d r a

/-- The table with key `a` at `v`; writing `d` removes the entry. -/
def put {α : Type} [DecidableEq α] (d : α) : List (Nat × α) → Nat → α → List (Nat × α)
  | [], a, v => if v = d then [] else [(a, v)]
  | (k, w) :: r, a, v =>
    if k = a then (if v = d then put d r a v else (a, v) :: r)
    else if a < k ∧ v ≠ d then (a, v) :: (k, w) :: r
    else (k, w) :: put d r a v

/-- The canonical form: every key above `lo`, keys strictly rising, no entry equal to `d`. -/
def canonFrom {α : Type} [DecidableEq α] (d : α) : Nat → List (Nat × α) → Bool
  | _, [] => true
  | lo, (k, v) :: r => decide (lo ≤ k) && decide (v ≠ d) && canonFrom d (k + 1) r

/-- The canonical form of a whole table. -/
def canon {α : Type} [DecidableEq α] (d : α) (m : List (Nat × α)) : Bool := canonFrom d 0 m

/-- The keys of a table, in order. -/
def keys {α : Type} (m : List (Nat × α)) : List Nat := m.map (fun e => e.1)

/-- The entry of a numbered object, `none` when there is none. -/
def find? {α : Type} : List (Nat × α) → Nat → Option α
  | [], _ => none
  | (k, v) :: r, a => if k = a then some v else find? r a

/-- A table of numbered objects with object `a` set. -/
def setKey {α : Type} : List (Nat × α) → Nat → α → List (Nat × α)
  | [], a, v => [(a, v)]
  | (k, w) :: r, a, v =>
    if k = a then (a, v) :: r else if a < k then (a, v) :: (k, w) :: r else (k, w) :: setKey r a v

/-- A table of numbered objects without object `a`. -/
def dropKey {α : Type} (m : List (Nat × α)) (a : Nat) : List (Nat × α) := m.filter (fun e => e.1 != a)

/-- Every object of a table replaced by its image. -/
def mapVals {α : Type} (f : Nat → α → α) (m : List (Nat × α)) : List (Nat × α) := m.map (fun e => (e.1, f e.1 e.2))

/-- `n` bytes from address `a` of a byte table; an unlisted byte reads as 0. -/
def getBytes (m : List (Nat × Byte)) (a : Nat) : Nat → List Byte
  | 0 => []
  | n + 1 => look 0 m a :: getBytes m (a + 1) n

/-- The byte table with `bs` stored from address `a`. -/
def setBytes : List (Nat × Byte) → Nat → List Byte → List (Nat × Byte)
  | m, _, [] => m
  | m, a, b :: r => setBytes (put 0 m a b) (a + 1) r

/-- The unsigned value of bytes, lowest address first (R2). -/
def leNat : List Byte → Nat
  | [] => 0
  | b :: r => b.toNat + 256 * leNat r

/-- The `n` bytes of a value, lowest address first (R2). -/
def toLE : Nat → Nat → List Byte
  | 0, _ => []
  | n + 1, v => BitVec.ofNat 8 v :: toLE n (v / 256)

/-- The field [hi:lo] of a value (R3). -/
def bits (v hi lo : Nat) : Nat := v / 2 ^ lo % 2 ^ (hi + 1 - lo)

/-- Bit n of a value. -/
def bit (v n : Nat) : Bool := v / 2 ^ n % 2 == 1

/-- The signed value of an n-bit field (R3). -/
def sextN (v n : Nat) : Int := if v % 2 ^ n < 2 ^ (n - 1) then ((v % 2 ^ n : Nat) : Int) else ((v % 2 ^ n : Nat) : Int) - (2 ^ n : Nat)

/-- An exact integer reduced modulo 2^64 (R9, pointer arithmetic of R31). -/
def wrap64 (x : Int) : Nat := (x % (2 ^ 64 : Int)).toNat

/-- A little-endian field of `n` bytes at offset `o` of a byte list. -/
def fieldLE (bs : List Byte) (o n : Nat) : Nat := leNat ((bs.drop o).take n)

/-- Whether every byte of a stretch is zero. -/
def zeroBytes (bs : List Byte) (o n : Nat) : Bool := ((bs.drop o).take n).all (fun b => b == 0)

/-- A byte list with the bytes from offset `o` replaced. -/
def splice (bs : List Byte) (o : Nat) (new : List Byte) : List Byte :=
  bs.take o ++ new ++ bs.drop (o + new.length)

end Sys2Proof.Machine
end

