-- ==== Sys2Proof/Syntax.lean ====
section
/-! DEFINITION. The actions of a Skatas package, one constructor per row of the opcode table: the words of the five
streams (R26 to R57), the register-value forms of CSRW, the commands of the Jecel port (R442), and the happenings of the
asynchronous engines and of the outside world. -/

namespace Sys2Proof

/-- The five streams of a core (Table 1-3), numbered as STRM of Table 18-4a numbers them. -/
inductive Strm where
  | C | L | V | M | S
  deriving DecidableEq, Repr

/-- An operand descriptor (Table 2-3). -/
inductive Desc where
  /-- kind 0: register, broadcast, or an imm8 (event, slot, ring, small constant) -/
  | reg (imm8 : BitVec 8) (bc : Bool) (reg : BitVec 6)
  /-- kind 1: a strided operand through an address register -/
  | str (areg : BitVec 4) (post : BitVec 2) (off : BitVec 17)
  deriving DecidableEq, Repr

/-- The fields of a 96-bit word other than its opcode (Table 2-2), with its three operand descriptors. -/
structure W96 where
  stall : BitVec 4
  pneg : Bool
  pred : BitVec 3
  fmt : BitVec 4
  rm : BitVec 2
  var : BitVec 2
  d : Desc
  a : Desc
  b : Desc
  deriving DecidableEq, Repr

/-- The fields of a 192-bit matrix word other than its opcode (Table 2-4). -/
structure W192 where
  stall : BitVec 4
  pneg : Bool
  pred : BitVec 3
  tile : BitVec 4
  afmt : BitVec 4
  bfmt : BitVec 4
  asrc : BitVec 2
  btr : Bool
  acc : Bool
  shape : BitVec 6
  gen : Bool
  greg : BitVec 4
  gexp : BitVec 16
  reissue : BitVec 2
  kth : BitVec 2
  areg : BitVec 4
  aoff : BitVec 25
  arsc : BitVec 4
  breg : BitVec 4
  boff : BitVec 25
  geom : BitVec 3
  kcount : BitVec 16
  chk : Bool
  retry : Bool
  deriving DecidableEq, Repr

/-- The sequence number and the tag of a Jecel port command (R441). -/
structure Jec where
  seq : Nat
  tag : Nat
  deriving DecidableEq, Repr

/-- An access of another device to this device's exported window (R429). -/
inductive RemoteAcc where
  | read (n : Nat)
  | write (data : List Byte)
  | atom (op : Nat) (wide : Bool) (operand compare : Word)
  deriving DecidableEq, Repr

/-- The status of a LINK data word (R433, R430, Table 19-8). -/
inductive LinkStatus where
  | ok | peerWithdrawn | peerAbsent | mismatch | unreachable
  deriving DecidableEq, Repr

/-- What the switch answers to an operation of a collective group (R433): a commit, with the FMT, the BF16 contributions and the clash
flags of every other rank, or a status other than OK. -/
inductive CollOutcome where
  | commit (others : List (Nat × Nat × List (BitVec 16 × Bool)))
  | fail (st : LinkStatus)
  deriving DecidableEq, Repr

/-- How the training of a port ends (Table 19-2). -/
inductive TrainResult where
  | full | half | failed
  deriving DecidableEq, Repr

/-- The fields HSET carries (R367). For KIND 0 and 1, `base` is a generic pointer of the context; `reserved` stands for
every zero field together. -/
structure HandleReq where
  kind : Nat
  w : Bool
  member : Nat
  dev : Nat
  base : Nat
  len : Nat
  reserved : Nat
  deriving DecidableEq, Repr

/-- One entry of a context's sync map (R359): page number (offset [35:16]), home die, frame within that engine, write and
deterministic bits, and the offsets within the page at which device barrier records lie. -/
structure SyncEnt where
  page : Nat
  die : Nat
  frame : Nat
  w : Bool
  d : Bool
  barriers : List Nat
  deriving DecidableEq, Repr

/-- What CTXNEW carries (R405, R416). -/
structure CtxReq where
  part : Nat
  ptbdev : Word
  ptbsec : Word
  sync : List SyncEnt
  wdog : Nat
  spill : Nat
  hndb : Word
  deriving DecidableEq, Repr

/-- The space an MREAD or MWRITE names (R442). -/
inductive MemSpace where
  | ctx (n : Nat)
  | phys
  deriving DecidableEq, Repr

/-- What REACH does to a device's entry (R429): set its export length and path, or remove it. -/
inductive ReachReq where
  | set (len path : Nat)
  | remove
  deriving DecidableEq, Repr

/-- One device of the replica list (R394). -/
structure ReplicaDev where
  dev : Nat
  domain : Nat
  reachable : Bool
  deriving DecidableEq, Repr

/-- The part of a queued store that an event takes: the window it goes to, and how many of its elements, 0 for all that are left. -/
structure Portion where
  win : Nat
  k : Nat
  deriving DecidableEq, Repr

/-- What one arrival brings a load: how many elements of its sources, 0 for all that are left, and the bytes that come from elsewhere. -/
structure Arrival where
  k : Nat
  data : List Byte
  deriving DecidableEq, Repr

/-- The core whose translation a walk fills, and what its TLBs have thrown out first: nothing (0), the core's entry (1), or the die's
too (2). -/
structure Filling where
  core : Nat
  evict : Nat
  deriving DecidableEq, Repr

/-- A lineage mirror message of another device (R391): an entry to hold, the trimming of one, or the acknowledgement of a mirror of this
device's (NOMIR of Table 17-8). -/
inductive MirrorMsg where
  | store (dev : Nat) (handle : Word) (ver : Nat) (body : List Byte)
  | trim (dev : Nat) (handle : Word) (ver : Nat)
  | ack (dev : Nat) (handle : Word) (ver : Nat)
  deriving DecidableEq, Repr

/-- The actions of the package: one constructor per row of the opcode table. -/
inductive Instr where
  /-- R106: Writes the 64-bit modular sum of s[sa] and s[sb] to s[sd]. -/
  | add (d a b : Reg)
  /-- R106: Writes the 64-bit modular difference of s[sa] and s[sb] to s[sd]. -/
  | sub (d a b : Reg)
  /-- R106: Writes the low 64 bits of the product of s[sa] and s[sb] to s[sd]. -/
  | mul (d a b : Reg)
  /-- R106: Writes the high 64 bits of the signed 128-bit product to s[sd]. -/
  | mulh (d a b : Reg)
  /-- R106: Writes the high 64 bits of the unsigned 128-bit product to s[sd]. -/
  | mulhu (d a b : Reg)
  /-- R106: Writes the signed quotient truncated toward zero, with fixed results for division by zero and overflow. -/
  | div (d a b : Reg)
  /-- R106: Writes the unsigned quotient, all ones when the divisor is zero. -/
  | divu (d a b : Reg)
  /-- R106: Writes the signed remainder with the sign of the dividend. -/
  | rem (d a b : Reg)
  /-- R106: Writes the unsigned remainder. -/
  | remu (d a b : Reg)
  /-- R106: Writes the bitwise AND of s[sa] and s[sb]. -/
  | and (d a b : Reg)
  /-- R106: Writes the bitwise OR of s[sa] and s[sb]. -/
  | or (d a b : Reg)
  /-- R106: Writes the bitwise XOR of s[sa] and s[sb]. -/
  | xor (d a b : Reg)
  /-- R106: Shifts s[sa] left by s[sb][5:0]. -/
  | shl (d a b : Reg)
  /-- R106: Shifts s[sa] logically right by s[sb][5:0]. -/
  | shr (d a b : Reg)
  /-- R106: Shifts s[sa] arithmetically right by s[sb][5:0]. -/
  | sra (d a b : Reg)
  /-- R106: Writes the signed minimum. -/
  | min (d a b : Reg)
  /-- R106: Writes the signed maximum. -/
  | max (d a b : Reg)
  /-- R106: Writes the unsigned minimum. -/
  | minu (d a b : Reg)
  /-- R106: Writes the unsigned maximum. -/
  | maxu (d a b : Reg)
  /-- R106: Writes 1 when s[sa] is less than s[sb] signed, else 0. -/
  | slt (d a b : Reg)
  /-- R106: Writes 1 when s[sa] is less than s[sb] unsigned, else 0. -/
  | sltu (d a b : Reg)
  /-- R106: Writes 1 when s[sa] equals s[sb], else 0. -/
  | seq (d a b : Reg)
  /-- R106: Writes the number of leading zero bits of s[sa]. -/
  | clz (d a : Reg)
  /-- R106: Writes the number of one bits of s[sa]. -/
  | popc (d a : Reg)
  /-- R107: Adds the sign-extended immediate to s[sa]. -/
  | addi (d a : Reg) (i : BitVec 16)
  /-- R107: ANDs s[sa] with the zero-extended immediate. -/
  | andi (d a : Reg) (i : BitVec 16)
  /-- R107: ORs s[sa] with the zero-extended immediate. -/
  | ori (d a : Reg) (i : BitVec 16)
  /-- R107: XORs s[sa] with the zero-extended immediate. -/
  | xori (d a : Reg) (i : BitVec 16)
  /-- R107: Shifts s[sa] left by imm16[5:0]. -/
  | shli (d a : Reg) (i : BitVec 6)
  /-- R107: Shifts s[sa] logically right by imm16[5:0]. -/
  | shri (d a : Reg) (i : BitVec 6)
  /-- R107: Shifts s[sa] arithmetically right by imm16[5:0]. -/
  | srai (d a : Reg) (i : BitVec 6)
  /-- R107: Writes 1 when s[sa] is less than the immediate, signed. -/
  | slti (d a : Reg) (i : BitVec 16)
  /-- R107: Writes 1 when s[sa] is less than the sign-extended immediate, unsigned. -/
  | sltiu (d a : Reg) (i : BitVec 16)
  /-- R107: Writes sext(imm16 x 2^16, 32) to s[sd]. -/
  | lui (d : Reg) (i : BitVec 16)
  /-- R108: Loads 4 bytes, sign-extended, from a checked and translated address into s[sd]. -/
  | ldw (d a : Reg) (i : BitVec 16)
  /-- R108: Loads 8 bytes from a checked and translated address into s[sd]. -/
  | ldd (d a : Reg) (i : BitVec 16)
  /-- R108: Stores s[sd][31:0] through the C store queue after window, alignment and translation checks. -/
  | stw (d a : Reg) (i : BitVec 16)
  /-- R108: Stores s[sd] through the C store queue after window, alignment and translation checks. -/
  | std (d a : Reg) (i : BitVec 16)
  /-- R110: Writes base and stride of address register aN, single-copy atomically. -/
  | seta (n : BitVec 4) (a b : Reg)
  /-- R110: Writes the limit of address register aN. -/
  | setk (n : BitVec 4) (a : Reg)
  /-- R110: Reads base, stride or limit of aN into s[sd] as sel chooses. -/
  | geta (d : Reg) (n : BitVec 4) (s : BitVec 5)
  /-- R111: Branches by off16 when s[sa] equals s[sb]. -/
  | beq (a b : Reg) (o : BitVec 16)
  /-- R111: Branches by off16 when s[sa] differs from s[sb]. -/
  | bne (a b : Reg) (o : BitVec 16)
  /-- R111: Branches when s[sa] is less than s[sb], signed. -/
  | blt (a b : Reg) (o : BitVec 16)
  /-- R111: Branches when s[sa] is at least s[sb], signed. -/
  | bge (a b : Reg) (o : BitVec 16)
  /-- R111: Branches when s[sa] is less than s[sb], unsigned. -/
  | bltu (a b : Reg) (o : BitVec 16)
  /-- R111: Branches when s[sa] is at least s[sb], unsigned. -/
  | bgeu (a b : Reg) (o : BitVec 16)
  /-- R111: Jumps by off26 words. -/
  | j (o : BitVec 26)
  /-- R111: Writes pc + 1 to s31 and jumps by off26 words. -/
  | jal (o : BitVec 26)
  /-- R111: Jumps to s[sa] + imm and writes pc + 1 to s[sd]. -/
  | jalr (d a : Reg) (i : BitVec 16)
  /-- R111: Increments s[sa] and branches while it differs from s[sb]. -/
  | loopc (a b : Reg) (o : BitVec 16)
  /-- R112: Starts the named engine streams at word 0 after checking presence and idleness. -/
  | fork (m : BitVec 4)
  /-- R112: Waits until every named stream is idle and acquires their register, buffer and tile effects. -/
  | rdv (m : BitVec 4)
  /-- R114: Adds n to an event count from the C stream, trapping 0x140 on overflow. -/
  | post (e : BitVec 6) (n : BitVec 10)
  /-- R114: Waits until an event count reaches n and subtracts n. -/
  | await (e : BitVec 6) (n : BitVec 10)
  /-- R115: Pushes a branch outcome onto a stream's branch-outcome queue, waiting while it is full. -/
  | boqp (a : Reg) (x : BitVec 2)
  /-- R115: Pushes s[sa][31:0] onto a stream's parameter queue, waiting while it is full. -/
  | qput (a : Reg) (x : BitVec 2)
  /-- R116: Reads a continuation record, checks it and enters a new task into a task queue. -/
  | spawn (d a b : Reg)
  /-- R117: Decrements a waiting task's join counter as a device-scope release, making it READY at zero. -/
  | jdec (a : Reg)
  /-- R102: Waits for idle engines, drains the core's stores to device scope and signals the completion combiner. -/
  | texit (a : Bool)
  /-- R119: Reads a bucket table, rounds a dimension up to a bucket size and jumps to its target. -/
  | bksel (d a : Reg) (i : BitVec 16)
  /-- R316: Claims a slot of a data queue, waiting while full unless nw is set. -/
  | rclaim (d a : Reg) (w : Bool)
  /-- R316: Publishes a claimed data-queue slot as a device-scope release. -/
  | rpubl (d a : Reg)
  /-- R316: Takes the oldest published slot of a data queue as a device-scope acquire. -/
  | rtake (d a : Reg) (w : Bool)
  /-- R316: Releases a taken data-queue slot and advances the release point. -/
  | rrels (d a : Reg)
  /-- R269: Snapshots the issued or completed value of a timeline counter into s[sd]. -/
  | tlrd (d : Reg) (s : Bool) (c : BitVec 7)
  /-- R270: Waits until a timeline counter's completed value reaches s[sa], acquiring those commands. -/
  | tlwait (a : Reg) (c : BitVec 7)
  /-- R263: Realigns the C stream's load and store queues at stream scope. -/
  | mark
  /-- R271: Places markers in the named queues for the current phase of a device barrier. -/
  | phmark (a : Reg) (m : BitVec 7)
  /-- R283: Atomic add returning the old value. -/
  | aadd (d a b : Reg) (w : Bool)
  /-- R283: Quiet atomic add. -/
  | aaddq (a b : Reg) (w : Bool)
  /-- R283: Atomic signed minimum returning the old value. -/
  | amin (d a b : Reg) (w : Bool)
  /-- R283: Quiet atomic signed minimum. -/
  | aminq (a b : Reg) (w : Bool)
  /-- R283: Atomic signed maximum returning the old value. -/
  | amax (d a b : Reg) (w : Bool)
  /-- R283: Quiet atomic signed maximum. -/
  | amaxq (a b : Reg) (w : Bool)
  /-- R283: Atomic unsigned minimum returning the old value. -/
  | aminu (d a b : Reg) (w : Bool)
  /-- R283: Quiet atomic unsigned minimum. -/
  | aminuq (a b : Reg) (w : Bool)
  /-- R283: Atomic unsigned maximum returning the old value. -/
  | amaxu (d a b : Reg) (w : Bool)
  /-- R283: Quiet atomic unsigned maximum. -/
  | amaxuq (a b : Reg) (w : Bool)
  /-- R283: Atomic AND returning the old value. -/
  | aand (d a b : Reg) (w : Bool)
  /-- R283: Quiet atomic AND. -/
  | aandq (a b : Reg) (w : Bool)
  /-- R283: Atomic OR returning the old value. -/
  | aor (d a b : Reg) (w : Bool)
  /-- R283: Quiet atomic OR. -/
  | aorq (a b : Reg) (w : Bool)
  /-- R283: Atomic XOR returning the old value. -/
  | axor (d a b : Reg) (w : Bool)
  /-- R283: Quiet atomic XOR. -/
  | axorq (a b : Reg) (w : Bool)
  /-- R283: Atomic exchange returning the old value. -/
  | axchg (d a b : Reg) (w : Bool)
  /-- R283: Quiet atomic exchange. -/
  | axchgq (a b : Reg) (w : Bool)
  /-- R283: Atomic compare-and-swap against s[sd], returning the old value. -/
  | acas (d a b : Reg) (w : Bool)
  /-- R283: Quiet compare-and-swap reading its expected value from s[sd]. -/
  | acasq (d a b : Reg) (w : Bool)
  /-- R283: Atomic FP32 add rounded to nearest-even, returning the old value. -/
  | afadd (d a b : Reg)
  /-- R283: Quiet atomic FP32 add. -/
  | afaddq (a b : Reg)
  /-- R283: Atomic FP32 minimum under R69, returning the old value. -/
  | afmin (d a b : Reg)
  /-- R283: Quiet atomic FP32 minimum. -/
  | afminq (a b : Reg)
  /-- R283: Atomic FP32 maximum under R69, returning the old value. -/
  | afmax (d a b : Reg)
  /-- R283: Quiet atomic FP32 maximum. -/
  | afmaxq (a b : Reg)
  /-- R287: Adds a keyed FP32 contribution to an ordered reduction of the current phase. -/
  | aredo (d a b : Reg)
  /-- R302: Waits until a doubleword meets a masked comparison, installing a wait entry at its home engine. -/
  | waita (d a b : Reg)
  /-- R305: Ends every wait on a doubleword and returns the number of waits ended. -/
  | wake (d a : Reg)
  /-- R298: Releases and arrives at the device barrier at s[sa], returning the arrival phase. -/
  | baraDevice (d a : Reg)
  /-- R298: Releases and arrives at group barrier gN. -/
  | baraGroup (d : Reg) (n : BitVec 4)
  /-- R298: Waits past a phase of a device barrier after the GANG check, acquiring its releases. -/
  | barwDevice (d a : Reg)
  /-- R298: Waits past a phase of group barrier gN. -/
  | barwGroup (d : Reg) (n : BitVec 4)
  /-- R298: Arrives at a device barrier and waits for the phase it arrived in. -/
  | barawDevice (d a : Reg)
  /-- R298: Arrives at group barrier gN and waits for its phase. -/
  | barawGroup (d : Reg) (n : BitVec 4)
  /-- R385: Allocates the next version of a tile slot as FILLING and initialises its header. -/
  | talloc (d a : Reg)
  /-- R386: Checks and seals a FILLING version, computing depth, writing its lineage entry or starting replication. -/
  | tseal (d a b : Reg)
  /-- R387: Retires a tile version, waiting or trapping when it backs kept lineage. -/
  | tretire (a b : Reg)
  /-- R388: Starts replication of a sealed version and reports its status. -/
  | trepl (d a b : Reg)
  /-- R389: Snapshots a version's state, data pointer, header pointer or the slot's NEXT. -/
  | tlook (d a b : Reg)
  /-- R390: Queues a checkpoint of listed versions to second-tier memory on a copy queue. -/
  | ckpt (d a b : Reg)
  /-- R370: Reads and checks a copy descriptor and queues a contiguous row copy on a copy queue. -/
  | xcopy (d a b : Reg)
  /-- R370: Queues a strided two-dimensional copy. -/
  | xcopy2 (d a b : Reg)
  /-- R370: Queues a fill of destination rows with an 8-byte pattern. -/
  | xfill (d a b : Reg)
  /-- R373: Returns a copy queue's fault, busy and last-fault status and clears FLT. -/
  | xstat (d b : Reg)
  /-- R436: Multicasts bytes into the exported window of every member of a collective group. -/
  | lkmcst (d a b : Reg)
  /-- R437: Contributes elements to a fixed-order all-reduce of a collective group. -/
  | lkldred (d a b : Reg)
  /-- R436: Writes bytes into one device's exported window. -/
  | lksend (d a b : Reg)
  /-- R439: Joins a collective group, completing when the switch records the join. -/
  | cgjoin (a : Reg)
  /-- R439: Waits for the group's data words and leaves the collective group. -/
  | cgleave (a : Reg)
  /-- R439: Snapshots a collective group's rank, join flag and state. -/
  | cgstat (d a : Reg)
  /-- R120: Does nothing in the C stream. -/
  | nop
  /-- R120: Takes software trap cause 0x1E0 + d. -/
  | trap (d : BitVec 5)
  /-- R419: Returns from a handler, restoring the C stream and resuming the stopped streams. -/
  | eret
  /-- R121: Reads a CSR into s[sd]. -/
  | csrr (d : Reg) (c : BitVec 10)
  /-- R50: Writes s[sd] to a CSR under its access codes; generic row for CSRs without behaviour of their own. -/
  | csrw (d : Reg) (c : BitVec 10)
  /-- R264: C-stream acquire, release or full fence at the given scope. -/
  | fence (f s : BitVec 5)
  /-- R120: Idles the C stream for s[sa] cycles. -/
  | sleep (a : Reg)
  /-- R120: Completes, then stops every stream of the context with cause 0x1C3. -/
  | halt
  /-- R340: Returns the index of the next decision of the context's decision log. -/
  | dlogp (d : Reg)
  /-- R121: Scrubs 64 KiB of device memory, correcting soft errors and reporting uncorrectable ones. -/
  | scrub (d a : Reg)
  /-- R141: Copies n rows from memory into a buffer, clipping or faulting at shape boundaries. -/
  | ldb (w : W96)
  /-- R142: Loads a sealed tile version into a buffer, verifying its CRC. -/
  | ldtBuffer (w : W96)
  /-- R142: Loads a sealed tile version into a tile register, setting it LOADED with its header bound. -/
  | ldtTile (w : W96)
  /-- R144: Gathers one element per true lane from memory into a vector register. -/
  | ldg (w : W96)
  /-- R141: Fills n buffer rows with a scalar value. -/
  | ldz (w : W96)
  /-- R141: Loads rows converting each element to FP32 or BF16, counting and bounding the conversion. -/
  | ldc (w : W96)
  /-- R145: Checks and loads a published shape record into a shape slot. -/
  | ldsh (w : W96)
  /-- R146: Prefetches rows into the home die cache without faulting. -/
  | lpref (w : W96)
  /-- R147: Claims the next EMPTY slot of a scratchpad ring into an address register. -/
  | lwfree (w : W96)
  /-- R147: Publishes a claimed scratchpad ring slot after its L writes complete. -/
  | lpubl (w : W96)
  /-- R148: Stores n rows from a buffer to memory unchanged. -/
  | stb (w : W96)
  /-- R150: Writes a FILLING tile version and its header from the A-buffer, CRC last. -/
  | sttBuffer (w : W96)
  /-- R150: Converts or quantises a tile register and writes it to a FILLING version with header and CRC. -/
  | sttTile (w : W96)
  /-- R152: Scatters the true lanes of a vector register to memory after checking every lane. -/
  | stsc (w : W96)
  /-- R148: Atomically adds buffer elements into FP32 or BF16 memory elements. -/
  | stadd (w : W96)
  /-- R148: Atomically adds alpha times buffer elements into memory elements. -/
  | staxpy (w : W96)
  /-- R154: Applies a momentum update to FP32 weights and moments in memory. -/
  | stopt (w : W96)
  /-- R154: Applies an Adam update to FP32 weights and both moments in memory. -/
  | stoptAdam (w : W96)
  /-- R149: Converts FP32 buffer rows to a format in memory and raises SCVB. -/
  | stcvt (w : W96)
  /-- R149: Converts rows of a tile register to a format in memory and raises SCVB. -/
  | stcvtTile (w : W96)
  /-- R153: Performs one quiet 32-bit atomic per true lane in ascending lane order. -/
  | satom (w : W96)
  /-- R147: Takes the next FULL scratchpad ring slot into an address register. -/
  | swfill (w : W96)
  /-- R147: Releases a taken scratchpad ring slot after its S reads are done. -/
  | srels (w : W96)
  /-- R197: Runs K-steps of A times B into a tile register, opening or joining a reduction loop. -/
  | mma (w : W192)
  /-- R199: Runs K-steps reading A by W-buffer bit lines. -/
  | mmat (w : W192)
  /-- R199: Runs K-steps with products masked by a shape record. -/
  | mmas (w : W192)
  /-- R207: Sets every element of a tile to +0 and resets its record. -/
  | mzero (w : W192)
  /-- R202: Opens a reduction loop on a tile and freezes buffer ranges for replay. -/
  | minit (w : W192)
  /-- R208: Converts a tile to the A-buffer with scales and bound tags and clears D. -/
  | mdrain (w : W192)
  /-- R208: Copies tile rows unchanged into vector registers. -/
  | mdrainRegister (w : W192)
  /-- R203: Checks checksum, caliper and counters of an open loop, replays or traps, and retires it. -/
  | mret (w : W192)
  /-- R209: Adds a software-supplied bound to a tile's caliper. -/
  | mcal (w : W192)
  /-- R210: Writes a tile's saturation, NaN and block-scale overflow limits. -/
  | msetk (w : W192)
  /-- R211: Sets the arithmetic level of an open loop before its first step. -/
  | mwide (w : W192)
  /-- R212: Recomputes and compares row and column sums of W-buffer blocks. -/
  | mchk (w : W192)
  /-- R213: Writes a tile's record and elements to the A-buffer. -/
  | mspill (w : W192)
  /-- R213: Restores a tile and its record from an A-buffer image. -/
  | mfill (w : W192)
  /-- R214: Writes a tile's metadata record to the A-buffer. -/
  | mstat (w : W192)
  /-- R136: Engine-stream no-op. -/
  | engineNop (w : W96)
  /-- R137: Raises an event count as a core-scope release after earlier words complete. -/
  | enginePost (w : W96)
  /-- R137: Waits for an event count and subtracts n as a core-scope acquire. -/
  | engineAwait (w : W96)
  /-- R263: Realigns the engine stream's load and store queues. -/
  | engineMark (w : W96)
  /-- R136: Jumps the engine stream by off words. -/
  | jmp (w : W96)
  /-- R136: Pops the stream's branch-outcome queue and branches on the bit. -/
  | boqb (w : W96)
  /-- R136: Pushes a predicate (any lane in V) onto a stream's branch-outcome queue. -/
  | boqbPush (w : W96)
  /-- R136: Pushes a predicate (every lane in V) onto a stream's branch-outcome queue. -/
  | boqbPushall (w : W96)
  /-- R138: Decrements an index register and branches while it is nonzero. -/
  | loop (w : W96)
  /-- R136: Adds an immediate to an index register. -/
  | iaddi (w : W96)
  /-- R136: Sets an index register to an immediate. -/
  | iset (w : W96)
  /-- R136: Pops the parameter queue into an index register, waiting while empty. -/
  | ipop (w : W96)
  /-- R264: Engine-stream fence of given scope and flavour. -/
  | engineFence (w : W96)
  /-- R136: Takes software trap cause 0x1E0 + d from an engine stream. -/
  | trapx (w : W96)
  /-- R140: Waits for earlier writes and loads, then makes the stream idle. -/
  | endStream (w : W96)
  /-- R162: Lanewise FP32 addition. -/
  | vadd (w : W96)
  /-- R162: Lanewise FP32 subtraction. -/
  | vsub (w : W96)
  /-- R162: Lanewise FP32 multiplication. -/
  | vmul (w : W96)
  /-- R162: Lanewise fused multiply-add into D. -/
  | vfma (w : W96)
  /-- R162: Lanewise fused multiply-subtract from D. -/
  | vfms (w : W96)
  /-- R162: Lanewise FP32 minimum under R69. -/
  | vmin (w : W96)
  /-- R162: Lanewise FP32 maximum under R69. -/
  | vmax (w : W96)
  /-- R162: Clears bit 31 of each lane. -/
  | vabs (w : W96)
  /-- R162: Inverts bit 31 of each lane. -/
  | vneg (w : W96)
  /-- R162: Copies the sign of B onto A. -/
  | vcpys (w : W96)
  /-- R163: Correctly rounded reciprocal. -/
  | vrcp (w : W96)
  /-- R163: Correctly rounded reciprocal square root. -/
  | vrsq (w : W96)
  /-- R163: Correctly rounded square root. -/
  | vsqrt (w : W96)
  /-- R163: Correctly rounded 2^a. -/
  | vexp2 (w : W96)
  /-- R163: Correctly rounded log2 a. -/
  | vlog2 (w : W96)
  /-- R163: Correctly rounded e^(a - b) with exact difference. -/
  | vexpd (w : W96)
  /-- R163: Correctly rounded tanh. -/
  | vtanh (w : W96)
  /-- R163: Correctly rounded logistic sigmoid. -/
  | vsigm (w : W96)
  /-- R164: FP32 equality compare into a predicate. -/
  | vcmpeq (w : W96)
  /-- R164: FP32 less-than compare into a predicate. -/
  | vcmplt (w : W96)
  /-- R164: FP32 less-or-equal compare into a predicate. -/
  | vcmple (w : W96)
  /-- R164: Unordered (NaN) compare into a predicate. -/
  | vcmpun (w : W96)
  /-- R165: Writes a one-hot class mask of each FP32 lane. -/
  | vclass (w : W96)
  /-- R166: Lanewise integer addition. -/
  | viadd (w : W96)
  /-- R166: Lanewise integer subtraction. -/
  | visub (w : W96)
  /-- R166: Lanewise low 32 bits of the integer product. -/
  | vimul (w : W96)
  /-- R166: Lanewise integer multiply-add. -/
  | vimad (w : W96)
  /-- R166: Lanewise AND. -/
  | vand (w : W96)
  /-- R166: Lanewise OR. -/
  | vor (w : W96)
  /-- R166: Lanewise XOR. -/
  | vxor (w : W96)
  /-- R166: Lanewise AND-NOT. -/
  | vandn (w : W96)
  /-- R166: Lanewise left shift. -/
  | vshl (w : W96)
  /-- R166: Lanewise logical right shift. -/
  | vshr (w : W96)
  /-- R166: Lanewise arithmetic right shift. -/
  | vsra (w : W96)
  /-- R166: Lanewise signed minimum. -/
  | vimin (w : W96)
  /-- R166: Lanewise signed maximum. -/
  | vimax (w : W96)
  /-- R166: Lanewise unsigned minimum. -/
  | viminu (w : W96)
  /-- R166: Lanewise unsigned maximum. -/
  | vimaxu (w : W96)
  /-- R164: Integer equality compare into a predicate. -/
  | vicmpeq (w : W96)
  /-- R164: Signed integer less-than compare into a predicate. -/
  | vicmplt (w : W96)
  /-- R164: Unsigned integer less-than compare into a predicate. -/
  | vicmpltu (w : W96)
  /-- R166: Lanewise population count. -/
  | vpcnt (w : W96)
  /-- R166: Lanewise leading-zero count. -/
  | vclz (w : W96)
  /-- R167: Converts lanes or row elements between formats, counting into CVCNT. -/
  | vcvt (w : W96)
  /-- R168: Quantises the true lanes as one strip block with a computed or given scale. -/
  | vqnt (w : W96)
  /-- R169: Dequantises a row of codes with a block scale into FP32 lanes. -/
  | vdqnt (w : W96)
  /-- R170: Multiplies FP32 lanes by E8M0 scales. -/
  | vscale (w : W96)
  /-- R171: Packs two converted values into narrow fields of each lane. -/
  | vpack (w : W96)
  /-- R171: Unpacks a narrow field of each lane and widens it. -/
  | vunpk (w : W96)
  /-- R173: Pairwise-tree sum of the lanes into every true lane. -/
  | vrsum (w : W96)
  /-- R173: Tree maximum of the lanes. -/
  | vrmax (w : W96)
  /-- R173: Tree minimum of the lanes. -/
  | vrmin (w : W96)
  /-- R174: Writes the lane index of the maximum or minimum. -/
  | vrarg (w : W96)
  /-- R175: Inclusive Hillis-Steele scan. -/
  | vscan (w : W96)
  /-- R175: Exclusive scan. -/
  | vscanx (w : W96)
  /-- R176: Stably sorts the true (key, index) pairs. -/
  | vsort (w : W96)
  /-- R177: Writes the first k pairs of the sorted order. -/
  | vtopk (w : W96)
  /-- R178: Stably merges two runs of (key, index) pairs. -/
  | vmrg (w : W96)
  /-- R179: Permutes lanes of vA by an index vector. -/
  | vperm (w : W96)
  /-- R179: Broadcasts one lane of vA. -/
  | vbcst (w : W96)
  /-- R179: Rotates the lanes of vA. -/
  | vrot (w : W96)
  /-- R179: Selects lanes of A or B by a predicate. -/
  | vsel (w : W96)
  /-- R179: Moves a source to a register or A-buffer row. -/
  | vmov (w : W96)
  /-- R180: Writes a 16-bit immediate as INT32 or as a BF16-upper FP32. -/
  | vldi (w : W96)
  /-- R180: Writes each lane's index into vD. -/
  | vlane (w : W96)
  /-- R180: Writes address register aN from lanes 0 to 3 of vA. -/
  | vlaneAddress (w : W96)
  /-- R181: Appends the true lanes to a conditional stream window. -/
  | vpushc (w : W96)
  /-- R182: Releases up to 128 positions of a conditional stream. -/
  | vpopc (w : W96)
  /-- R183: Stably reorders true lanes by a 4-bit route. -/
  | vrebal (w : W96)
  /-- R184: Writes prefix counts, total count or a route histogram of a predicate. -/
  | vcount (w : W96)
  /-- R251: Reduces lanes per segment of a shape record, spread or gathered. -/
  | vsred (w : W96)
  /-- R252: Scans lanes within each segment. -/
  | vsscan (w : W96)
  /-- R253: Writes the softmax of the lanes within each segment. -/
  | vsnorm (w : W96)
  /-- R254: Writes a predicate from the record's mask rule. -/
  | vsmask (w : W96)
  /-- R255: Writes segment length, offset or index per lane. -/
  | vslen (w : W96)
  /-- R256: Reads blaze table entries into lanes. -/
  | vblz (w : W96)
  /-- R185: Writes counter-based hashed random INT32 per lane. -/
  | vrng (w : W96)
  /-- R185: Writes counter-based uniform FP32 in [0, 1) per lane. -/
  | vrngu (w : W96)
  /-- R333: A free core, or its 256-cycle retry, requests a task from its die's pool under the gleaning rule. -/
  | dispatchRequest (core : Nat)
  /-- R333: A core that becomes free is held for a CLAIMED gang. -/
  | gangCoreHold (core : Nat)
  /-- R331: The completion combiner ends a task, marking it DONE or ABANDONED and counting successors down. -/
  | taskCompletion (task : Nat)
  /-- R329: Starts an accepted graph launch once the previous one completes: patches, LIDs and readiness. -/
  | launchStart (slot : Nat)
  /-- R99: Verifies a loaded kernel image after KLOAD completes and logs its measurement. -/
  | kernelVerification (slot : Nat)
  /-- R383: A write performs at its home, with the second tile-version check and wait-entry evaluation. -/
  | memoryWritePerform (core : Nat) (st : Strm) (win k : Nat)
  /-- R283: An atomic performs indivisibly at its home synchronisation engine. -/
  | atomicPerform (core : Nat) (st : Strm) (part : Portion)
  /-- R274: A D-page write lands on the ordered-update path and is held for its phase. -/
  | dPageWriteLand (core : Nat) (st : Strm) (win k : Nat)
  /-- R289: An ordered-reduction contribution is accepted at its target's home engine. -/
  | aredoLand (core win : Nat)
  /-- R271: PHMARK markers retire and the core's marker arrival is delivered to the barrier. -/
  | markerRetire (core idx : Nat)
  /-- R294: Releases a CLOSING barrier phase: ordered writes, reductions, flag, bundle, waiters. -/
  | barrierPhaseRelease (bar : Nat)
  /-- R304: A poll register's backoff expires and it re-reads the waited doubleword. -/
  | waitaPoll (core : Nat)
  /-- R120: The C stream's SLEEP count runs out and the stream continues. -/
  | sleepExpiry (core : Nat)
  /-- R357: A walker takes a queued TLB miss and walks the page tables. -/
  | translationWalk (who : Filling) (win va : Nat)
  /-- R242: Fills a blaze cache entry, rechecking version, state and header. -/
  | blazeCacheRefill (core : Nat) (st : Strm)
  /-- R371: A copy engine starts a QUEUED command, making it ISSUED. -/
  | copyStart (ctx q die : Nat)
  /-- R371: Every destination byte has performed or landed; the transfer is LANDED. -/
  | copyLanded (ctx q n : Nat)
  /-- R371: PEND falls and the flag AADD is performed; the transfer is ACKED. -/
  | copyAcked (ctx q n : Nat)
  /-- R372: A transfer meets poison or die loss, breaking its barrier and marking its flag and queue. -/
  | copyFaulted (ctx q n : Nat)
  /-- R429: A window 0x6 access from another device is performed in the exported window. -/
  | remoteAccessArrival (acc : RemoteAcc) (off : Nat)
  /-- R430: A target's acknowledgement lowers the core's write-acknowledge count. -/
  | writeAcknowledge (core : Nat)
  /-- R438: A LINK data word completes, updating its flag and LKSTAT. -/
  | linkDataCompletion (core num : Nat) (st : LinkStatus)
  /-- R433: The switch commits an operation and delivers the whole result, or its non-OK status. -/
  | collectiveCommit (lnum op : Nat) (oc : CollOutcome)
  /-- R432: A member's WITHDRAW or loss breaks the group and ends pending operations. -/
  | collectiveWithdraw (lnum : Nat)
  /-- R395: The target acknowledges a matching replica; the version becomes REPLICATED and its entry is trimmed. -/
  | replicaCounted (ctx : Nat) (handle : Word) (ver : Nat)
  /-- R396: Loss of a counted replica returns the version to SEALED and restarts replication. -/
  | replicaLost (ctx : Nat) (handle : Word) (ver : Nat)
  /-- R394: Mirrors a NOMIR entry once a listed device is reachable. -/
  | lineageMirrorRetry (die : Nat)
  /-- R397: The coppice unit walks a LOST version's lineage, copying back or creating a rebuild run. -/
  | recoveryWalk (ctx : Nat) (handle : Word) (ver : Nat)
  /-- R397: A replica copied into a shadow frame passes its CRC and the version is REPLICATED. -/
  | copyBackVerified (ctx : Nat) (handle : Word) (ver : Nat)
  /-- R397: A rebuild run enters REBUILD once no operand is LOST or REBUILDING. -/
  | rebuildEnqueue (ctx : Nat) (lid : Word)
  /-- R399: Every core waits on a lost version while a REBUILD task is ready; context traps 0x1A6. -/
  | recoveryStarved (ctx : Nat)
  /-- R277: A stopping context's streams are stopped and drained; it enters TRAPPED. -/
  | contextStopped (ctx : Nat)
  /-- R408: The woodshed exchange ends; outgoing context SHELVED, incoming RUNNING. -/
  | swapExchangeComplete (part : Nat)
  /-- R407: A background spill finishes and is reported by event. -/
  | spillComplete (ctx : Nat)
  /-- R407: A background fill finishes and the context is SHELVED. -/
  | fillComplete (ctx : Nat)
  /-- R420: A core's idle count exceeds LIM x 65,536 cycles; the context takes 0x1C1. -/
  | watchdog (ctx core : Nat)
  /-- R15: A compute die is lost and fenced; versions, contexts, ports and transfers are handled. -/
  | dieLoss (die : Nat)
  /-- R17: Loss of the I/O die makes every context DEAD. -/
  | ioDieLoss
  /-- R362: A read meets an uncorrectable error; the frame enters the poison record. -/
  | memoryUncorrectableError (pa : Nat)
  /-- R425: An uncorrectable error in a synchronisation engine raises 0x1A4 for affected contexts. -/
  | syncEngineUncorrectableError (die : Nat)
  /-- R425: An uncorrectable error in a shelf or spill area raises 0x1A2 for affected contexts. -/
  | shelvedStateLost (ctx : Nat)
  /-- R444: Boot ROM verifies and runs the firmware, or enters recovery mode. -/
  | powerOnReset
  /-- R428: A peer port's training request moves a DOWN port to TRAINING. -/
  | linkTrainingRequest (port : Nat)
  /-- R428: Training ends UP, DEGRADED or, after three failures, DOWN. -/
  | linkTrainingResult (port : Nat) (res : TrainResult)
  /-- R428: A flit exhausts the retry buffer and the port retrains, or fences on a third retrain. -/
  | linkRetryExhausted (port : Nat) (third : Bool)
  /-- R426: A flit received with a bad CRC is sent again from the retry buffer. -/
  | linkFlitCrcError (port : Nat)
  /-- R449: Power or die temperature over limit holds M-stream issue at K-step boundaries. -/
  | powerThermalLimit (hold : Option Nat)
  /-- R449: 110 °C or a hot inlet for 10 s pre-empts and spills contexts and enters recovery mode. -/
  | thermalShutdown
  /-- R451: Writes the almanac counters to flash every 3,600 s. -/
  | almanacFlush
  /-- R328: CSRW of TRIGGER reads a patch list and accepts a graph launch. -/
  | trigger (d : Reg)
  /-- R365: Removes the context's translations overlapping a page range package-wide and waits for users. -/
  | tlbivaRange (d : Reg)
  /-- R365: SIZE 11 removes every translation of the context. -/
  | tlbivaAll (d : Reg)
  /-- R416: Checks and installs a handler table. -/
  | hndbInstall (d : Reg)
  /-- R416: A write of 0 removes every handler. -/
  | hndbRemove (d : Reg)
  /-- R320: CSRW STATE 01 enables a fitting scratchpad ring with fresh counters and tags. -/
  | ringcfEnable (ring : BitVec 4) (d : Reg)
  /-- R320: CSRW STATE 00 on a DISABLED ring stores a new configuration. -/
  | ringcfConfigure (ring : BitVec 4) (d : Reg)
  /-- R320: CSRW STATE 10 moves an ACTIVE ring to DRAINING. -/
  | ringcfDrain (ring : BitVec 4) (d : Reg)
  /-- R320: CSRW STATE 00 disables an empty ACTIVE ring or a FAULTED ring. -/
  | ringcfDisable (ring : BitVec 4) (d : Reg)
  /-- R339: Writing MODE 01 starts recording decisions to the log. -/
  | dlogcRecord (d : Reg)
  /-- R339: Writing MODE 10 starts replay from the log. -/
  | dlogcReplay (d : Reg)
  /-- R339: Writing MODE 00 turns the decision log off. -/
  | dlogcOff (d : Reg)
  /-- R225: A threshold write stores +0 for a negative or NaN VAL. -/
  | kthWrite (n : BitVec 2) (d : Reg)
  /-- R205: A REDLIM write clamps LIM to 1 to 64. -/
  | redlimWrite (d : Reg)
  /-- R98: Copies a kernel image into PINNED pages of a slot, making it LOADED. -/
  | kload (j : Jec) (slot addr : Nat) (image : List Byte)
  /-- R98: Releases a LOADED or VERIFIED kernel slot. -/
  | kunload (j : Jec) (slot : Nat)
  /-- R98: Adds a context to a kernel's bound set. -/
  | kbind (j : Jec) (slot ctx : Nat)
  /-- R98: Removes a context from a kernel's bound set. -/
  | kunbind (j : Jec) (slot ctx : Nat)
  /-- R98: Retires a BOUND kernel, passing to ABSENT when no core task runs. -/
  | kretire (j : Jec) (slot : Nat)
  /-- R326: Checks and loads a graph image into a graph slot. -/
  | gload (j : Jec) (slot ctx : Nat) (image : List Byte)
  /-- R326: Frees a graph slot with no incomplete launch. -/
  | gunload (j : Jec) (slot : Nat)
  /-- R328: Control-node launch request with the checks of a TRIGGER write. -/
  | trig (j : Jec) (ctx : Nat) (ptr : Word)
  /-- R313: Checks a queue descriptor and makes the queue ACTIVE. -/
  | qset (j : Jec) (q : Nat) (desc : List Byte)
  /-- R313: Moves an ACTIVE queue to DRAINING. -/
  | qdrain (j : Jec) (q : Nat)
  /-- R313: Disables a queue, discarding slots and counters. -/
  | qoff (j : Jec) (q : Nat)
  /-- R367: Checks and writes a copy handle entry. -/
  | hset (j : Jec) (ctx idx : Nat) (h : HandleReq)
  /-- R367: Clears a copy handle entry not in use by a transfer. -/
  | hclr (j : Jec) (ctx idx : Nat)
  /-- R377: Defines a tile pool of a context. -/
  | poolset (j : Jec) (ctx : Nat) (desc : List Byte)
  /-- R360: Clears a poison record entry. -/
  | pclear (j : Jec) (frame : Nat)
  /-- R404: Adds or removes cores of a partition and numbers them. -/
  | partset (j : Jec) (part : Nat) (add remove : List Nat)
  /-- R405: Makes a FREE context READY with its tables, watchdog and spill area. -/
  | ctxnew (j : Jec) (ctx : Nat) (req : CtxReq)
  /-- R406: Swaps a READY or SHELVED context onto its partition. -/
  | run (j : Jec) (ctx : Nat)
  /-- R406: Starts draining a RUNNING context to the woodshed. -/
  | preempt (j : Jec) (ctx : Nat)
  /-- R407: Moves a shelved or trapped context's state to its spill area in the background. -/
  | spill (j : Jec) (ctx : Nat)
  /-- R407: Moves a SPILLED context back to the free shelf in the background. -/
  | fill (j : Jec) (ctx : Nat)
  /-- R414: Resumes a TRAPPED context from its stop points when allowed. -/
  | resume (j : Jec) (ctx : Nat)
  /-- R423: Stops a context at once, faulting transfers, breaking barriers and making it DEAD. -/
  | kill (j : Jec) (ctx : Nat)
  /-- R424: Frees a DEAD context's pools, slots, queues, handles and areas. -/
  | ctxfree (j : Jec) (ctx : Nat)
  /-- R402: Reads a checkpoint image into a context's pools, queues and groups. -/
  | restore (j : Jec) (ctx : Nat) (image : List Byte)
  /-- R442: Reads a range of a context window or physical memory at system scope. -/
  | mread (j : Jec) (sp : MemSpace) (addr count : Nat)
  /-- R472: Writes a range under the tile rules of a C store, or physical memory as written. -/
  | mwrite (j : Jec) (sp : MemSpace) (addr : Nat) (data : List Byte)
  /-- R429: Sets the device's exported window. -/
  | exportWin (j : Jec) (ctx : Nat) (ptr : Word) (len : Nat)
  /-- R429: Sets or removes a reach table entry and its path. -/
  | reach (j : Jec) (dev : Nat) (entry : ReachReq)
  /-- R394: Sets the power-feed domain and replica list. -/
  | memb (j : Jec) (domain : Nat) (replicas : List ReplicaDev)
  /-- R431: Defines a collective group record in the membership table. -/
  | cgdef (j : Jec) (rec : List Byte) (members : List Nat)
  /-- R432: Dissolves a collective group and frees its entry. -/
  | cgdel (j : Jec) (lnum : Nat)
  /-- R428: Starts training a DOWN port. -/
  | linkup (j : Jec) (port : Nat)
  /-- R428: Retrains an UP or DEGRADED port. -/
  | retrain (j : Jec) (port : Nat)
  /-- R428: Fences a port and sets the replace request. -/
  | linkfence (j : Jec) (port : Nat)
  /-- R428: Returns a FENCED port to DOWN. -/
  | linkreset (j : Jec) (port : Nat)
  /-- R450: Returns cores to service and returns a one-instant state record. -/
  | summary (j : Jec) (mask flags : Nat)
  /-- R445: Verifies and writes a firmware image, then resets the device. -/
  | fwload (j : Jec) (image : List Byte) (burn : Bool)
  /-- R447: Returns the certificate chain, measurement log and a signed quote over a nonce. -/
  | quote (j : Jec) (nonce : List Byte)
  /-- R451: Package power is lost, ending all activity and losing volatile state and up to 3,600 s of almanac counts. -/
  | powerLoss
  /-- R432: The switch records a member's join or leave and every member's record follows the group's new FORMING or ACTIVE state. -/
  | collectiveJoinLeaveRecorded (lnum rank : Nat) (join : Bool)
  /-- R330: The scheduler takes a published continuation record from a task queue in ticket order, making a READY spawned task dispatchable and releasing its slot. -/
  | taskQueueTake (q : Nat)
  /-- R127: A load's value is bound and its data arrives, writing the buffer, register, tile register or slot in load-queue order. -/
  | loadDataArrival (core : Nat) (st : Strm) (a : Arrival)
  /-- R341: A CSRW of DLOGR is checked against DLOGW and LOGN and lets a stalled recording decision proceed. -/
  | dlogrWrite (d : Reg)
  /-- R342: A CSRW of DLOGW in replay supplies entries and lets waiting decision points match. -/
  | dlogwWrite (d : Reg)
  /-- R391: A lineage entry mirrored or trimmed by another device arrives and is written to or freed from this device's shard. -/
  | lineageMirrorArrival (die : Nat) (en : MirrorMsg)
  /-- R395: The replica target is lost before acknowledging, so the copy is discarded and replication starts again with a new target. -/
  | replicaTargetLost (ctx : Nat) (handle : Word) (ver : Nat)
  /-- R390: The control node acknowledges a checkpoint image sent with SEND, letting the checkpoint transfer become LANDED. -/
  | checkpointDeliveryAcknowledged (ctx q n : Nat)
  deriving DecidableEq, Repr

end Sys2Proof
end

