-- ==== Sys2Proof/Machine/CoreTypes.lean ====
section
/-! DEFINITION. The state of one core (Tables 1-4, 2-6) as plain data: registers, stream state, the load and store queues
of R127 and R261, rings, slots, and the work its asynchronous queues still hold. -/

namespace Sys2Proof.Machine

/-- The 128 lanes of a vector register, lane 0 first. -/
abbrev Vec := List W32

/-- A 128-lane mask; bit i stands for lane i. -/
abbrev Mask := BitVec 128

/-- An address register (Table 2-7). -/
structure AReg where
  base : Word
  stride : W32
  limit : W32
  deriving DecidableEq, Repr

/-- The value a pending register result carries. -/
inductive PVal where
  | vec (v : Vec)
  | pred (p : Mask)
  | idx (i : W32)
  | base (b : Word)
  | addr (a : AReg)
  deriving DecidableEq, Repr

/-- A register result of an issued fixed-latency word that later words of the stream may not see yet (R42, R46).
`file` and `num` are as in Table 2-13, `mask` the lanes the word writes, `wr` those of them that no write of another stream has replaced since,
`vis` the σ from which it is visible and `xpc` the macro-PC of the word. -/
structure Pend where
  file : Nat
  num : Nat
  mask : Mask
  wr : Mask
  val : PVal
  vis : Nat
  xpc : Nat
  deriving DecidableEq, Repr

/-- A run of bytes of the package that one home holds, after translation: a physical range, or sync storage. -/
structure Seg where
  pa : Nat
  len : Nat
  deriving DecidableEq, Repr

/-- Where one checked access goes (Table 1-5 after R125); an access that has been translated keeps the generic pointer of its first
byte (R131, R365). -/
inductive Place where
  | wbuf (off : Nat)
  | abuf (off : Nat)
  | peer (core off : Nat)
  | phys (ptr : Nat) (segs : List Seg)
  | remote (dev off : Nat)
  deriving DecidableEq, Repr

/-- The tile version a T-page write was admitted to, with the state that admitted it (R363) and the frame it was admitted in: its home
frame, or the shadow frame of a number (R378, R383). -/
structure VerTag where
  ctx : Nat
  pool : Nat
  slot : Nat
  ver : Nat
  rebuilding : Bool
  shadow : Option Nat
  deriving DecidableEq, Repr

/-- An ordered-update key (Table 10-6). -/
structure DKey where
  kind : Nat
  f1 : Nat
  f2 : Nat
  f3 : Nat
  f4 : Nat
  deriving DecidableEq, Repr

/-- What one element of a store queue does when it performs at its home. -/
inductive StoreOp where
  /-- plain bytes -/
  | write (data : List Byte)
  /-- bytes held for a phase of the device barrier at sync address `bar`; `phase` is the phase that a later PHMARK of the
  core has named for it (R273, R274) -/
  | dwrite (data : List Byte) (bar : Nat) (key : DKey) (phase : Option Nat)
  /-- an ATOM operation (R283); `dst` is the register of the issuing C stream that takes the old value -/
  | atom (op : Nat) (wide : Bool) (operand compare : Word) (dst : Option Nat)
  /-- STADD and STAXPY (R148): mem := round(alpha × src + mem) -/
  | fma (fmt rm : Nat) (alpha src : W32)
  /-- an ordered-reduction contribution (R287) -/
  | ared (key lid pos : Nat) (contrib : W32) (bar : Nat) (phase : Option Nat)
  /-- WAKE (R305); `dst` is the register that takes the number of waits it ended -/
  | wake (dst : Nat)
  /-- a STOPT write whose value, number `i` of its word, the word's load has still to bring (R154); `held` is the barrier and the key of a
  D-page write, `phase` as for `dwrite` -/
  | optw (i : Nat) (held : Option (Nat × DKey)) (phase : Option Nat)
  /-- the arrival of a BARA, once its release is satisfied (R298): at the device barrier whose record the element's place is, or at a group
  barrier of the core's task; `dst` takes the phase it arrived in -/
  | arrive (grp : Option Nat) (dst : Nat)
  /-- RPUBL, or RRELS for `rel`: ticket j of queue q published or released; the element's place is the tag of its slot (R317) -/
  | qtag (q j : Nat) (rel : Bool)
  /-- RCLAIM at queue q: it returns the slot's pointer, or 0 with `nw` when the queue is full, to s[dst]; `ended` says that its wait has ended with the
  queue (R313, R316, R317) -/
  | qclaim (q : Nat) (nw : Bool) (dst : Nat) (ended : Bool)
  deriving DecidableEq, Repr

/-- One element of a store queue, or a stretch of them; `idx` is the index in its word of the first (R103). -/
structure StoreElem where
  place : Place
  op : StoreOp
  tag : Option VerTag
  idx : Nat
  deriving DecidableEq, Repr

/-- What the words of a store queue differ in: STT counts once however many of its elements are dropped (R383), and `reg` is the tile register
that is drained when it completes (Table 7-3); a STOPT word's reads wait for the writes of an earlier one (R154). -/
inductive StoreKind where
  | elems
  | tile (reg : Option Nat)
  | opt
  deriving DecidableEq, Repr

/-- One word of a store queue, or the part of it that goes to one window: its sequence number in the stream, its timeline number (0 for none), its macro-PC, the window it stores
to, its element size in bytes (0 for half-bytes), its kind, its elements still to perform, how far it has performed inside the core (0 not,
1 for its own stream, 2 for the core), once it has performed at core scope the sequence number each stream of the core stood at then
(R258, R265), and its window 0x6 elements that have been sent and not acknowledged: the device, and for an atomic that returns a value its register and
whether it is a doubleword's (R430). -/
structure StoreEnt where
  seq : Nat
  tl : Nat
  pc : Nat
  win : Nat
  esz : Nat
  kind : StoreKind
  elems : List StoreElem
  level : Nat
  since : List Nat
  sent : List (Nat × Option (Nat × Bool))
  deriving DecidableEq, Repr

/-- How the elements of a source row are converted on their way (R141): copied, or converted to FP32 or BF16. -/
inductive RowConv where
  | copy
  | conv (src dst rm : Nat) (spare : W32)
  deriving DecidableEq, Repr

/-- One row of a block load: where it comes from (`none` is a padding row), and where it goes. -/
structure LoadRow where
  src : Option Place
  dst : Place
  deriving DecidableEq, Repr

/-- What a load does with its data when they arrive. -/
inductive LoadFin where
  /-- a C load of `n` bytes into s[d] -/
  | creg (d : Reg) (n : Nat) (src : Place)
  /-- a block word: rows of 128 elements of format `fmt`; `pad` is the padding pattern and `beta` unused for conversions -/
  | rows (fmt : Nat) (conv : RowConv) (pad : List Byte) (rows : List LoadRow)
  /-- LDZ rows: a pattern written to each destination row -/
  | fill (fmt : Nat) (row : List Byte) (dsts : List Place)
  /-- a gather into vD (R144) -/
  | gather (fmt : Nat) (d : BitVec 6) (mask : Mask) (spare : W32) (src : List (Nat × Place))
  /-- LDT: the data of a tile version from where it was when the first of them were bound, into buffer rows, or into a tile register (R142,
  R143) -/
  | tile (fmt : Nat) (src : Place) (handle ver : Nat) (dsts : List Place) (treg : Option Nat)
  /-- LDSH of slot `m`: the header of a record and, once that has passed its checks, its blaze table with its length (R145, R245) -/
  | shape (m : Nat) (src : Place) (tab : Option (Place × Nat))
  /-- STOPT: the weight and moment rows in `rows`, read for the values of the stores with sequence number `st`; `par` are the CSRs and `grad`
  the gradients, read at issue, and `after` the earlier STOPT words whose writes it waits for (R154) -/
  | opt (adam : Bool) (par : List W32) (grad : List W32) (rows : List Place) (st : Nat) (after : List Nat)
  deriving DecidableEq, Repr

/-- One entry of a load queue: its sequence number, its timeline number, the macro-PC of its word, its sources and what is
done at arrival, and the bytes of its sources bound so far, from the first on (R259: every element is an access of its own). -/
structure LoadEnt where
  seq : Nat
  tl : Nat
  pc : Nat
  fin : LoadFin
  got : List Byte
  deriving DecidableEq, Repr

/-- A POST that waits until the earlier work of its stream has completed (R137). One that adds 0 to its event is no POST: it stands
for a core-scope release (R264), which takes effect when a POST at its place would. -/
structure PostEnt where
  ev : Nat
  n : Nat
  seq : Nat
  pc : Nat
  cmd : Nat
  deriving DecidableEq, Repr

/-- What a stream's queues held from the access `seq` on that has met a cause, set aside until its stream may go on: then it is put back, and the
access is made again from its first element (R131, R366, R415). `hnd` says that a handler was running. -/
structure Frozen where
  strm : Strm
  seq : Nat
  hnd : Bool
  loads : List LoadEnt
  stores : List StoreEnt
  posts : List PostEnt
  deriving DecidableEq, Repr

/-- A tile register t0 to t15: its elements by row, the metadata record of Table 7-1, the compensation terms of level 2
(R90) by row, and the checksum column and row sums of the open loop and the closed tile (R229, R234). `elems` lists the rows
that are not all zero; `ran` says that a step of the open loop has run (R200, R211), and `clamped` lists the rows that hold an
element sat32 has clamped (R231), and `live` the elements, by row, that some step of the loop has left unmasked (R221). -/
structure Tile where
  elems : List (Nat × Vec)
  stat : W32
  cal : W32
  inb : W32
  prog : W32
  satc : W32
  nanc : W32
  bsoc : W32
  satl : BitVec 16
  nanl : BitVec 16
  bsol : BitVec 16
  orgpc : BitVec 16
  orgv : W32
  frw : W32
  fra : W32
  orgh : Word
  pend : Word
  comp : List (Nat × Vec)
  chk : List (Nat × Word)
  ccol : W32
  rs : List (Nat × Word)
  ran : Bool
  clamped : List Nat
  live : List (Nat × Mask)
  deriving DecidableEq, Repr

/-- A journal entry (R201): everything the steps of one tile-step word read, as resolved at issue. `op` is 0 MMA, 1 MMAT,
2 MMAS; scale registers are absent for formats that use none. -/
structure JEnt where
  tile : Nat
  op : Nat
  afmt : Nat
  bfmt : Nat
  asrc : Nat
  btr : Bool
  cnt : Nat
  abase : Nat
  ars : Int
  bbase : Nat
  ascale : Option AReg
  bscale : Option AReg
  geom : Nat
  chk : Bool
  retry : Bool
  slot : Option (Nat × Nat)
  i0 : W32
  i1 : W32
  pc : Nat
  deriving DecidableEq, Repr

/-- An entry of the blaze cache (R246): the fields of a record that words use, and its whole table, tagged with the record's
address and version. -/
structure BlzEnt where
  addr : Nat
  ver : Nat
  mode : Nat
  spare : W32
  pad : W32
  tab : List Nat
  deriving DecidableEq, Repr

/-- What an M word that stands stopped or waits inside its work holds until it goes on: the pair of its shape slot (R247), the number of the
step in progress with its stored bounds ea and eb (R223), for MRET the threshold it has read (R226), the TLM number it has taken (R191), and the shape
record its steps use (R242). -/
structure MHold where
  slot : Option (Nat × Nat)
  step : Option (Nat × W32 × W32)
  kth : Option Word
  num : Option Nat
  mrec : Option BlzEnt
  deriving DecidableEq, Repr

/-- A ring or queue state (Tables 12-4, 12-8). -/
inductive RingState where
  | disabled | active | draining | faulted
  deriving DecidableEq, Repr

/-- A scratchpad ring (R308, R319): its configuration, its counters, and the tags that differ from 0x03. -/
structure Ring where
  st : RingState
  logn : Nat
  slotsz : Nat
  base : Nat
  t : Nat
  h : Nat
  q : Nat
  tags : List (Nat × Nat)
  deriving DecidableEq, Repr

/-- The checksum sums the loader keeps of one 64-byte unit of the W-buffer (R135, R230): the bytes they were formed from
and their format. -/
structure WSum where
  fmt : Nat
  bytes : List Byte
  deriving DecidableEq, Repr

/-- A PHMARK whose marker arrival is not yet delivered (R271, R293): the barrier's sync address, the phase it closes, its
TLC number, and per named queue how far that queue must have completed. -/
structure MarkEnt where
  bar : Nat
  phase : Nat
  cmd : Nat
  mask : Nat
  cSeq : Nat
  lSeq : Nat
  vNum : Nat
  mNum : Nat
  sSeq : Nat
  copies : List (Nat × Nat)
  link : Nat
  deriving DecidableEq, Repr

/-- A WAITA entry of a die's table or a poll register (R302, R304): context, core, the pointer the word gave and the doubleword it was
translated to, mask, comparison, expected value. -/
structure WaitEnt where
  ctx : Nat
  core : Nat
  ptr : Nat
  pa : Nat
  mask : Word
  cmp : Nat
  e : Word
  deriving DecidableEq, Repr

/-- The barrier a BARW or BARAW waits at: the device barrier at a sync address, or group barrier n of the task in a dependency entry. -/
inductive BarId where
  | dev (b : Nat)
  | grp (task n : Nat)
  deriving DecidableEq, Repr

/-- How far a BARW or BARAW of the core has come (R294, R298, R301): not issued, waiting at a barrier on a phase (`arrived` for a BARAW,
whose arrival has been counted), stopped after its arrival has been counted, or completed with a result by the barrier's engine. -/
inductive BarWait where
  | none
  | wait (b : BarId) (phase : Nat) (arrived : Bool)
  | stopped (b : BarId) (phase : Nat)
  | done (v : Word)
  deriving DecidableEq, Repr

/-- A cause that is not precise, owed by a stream and not by the word it stands at: the trap record's CMD and macro-PC, the cause with its
address and detail (R114). -/
structure Late where
  strm : Strm
  cmd : Nat
  pc : Nat
  code : Nat
  addr : Nat
  detail : Nat
  deriving DecidableEq, Repr

/-- What a stream that waits in a ring word stands at: a scratchpad ring, or the end of the wait with a cause (R313, R320). -/
inductive RingWait where
  | ring (n : Nat)
  | over (code : Nat)
  deriving DecidableEq, Repr

/-- Whether a wait in a ring word has ended with a cause. -/
def RingWait.ended : RingWait → Bool
  | .over _ => true
  | .ring _ => false

/-- A cached translation (R364): context, window, page base and size, and the leaf entry it holds. -/
structure TlbEnt where
  ctx : Nat
  win : Nat
  base : Nat
  size : Nat
  leaf : Nat
  deriving DecidableEq, Repr

/-- How far a waiting WAITA of the core has come: not issued, held in a table or in the poll register, ended by a write whose wake message
is a decision still to be taken (R303, R340), or completed with a value. -/
inductive WaitSt where
  | none
  | table
  | poll (w : WaitEnt)
  | sending (v : Word)
  | woken (v : Word)
  deriving DecidableEq, Repr

/-- Which LINK data word (R434). -/
inductive LinkKind where
  | mcst (lnum : Nat)
  | ldred (lnum op : Nat)
  | send (dev : Nat)
  deriving DecidableEq, Repr

/-- A LINK data word that is not complete (R434 to R438): its TLC number, FMT, COUNT, its destination (an offset in exported
windows, or the place of its own result), DSTH, its source bytes, its flag pointer with the version it was admitted to, and the status it will complete with once that is
settled. -/
structure LinkOp where
  cmd : Nat
  kind : LinkKind
  fmt : Nat
  count : Nat
  off : Nat
  dsth : Nat
  dst : Place
  data : List Byte
  flag : Nat
  ftag : Option VerTag
  st : Option LinkStatus
  deriving DecidableEq, Repr

/-- The state of one stream: its sequencer (running, macro-PC, schedule position, the scoreboard switch as taken at FORK,
whether it stands in a waiting word), its index and predicate registers, pending register results, parameter and
branch-outcome queues, the issued value of its timeline counter with the numbers not yet complete, its load and store
queues with the next sequence number, the POSTs still to be raised, and what MARK and fences hold back: later loads need
loads below `ldNeedsLd` returned and stores below `ldNeedsSt` performed, and so for later stores. -/
structure StreamSt where
  run : Bool
  pc : Nat
  sigma : Nat
  sbck : Bool
  waiting : Bool
  iregs : List (Nat × W32)
  preds : List (Nat × Mask)
  pend : List Pend
  pq : List W32
  boq : List Bool
  issued : Nat
  out : List Nat
  seq : Nat
  loads : List LoadEnt
  stores : List StoreEnt
  posts : List PostEnt
  ldNeedsLd : Nat
  ldNeedsSt : Nat
  stNeedsLd : Nat
  stNeedsSt : Nat
  deriving DecidableEq, Repr

/-- A stream as it stands before its first FORK. -/
def StreamSt.zero : StreamSt :=
  { run := false, pc := 0, sigma := 0, sbck := false, waiting := false, iregs := [], preds := [], pend := [], pq := [],
    boq := [], issued := 0, out := [], seq := 0, loads := [], stores := [], posts := [], ldNeedsLd := 0, ldNeedsSt := 0,
    stNeedsLd := 0, stNeedsSt := 0 }

end Sys2Proof.Machine
end

