-- ==== Sys2Proof/Machine/PkgTypes.lean ====
section
/-! DEFINITION. The objects a package holds outside its cores, as plain data: contexts, kernels, graphs, tasks, queues,
copy commands, tile pools, lineage, barriers' engine state, links, collective groups and the device's own records. -/

namespace Sys2Proof.Machine

/-- Context states (Table 18-1). -/
inductive CtxState where
  | free | ready | running | draining | shelved | spilled | trapped | dead
  deriving DecidableEq, Repr

/-- Where the core state of a context is: nowhere yet (the zero state of R405), on the partition's cores, on the shelf, or
in its spill area. -/
inductive Where where
  | zero | cores | shelf | spill
  deriving DecidableEq, Repr

/-- Kernel slot states (Table 4-2). -/
inductive KState where
  | absent | loaded | verified | bound | retired
  deriving DecidableEq, Repr

/-- A kernel slot (R98): state, physical address and length of its image, bound set, and VSTAT: the number of the first
failing check of R99, 0 when none. -/
structure KSlot where
  st : KState
  image : Nat
  ilen : Nat
  bound : List Nat
  vstat : Nat
  deriving DecidableEq, Repr

/-- Task states (Table 13-4). -/
inductive TaskState where
  | waiting | ready | claimed | running | done | abandoned | rebuild
  deriving DecidableEq, Repr

/-- Group states (Table 14-2). -/
inductive GroupState where
  | forming | resident | running | disbanded
  deriving DecidableEq, Repr

/-- A group barrier (R300): phase, members arrived in the current phase and held for the next, broken. -/
structure GBar where
  phase : Nat
  arr : List Nat
  narr : List Nat
  broken : Bool
  deriving DecidableEq, Repr

/-- The group of a task with GANG above 1 (R345, R346): its state, its members' physical cores in member order, its
barriers. -/
structure Group where
  st : GroupState
  members : List Nat
  bars : List (Nat × GBar)
  deriving DecidableEq, Repr

/-- Where a task's successors are listed: a list in memory (R324), or handles fixed at launch (R329). -/
inductive Succ where
  | ptr (p : Nat)
  | list (hs : List Nat)
  deriving DecidableEq, Repr

/-- Where a task came from: a launch of a graph slot, SPAWN through a task queue (with its ticket, and whether the scheduler
has taken it), SPAWN through a queue whose slots have been discarded before the scheduler took them (R313), or the coppice unit. -/
inductive Origin where
  | launch (slot num : Nat)
  | queue (q ticket : Nat) (taken : Bool)
  | discarded
  | rebuild
  deriving DecidableEq, Repr

/-- A task of the dependency table (R322, R330): its record, its state, the die it is placed on, its pool ticket and raised
priority, the cores it holds (physical, logical), the members that have ended, the abandon bit, the versions its core tasks
sealed (pool, slot, version), the ordinals of its TALLOCs per pool and slot (R385), the number of AREDOs each member has issued, its group. -/
structure Task where
  ctx : Nat
  st : TaskState
  kslot : Nat
  prio : Nat
  gang : Nat
  ctrl : Nat
  join : Nat
  lid : Nat
  frame : Nat
  succ : Succ
  tiles : List Nat
  origin : Origin
  die : Nat
  ticket : Nat
  level : Nat
  cores : List (Nat × Nat)
  started : List Nat
  ended : List Nat
  aband : Bool
  sealed : List (Nat × Nat × Nat)
  allocs : List (Nat × Nat × Nat)
  aredos : List (Nat × Nat)
  group : Option Group
  deriving DecidableEq, Repr

/-- A record of a graph image (R325): CTRL, JOIN, the task id, the frame pointer, the task ids of its list, its tiles. -/
structure GRec where
  ctrl : Nat
  join : Nat
  id : Nat
  frame : Nat
  succ : List Nat
  tiles : List Nat
  deriving DecidableEq, Repr

/-- An accepted launch (R328, R329): its patches, the entries it reserved, and whether it has started. -/
structure Launch where
  patches : List (Nat × Nat)
  entries : List Nat
  started : Bool
  deriving DecidableEq, Repr

/-- A graph slot (R326). -/
structure Graph where
  ctx : Nat
  paramp : Nat
  psize : Nat
  recs : List GRec
  launches : List Launch
  deriving DecidableEq, Repr

/-- A ready pool of one partition on one die (R333): gleaning count, next ticket, the claimed gang of each context whose cores are not all
held, and the tasks it holds as (level, ticket, dependency entry). -/
structure RPool where
  gc : Nat
  next : Nat
  claimed : List Nat
  tasks : List (Nat × Nat × Nat)
  deriving DecidableEq, Repr

/-- A device-memory queue (Table 12-3): its descriptor, the task that claimed or took each ticket still open (R315), and
the cores whose words wait to claim and to take, in order of arrival. -/
structure Queue where
  st : RingState
  kind : Nat
  logn : Nat
  slotsz : Nat
  ctx : Nat
  base : Nat
  tagp : Nat
  t : Nat
  h : Nat
  q : Nat
  claims : List (Nat × Nat)
  takes : List (Nat × Nat)
  waitC : List Nat
  waitT : List Nat
  deriving DecidableEq, Repr

/-- A copy handle (Table 16-1); `vbase` is the generic pointer the range was given by, and `segs` its physical range. -/
structure Handle where
  kind : Nat
  v : Bool
  w : Bool
  d : Bool
  t : Bool
  member : Nat
  dev : Nat
  base : Nat
  len : Nat
  vbase : Nat
  segs : List Seg
  deriving DecidableEq, Repr

/-- Transfer states (Table 16-4); ACKED and FAULTED transfers have left the queue. -/
inductive XState where
  | queued | issued | landed
  deriving DecidableEq, Repr

/-- One side of a copy after its handle is resolved: a physical range, a core's W-buffer or A-buffer, or a device's
exported window. -/
inductive XEnd where
  | phys (segs : List Seg)
  | wbuf (core base : Nat)
  | abuf (core base : Nat)
  | remote (dev base : Nat)
  deriving DecidableEq, Repr

/-- What a copy command moves (R369, R390): bytes of a source, a fill pattern, or a checkpoint: whether it is sent as well, the
pointer of its image, its identifier, its listed versions as (handle, version), the records of the context as at issue. -/
inductive XKind where
  | copy (src : XEnd)
  | fill (pat : Nat)
  | ckpt (send : Bool) (dest ckid : Nat) (vers : List (Nat × Nat)) (recs : List Byte)
  deriving DecidableEq, Repr

/-- A copy command of a queue (R368 to R372): its TLX number, the die whose engine runs it, the issuing core, its destination, the
address its 64-byte granules are counted from, its rows as (source offset, destination offset), bytes per row, the handles it names,
W-buffer format, bound, the barrier that DPHB named for its writes to D pages with the phase a later PHMARK has named for them, the
version each granule it writes was admitted to (empty outside tile pools), the sync address of BARP with the byte count, the flag
pointer, and whether a checkpoint sent has been acknowledged (for a checkpoint, `bytes` is 1 once its image is written). -/
structure Xfer where
  num : Nat
  die : Nat
  core : Nat
  st : XState
  kind : XKind
  dst : XEnd
  gbase : Nat
  rows : List (Nat × Nat)
  rowb : Nat
  handles : List Nat
  fmt : Nat
  bnd : W32
  dbar : Option Nat
  dphase : Option Nat
  tags : List (Option VerTag)
  bar : Option Nat
  bytes : Nat
  flag : Nat
  ftag : Option VerTag
  acked : Bool
  deriving DecidableEq, Repr

/-- A copy queue of a context (R267, R371): numbers issued, commands not yet complete, and XSTAT's fields. -/
structure CopyQ where
  issued : Nat
  cmds : List Xfer
  flt : Bool
  lastf : Nat
  deriving DecidableEq, Repr

/-- Tile version states (Table 17-3) of versions that are neither FREE nor RETIRED by number; RETIRED versions are kept
while their frame is not reused. -/
inductive VState where
  | filling | sealed | replicated | retired | lost | rebuilding
  deriving DecidableEq, Repr

/-- Where a version lives: its frame, or a shadow frame of the pool (R378). -/
inductive Frame where
  | home
  | shadow (k : Nat)
  deriving DecidableEq, Repr

/-- Where a co-located replica is (R395): on another device, in the device's own memory on a die, or nowhere, when every die in service
homes the version or the die that held it is lost. -/
inductive CoPlace where
  | device (dev : Nat)
  | die (d : Nat)
  | nowhere
  deriving DecidableEq, Repr

/-- Replication of a version (R395): none, in progress to a device, co-located, or counted at a device. -/
inductive Repl where
  | none
  | sent (dev : Nat)
  | coloc (kept : CoPlace)
  | counted (dev : Nat)
  deriving DecidableEq, Repr

/-- A tile version (R381 to R398): its state, where it lives, whether it is unrecoverable or external, its depth, the allocating task
and its ordinal (`lid`, `ord`), its replication, the logical id whose rebuild run may write it, the private copies of runs as (logical
id, shadow frame), how many checkpoints hold it, the header unit and data its replica was made of, and whether a counted replica of it has
been lost (R396). -/
structure Ver where
  st : VState
  frame : Frame
  unrec : Bool
  ext : Bool
  depth : Nat
  lid : Nat
  ord : Nat
  repl : Repl
  run : Option Nat
  priv : List (Nat × Nat)
  kept : Nat
  rimg : List Byte
  relost : Bool
  deriving DecidableEq, Repr

/-- A slot of a pool: NEXT and the versions whose state the model records. -/
structure PSlot where
  next : Nat
  vers : List (Nat × Ver)
  deriving DecidableEq, Repr

/-- A tile pool (Table 17-1). -/
structure TPool where
  fmt : Nat
  layer : Nat
  vdep : Nat
  nshadow : Nat
  nslot : Nat
  dbase : Nat
  hbase : Nat
  sdbase : Nat
  shbase : Nat
  slots : List (Nat × PSlot)
  deriving DecidableEq, Repr

/-- A lineage record (R391, Table 17-8) of a shard: the index of its head and those of its extensions, the device its mirror was sent to
and whether that has acknowledged it (else NOMIR), and its operands as (handle, version). `ctx` is the context it belongs to. -/
structure LinEnt where
  ctx : Nat
  idx : Nat
  exts : List Nat
  handle : Nat
  ver : Nat
  depth : Nat
  ord : Nat
  mdev : Option Nat
  mack : Bool
  forced : Bool
  lid : Nat
  frame : Nat
  tctrl : Nat
  ops : List (Nat × Nat)
  digest : List Byte
  crc : Nat
  deriving DecidableEq, Repr

/-- A lineage record mirrored here for another device (R391). -/
structure MirEnt where
  dev : Nat
  handle : Nat
  ver : Nat
  body : List Byte
  deriving DecidableEq, Repr

/-- A compute die: lost, its shard, the mirrors it holds, its wait-on-address table, its last-level TLB (R364). -/
structure Die where
  lost : Bool
  shard : List LinEnt
  mirrors : List MirEnt
  waits : List WaitEnt
  tlb : List TlbEnt
  deriving DecidableEq, Repr

/-- A D-page write that has landed and waits for its phase (R274); `mem` is the member index of its core; `cnt` is what STALEC rises by when it is dropped (R383). -/
structure DHeld where
  cnt : Nat
  bar : Nat
  phase : Nat
  fixed : Bool
  core : Nat
  mem : Nat
  strm : Nat
  ctx : Nat
  key : DKey
  segs : List Seg
  data : List Byte
  tag : Option VerTag
  deriving DecidableEq, Repr

/-- An ordered-reduction contribution that has landed or reserved its entry (R287 to R289). -/
structure AHeld where
  bar : Nat
  phase : Nat
  fixed : Bool
  core : Nat
  die : Nat
  pa : Nat
  key : Nat
  lid : Nat
  pos : Nat
  val : W32
  ctx : Nat
  tag : Option VerTag
  deriving DecidableEq, Repr

/-- A partition (R404): its cores as (logical, physical) in logical order, the context whose state is on the cores, the
context whose RUN or RESUME waits for the exchange, the context that holds the shelf, whether a swap has been asked for and not yet exchanged, and
the contexts whose RESUME waits behind the next one, in order (R414). -/
structure Part where
  cores : List (Nat × Nat)
  live : Option Nat
  next : Option Nat
  shelf : Option Nat
  swap : Bool
  after : List Nat
  deriving DecidableEq, Repr

/-- Link states (Table 19-2). -/
inductive LinkState where
  | down | training | up | degraded | fenced
  deriving DecidableEq, Repr

/-- Collective group states (Table 19-4). -/
inductive CgState where
  | forming | active | broken
  deriving DecidableEq, Repr

/-- A collective group record (Table 19-3), the ranks the switch has recorded as joined, the LKLDRED words each logical core has issued
on it, the joins and leaves not yet recorded as (core, TLC number, join), and the operations that have completed without a commit. -/
structure CGroup where
  gid : Nat
  st : CgState
  loc : Nat
  nmem : Nat
  rank : Nat
  gwp : Nat
  ctx : Nat
  minexp : Nat
  seq : Nat
  members : List Nat
  joined : List Nat
  counts : List (Nat × Nat)
  pendJoin : List (Nat × Nat × Bool)
  failed : List (Nat × LinkStatus)
  deriving DecidableEq, Repr

/-- The exported window (R429). -/
structure Export where
  ctx : Nat
  base : Nat
  len : Nat
  deriving DecidableEq, Repr

/-- Statuses of the Jecel port (R442). -/
inductive Status where
  | ok | wrongState | badImage | badRange | badList | noSpace | noEntries | queueFull
  deriving DecidableEq, Repr

/-- An answer of the Jecel port: the tag, the status and the bytes that go with it. -/
structure Answer where
  tag : Nat
  status : Status
  data : List Byte
  deriving DecidableEq, Repr

/-- What leaves the package: answers, and the unprompted events of R442. -/
inductive Out where
  | answer (a : Answer)
  | booted (fwver mask : Nat)
  | cause (ctx code : Nat)
  | integrity (ctx core code row d tol : Nat)
  | poison (frame : Nat)
  | replace
  | dieLost (die : Nat)
  | linkLost (port : Nat)
  | spilled (ctx : Nat)
  | filled (ctx : Nat)
  | xferDone (ctx q num : Nat)
  | xferFault (ctx q num : Nat)
  | ckpt (ctx q num : Nat) (image : List Byte)
  | mirror (dev die : Nat) (record : List Byte)
  | mirrorTrim (dev handle ver : Nat)
  | mirrorAck (dev handle ver : Nat)
  | replica (dev handle ver : Nat)
  | withdraw (lnum : Nat)
  | remoteStore (dev off : Nat) (data : List Byte)
  | remoteAtomic (dev off op : Nat) (operand compare : Word)
  | contribution (lnum op fmt : Nat) (vals : List (BitVec 16 × Bool))
  | linkStore (lnum off : Nat) (data : List Byte)
  | cgJoin (lnum : Nat) (join : Bool)
  | remoteReply (data : List Byte)
  | remoteAck
  deriving DecidableEq, Repr

/-- What the package is doing as a whole (R444, R449, R17, R451): held in reset, running firmware, in recovery mode, lost
with its I/O die, without power. -/
inductive Phase where
  | reset | running | recovery | lost | off
  deriving DecidableEq, Repr

/-- An entry of the measurement log (R446). -/
structure MEntry where
  type : Nat
  index : Nat
  detail : Nat
  digest : List Byte
  deriving DecidableEq, Repr

/-- An MWRITE that has passed its checks and has not performed yet (R472): its sequence number and tag, the context of its window, where its
bytes go, and what Table 5-10 decided for each: none a byte it drops, else the version it is tagged with. -/
structure PortWrite where
  seq : Nat
  tag : Nat
  ctx : Nat
  segs : List Seg
  data : List Byte
  admits : List (Option (Option VerTag))
  deriving DecidableEq, Repr

/-- The device's own records (chapter 20): phase, firmware flash, the image and BURN flag of a FWLOAD while the flash is being written (R445), fused
MINFW, running FWVER, the measurement log with its chain value and count, fenced cores, the replace request, the K-steps the M streams may still issue
while a power or thermal hold is on (R449), events sent, the sequence number the next command carries (R441), the MWRITE that has not performed,
recorded answers, the almanac as counted and as last written to flash. -/
structure Device where
  phase : Phase
  flash : List Byte
  writing : Option (List Byte × Bool)
  minfw : Nat
  fwver : Nat
  mlog : List MEntry
  chain : List Byte
  mcount : Nat
  fenced : List Nat
  replace : Bool
  hold : Option Nat
  evseq : Nat
  expect : Option Nat
  pwrite : Option PortWrite
  answers : List (Nat × Answer)
  almanac : List (Nat × Nat)
  almFlash : List (Nat × Nat)
  deriving DecidableEq, Repr

/-- The fabric side of the device (chapter 19): ports with their retrain counts, reach table as (export length, path),
exported window, power-feed domain and replica list, collective groups. -/
structure Fabric where
  ports : List (Nat × LinkState)
  attempts : List (Nat × Nat)
  reach : List (Nat × Nat × Nat)
  exported : Option Export
  domain : Nat
  replicas : List ReplicaDev
  groups : List (Nat × CGroup)
  deriving DecidableEq, Repr

/-- A context (chapter 18): state, partition, per-context CSRs, sync map, touched-dies mask, where its core state is and
its saved core state, its spill area, a background move in progress (true to the spill area, false back to the shelf), the code of its
first stopping cause, the logical cores whose saved state a die loss has taken (R15), LAUNCH, copy queues, handles, pools. -/
structure Ctx where
  st : CtxState
  part : Nat
  csrs : List (Nat × Word)
  sync : List SyncEnt
  touched : BitVec 4
  loc : Where
  spill : Nat
  moving : Option Bool
  stop : Option Nat
  gone : List Nat
  launch : Nat
  copyq : List (Nat × CopyQ)
  handles : List (Nat × Handle)
  pools : List (Nat × TPool)
  deriving DecidableEq, Repr

end Sys2Proof.Machine
end

