-- ==== Sys2Proof/Machine/State.lean ====
section
/-! DEFINITION. The state of a Skatas package as plain data, the ways a step can stop, and the state right after reset. -/

namespace Sys2Proof.Machine

/-- The handler a core is in (R416, R417): its image pointer, its save area, the stream whose word failed and that word's
macro-PC, the macro-PC that stream goes on at when the cause was one of work issued before it (R114, R366), the macro-PC saved for the C stream, the
first sequence number of the handler's own accesses, and what the interrupted word had
under way: the cycles of a SLEEP still to go (R104), the arrival of a BARAW (R301), the value of a WAITA or a barrier wait that has ended, the end of a wait at a queue (R313). -/
structure HandlerSt where
  code : Nat
  save : Nat
  strm : Strm
  mpc : Nat
  cont : Option Nat
  cpc : Nat
  seq : Nat
  sleep : Option Word
  bwait : BarWait
  wait : WaitSt
  ringEnd : Option Nat
  deriving DecidableEq, Repr

/-- The state of one core (Table 1-4), with what its own asynchronous work still holds. Register files list the registers
that are not zero; `utlb` is the micro-TLB (R364); `bwait` says how far a barrier wait has come, `late` lists causes that are owed and not yet
raised (R114), and `frozen` the accesses that have met a cause, with what followed them in their queues (R366); `rwait` says, by stream number, what a stream that waits in a ring word stands at; `want` names the (address, version) whose blaze-cache entry a waiting word of a stream needs;
`marked` holds, per barrier, the last phase a PHMARK of the core has closed; `xq` the copy queues the core has issued commands into; `wver` the (handle, version) a waiting word of a stream needs that is LOST or
REBUILDING; `within` is there when the M word at the macro-PC
has been issued and stands stopped inside its work (R198, R204); `mstop` says that the M stream has met a stop point of R206 which a
pre-emption or a halt waits for. -/
structure CoreSt where
  sregs : List (Nat × Word)
  aregs : List (Nat × AReg)
  vregs : List (Nat × Vec)
  tiles : List (Nat × Tile)
  events : List (Nat × Nat)
  evWait : List (Nat × Strm)
  slots : List (Nat × (Nat × Nat))
  rings : List (Nat × Ring)
  csrs : List (Nat × Word)
  wbuf : List Host.Cell
  abuf : List Host.Cell
  wtags : List (Nat × W32)
  atags : List (Nat × W32)
  wsums : List (Nat × WSum)
  blaze : List BlzEnt
  utlb : List TlbEnt
  want : List (Strm × Nat × Nat)
  cS : StreamSt
  lS : StreamSt
  vS : StreamSt
  mS : StreamSt
  sS : StreamSt
  journal : List JEnt
  cost : Nat
  within : Option MHold
  mstop : Bool
  sleep : Option Word
  wait : WaitSt
  bwait : BarWait
  late : List Late
  frozen : List Frozen
  rwait : List (Nat × RingWait)
  marks : List MarkEnt
  marked : List (Nat × Nat)
  xq : List Nat
  wver : List (Strm × Nat × Nat)
  links : List LinkOp
  wacks : Nat
  hand : Option HandlerSt
  task : Option Nat
  ended : Bool
  dispatches : Nat
  attempts : Nat
  deriving DecidableEq, Repr

/-- A move of the package: one stream of one core issues its next word, or something outside the streams happens. -/
inductive Move where
  | word (core : Nat) (st : Strm)
  | act (i : Instr)
  deriving DecidableEq, Repr

/-- The state of the package. `cur` and `cst` name the core and stream whose word is being executed; `script` lists the
moves the outside world and the free choices of the machine make next (when it is empty, the policy of Schedule.lean makes
the choice); `arrs` records which context has arrived in which phase of a barrier (barrier, context, phase;
R295); `lostMem` keeps what memory on lost dies held, read by nothing but the search
for what else is lost (R15); `wakes` lists the wake messages that a decision log holds up, by write, as context and cores (R303); `fresh` counts the free values taken; `out` lists what has left the package, newest first. -/
structure State where
  cur : Nat
  cst : Strm
  cores : List (Nat × CoreSt)
  shelf : List (Nat × CoreSt)
  spill : List (Nat × CoreSt)
  mem : List Host.Cell
  lostMem : List Host.Cell
  poison : List Nat
  ctxs : List (Nat × Ctx)
  parts : List (Nat × Part)
  kernels : List (Nat × KSlot)
  graphs : List (Nat × Graph)
  tasks : List (Nat × Task)
  gens : List (Nat × Nat)
  pools : List (Nat × RPool)
  queues : List (Nat × Queue)
  dies : List (Nat × Die)
  arrs : List (Nat × Nat × Nat)
  wakes : List (Nat × List Nat)
  dheld : List DHeld
  aheld : List AHeld
  fabric : Fabric
  dev : Device
  out : List Out
  fresh : Nat
  script : List Move
  deriving DecidableEq, Repr

/-- A step of this model never stops with a fault: every trap the manual describes is a next state, and no access reaches
an address that does not exist without the cause the manual gives it. -/
inductive Fault : Type
  deriving DecidableEq, Repr

/-- Why a step has no meaning. -/
inductive Refusal where
  /-- an arm of `exec` that is not modelled yet; raised by Dispatch.lean alone; safe -/
  | notModelled (mnemonic : String)
  deriving DecidableEq, Repr

/-- A core of the zero state of R405. -/
def CoreSt.zero : CoreSt :=
  { sregs := [], aregs := [], vregs := [], tiles := [], events := [], evWait := [], slots := [], rings := [], csrs := [],
    wbuf := [], abuf := [], wtags := [], atags := [], wsums := [], blaze := [], utlb := [], want := [], cS := .zero, lS := .zero, vS := .zero,
    mS := .zero, sS := .zero, journal := [], cost := 0, within := none, mstop := false, sleep := none, wait := .none, bwait := .none, late := [], frozen := [], rwait := [], marks := [],
    marked := [], xq := [], wver := [], links := [], wacks := 0, hand := none, task := none, ended := false, dispatches := 0, attempts := 0 }

/-- A context that is FREE. -/
def Ctx.zero : Ctx :=
  { st := .free, part := 0, csrs := [], sync := [], touched := 0, loc := .zero, spill := 0, moving := none, stop := none, gone := [], launch := 0,
    copyq := [], handles := [], pools := [] }

/-- The device held in reset, with an empty firmware flash and fused MINFW 0. -/
def Device.zero : Device :=
  { phase := .reset, flash := [], writing := none, minfw := 0, fwver := 0, mlog := [], chain := List.replicate 32 0, mcount := 0,
    fenced := [], replace := false, hold := none, evseq := 0, expect := none, pwrite := none, answers := [], almanac := [], almFlash := [] }

/-- The fabric after reset: every port DOWN, nothing defined (R444). -/
def Fabric.zero : Fabric :=
  { ports := [], attempts := [], reach := [], exported := none, domain := 0, replicas := [], groups := [] }

/-- The package right after reset, before the boot ROM runs (R444): no context, no kernel, every register zero, memory with
nothing listed. -/
def State.reset : State :=
  { cur := 0, cst := .C, cores := [], shelf := [], spill := [], mem := [], lostMem := [], poison := [], ctxs := [], parts := [],
    kernels := [], graphs := [], tasks := [], gens := [], pools := [], queues := [], dies := [], arrs := [], wakes := [], dheld := [], aheld := [],
    fabric := .zero, dev := .zero, out := [], fresh := 0, script := [] }

end Sys2Proof.Machine
end

