-- ==== Sys2Proof/Machine/Base.lean ====
section
/-! DEFINITION. Accessors of the state: the core and stream of the word being executed, registers with their hard-wired
members (R49), control and status registers with their reset values, contexts and the objects of the package. -/

namespace Sys2Proof.Machine

/-! ### Cores and streams -/

/-- Core number k of the package; one never touched is in the zero state. -/
def State.coreOf (s : State) (k : Nat) : CoreSt := (find? s.cores k).getD .zero

/-- The state with core k replaced. -/
def State.setCoreOf (s : State) (k : Nat) (c : CoreSt) : State := { s with cores := setKey s.cores k c }

/-- The core whose word is being executed. -/
def State.core (s : State) : CoreSt := s.coreOf s.cur

/-- The state with the current core replaced. -/
def State.setCore (s : State) (c : CoreSt) : State := s.setCoreOf s.cur c

/-- A stream of a core. -/
def CoreSt.strm (c : CoreSt) : Strm → StreamSt
  | .C => c.cS
  | .L => c.lS
  | .V => c.vS
  | .M => c.mS
  | .S => c.sS

/-- A core with one stream replaced. -/
def CoreSt.setStrm (c : CoreSt) (t : Strm) (m : StreamSt) : CoreSt :=
  match t with
  | .C => { c with cS := m }
  | .L => { c with lS := m }
  | .V => { c with vS := m }
  | .M => { c with mS := m }
  | .S => { c with sS := m }

/-- A stream of the current core. -/
def State.sm (s : State) (t : Strm) : StreamSt := s.core.strm t

/-- The state with a stream of the current core replaced. -/
def State.setSm (s : State) (t : Strm) (m : StreamSt) : State := s.setCore (s.core.setStrm t m)

/-- The number of a stream in STRM of Table 18-4a. -/
def strmNo : Strm → Nat
  | .C => 0
  | .L => 1
  | .V => 2
  | .M => 3
  | .S => 4

/-- The streams in the order of their numbers. -/
def allStrms : List Strm := [.C, .L, .V, .M, .S]

/-- The stream of a two-bit or four-bit stream number of the C words: 0 L, 1 V, 2 M, 3 S. -/
def engineOf (n : Nat) : Strm :=
  match n with
  | 0 => .L
  | 1 => .V
  | 2 => .M
  | _ => .S

/-! ### Registers -/

/-- A read of scalar register r; s0 reads 0 (R49). -/
def CoreSt.sreg (c : CoreSt) (r : Reg) : Word := if r = 0 then 0 else look 0 c.sregs r.toNat

/-- A write of scalar register r; a write of s0 is discarded (R49). -/
def CoreSt.setSreg (c : CoreSt) (r : Reg) (v : Word) : CoreSt :=
  if r = 0 then c else { c with sregs := put 0 c.sregs r.toNat v }

/-- An address register as it stands when nothing has written it. -/
def AReg.zero : AReg := ⟨0, 0, 0⟩

/-- Address register n as last written (R48). -/
def CoreSt.areg (c : CoreSt) (n : Nat) : AReg := look .zero c.aregs n

/-- A core with address register n written whole. -/
def CoreSt.setAreg (c : CoreSt) (n : Nat) (a : AReg) : CoreSt := { c with aregs := put .zero c.aregs n a }

/-- The zero vector register. -/
def zeroVec : Vec := List.replicate 128 0

/-- A vector from its lanes. -/
def vecOf (f : Nat → W32) : Vec := (List.range 128).map f

/-- Lane i of a vector. -/
def lane (v : Vec) (i : Nat) : W32 := v.getD i 0

/-- A mask from its bits. -/
def maskOf (f : Nat → Bool) : Mask :=
  BitVec.ofNat 128 ((List.range 128).foldr (fun i n => 2 * n + (f i).toNat) 0)

/-- The lanes of `a` where the mask is set, and of `b` elsewhere, from lane i on. -/
def blendFrom (m : Mask) : Nat → Vec → Vec → Vec
  | i, x :: a, y :: b => (if m.getLsbD i then x else y) :: blendFrom m (i + 1) a b
  | _, _, _ => []

/-- The lanes of `a` where the mask is set, and of `b` elsewhere. -/
def blend (m : Mask) (a b : Vec) : Vec := if m = BitVec.allOnes 128 then a else blendFrom m 0 a b

/-- Vector register n as last committed. -/
def CoreSt.vreg (c : CoreSt) (n : Nat) : Vec := look zeroVec c.vregs n

/-- A core with vector register n written whole. -/
def CoreSt.setVreg (c : CoreSt) (n : Nat) (v : Vec) : CoreSt := { c with vregs := put zeroVec c.vregs n v }

/-- Predicate register k of a stream; p0 reads all-true (R49). -/
def StreamSt.preg (m : StreamSt) (k : Nat) : Mask := if k = 0 then BitVec.allOnes 128 else look 0 m.preds k

/-- A stream with predicate register k written; a write of p0 is discarded (R49). -/
def StreamSt.setPreg (m : StreamSt) (k : Nat) (v : Mask) : StreamSt :=
  if k = 0 then m else { m with preds := put 0 m.preds k v }

/-- Index register n of a stream. -/
def StreamSt.ireg (m : StreamSt) (n : Nat) : W32 := look 0 m.iregs n

/-- A stream with index register n written. -/
def StreamSt.setIreg (m : StreamSt) (n : Nat) (v : W32) : StreamSt := { m with iregs := put 0 m.iregs n v }

/-- Whether a load or a returning atomic of the C stream still owes s[r] its value (R43, R109). -/
def CoreSt.busy (c : CoreSt) (r : Reg) : Bool :=
  r != 0 &&
    (c.cS.loads.any (fun e => match e.fin with
      | .creg d _ _ => d == r
      | _ => false) ||
     c.cS.stores.any (fun e => e.sent.any (fun x => (x.2.map (fun d => d.1)) == some r.toNat) || e.elems.any (fun x => match x.op with
      | .atom _ _ _ _ (some d) => d == r.toNat
      | .wake d => d == r.toNat
      | .arrive _ d => d == r.toNat
      | .qclaim _ _ d _ => d == r.toNat
      | _ => false)))

/-- A core whose stream waits for no blaze-cache entry (R242). -/
def CoreSt.noWant (c : CoreSt) (t : Strm) : CoreSt :=
  if c.want.any (fun w => w.1 == t) then { c with want := c.want.filter (fun w => w.1 != t) } else c

/-! ### Ring words that wait (R313, R320) -/

/-- The cause with which a ring word that a stream waits in has ended. -/
def CoreSt.ringOver (c : CoreSt) (t : Strm) : Option Nat :=
  match find? c.rwait (strmNo t) with
  | some (.over code) => some code
  | _ => none

/-- A core whose stream stands in no ring word. -/
def CoreSt.leaveRing (c : CoreSt) (t : Strm) : CoreSt := { c with rwait := c.rwait.filter (fun e => e.1 != strmNo t) }

/-- A core whose stream waits at a scratchpad ring. -/
def CoreSt.waitRing (c : CoreSt) (t : Strm) (n : Nat) : CoreSt := { c with rwait := setKey c.rwait (strmNo t) (.ring n) }

/-- A core whose words that wait at a scratchpad ring, of the streams in `ts`, end with cause 0x044. -/
def CoreSt.endRing (c : CoreSt) (n : Nat) (ts : List Strm) : CoreSt :=
  { c with rwait := c.rwait.map (fun e => if e.2 = .ring n ∧ ts.any (fun t => strmNo t == e.1) then (e.1, .over 0x044) else e) }

/-! ### Contexts and partitions -/

/-- Context n. -/
def State.ctxOf (s : State) (n : Nat) : Ctx := (find? s.ctxs n).getD .zero

/-- The state with context n replaced. -/
def State.setCtxOf (s : State) (n : Nat) (x : Ctx) : State := { s with ctxs := setKey s.ctxs n x }

/-- Partition n. -/
def State.partOf (s : State) (n : Nat) : Part := (find? s.parts n).getD ⟨[], none, none, none, false, []⟩

/-- The state with partition n replaced. -/
def State.setPartOf (s : State) (n : Nat) (p : Part) : State := { s with parts := setKey s.parts n p }

/-- The partition a core belongs to, with its logical number there. -/
def State.partOfCore (s : State) (k : Nat) : Option (Nat × Nat) :=
  s.parts.findSome? (fun e => (e.2.cores.find? (fun c => c.2 == k)).map (fun c => (e.1, c.1)))

/-- The context whose state core k holds; 256, which names no context, when there is none. -/
def State.ctxNoOf (s : State) (k : Nat) : Nat :=
  match s.partOfCore k with
  | some (p, _) => (s.partOf p).live.getD 256
  | none => 256

/-- The context of the current core. -/
def State.ctxNo (s : State) : Nat := s.ctxNoOf s.cur

/-- The context of the current core, with its state. -/
def State.ctx (s : State) : Ctx := s.ctxOf s.ctxNo

/-- The logical number of core k in its partition. -/
def State.lcoreOf (s : State) (k : Nat) : Nat :=
  match s.partOfCore k with
  | some (_, l) => l
  | none => 0

/-- The physical cores of the partition of a context, in logical order. -/
def State.coresOfCtx (s : State) (x : Nat) : List (Nat × Nat) := (s.partOf (s.ctxOf x).part).cores

/-- The die of a core (R12). -/
def dieOfCore (k : Nat) : Nat := k / 64

/-- A compute die's engines. -/
def State.dieOf (s : State) (d : Nat) : Die := (find? s.dies d).getD ⟨false, [], [], [], []⟩

/-- The state with die d replaced. -/
def State.setDieOf (s : State) (d : Nat) (x : Die) : State := { s with dies := setKey s.dies d x }

/-- A queue of the device. -/
def State.queueOf (s : State) (q : Nat) : Queue :=
  (find? s.queues q).getD ⟨.disabled, 0, 0, 0, 0, 0, 0, 0, 0, 0, [], [], [], []⟩

/-- The state with queue q replaced. -/
def State.setQueueOf (s : State) (q : Nat) (x : Queue) : State := { s with queues := setKey s.queues q x }

/-- A kernel slot. -/
def State.kernelOf (s : State) (k : Nat) : KSlot := (find? s.kernels k).getD ⟨.absent, 0, 0, [], 0⟩

/-- The state with kernel slot k replaced. -/
def State.setKernelOf (s : State) (k : Nat) (x : KSlot) : State := { s with kernels := setKey s.kernels k x }

/-- A copy queue of a context. -/
def Ctx.cq (x : Ctx) (q : Nat) : CopyQ := (find? x.copyq q).getD ⟨0, [], false, 0⟩

/-- A scratchpad ring of a core. -/
def CoreSt.ring (c : CoreSt) (n : Nat) : Ring := (find? c.rings n).getD ⟨.disabled, 0, 0, 0, 0, 0, 0, []⟩

/-- A tile register that is EMPTY with a zero record (R101). -/
def Tile.zero : Tile :=
  { elems := [], stat := 0, cal := 0, inb := 0, prog := 0, satc := 0, nanc := 0, bsoc := 0, satl := 0, nanl := 0,
    bsol := 0, orgpc := 0, orgv := 0, frw := 0, fra := 0, orgh := 0, pend := 0, comp := [], chk := [], ccol := 0,
    rs := [], ran := false, clamped := [], live := [] }

/-- Tile register n. -/
def CoreSt.tile (c : CoreSt) (n : Nat) : Tile := (find? c.tiles n).getD .zero

/-- A core with tile register n replaced. -/
def CoreSt.setTile (c : CoreSt) (n : Nat) (t : Tile) : CoreSt := { c with tiles := setKey c.tiles n t }

/-! ### Control and status registers -/

/-- The reset value of a stored CSR (the maps of the chapters; R412). -/
def csrReset (n : Nat) : Word :=
  if n = 0x3D8 then 64
  else if 0x3E0 ≤ n ∧ n ≤ 0x3E3 then 0x7F800000
  else if n = 0x3F1 then 16
  else if n = 0x3F3 then 0x800
  else if n = 0x3DC then 8
  else if n = 0x015 then 1
  else 0

/-- A stored per-core CSR. -/
def CoreSt.csr (c : CoreSt) (n : Nat) : Word := (find? c.csrs n).getD (csrReset n)

/-- A core with a stored CSR set. -/
def CoreSt.setCsr (c : CoreSt) (n : Nat) (v : Word) : CoreSt := { c with csrs := setKey c.csrs n v }

/-- A stored per-context CSR. -/
def Ctx.csr (x : Ctx) (n : Nat) : Word := (find? x.csrs n).getD (csrReset n)

/-- A context with a stored CSR set. -/
def Ctx.setCsr (x : Ctx) (n : Nat) (v : Word) : Ctx := { x with csrs := setKey x.csrs n v }

/-- The logical id of the task of core k (CSR TASKID, R105). -/
def State.lidOf (s : State) (k : Nat) : Nat := ((s.coreOf k).csr 0x011).toNat

/-! ### Events to the outside, counters, free values -/

/-- Whether something sent is an unprompted event of R442, which EVSEQ counts. -/
def Out.isEvent : Out → Bool
  | .answer _ => false
  | .mirror _ _ _ => false
  | .mirrorTrim _ _ _ => false
  | .mirrorAck _ _ _ => false
  | .replica _ _ _ => false
  | .withdraw _ => false
  | .remoteStore _ _ _ => false
  | .remoteAtomic _ _ _ _ _ => false
  | .contribution _ _ _ _ => false
  | .linkStore _ _ _ => false
  | .cgJoin _ _ => false
  | .remoteReply _ => false
  | .remoteAck => false
  | _ => true

/-- The state with something sent to the outside; unprompted events are counted (R450). -/
def State.send (s : State) (o : Out) : State :=
  if o.isEvent then { s with out := o :: s.out, dev := { s.dev with evseq := s.dev.evseq + 1 } } else { s with out := o :: s.out }

/-- The next free value: nothing constrains it. -/
def State.free (s : State) : Word × State := (Config.freeWord s.fresh, { s with fresh := s.fresh + 1 })

/-- Free bytes, `n` of them. -/
def State.freeBytes (s : State) (n : Nat) : List Byte × State :=
  ((List.range n).map (fun i => Config.freeByte (s.fresh + i)), { s with fresh := s.fresh + n })

/-- Almanac counters (Table 20-3), each with the number of a die, core or port: 1 and 2 are CORRE and UNCORRE of a die, 3 and
4 of a core, 5 INTEG, 6 REISS, 7 RETRN, 8 SWAPS, 9 OVRUN, 10 DLOVF, 13 RETSV; 11 and 12 are TEMPH and VOLTH, 16 numbers for each die.
RETRN, RETSV, TEMPH and VOLTH have four bytes, the others eight. -/
def State.count (s : State) (kind idx n : Nat) : State :=
  let key := kind * 65536 + idx
  let top := if kind = 7 ∨ 11 ≤ kind then 2 ^ 32 - 1 else 2 ^ 64 - 1
  { s with dev := { s.dev with almanac := put 0 s.dev.almanac key (min (look 0 s.dev.almanac key + n) top) } }

/-- The almanac written to flash, at every fence and every hour (R451). -/
def State.flushAlmanac (s : State) : State := { s with dev := { s.dev with almFlash := s.dev.almanac } }

/-- The control node is told of the first stopping cause of a context (R415); `c` is the context as it was before. -/
def State.sendFirst (s : State) (c : Ctx) (x code : Nat) : State := if c.stop.isNone then s.send (.cause x code) else s

/-- The replace request (R448). -/
def State.askReplace (s : State) : State := { s with dev := { s.dev with replace := true } }.send .replace

/-- The state of logical core l of a context changed, wherever it is held (Table 18-1, R407); that of a READY context, which is all zero, is
kept with the spilled ones once a record has been written in it (R413). -/
def State.onSaved (s : State) (x l : Nat) (f : CoreSt → CoreSt) : State :=
  let key := x * 256 + l
  match (s.ctxOf x).loc with
  | .cores =>
    (match (s.coresOfCtx x).find? (fun c => c.1 == l) with
     | some c => s.setCoreOf c.2 (f (s.coreOf c.2))
     | none => s)
  | .shelf => if (find? s.shelf key).isSome then { s with shelf := setKey s.shelf key (f ((find? s.shelf key).getD .zero)) } else s
  | .spill => if (find? s.spill key).isSome then { s with spill := setKey s.spill key (f ((find? s.spill key).getD .zero)) } else s
  | .zero => { s with spill := setKey s.spill key (f ((find? s.spill key).getD .zero)) }

/-- The state of logical core (l, k) of a context wherever it is held. -/
def State.savedCore (s : State) (x : Nat) (c : Nat × Nat) : CoreSt :=
  match (s.ctxOf x).loc with
  | .cores => s.coreOf c.2
  | .shelf => (find? s.shelf (x * 256 + c.1)).getD .zero
  | .spill => (find? s.spill (x * 256 + c.1)).getD .zero
  | .zero => (find? s.spill (x * 256 + c.1)).getD .zero

/-- An informational cause of class 0: it is counted in INFOC, kept in CAUSE of a core of the context, wherever that core's state is, and
reported; nothing stops (R413, R414, R421). Counts stick at the largest value of their field. -/
def State.inform (s : State) (x core code : Nat) : State :=
  let l := (((s.coresOfCtx x).find? (fun c => c.2 == core)).map (fun c => c.1)).getD 0
  let s := s.onSaved x l (fun c => c.setCsr 0x304 (BitVec.ofNat 64 code))
  let v := ((s.ctxOf x).csr 0x303).toNat
  let lo := 12 * (code - 1)
  let top := if code = 6 then 15 else 4095
  let f := v / 2 ^ lo % (top + 1)
  let v := if f = top then v else v + 2 ^ lo
  (s.setCtxOf x ((s.ctxOf x).setCsr 0x303 (BitVec.ofNat 64 v))).send (.cause x code)

/-! ### Running over lists -/

/-- A state changed once for each number below n, in ascending order. -/
def State.forN (n : Nat) (f : Nat → State → State) (s : State) : State := (List.range n).foldl (fun s i => f i s) s

/-- A state changed once for each element of a list, in order. -/
def State.forEach {α : Type} (l : List α) (f : α → State → State) (s : State) : State := l.foldl (fun s a => f a s) s

end Sys2Proof.Machine
end

