-- ==== Sys2Proof/Machine/Flags.lean ====
section
/-! DEFINITION. The machine has no flag register: comparisons write scalar registers (R106, R107), branch on them (R111),
or write predicate registers. This file holds the comparison results and the arithmetic of the scalar words. -/

namespace Sys2Proof.Machine

/-- A comparison result as a register value: 1 when it holds, else 0 (R106). -/
def flag (b : Bool) : Word := if b then 1 else 0

/-- Signed less-than. -/
def ltS (a b : Word) : Bool := a.slt b

/-- Unsigned less-than. -/
def ltU (a b : Word) : Bool := a.ult b

/-- Bits [127:64] of the signed product (R106). -/
def mulHi (a b : Word) : Word := BitVec.ofInt 64 ((a.toInt * b.toInt) / 2 ^ 64)

/-- Bits [127:64] of the unsigned product. -/
def mulHiU (a b : Word) : Word := BitVec.ofNat 64 (a.toNat * b.toNat / 2 ^ 64)

/-- DIV: truncated toward zero; all ones for a zero divisor; −2^63 / −1 is −2^63. -/
def divS (a b : Word) : Word := if b = 0 then BitVec.allOnes 64 else BitVec.ofInt 64 (a.toInt.tdiv b.toInt)

/-- DIVU: all ones for a zero divisor. -/
def divU (a b : Word) : Word := if b = 0 then BitVec.allOnes 64 else BitVec.ofNat 64 (a.toNat / b.toNat)

/-- REM: the sign of the dividend; the dividend for a zero divisor; −2^63 rem −1 is 0. -/
def remS (a b : Word) : Word := if b = 0 then a else BitVec.ofInt 64 (a.toInt.tmod b.toInt)

/-- REMU: the dividend for a zero divisor. -/
def remU (a b : Word) : Word := if b = 0 then a else BitVec.ofNat 64 (a.toNat % b.toNat)

/-- A shift amount: the low six bits (R106). -/
def amount (b : Word) : Nat := b.toNat % 64

/-- CLZ: 64 when the value is 0. -/
def clz64 (a : Word) : Word := BitVec.ofNat 64 (if a = 0 then 64 else 63 - Nat.log2 a.toNat)

/-- The number of one bits among the low n of a value. -/
def ones (v : Nat) : Nat → Nat
  | 0 => 0
  | n + 1 => v % 2 + ones (v / 2) n

/-- POPC. -/
def popc64 (a : Word) : Word := BitVec.ofNat 64 (ones a.toNat 64)

end Sys2Proof.Machine
end

