-- ==== Sys2Proof/Machine/Numbers.lean ====
section
/-! DEFINITION. Number formats and their arithmetic (R66 to R83, R163): exact values as dyadic numbers, rounding once to a
format, the eight element formats, and the correctly rounded functions of the vector engine. -/

namespace Sys2Proof.Machine

/-- An exact value: a NaN, a signed infinity, or the number m × 2^e, whose sign matters when m is 0 (R9, R67). -/
inductive XV where
  | nan
  | inf (neg : Bool)
  | num (neg : Bool) (m : Nat) (e : Int)
  deriving DecidableEq, Repr

/-- The default NaN of FP32 (R68). -/
def nan32 : W32 := 0x7FC00000

/-- The signed mantissa of a number. -/
def XV.sm : XV → Int
  | .num n m _ => if n then -(m : Int) else (m : Int)
  | _ => 0

/-- A number from a signed mantissa; an exact zero takes the sign given. -/
def xvOf (zneg : Bool) (m : Int) (e : Int) : XV :=
  if m = 0 then .num zneg 0 0 else .num (decide (m < 0)) m.natAbs e

/-- Whether an exact value is finite. -/
def XV.finite : XV → Bool
  | .num _ _ _ => true
  | _ => false

/-- Whether an exact value is zero. -/
def XV.isZero : XV → Bool
  | .num _ 0 _ => true
  | _ => false

/-- m × 2^k for a non-negative integer, k of either sign; exact only where the shift does not drop bits. -/
def shl (m : Nat) (k : Int) : Nat := if 0 ≤ k then m * 2 ^ k.toNat else m / 2 ^ (-k).toNat

/-- The order of two non-negative dyadic numbers: whether m1 × 2^e1 < m2 × 2^e2. -/
def dyLt (m1 : Nat) (e1 : Int) (m2 : Nat) (e2 : Int) : Bool :=
  if e1 ≤ e2 then decide (m1 < m2 * 2 ^ (e2 - e1).toNat) else decide (m1 * 2 ^ (e1 - e2).toNat < m2)

/-- The exact sum of two numbers; a zero sum of opposite signs is +0, or −0 in mode 11 (R67, IEEE 754). -/
def xvAdd (rm : Nat) : XV → XV → XV
  | .nan, _ => .nan
  | _, .nan => .nan
  | .inf a, .inf b => if a = b then .inf a else .nan
  | .inf a, _ => .inf a
  | _, .inf b => .inf b
  | .num n1 m1 e1, .num n2 m2 e2 =>
    if m1 = 0 ∧ m2 = 0 then .num (if n1 = n2 then n1 else rm == 3) 0 0
    else
      let e := min e1 e2
      let i1 : Int := (m1 * 2 ^ (e1 - e).toNat : Nat)
      let i2 : Int := (m2 * 2 ^ (e2 - e).toNat : Nat)
      xvOf (rm == 3) ((if n1 then -i1 else i1) + (if n2 then -i2 else i2)) e

/-- The exact product of two numbers (R67). -/
def xvMul : XV → XV → XV
  | .nan, _ => .nan
  | _, .nan => .nan
  | .inf a, .inf b => .inf (a != b)
  | .inf a, .num n m _ => if m = 0 then .nan else .inf (a != n)
  | .num n m _, .inf b => if m = 0 then .nan else .inf (n != b)
  | .num n1 m1 e1, .num n2 m2 e2 => .num (n1 != n2) (m1 * m2) (e1 + e2)

/-- The negation of a value. -/
def xvNeg : XV → XV
  | .nan => .nan
  | .inf n => .inf (!n)
  | .num n m e => .num (!n) m e

/-- The value times 2^k, exactly. -/
def xvScale (x : XV) (k : Int) : XV :=
  match x with
  | .num n m e => .num n m (e + k)
  | y => y

/-- The magnitude of a value. -/
def xvAbs : XV → XV
  | .nan => .nan
  | .inf _ => .inf false
  | .num _ m e => .num false m e

/-- Whether one finite or infinite value is below another, with −0 = +0; false when either is a NaN. -/
def xvLt : XV → XV → Bool
  | .nan, _ => false
  | _, .nan => false
  | .inf a, .inf b => a && !b
  | .inf a, .num _ _ _ => a
  | .num _ _ _, .inf b => !b
  | .num n1 m1 e1, .num n2 m2 e2 =>
    if m1 = 0 ∧ m2 = 0 then false
    else if (n1 && m1 != 0) && !(n2 && m2 != 0) then true
    else if !(n1 && m1 != 0) && (n2 && m2 != 0) then false
    else if n1 && m1 != 0 then dyLt m2 e2 m1 e1 else dyLt m1 e1 m2 e2

/-- Whether two values are equal as numbers (−0 = +0); false when either is a NaN. -/
def xvEq (a b : XV) : Bool := a != .nan && b != .nan && !xvLt a b && !xvLt b a

/-- Rounding a non-negative quotient n + r/d (r < d) to an integer under a mode of R70; `neg` is the value's sign. -/
def roundInt (rm : Nat) (neg : Bool) (n r d : Nat) : Nat :=
  if r = 0 then n
  else match rm with
    | 0 => if 2 * r > d ∨ (2 * r = d ∧ n % 2 = 1) then n + 1 else n
    | 1 => n
    | 2 => if neg then n else n + 1
    | _ => if neg then n + 1 else n

/-- A binary format with `p` significant bits and smallest quantum 2^qmin; the exponent field has 8 bits (R67). -/
structure BinFmt where
  p : Nat
  qmin : Int
  deriving DecidableEq, Repr

/-- FP32 and BF16 (R67). -/
def fp32 : BinFmt := ⟨24, -149⟩
def bf16 : BinFmt := ⟨8, -133⟩

/-- Magnitude bits of m × 2^e (m ≠ 0) rounded under a mode, before overflow is looked at. -/
def roundMag (f : BinFmt) (rm : Nat) (neg : Bool) (m : Nat) (e : Int) : Nat :=
  let x : Int := (Nat.log2 m : Int) + e
  let qe : Int := max (x - ((f.p : Int) - 1)) f.qmin
  let n := if qe ≤ e then m * 2 ^ (e - qe).toNat
           else
             let d := 2 ^ (qe - e).toNat
             roundInt rm neg (m / d) (m % d) d
  (qe - f.qmin).toNat * 2 ^ (f.p - 1) + n

/-- Rounding an exact value to FP32 or BF16 (R67, R68, R70): the pattern, and whether a finite value overflowed, which it has when IEEE
rounding without a bound on the exponent leaves it beyond the largest finite value: one above that value which rounds back to it is not
counted (this model's reading of R70, log entry 83). -/
def roundBin (f : BinFmt) (rm : Nat) (x : XV) : Nat × Bool :=
  let sgn := 2 ^ (f.p + 7)
  let infp := 255 * 2 ^ (f.p - 1)
  match x with
  | .nan => (infp + 2 ^ (f.p - 2), false)
  | .inf n => ((if n then sgn else 0) + infp, false)
  | .num n m e =>
    let s := if n then sgn else 0
    if m = 0 then (s, false)
    else
      let b := roundMag f rm n m e
      if b < infp then (s + b, false)
      else
        let toInf := rm == 0 || (rm == 2 && !n) || (rm == 3 && n)
        (s + (if toInf then infp else infp - 1), true)

/-- An exact value rounded to FP32 under a mode. -/
def round32 (rm : Nat) (x : XV) : W32 := BitVec.ofNat 32 (roundBin fp32 rm x).1

/-- The exact value of an FP32 pattern (R67). -/
def xv32 (b : W32) : XV :=
  let v := b.toNat
  let s := bit v 31
  let ex := bits v 30 23
  let fr := bits v 22 0
  if ex = 255 then (if fr = 0 then .inf s else .nan)
  else if ex = 0 then .num s fr (-149)
  else .num s (fr + 2 ^ 23) ((ex : Int) - 150)

/-- Whether an FP32 pattern is a NaN, an infinity, finite. -/
def isNaN32 (b : W32) : Bool := xv32 b == .nan
def isInf32 (b : W32) : Bool := bits b.toNat 30 0 == 0x7F800000
def finite32 (b : W32) : Bool := (xv32 b).finite

/-- FP32 addition, subtraction, multiplication, and fused multiply-add a × b + c, rounded once (R67, R68). -/
def fadd (rm : Nat) (a b : W32) : W32 := round32 rm (xvAdd rm (xv32 a) (xv32 b))
def fsub (rm : Nat) (a b : W32) : W32 := round32 rm (xvAdd rm (xv32 a) (xvNeg (xv32 b)))
def fmul (rm : Nat) (a b : W32) : W32 := round32 rm (xvMul (xv32 a) (xv32 b))
def ffma (rm : Nat) (a b c : W32) : W32 := round32 rm (xvAdd rm (xvMul (xv32 a) (xv32 b)) (xv32 c))

/-- The key that orders FP32 patterns as R94 does; on numbers it is the numeric order with −0 below +0 (R69). -/
def orderKey (b : W32) : Nat := if b.msb then (~~~b).toNat else (b ^^^ 0x80000000).toNat

/-- Minimum and maximum under R69. -/
def fmin (a b : W32) : W32 :=
  match isNaN32 a, isNaN32 b with
  | true, true => nan32
  | true, false => b
  | false, true => a
  | false, false => if orderKey b < orderKey a then b else a
def fmax (a b : W32) : W32 :=
  match isNaN32 a, isNaN32 b with
  | true, true => nan32
  | true, false => b
  | false, true => a
  | false, false => if orderKey a < orderKey b then b else a

/-- Rounding toward +∞ to FP32, the round_up of R217; a result beyond the range is +∞. -/
def roundUp (x : XV) : W32 := round32 2 x

/-- The larger of two non-negative FP32 bounds. -/
def maxBound (a b : W32) : W32 := if xvLt (xv32 a) (xv32 b) then b else a

/-- Whether a pattern is one a caliper word may hold: neither negative, nor −0, nor a NaN (R217). -/
def boundOk (x : W32) : Bool := !x.getLsbD 31 && !isNaN32 x

/-- The bound a word from memory carries into the matrix engine. No rule says what a negative value, −0 or a NaN there stands for: it is a
free bound, +∞ where the free value is none (R217). -/
def asBound (x : W32) : W32 :=
  if boundOk x then x else if boundOk (Config.badBound x) then Config.badBound x else 0x7F800000

/-! ### Element formats -/

/-- Bits per element of a format code (Table 3-1). -/
def fmtBits (f : Nat) : Nat :=
  match f with
  | 0 => 32 | 1 => 16 | 2 => 8 | 3 => 4 | 4 => 8 | 5 => 32 | 6 => 8 | 7 => 16 | _ => 8

/-- Bytes that `n` elements of a format take. -/
def fmtBytes (f n : Nat) : Nat := n * fmtBits f / 8

/-- The D8 magnitude fields in ascending order of magnitude (Table 3-4); a code's rank is its position plus 1. -/
def d8Order : List Nat :=
  [1, 2, 4, 5] ++ List.range' 0x08 4 ++ List.range' 0x10 8 ++ List.range' 0x20 16 ++ List.range' 0x40 64 ++
    List.range' 0x30 16 ++ List.range' 0x18 8 ++ List.range' 0x0C 4 ++ [6, 7, 3]

/-- The exponent of a D8 code from its marker position and e bits (Table 3-2). -/
def d8Exp (k e : Nat) : Int :=
  match k, e with
  | 6, 0 => -2 | 6, 1 => -1 | 6, 2 => 0 | 6, _ => 1
  | 5, 0 => -4 | 5, 1 => -3 | 5, 2 => 2 | 5, _ => 3
  | 4, 0 => -6 | 4, 1 => -5 | 4, 2 => 4 | 4, _ => 5
  | 3, 0 => -8 | 3, 1 => -7 | 3, 2 => 6 | 3, _ => 7
  | 2, 0 => -10 | 2, 1 => -9 | 2, 2 => 8 | 2, _ => 9
  | 1, 0 => -11 | 1, _ => 10
  | _, _ => -12

/-- The number of e bits for a marker position (Table 3-2). -/
def d8Nb (k : Nat) : Nat := if k ≥ 2 then 2 else if k = 1 then 1 else 0

/-- The value of a D8 code (R71). -/
def xvD8 (c : Nat) : XV :=
  let m := c % 128
  if m = 0 then (if c % 256 = 0 then .num false 0 0 else .nan)
  else
    let k := Nat.log2 m
    let ff := k - d8Nb k
    let e := (m / 2 ^ ff) % 2 ^ d8Nb k
    let f := m % 2 ^ ff
    .num (bit c 7) (2 ^ ff + f) (d8Exp k e - (ff : Int))

/-- Twice the magnitude of an F4 code (Table 3-5). -/
def f4Twice (m : Nat) : Nat :=
  match m with
  | 0 => 0 | 1 => 1 | 2 => 2 | 3 => 3 | 4 => 4 | 5 => 6 | 6 => 8 | _ => 12

/-- The value of an F4 code other than the spare code 0b1000 (R74). -/
def xvF4 (c : Nat) : XV := .num (bit c 3) (f4Twice (c % 8)) (-1)

/-- The exact value of an integer. -/
def xvInt (i : Int) : XV := xvOf false i 0

/-- The signed integer of an integer format's code (R76). -/
def intOf (f c : Nat) : Int := sextN c (fmtBits f)

/-- The exact value of an element; `spare` is what the F4 code 0b1000 stands for (R71, R74, R76, R77). -/
def xvElem (f : Nat) (spare : W32) (c : Nat) : XV :=
  match f with
  | 0 => xv32 (BitVec.ofNat 32 c)
  | 1 => xv32 (BitVec.ofNat 32 (c % 65536 * 65536))
  | 2 => xvD8 c
  | 3 => if c % 16 = 8 then xv32 spare else xvF4 (c % 16)
  | 6 => if c % 256 = 255 then .nan else .num false 1 ((c % 256 : Nat) - 127 : Int)
  | _ => xvInt (intOf f c)

/-- Rounding a magnitude m × 2^e among candidates given as (magnitude × 2^s, code), ascending, under a mode; `neg` is the
sign. A tie goes to the candidate with even position (`even` tells). The list begins at 0 (R73, R75). -/
def roundCand (rm : Nat) (neg : Bool) (m : Nat) (e : Int) (s : Int) : List (Nat × Nat × Bool) → Nat × Nat × Bool → Nat
  | [], lo => lo.2.1
  | hi :: r, lo =>
    -- the value is at least lo; whether it is at least hi
    if !dyLt m e hi.1 (-s) then roundCand rm neg m e s r hi
    else if !dyLt lo.1 (-s) m e then lo.2.1
    else
      match rm with
      | 0 =>
        let mid := lo.1 + hi.1
        if dyLt m e mid (-s - 1) then lo.2.1
        else if dyLt mid (-s - 1) m e then hi.2.1
        else if lo.2.2 then lo.2.1 else hi.2.1
      | 1 => lo.2.1
      | 2 => if neg then lo.2.1 else hi.2.1
      | _ => if neg then hi.2.1 else lo.2.1

/-- The D8 candidates as (magnitude × 2^12, code, even rank). -/
def d8Cands : List (Nat × Nat × Bool) :=
  d8Order.mapIdx (fun i c =>
    (match xvD8 c with | .num _ m e => shl m (e + 12) | _ => 0, c, (i + 1) % 2 == 0))

/-- The F4 candidates as (magnitude × 2, code, even code). -/
def f4Cands : List (Nat × Nat × Bool) := (List.range' 1 7).map (fun c => (f4Twice c, c, c % 2 == 0))

/-- What a conversion of one element gives: the code, and whether it counts as saturated or as a NaN (R79). -/
structure Conv where
  code : Nat
  sat : Bool
  nan : Bool
  deriving DecidableEq, Repr

/-- Conversion to D8 (R73). -/
def toD8 (rm : Nat) : XV → Conv
  | .nan => ⟨0x80, false, true⟩
  | .inf n => ⟨if n then 0x83 else 0x03, true, false⟩
  | .num n m e =>
    if dyLt 1024 0 m e then ⟨if n then 0x83 else 0x03, true, false⟩
    else
      let c := roundCand rm n m e 12 d8Cands (0, 0, true)
      ⟨if c = 0 then 0 else if n then c + 128 else c, false, false⟩

/-- Conversion to F4 (R75). -/
def toF4 (rm : Nat) : XV → Conv
  | .nan => ⟨8, false, true⟩
  | .inf n => ⟨if n then 15 else 7, true, false⟩
  | .num n m e =>
    if dyLt 6 0 m e then ⟨if n then 15 else 7, true, false⟩
    else
      let c := roundCand rm n m e 1 f4Cands (0, 0, true)
      ⟨if c = 0 then 0 else if n then c + 8 else c, false, false⟩

/-- The two's complement code of an integer in `w` bits. -/
def intCode (w : Nat) (i : Int) : Nat := (i % (2 ^ w : Int)).toNat

/-- Clamping an integer to a width (R76): the code and whether it was clamped. -/
def clampInt (w : Nat) (i : Int) : Conv :=
  let hi : Int := 2 ^ (w - 1) - 1
  let lo : Int := -(2 ^ (w - 1))
  if i > hi then ⟨intCode w hi, true, false⟩
  else if i < lo then ⟨intCode w lo, true, false⟩
  else ⟨intCode w i, false, false⟩

/-- Rounding a number to an integer under a mode. -/
def xvToInt (rm : Nat) (n : Bool) (m : Nat) (e : Int) : Int :=
  let a := if 0 ≤ e then m * 2 ^ e.toNat
           else
             let d := 2 ^ (-e).toNat
             roundInt rm n (m / d) (m % d) d
  if n then -(a : Int) else (a : Int)

/-- Conversion of a value to an integer format of `w` bits (R76). -/
def toInt (w rm : Nat) : XV → Conv
  | .nan => ⟨0, false, true⟩
  | .inf n => ⟨intCode w (if n then -(2 ^ (w - 1)) else 2 ^ (w - 1) - 1), true, false⟩
  | .num n m e =>
    if (Nat.log2 m : Int) + e > 64 ∧ m ≠ 0 then
      ⟨intCode w (if n then -(2 ^ (w - 1)) else 2 ^ (w - 1) - 1), true, false⟩
    else clampInt w (xvToInt rm n m e)

/-- Conversion to E8M0 (R77). -/
def toE8 (rm : Nat) : XV → Conv
  | .nan => ⟨255, false, true⟩
  | .inf true => ⟨255, false, true⟩
  | .inf false => ⟨254, true, false⟩
  | .num n m e =>
    if n ∨ m = 0 then ⟨255, false, true⟩
    else
      let l := Nat.log2 m
      let fl : Int := (l : Int) + e
      let up : Bool :=
        if m = 2 ^ l then false
        else match rm with
          | 0 => decide (3 * 2 ^ l ≤ 2 * m)
          | 2 => true
          | _ => false
      let r : Int := 127 + fl + (if up then 1 else 0)
      if r > 254 then ⟨254, true, false⟩ else if r < 0 then ⟨0, false, false⟩ else ⟨r.toNat, false, false⟩

/-- The BF16 code of an FP32 pattern or exact value (R68, R70, R78): a NaN given by a pattern keeps its payload. -/
def toBF16 (rm : Nat) (pat : Option W32) (x : XV) : Conv :=
  match x with
  | .nan => ⟨match pat with
      | some p => (p.toNat / 65536) ||| 0x40
      | none => 0x7FC0, false, true⟩
  | y =>
    let r := roundBin bf16 rm y
    ⟨r.1, r.2, false⟩

/-- An exact value, with the FP32 pattern it came from when it came from one, in a format (Table 3-6). -/
def encElem (f rm : Nat) (pat : Option W32) (x : XV) : Conv :=
  match f with
  | 0 => match pat with
    | some p => ⟨p.toNat, false, false⟩
    | none => let r := roundBin fp32 rm x; ⟨r.1, r.2, x == .nan⟩
  | 1 => toBF16 rm pat x
  | 2 => toD8 rm x
  | 3 => toF4 rm x
  | 6 => toE8 rm x
  | _ => toInt (fmtBits f) rm x

/-- Whether a format is one of the integer formats. -/
def isIntFmt (f : Nat) : Bool := f == 4 || f == 5 || f == 7

/-- The FP32 pattern of a code of a float format or scale, read exactly (Table 3-6). A BF16 NaN keeps its payload. -/
def fp32Of (f : Nat) (spare : W32) (c : Nat) : W32 :=
  match f with
  | 0 => BitVec.ofNat 32 c
  | 1 => BitVec.ofNat 32 (c % 65536 * 65536)
  | 3 => if c % 16 = 8 then spare else round32 0 (xvF4 (c % 16))
  | _ => round32 0 (xvElem f spare c)

/-- Conversion of one element of format `src` to format `dst` (R78), counting under R79. Pairs without a row in Table 3-6 are this model's
choice (log entry 15): FP32 to FP32 and BF16 to BF16 copy the code and count nothing, a NaN included; an integer to a format that is neither an integer nor FP32 or
BF16 rounds once from the exact integer; E8M0 to BF16, and the others, go through FP32 as the table's last row does. INT16 values that BF16 does not
represent round under rm, though the table calls the row exact. -/
def convElem (src dst rm : Nat) (spare : W32) (c : Nat) : Conv :=
  if src = dst ∧ (src = 0 ∨ src = 1) then ⟨c % 2 ^ fmtBits src, false, false⟩
  else if isIntFmt src ∧ isIntFmt dst then clampInt (fmtBits dst) (intOf src c)
  else if isIntFmt src then
    if dst = 0 ∨ dst = 1 then
      let r := roundBin (if dst = 0 then fp32 else bf16) rm (xvInt (intOf src c))
      ⟨r.1, r.2, false⟩
    else encElem dst rm none (xvInt (intOf src c))
  else
    let p := fp32Of src spare c
    match dst with
    | 0 => ⟨p.toNat, false, false⟩
    | 1 => if src = 2 ∧ c % 256 = 0x80 then ⟨0x7FC0, false, false⟩
           else toBF16 rm (some p) (xv32 p)
    | _ => encElem dst rm (some p) (xv32 p)

/-- What a register lane holds for a code of a format: FP32 for the float formats and E8M0, the sign-extended integer for
the integer formats (R144, R167). -/
def laneOf (f : Nat) (spare : W32) (c : Nat) : W32 :=
  if isIntFmt f then BitVec.ofInt 32 (intOf f c) else fp32Of f spare c

/-! ### Block quantisation (R81 to R83) -/

/-- The target maximum of a quantisation format as (m, e) (Table 3-9). -/
def quantMax (g : Nat) : Nat × Int :=
  match g with
  | 2 => (31, -3)
  | 3 => (6, 0)
  | 4 => (127, 0)
  | _ => (32767, 0)

/-- The code of ±(maximum of g) and the NaN code of g (R82). -/
def quantInf (g : Nat) (neg : Bool) : Nat :=
  match g with
  | 2 => if neg then 0x83 else 0x03
  | 3 => if neg then 15 else 7
  | 4 => if neg then intCode 8 (-127) else 127
  | _ => if neg then intCode 16 (-32767) else 32767
def quantNaN (g : Nat) : Nat :=
  match g with
  | 2 => 0x80
  | 3 => 8
  | _ => 0

/-- The largest magnitude among the finite values of a block. -/
def blockMax : List XV → Nat × Int
  | [] => (0, 0)
  | x :: r =>
    let b := blockMax r
    match x with
    | .num _ m e => if dyLt b.1 b.2 m e then (m, e) else b
    | _ => b

/-- The smallest integer nn with amax ≤ tt × 2^nn, for amax ≠ 0 (R81). -/
def scaleExp (tt amax : Nat × Int) : Int :=
  let n0 : Int := (Nat.log2 amax.1 : Int) + amax.2 - ((Nat.log2 tt.1 : Int) + tt.2)
  let ok := fun (n : Int) => !dyLt tt.1 (tt.2 + n) amax.1 amax.2
  if ok (n0 - 1) then n0 - 1 else if ok n0 then n0 else n0 + 1

/-- The scale of a block (R81, R82). The procedure of R81 is followed as it stands; where rounding lowers the largest magnitude onto a power of
two of the target's range, a second quantisation takes a smaller scale, which R84 does not expect (log entry 84). -/
def blockScale (g : Nat) (xs : List XV) : Nat :=
  if xs.any (fun x => x == .nan) then 255
  else if xs.all (fun x => !x.finite) then 127
  else
    let am := blockMax xs
    if am.1 = 0 then 127
    else (min (max (127 + scaleExp (quantMax g) am) 0) 254).toNat

/-- One element of a block under its scale (R81, R82). -/
def quantElem (g rm sc : Nat) (x : XV) : Conv :=
  if sc = 255 then ⟨quantNaN g, false, x == .nan⟩
  else match x with
    | .inf n => ⟨quantInf g n, true, false⟩
    | y => encElem g rm none (xvScale y (127 - (sc : Int)))

/-- One element under a scale that the word gives (R168): a scale of 0xFF makes every element the NaN code. -/
def quantGiven (g rm sc : Nat) (x : XV) : Conv :=
  if sc = 255 then ⟨quantNaN g, false, true⟩
  else encElem g rm none (xvScale x (127 - (sc : Int)))

/-- Dequantisation of one element (R83). -/
def dequant (g sc : Nat) (spare : W32) (c : Nat) : W32 :=
  if sc = 255 then nan32 else round32 0 (xvScale (xvElem g spare c) ((sc : Int) - 127))

/-! ### Correctly rounded quotients, roots and functions (R163, R253, R154) -/

/-- A quotient of non-negative dyadics as a dyadic with a sticky last bit; it rounds as the exact quotient does. -/
def xvDivMag (m1 : Nat) (e1 : Int) (m2 : Nat) (e2 : Int) : Nat × Int :=
  let k : Nat := 64 + Nat.log2 m2
  let q := m1 * 2 ^ k / m2
  let r := m1 * 2 ^ k % m2
  (2 * q + (if r = 0 then 0 else 1), e1 - e2 - (k : Int) - 1)

/-- The quotient of two values with IEEE 754's special cases. -/
def xvDiv : XV → XV → XV
  | .nan, _ => .nan
  | _, .nan => .nan
  | .inf _, .inf _ => .nan
  | .inf a, .num n _ _ => .inf (a != n)
  | .num n _ _, .inf b => .num (n != b) 0 0
  | .num n1 m1 e1, .num n2 m2 e2 =>
    if m2 = 0 then (if m1 = 0 then .nan else .inf (n1 != n2))
    else if m1 = 0 then .num (n1 != n2) 0 0
    else
      let q := xvDivMag m1 e1 m2 e2
      .num (n1 != n2) q.1 q.2

/-- The integer square root by bits from bit `k` down. -/
def isqrtGo (n : Nat) : Nat → Nat → Nat
  | 0, r => r
  | k + 1, r => let c := r + 2 ^ k; isqrtGo n k (if c * c ≤ n then c else r)
def isqrt (n : Nat) : Nat := isqrtGo n (Nat.log2 n / 2 + 1) 0

/-- The square root of a value, with a sticky last bit (R163). -/
def xvSqrt : XV → XV
  | .nan => .nan
  | .inf n => if n then .nan else .inf false
  | .num n m e =>
    if m = 0 then .num n 0 0
    else if n then .nan
    else
      -- an even exponent with at least 64 bits of root
      let k : Nat := 130 + (if (e - 130) % 2 = 0 then 0 else 1)
      let v := m * 2 ^ k
      let r := isqrt v
      .num false (2 * r + (if r * r = v then 0 else 1)) ((e - (k : Int)) / 2 - 1)

/-- A real number enclosed by fixed point: between (v − err) and (v + err), in units of 2^−P. -/
structure Encl where
  v : Int
  err : Int
  deriving DecidableEq, Repr

/-- Terms of the series of e^r for 0 ≤ r < 1 in fixed point: `t` is the current term, `n` its index. -/
def expSeries (P : Nat) (r : Int) : Nat → Nat → Int → Int → Int
  | 0, _, _, acc => acc
  | k + 1, n, t, acc =>
    let t' := t * r / (2 ^ P * (n : Int))
    expSeries P r k (n + 1) t' (acc + t')

/-- Terms of 2 × atanh(z) in fixed point, z in 2^−P units. -/
def atanhSeries (P : Nat) (z2 : Int) : Nat → Nat → Int → Int → Int
  | 0, _, _, acc => 2 * acc
  | k + 1, n, t, acc => atanhSeries P z2 k (n + 2) (t * z2 / 2 ^ P) (acc + t / (n : Int))

/-- ln 2 in 2^−P units, as 2 atanh(1/3), truncated. -/
def ln2Fix (P : Nat) : Int :=
  let z : Int := 2 ^ P / 3
  atanhSeries P (z * z / 2 ^ P) P 1 z 0

/-- e^x for a dyadic x with |x| < 2^9: an enclosure of e^x / 2^k and k. The series takes P terms, more than enough. -/
def expEncl (P : Nat) (neg : Bool) (m : Nat) (e : Int) : Encl × Int :=
  let xm : Int := if neg then -((shl m (e + (P : Int)) : Nat) : Int) else ((shl m (e + (P : Int)) : Nat) : Int)
  let l := ln2Fix P
  let k := xm / l
  let r := xm - k * l
  -- r carries the truncation of x and k times that of ln 2; the series at most one unit a term
  (⟨expSeries P r P 1 (2 ^ P) (2 ^ P), 4 * (P : Int) * (k.natAbs + 4 : Nat)⟩, k)

/-- log2 y for 1 ≤ y < 2 given in 2^−P units. -/
def log2Encl (P : Nat) (y : Int) : Encl :=
  let z := (y - 2 ^ P) * 2 ^ P / (y + 2 ^ P)
  let s := atanhSeries P (z * z / 2 ^ P) P 1 z 0
  ⟨s * 2 ^ P / ln2Fix P, 16 * (P : Int)⟩

/-- The FP32 pattern that both ends of an enclosure times 2^k round to, if they agree. -/
def agree (P : Nat) (en : Encl) (k : Int) : Option W32 :=
  let lo := round32 0 (xvOf false (en.v - en.err) (k - (P : Int)))
  let hi := round32 0 (xvOf false (en.v + en.err) (k - (P : Int)))
  if lo = hi then some lo else none

/-- The first precision of a list at which an enclosure decides the rounding; the last one's midpoint otherwise. -/
def decideAt (f : Nat → Encl × Int) : List Nat → W32
  | [] => nan32
  | [P] =>
    match agree P (f P).1 (f P).2 with
    | some r => r
    | none => round32 0 (xvOf false (f P).1.v ((f P).2 - (P : Int)))
  | P :: r =>
    match agree P (f P).1 (f P).2 with
    | some v => v
    | none => decideAt f r

/-- The precisions tried by the correctly rounded functions. -/
def precisions : List Nat := [96, 192, 512, 1024]

/-- e^x of an exact value, correctly rounded to nearest-even (R163). -/
def expR (x : XV) : W32 :=
  match x with
  | .nan => nan32
  | .inf n => if n then 0 else 0x7F800000
  | .num n m e =>
    if m = 0 then 0x3F800000
    else if dyLt 128 0 m e then (if n then 0 else 0x7F800000)
    else decideAt (fun P => expEncl P n m e) precisions

/-- 2^a (R163). -/
def exp2R (x : XV) : W32 :=
  match x with
  | .nan => nan32
  | .inf n => if n then 0 else 0x7F800000
  | .num n m e =>
    if m = 0 then 0x3F800000
    else if dyLt 160 0 m e then (if n then 0 else 0x7F800000)
    else
      -- a = i + f with 0 ≤ f < 1
      let a : Int := if n then -(m : Int) else (m : Int)
      if 0 ≤ e then round32 0 (.num false 1 (a * 2 ^ e.toNat))
      else
        let d : Int := 2 ^ (-e).toNat
        let i := a / d
        let f := a % d
        if f = 0 then round32 0 (.num false 1 i)
        else
          decideAt (fun P =>
            let r := f * ln2Fix P / d
            (⟨expSeries P r P 1 (2 ^ P) (2 ^ P), 8 * (P : Int)⟩, i)) precisions

/-- log2 a (R163). -/
def log2R (x : XV) : W32 :=
  match x with
  | .nan => nan32
  | .inf n => if n then nan32 else 0x7F800000
  | .num n m e =>
    if m = 0 then 0xFF800000
    else if n then nan32
    else
      let l := Nat.log2 m
      let i : Int := (l : Int) + e
      if m = 2 ^ l then round32 0 (xvInt i)
      else
        decideAt (fun P =>
          let y : Int := (shl m ((P : Int) - (l : Int)) : Nat)
          let en := log2Encl P y
          (⟨en.v + i * 2 ^ P, en.err⟩, 0)) precisions

/-- The quotient of two enclosures of positive numbers, in 2^−P units. -/
def enclDiv (P : Nat) (a b : Encl) : Encl :=
  let q := a.v * 2 ^ P / b.v
  let hi := (a.v + a.err) * 2 ^ P / (b.v - b.err) + 1
  let lo := (a.v - a.err) * 2 ^ P / (b.v + b.err)
  ⟨q, max (hi - q) (q - lo) + 1⟩

/-- tanh a (R163): below 2^−13 the cubic term is less than a quarter of the last place, so a itself is nearest. -/
def tanhR (b : W32) : W32 :=
  match xv32 b with
  | .nan => nan32
  | .inf n => if n then 0xBF800000 else 0x3F800000
  | .num n m e =>
    if m = 0 ∨ dyLt m e 1 (-13) then b
    else
      let one : W32 := if n then 0xBF800000 else 0x3F800000
      if dyLt 40 0 m e then one
      else
        let r := decideAt (fun P =>
          -- t = e^(−2|a|); tanh |a| = (1 − t) / (1 + t)
          let ex := expEncl P true m (e + 1)
          let t : Int := ex.1.v / 2 ^ (-ex.2).toNat
          let te : Int := ex.1.err / 2 ^ (-ex.2).toNat + 2
          (enclDiv P ⟨2 ^ P - t, te⟩ ⟨2 ^ P + t, te⟩, 0)) precisions
        if n then r ||| 0x80000000 else r

/-- 1 / (1 + e^(−a)) (R163). -/
def sigmR (b : W32) : W32 :=
  match xv32 b with
  | .nan => nan32
  | .inf n => if n then 0 else 0x3F800000
  | .num n m e =>
    if m = 0 then 0x3F000000
    else if dyLt 128 0 m e then (if n then 0 else 0x3F800000)
    else
      decideAt (fun P =>
        -- u = e^(−|a|); the value is 1 / (1 + u), or u / (1 + u) for a < 0
        let ex := expEncl P true m e
        let u : Int := ex.1.v / 2 ^ (-ex.2).toNat
        let ue : Int := ex.1.err / 2 ^ (-ex.2).toNat + 2
        let den : Encl := ⟨2 ^ P + u, ue⟩
        if n then
          let q := enclDiv P ex.1 den
          (q, ex.2)
        else (enclDiv P ⟨2 ^ P, 0⟩ den, 0)) precisions

/-- 1 / a and 1 / √a (R163). -/
def rcpR (b : W32) : W32 := round32 0 (xvDiv (.num false 1 0) (xv32 b))
def rsqR (b : W32) : W32 :=
  match xv32 b with
  | .num n 0 _ => if n then 0xFF800000 else 0x7F800000
  | .num false m e =>
    -- 1/√a = √(1/a); the sticky bits of the quotient and of the root are far below the rounding position
    let q := xvDivMag (2 ^ 200) (-200) m e
    round32 0 (xvSqrt (.num false q.1 q.2))
  | .inf false => 0
  | _ => nan32
def sqrtR (b : W32) : W32 := round32 0 (xvSqrt (xv32 b))
def divR (a b : W32) : W32 := round32 0 (xvDiv (xv32 a) (xv32 b))

end Sys2Proof.Machine
end

