-- ==== Sys2Proof/Machine/Mem.lean ====
section
/-! DEFINITION. Physical memory, sync storage and buffers as bytes; homes of addresses, the poison record, and the waits a
performed write ends (R14, R279, R303, R353, R362). -/

namespace Sys2Proof.Machine

/-- The canonical form of memory: addresses rise strictly, and no entry lists 0, which an unlisted byte reads as. -/
abbrev Memory.wf (m : List Host.Cell) : Bool := canon 0 m

/-- Sync storage has no physical address a program can reach: the model keeps the bytes of frame f of die d's engine at
2^56 + d × 2^40 + f × 2^16, beyond the 52-bit physical addresses of R353. -/
def syncBase (die frame : Nat) : Nat := 2 ^ 56 + die * 2 ^ 40 + frame * 2 ^ 16

/-- The die that homes an address: bits [38:37] in the first tier (R14), the engine's die for sync storage, none for
second-tier memory. -/
def homeDie (pa : Nat) : Option Nat :=
  if pa ≥ 2 ^ 56 then some (bits pa 41 40) else if pa < 2 ^ 39 then some (bits pa 38 37) else none

/-- The die whose engine performs on an address (R279); second-tier memory has none and is taken as die 0's. -/
def engineDie (pa : Nat) : Nat := (homeDie pa).getD 0

/-- Whether the die that homes an address is lost. -/
def State.homeLost (s : State) (pa : Nat) : Bool :=
  match homeDie pa with
  | some d => (s.dieOf d).lost
  | none => false

/-- Whether the 64 KiB frame of a physical address is in the poison record (R362). -/
def State.poisoned (s : State) (pa : Nat) : Bool := s.poison.contains (pa / 65536)

/-- The bytes of a list of segments, in order. -/
def State.readSegs (s : State) (g : List Seg) : List Byte := g.flatMap (fun x => getBytes s.mem x.pa x.len)

/-- Memory with bytes stored over a list of segments, in order. -/
def storeSegs (m : List Host.Cell) : List Seg → List Byte → List Host.Cell
  | [], _ => m
  | g :: r, bs => storeSegs (setBytes m g.pa (bs.take g.len)) r (bs.drop g.len)

/-- A little-endian value of n bytes at an address. -/
def State.readN (s : State) (pa n : Nat) : Nat := leNat (getBytes s.mem pa n)

/-- The state with an n-byte little-endian value stored at an address, with no further effect. -/
def State.writeN (s : State) (pa n v : Nat) : State := { s with mem := setBytes s.mem pa (toLE n v) }

/-- The address of byte i of a list of segments. -/
def segAddr : List Seg → Nat → Nat
  | [], _ => 0
  | g :: r, i => if i < g.len then g.pa + i else segAddr r (i - g.len)

/-- The part of a list of segments from byte o on, n bytes long. -/
def segSlice : List Seg → Nat → Nat → List Seg
  | [], _, _ => []
  | g :: r, o, n =>
    if n = 0 then []
    else if o ≥ g.len then segSlice r (o - g.len) n
    else
      let k := min n (g.len - o)
      ⟨g.pa + o, k⟩ :: segSlice r 0 (n - k)

/-- The condition of a WAITA (R302). -/
def waitHolds (w : WaitEnt) (v : Word) : Bool :=
  let a := v &&& w.mask
  let b := w.e &&& w.mask
  match w.cmp with
  | 0 => a == b
  | 1 => a != b
  | 2 => decide (b.toNat ≤ a.toNat)
  | 3 => decide (a.toNat < b.toNat)
  | 4 => a != 0
  | _ => a == 0

/-- Whether a write of a list of segments touches the doubleword at `pa`. -/
def touches (g : List Seg) (pa : Nat) : Bool := g.any (fun x => decide (x.pa < pa + 8) && decide (pa < x.pa + x.len))

/-- A core whose WAITA has been ended with a value. -/
def State.wake (s : State) (core : Nat) (v : Word) : State :=
  s.setCoreOf core { s.coreOf core with wait := .woken v }

/-- Whether two lists of segments share a byte. -/
def overlap (a b : List Seg) : Bool :=
  a.any (fun x => b.any (fun y => decide (x.pa < y.pa + y.len) && decide (y.pa < x.pa + x.len)))

/-- The segments of a place in memory. -/
def Place.segs : Place → List Seg
  | .phys _ g => g
  | _ => []

/-- Whether two places share a byte outside the buffers. -/
def placesMeet : Place → Place → Bool
  | .phys _ a, .phys _ b => overlap a b
  | .remote d o, .remote d' o' => d == d' && decide (o < o' + 65536) && decide (o' < o + 65536)
  | _, _ => false

/-- Whether a store of another stream than `t` has performed at core scope and not yet at its home, over bytes of a place: no agent of
the core reads older bytes there (R258). -/
def CoreSt.covered (c : CoreSt) (t : Strm) (p : Place) : Bool :=
  allStrms.any (fun u => u != t &&
    (c.strm u).stores.any (fun e => decide (2 ≤ e.level) && e.elems.any (fun x => placesMeet x.place p)))

/-- Whether the decision log of a context records or replays (R339). -/
def State.logOn (s : State) (x : Nat) : Bool := bits ((s.ctxOf x).csr 0x3F3).toNat 1 0 != 0

/-- The wake messages for the entries one write has ended (R303). With the log of their context on, each message is a decision: the WAITA
completes once its message has taken its place in the log, after those of earlier writes and in any order among those of one write. -/
def State.sendWakes (s : State) (ws : List WaitEnt) : State :=
  let off := ws.filter (fun w => !s.logOn w.ctx)
  let on := ws.filter (fun w => s.logOn w.ctx)
  let val (s : State) (w : WaitEnt) : Word := BitVec.ofNat 64 (s.readN w.pa 8)
  let s := s.forEach off (fun w s => s.wake w.core (val s w))
  if on.isEmpty then s
  else
    let s := s.forEach on (fun w s => s.setCoreOf w.core { s.coreOf w.core with wait := .sending (val s w) })
    { s with wakes := s.wakes ++ (on.map (fun w => w.ctx)).eraseDups.map (fun x => (x, (on.filter (fun w => w.ctx == x)).map (fun w => w.core))) }

/-- Whether the wake message of a core is among those of the earliest write of its context whose messages are not all sent. -/
def State.mySend (s : State) (x core : Nat) : Bool :=
  match s.wakes.find? (fun e => e.1 == x) with
  | some e => e.2.contains core
  | none => false

/-- The wake messages still to be sent, without those to a core. -/
def State.dropSend (s : State) (core : Nat) : State :=
  { s with wakes := (s.wakes.map (fun e => (e.1, e.2.filter (fun k => k != core)))).filter (fun e => !e.2.isEmpty) }

/-- After a write to the segments has performed, every entry of their doublewords whose condition holds is freed and its
WAITA woken with the value after the write (R303); an entry whose core has newer bytes on their way to the doubleword is evaluated when
these perform (R258). -/
def State.evalWaits (s : State) (g : List Seg) : State :=
  s.forN 4 (fun d s =>
    let ws := (s.dieOf d).waits
    let hit (w : WaitEnt) : Bool := touches g w.pa && waitHolds w (BitVec.ofNat 64 (s.readN w.pa 8)) &&
      !(s.coreOf w.core).covered .C (.phys 0 [⟨w.pa, 8⟩])
    let go := ws.filter hit
    if go.isEmpty then s
    else (s.setDieOf d { s.dieOf d with waits := ws.filter (fun w => !hit w) }).sendWakes go)

/-- Whether a physical address lies in a page of a kernel image whose slot is not ABSENT: no program writes there (R98, R100). -/
def State.imageAt (s : State) (pa : Nat) : Bool :=
  s.kernels.any (fun k => k.2.st != .absent && decide (k.2.image / 65536 ≤ pa / 65536) && decide (pa < k.2.image + (k.2.ilen + 65535) / 65536 * 65536))

/-- The pages of the kernel images whose slots are not ABSENT. -/
def State.imageSegs (s : State) : List Seg :=
  s.kernels.filterMap (fun k => if k.2.st = .absent then none
    else some ⟨k.2.image / 65536 * 65536, k.2.image % 65536 + (k.2.ilen + 65535) / 65536 * 65536⟩)

/-- A stretch of bytes without those that lie in a range. -/
def cutHole (h : Seg) (e : Seg × List Byte) : List (Seg × List Byte) :=
  let g := e.1
  if h.len = 0 ∨ h.pa + h.len ≤ g.pa ∨ g.pa + g.len ≤ h.pa then [e]
  else
    let a := h.pa - g.pa
    let b := h.pa + h.len - g.pa
    (if a = 0 then [] else [(⟨g.pa, a⟩, e.2.take a)]) ++ (if g.len ≤ b then [] else [(⟨g.pa + b, g.len - b⟩, e.2.drop b)])

/-- Segments with the bytes each of them takes. -/
def segBytes : List Seg → List Byte → List (Seg × List Byte)
  | [], _ => []
  | g :: r, bs => (g, bs.take g.len) :: segBytes r (bs.drop g.len)

/-- Memory with bytes stored over a list of segments, but for those in some ranges. -/
def storeAround (m : List Host.Cell) (holes g : List Seg) (bs : List Byte) : List Host.Cell :=
  if overlap g holes then
    let l := holes.foldl (fun l h => l.flatMap (cutHole h)) (segBytes g bs)
    storeSegs m (l.map (fun e => e.1)) (l.flatMap (fun e => e.2))
  else storeSegs m g bs

/-- Bytes performed at their home: stored, then seen by every wait entry. A loaded kernel image keeps its bytes whatever a write was checked
against when it was issued (R100). -/
def State.perform (s : State) (g : List Seg) (bs : List Byte) : State :=
  { s with mem := storeAround s.mem s.imageSegs g bs }.evalWaits g

/-! ### Buffers -/

/-- Bytes of a core's W-buffer. -/
def CoreSt.wRead (c : CoreSt) (o n : Nat) : List Byte := getBytes c.wbuf o n

/-- Bytes of a core's A-buffer. -/
def CoreSt.aRead (c : CoreSt) (o n : Nat) : List Byte := getBytes c.abuf o n

/-- The 16 KiB granules a range touches. -/
def granules (o n : Nat) : List Nat := if n = 0 then [] else List.range' (o / 16384) ((o + n - 1) / 16384 + 1 - o / 16384)

/-- Bound tags after a write of bytes [o, o + n) with bound β (R134): a granule covered whole takes β, any other the larger. -/
def tagWrite (tags : List (Nat × W32)) (o n : Nat) (beta : W32) : List (Nat × W32) :=
  (granules o n).foldl (fun t g =>
    if o ≤ g * 16384 ∧ g * 16384 + 16384 ≤ o + n then put 0 t g beta else put 0 t g (maxBound (look 0 t g) beta)) tags

/-- The bytes of granule g that a run of n bytes at o covers, as a bit mask. -/
def coverMask (g o n : Nat) : Nat :=
  let lo := max o (g * 16384)
  let hi := min (o + n) (g * 16384 + 16384)
  if lo < hi then (2 ^ (hi - lo) - 1) * 2 ^ (lo - g * 16384) else 0

/-- Bound tags after every row of a word has been written, as (offset, length, β): a granule the rows cover whole together takes the
largest of their β (R134). -/
def tagCover (tags : List (Nat × W32)) (rows : List (Nat × Nat × W32)) : List (Nat × W32) :=
  let gs := (rows.flatMap (fun r => granules r.1 r.2.1)).eraseDups
  gs.foldl (fun t g =>
    if rows.foldl (fun m r => m ||| coverMask g r.1 r.2.1) 0 = 2 ^ 16384 - 1 then
      put 0 t g (rows.foldl (fun b r => if coverMask g r.1 r.2.1 = 0 then b else maxBound b r.2.2) 0)
    else t) tags

/-- The largest bound tag over a range (R223). -/
def tagRead (tags : List (Nat × W32)) (o n : Nat) : W32 := (granules o n).foldl (fun b g => maxBound b (look 0 tags g)) 0

/-- Whether a frozen range (R202: start and length in 64-byte units) holds one of the bytes [o, o + n). -/
def frozenHit (r : W32) (o n : Nat) : Bool :=
  let st := bits r.toNat 15 0 * 64
  let ln := bits r.toNat 31 16 * 64
  decide (o < st + ln) && decide (st < o + n)

/-- A write of [o, o + n) of the W-buffer or the A-buffer ends the replayability of every open loop that froze one of its
bytes (R201). -/
def CoreSt.unfreeze (c : CoreSt) (w : Bool) (o n : Nat) : CoreSt :=
  if c.tiles.any (fun e => e.2.stat.getLsbD 2 && e.2.stat.getLsbD 7 && frozenHit (if w then e.2.frw else e.2.fra) o n) then
    { c with tiles := mapVals (fun _ (t : Tile) =>
        if t.stat.getLsbD 2 && frozenHit (if w then t.frw else t.fra) o n then { t with stat := t.stat &&& ~~~0x80#32 } else t) c.tiles }
  else c

/-- A core with bytes written to its A-buffer, tags as R134 says. -/
def CoreSt.aWrite (c : CoreSt) (o : Nat) (bs : List Byte) (beta : W32) : CoreSt :=
  { c with abuf := setBytes c.abuf o bs, atags := tagWrite c.atags o bs.length beta }.unfreeze false o bs.length

/-- The 64-byte units of the W-buffer a range touches, with the sums the loader keeps of each formed again from the bytes as
written, in the format of the word (R135). -/
def sumWrite (sums : List (Nat × WSum)) (w : List Host.Cell) (o n fmt : Nat) : List (Nat × WSum) :=
  if n = 0 then sums
  else (List.range' (o / 64) ((o + n - 1) / 64 + 1 - o / 64)).foldl
    (fun t u => setKey t u ⟨fmt, getBytes w (u * 64) 64⟩) sums

/-- A core with bytes written to its W-buffer in a format, tags as R134 and kept sums as R135 say. -/
def CoreSt.wWrite (c : CoreSt) (o : Nat) (bs : List Byte) (fmt : Nat) (beta : W32) : CoreSt :=
  let w := setBytes c.wbuf o bs
  { c with wbuf := w, wtags := tagWrite c.wtags o bs.length beta, wsums := sumWrite c.wsums w o bs.length fmt }.unfreeze true o bs.length

end Sys2Proof.Machine
end

