-- ==== Sys2Proof/Machine/Xlate.lean ====
section
/-! DEFINITION. Address checks in the order of R125, and translation (R123 to R126, R353 to R359, R429). -/

namespace Sys2Proof.Machine

/-- Why a word does not complete now: it waits, with no partial effect (R104), or it takes a cause, with the values of
TRAPW6 and TRAPW7 (R413), and for an L or S word the index of the element that meets it, TRAPW5 (R103). -/
inductive Stop where
  | wait
  | cause (code addr detail : Nat)
  | at (code addr detail elem : Nat)
  deriving DecidableEq, Repr

/-- The result of one part of a word. -/
abbrev Res (α : Type) := Except Stop α

/-- A cause with no address and no detail. -/
def stop {α : Type} (code : Nat) : Res α := .error (.cause code 0 0)

/-- Requires a condition, with the cause taken when it fails. -/
def need (b : Bool) (code : Nat) : Res Unit := if b then .ok () else stop code

/-- Requires a condition, with the cause and the address taken when it fails. -/
def needAt (b : Bool) (code addr : Nat) : Res Unit := if b then .ok () else .error (.cause code addr 0)

/-- A cause met inside elements of format bits `w` that start at pointer p with index i: the element of the address the cause names. -/
def atElem {α : Type} (i p w : Nat) (r : Res α) : Res α :=
  match r with
  | .error (.cause c a d) => .error (.at c a d (i + (a + 2 ^ 64 - p) % 2 ^ 64 * 8 / w))
  | r => r

/-- Waits until a condition holds. -/
def await (b : Bool) : Res Unit := if b then .ok () else .error .wait

/-! ### Page tables -/

/-- The levels of a tree (R354): number, index bits, and the size of a leaf page as a power of two (none at L0). -/
def levels : List (Nat × Nat × Nat × Option Nat) :=
  [(0, 55, 44, none), (1, 43, 31, some 31), (2, 30, 21, some 21), (3, 20, 16, some 16)]

/-- Whether a page of 2^k bytes at `pa` lies in the range of Table 15-1 that belongs to the window (R356). -/
def inRange (win pa k : Nat) : Bool :=
  if win = 5 then decide (2 ^ 41 ≤ pa) && decide (pa + 2 ^ k ≤ 2 ^ 42) else decide (pa + 2 ^ k ≤ 2 ^ 39)

/-- The cause of a valid entry that breaks R355 or R356; `leafBits` is the page size of the level, none where a leaf is
not allowed, and `last` that a table pointer is not. -/
def entryCause (win e : Nat) (leafBits : Option Nat) (last : Bool) : Option Nat :=
  let frame := bits e 51 16
  if bits e 63 52 ≠ 0 ∨ bits e 15 9 ≠ 0 then some 0x082
  else if bit e 5 then
    match leafBits with
    | none => some 0x082
    | some k =>
      if frame % 2 ^ (k - 16) ≠ 0 then some 0x082
      else if win = 5 ∧ (bit e 2 ∨ bit e 3 ∨ bits e 7 6 = 1) then some 0x082
      else if !inRange win (frame * 65536) k then some 0x083
      else none
  else if last then some 0x082
  else if bits e 8 1 ≠ 0 then some 0x082
  else if !decide (frame * 65536 < 2 ^ 39) then some 0x082
  else none

/-- A successful translation: the physical address, the leaf entry and the size of its page. -/
structure Xl where
  pa : Nat
  leaf : Nat
  size : Nat
  deriving DecidableEq, Repr

/-- What a leaf gives an access: W, poison, address (R357); the pages of a kernel image are read-only whatever W says (R100). -/
def leafAccess (s : State) (lv va k leaf : Nat) (wr : Bool) : Except (Nat × Nat) Xl :=
  let pa := bits leaf 51 16 * 65536 + va % 2 ^ k
  if wr && (!bit leaf 1 || s.imageAt pa) then .error (0x081, lv)
  else if bit leaf 8 || s.poisoned pa then .error (0x084, lv)
  else .ok ⟨pa, leaf, 2 ^ k⟩

/-- The walk of R357 from a table at `tb` through the levels that are left; the level number of a failure. A table homed on
a lost die gives 0x1A1, one whose frame is poisoned 0x084. -/
def walk (s : State) (win va : Nat) (wr : Bool) : Nat → List (Nat × Nat × Nat × Option Nat) → Except (Nat × Nat) Xl
  | _, [] => .error (0x082, 3)
  | tb, (lv, hi, lo, sz) :: r =>
    let ea := tb + bits va hi lo * 8
    if s.homeLost ea then .error (0x1A1, lv)
    else if s.poisoned ea then .error (0x084, lv)
    else
      let e := s.readN ea 8
      if !bit e 0 then .error (0x080, lv)
      else match entryCause win e sz (lv == 3) with
        | some c => .error (c, lv)
        | none =>
          if bit e 5 then leafAccess s lv va (sz.getD 16) e wr
          else walk s win va wr (bits e 51 16 * 65536) r

/-- The physical address that the tables give an address, whether its page is poisoned or not: `.error true` when a table itself lies in a
poisoned frame. -/
def walkPa (s : State) (win va : Nat) : Nat → List (Nat × Nat × Nat × Option Nat) → Except Bool Nat
  | _, [] => .error false
  | tb, (lv, hi, lo, sz) :: r =>
    let ea := tb + bits va hi lo * 8
    if s.homeLost ea then .error false
    else if s.poisoned ea then .error true
    else
      let e := s.readN ea 8
      if !bit e 0 || (entryCause win e sz (lv == 3)).isSome then .error false
      else if bit e 5 then .ok (bits e 51 16 * 65536 + va % 2 ^ sz.getD 16)
      else walkPa s win va (bits e 51 16 * 65536) r

/-- The table entry at an address, as it stands or as it stood when its die was lost. -/
def State.tableAt (s : State) (ea : Nat) : Nat := leNat (getBytes (if s.homeLost ea then s.lostMem else s.mem) ea 8)

/-- The physical address that the tables give, or gave, an address, whatever is poisoned or lost: where its bytes are, not whether an access may
reach them. -/
def rawPa (s : State) (win va : Nat) : Nat → List (Nat × Nat × Nat × Option Nat) → Option Nat
  | _, [] => none
  | tb, (lv, hi, lo, sz) :: r =>
    let e := s.tableAt (tb + bits va hi lo * 8)
    if !bit e 0 || (entryCause win e sz (lv == 3)).isSome then none
    else if bit e 5 then some (bits e 51 16 * 65536 + va % 2 ^ sz.getD 16)
    else rawPa s win va (bits e 51 16 * 65536) r

/-- The physical segments of a stretch of window 0x4, page by page, poisoned and lost pages too; a page that no leaf maps has none. `fuel`
bounds the pages (R15, R362). -/
def rawSegs (s : State) (x : Nat) : Nat → Nat → Nat → List Seg
  | 0, _, _ => []
  | fuel + 1, va, n =>
    if n = 0 then []
    else
      let k := min n (65536 - va % 65536)
      match rawPa s 4 va (bits ((s.ctxOf x).csr 0x3E8).toNat 51 16 * 65536) levels with
      | some pa => ⟨pa, k⟩ :: rawSegs s x fuel (va + k) (n - k)
      | none => rawSegs s x fuel (va + k) (n - k)

/-- Where n bytes at offset `va` of window 0x4 of a context lie. -/
def State.seatOf (s : State) (x va n : Nat) : List Seg := rawSegs s x (n / 65536 + 2) va n

/-- The leaf entries below a table, each with the physical page it maps (R354). An entry without V maps nothing, and one whose first byte memory does
not list reads as 0, so only entries whose first byte is listed are looked at. -/
def leafsUnder (s : State) (win : Nat) : Nat → List (Nat × Nat × Nat × Option Nat) → List (Seg × Nat)
  | _, [] => []
  | tb, (lv, hi, lo, sz) :: r =>
    s.mem.flatMap (fun c =>
      let e := s.readN c.1 8
      if c.1 < tb || tb + 2 ^ (hi - lo + 1) * 8 ≤ c.1 || c.1 % 8 != 0 || !bit e 0 || (entryCause win e sz (lv == 3)).isSome then []
      else if bit e 5 then [(⟨bits e 51 16 * 65536, 2 ^ sz.getD 16⟩, e)]
      else leafsUnder s win (bits e 51 16 * 65536) r)

/-- Whether a leaf entry of a context that is not FREE maps a page of a physical first-tier range without P: a range that holds such a page is
not PINNED (R361). -/
def State.unpinnedAt (s : State) (pa n : Nat) : Bool :=
  s.ctxs.any (fun x =>
    let root := bits (x.2.csr 0x3E8).toNat 51 16
    x.2.st != .free && root != 0 && (leafsUnder s 4 (root * 65536) levels).any (fun l => overlap [l.1] [⟨pa, n⟩] && !bit l.2 4))

/-- Whose translations an access may use: a core's micro-TLB and the last-level TLB of its die, or none, when Skatas itself reads the
tables (R361, R364). -/
inductive Via where
  | core (k : Nat)
  | tables
  deriving DecidableEq, Repr

/-- Whether a cached translation covers an address. -/
def TlbEnt.covers (t : TlbEnt) (x win va : Nat) : Bool :=
  t.ctx == x && t.win == win && decide (t.base ≤ va) && decide (va < t.base + t.size)

/-- The cached translation of an address: in the micro-TLB, else in the last-level TLB of the core's die (R364). -/
def State.cached (s : State) (v : Via) (x win va : Nat) : Option TlbEnt :=
  match v with
  | .tables => none
  | .core k =>
    match (s.coreOf k).utlb.find? (fun t => t.covers x win va) with
    | some t => some t
    | none => (s.dieOf (dieOfCore k)).tlb.find? (fun t => t.covers x win va)

/-- A TLB without the translations of a context that overlap a range (R365). -/
def tlbWithout (x : Nat) (r : Option (Nat × Nat × Nat)) (l : List TlbEnt) : List TlbEnt :=
  l.filter (fun e => !(e.ctx == x && (match r with
    | none => true
    | some (w, b, n) => e.win == w && decide (e.base < b + n) && decide (b < e.base + e.size))))

/-- Every micro-TLB and last-level TLB of the package without those translations. -/
def State.dropTlb (s : State) (x : Nat) (r : Option (Nat × Nat × Nat)) : State :=
  { s with cores := mapVals (fun _ (c : CoreSt) => { c with utlb := tlbWithout x r c.utlb }) s.cores,
           dies := mapVals (fun _ (d : Die) => { d with tlb := tlbWithout x r d.tlb }) s.dies }

/-- The walk of R357 from the root of a context's window. -/
def walkRoot (s : State) (x win va : Nat) (wr : Bool) : Except (Nat × Nat) Xl :=
  let root := bits ((s.ctxOf x).csr (if win = 4 then 0x3E8 else 0x3E9)).toNat 51 16
  if root = 0 then .error (0x080, 0) else walk s win va wr (root * 65536) levels

/-- The translation of one byte address of window 0x4, 0x5 or 0x7 of context x: a cached entry when there is one (R364,
R365), else a walk, else the sync map (R359), whose entry reads as a leaf with W in bit 1 and D in bit 2. -/
def translate (s : State) (v : Via) (x win va : Nat) (wr : Bool) : Except (Nat × Nat) Xl :=
  if win = 7 then
    match (s.ctxOf x).sync.find? (fun e => e.page == bits va 35 16) with
    | none => .error (0x080, 0)
    | some e =>
      if wr && !e.w then .error (0x081, 0)
      else .ok ⟨syncBase e.die e.frame + va % 65536, e.w.toNat * 2 + e.d.toNat * 4, 65536⟩
  else
    match s.cached v x win va with
    | some t =>
      let k := Nat.log2 t.size
      leafAccess s (if k = 31 then 1 else if k = 21 then 2 else 3) va k t.leaf wr
    | none => walkRoot s x win va wr

/-- The physical address of a byte of window 0x4 whose page may be poisoned, as a core finds it; none when the translation itself fails. -/
def State.pageOf (s : State) (core va : Nat) : Option Nat :=
  let x := s.ctxNoOf core
  match s.cached (.core core) x 4 va with
  | some t => some (bits t.leaf 51 16 * 65536 + va % t.size)
  | none => (walkPa s 4 va (bits ((s.ctxOf x).csr 0x3E8).toNat 51 16 * 65536) levels).toOption

/-- One translated stretch of an access: its segment and the leaf it was found in. -/
structure Chunk where
  seg : Seg
  leaf : Nat
  deriving DecidableEq, Repr

/-- The 64 KiB stretches of an access of `n` bytes at `va`, translated one by one (R357: the fault names the first byte of
the first page that fails). `fuel` bounds the stretches. -/
def stretches (s : State) (v : Via) (x win : Nat) (wr : Bool) (kind : Nat) : Nat → Nat → Nat → Res (List Chunk)
  | 0, _, _ => .ok []
  | fuel + 1, va, n =>
    if n = 0 then .ok []
    else
      let k := min n (65536 - va % 65536)
      match translate s v x win va wr with
      | .error (c, lv) => .error (.cause c (win * 2 ^ 60 + va) (if c = 0x1A1 then 0 else win * 4096 + lv * 256 + kind))
      | .ok t =>
        match stretches s v x win wr kind fuel (va + k) (n - k) with
        | .error e => .error e
        | .ok r => .ok (⟨⟨t.pa, k⟩, t.leaf⟩ :: r)

/-- An access of `n` bytes at offset `va` of window 0x4, 0x5 or 0x7 translated; one homed on a lost die takes 0x1A1 (R16). -/
def xlate (s : State) (v : Via) (x win va n : Nat) (wr : Bool) (kind : Nat) : Res (List Chunk) := do
  let l ← stretches s v x win wr kind (n / 65536 + 2) va n
  if l.any (fun c => s.homeLost c.seg.pa) then .error (.cause 0x1A1 (win * 2 ^ 60 + va) 0) else .ok l

/-- Whether bytes at an offset of a window, or the tables that lead to them, are homed on a lost die (R16). -/
def State.lostAt (s : State) (x win va n : Nat) : Bool :=
  match xlate s .tables x win va n false 0 with
  | .error (.cause c _ _) => c == 0x1A1
  | _ => false

/-! ### The checks of R125 -/

/-- What a word asks of one access: the windows it may use, the cause of a window outside them when the word names one of
its own, its size and alignment, whether it writes, its KIND of Table 15-8. -/
structure Acc where
  wins : List Nat
  other : Option Nat
  size : Nat
  align : Nat
  wr : Bool
  kind : Nat
  deriving DecidableEq, Repr

/-- A checked access: where it goes, and the leaves of its pages. -/
structure Tgt where
  ptr : Nat
  place : Place
  leafs : List Nat
  deriving DecidableEq, Repr

/-- Whether an access touches a page with D set. -/
def Tgt.dpage (t : Tgt) : Bool := t.leafs.any (fun e => bit e 2)

/-- Whether an access touches a tile-pool page. -/
def Tgt.tpage (t : Tgt) : Bool := bits t.ptr 63 60 != 7 && t.leafs.any (fun e => bit e 3)

/-- The group of a core's task, when it runs as one (R345). -/
def State.groupOf (s : State) (core : Nat) : Option Group :=
  match (s.coreOf core).task with
  | none => none
  | some t => ((find? s.tasks t).bind (fun k => k.group)).bind
      (fun g => if g.st = .resident ∨ g.st = .running then some g else none)

/-- The members of the current core's group; empty when it has none, so that its size is 0 (R344). -/
def State.peers (s : State) (core : Nat) : List Nat :=
  match s.groupOf core with
  | some g => g.members
  | none => []

/-- The member index of a core in its group; 0 outside one. -/
def State.memberNo (s : State) (core : Nat) : Nat := ((s.peers core).findIdx? (fun m => m == core)).getD 0

/-- The offset bits of a pointer within its window. -/
def winOff (w p : Nat) : Nat := if w ≤ 3 then bits p 20 0 else if w = 6 then bits p 39 0 else if w = 7 then bits p 35 0 else bits p 55 0

/-- The bits Table 5-1 requires to be zero, and the extent of the offset. -/
def inExtent (w p : Nat) : Bool :=
  match w with
  | 1 => bits p 59 21 == 0 && decide (bits p 20 0 < 0x180000)
  | 2 => bits p 59 21 == 0
  | 3 => bits p 55 21 == 0
  | 4 => bits p 59 56 == 0
  | 5 => bits p 59 56 == 0
  | 6 => true
  | 7 => bits p 59 36 == 0
  | _ => false

/-- Steps 1 to 5 of R125 for an access at pointer p by a word of core `core`. -/
def checkPtr (s : State) (core : Nat) (a : Acc) (p : Nat) : Res Unit := do
  let w := bits p 63 60
  let q := (p + (a.size - 1)) % 2 ^ 64
  if w = 0 ∨ 8 ≤ w then .error (.cause 0x060 p 0)
  else if !a.wins.contains w then .error (.cause (a.other.getD (if w ≤ 3 then 0x041 else 0x064)) p 0)
  else if w = 3 ∧ (s.peers core).length ≤ bits p 59 56 then .error (.cause 0x045 p 0)
  else if bits q 63 60 ≠ w ∨ !inExtent w p ∨ !inExtent w q ∨ ((w = 3 ∨ w = 6) ∧ winOff w q < winOff w p) ∨ (w = 6 ∧ bits p 59 40 ≠ bits q 59 40)
  then .error (.cause 0x061 p 0)
  else if p % a.align ≠ 0 then .error (.cause 0x062 p 0)
  else .ok ()

/-- The reach checks of R429 for a window 0x6 access. -/
def checkReach (s : State) (p n : Nat) : Res Unit :=
  match s.fabric.reach.find? (fun e => e.1 == bits p 59 40) with
  | none => .error (.cause 0x183 p 0)
  | some (_, len, _) => if bits p 39 0 + n ≤ len then .ok () else .error (.cause 0x185 p 0)

/-- The limit check of R126: every byte of [p, p + n) lies in [base, base + limit), read as a signed distance; limit 0 checks
nothing. -/
def checkLimit (r : AReg) (p n : Nat) : Res Unit :=
  let d := sextN ((p + 2 ^ 64 - r.base.toNat) % 2 ^ 64) 64
  if r.limit = 0 ∨ (0 ≤ d ∧ d + n ≤ r.limit.toNat) then .ok () else .error (.cause 0x063 p 0)

/-- Step 7 of R125, and where the access goes. -/
def place (s : State) (core : Nat) (a : Acc) (p : Nat) : Res Tgt :=
  let w := bits p 63 60
  match w with
  | 1 => .ok ⟨p, .wbuf (winOff 1 p), []⟩
  | 2 => .ok ⟨p, .abuf (winOff 2 p), []⟩
  | 3 =>
    let m := (s.peers core).getD (bits p 59 56) 0
    if (s.dieOf (dieOfCore m)).lost then .error (.cause 0x1A1 p 0) else .ok ⟨p, .peer m (winOff 3 p), []⟩
  | 6 => .ok ⟨p, .remote (bits p 59 40) (bits p 39 0), []⟩
  | _ =>
    match xlate s (.core core) (s.ctxNoOf core) w (winOff w p) a.size a.wr a.kind with
    | .error e => .error e
    | .ok l => .ok ⟨p, .phys p (l.map (fun c => c.seg)), l.map (fun c => c.leaf)⟩

/-- A whole check of one access (R125); `lim` is the address register of a kind 1 operand. -/
def access (s : State) (core : Nat) (a : Acc) (lim : Option AReg) (p : Nat) : Res Tgt := do
  checkPtr s core a p
  if bits p 63 60 = 6 then checkReach s p a.size
  match lim with
  | some r => checkLimit r p a.size
  | none => .ok ()
  place s core a p

/-- The dies an access is sent towards (R13): homes of memory and sync storage, and the die of a peer. -/
def Place.dies : Place → List Nat
  | .phys _ g => g.filterMap (fun x => homeDie x.pa)
  | .peer m _ => [dieOfCore m]
  | _ => []

/-- A context's touched-dies mask with the bits of some dies set (R13). -/
def State.touch (s : State) (x : Nat) (ds : List Nat) : State :=
  if ds.all (fun d => (s.ctxOf x).touched.getLsbD d) then s
  else s.setCtxOf x { s.ctxOf x with touched := ds.foldl (fun m d => m ||| (BitVec.ofNat 4 (2 ^ d))) (s.ctxOf x).touched }

/-- The bytes at a place of the package; bytes of another device are not here. -/
def State.readPlace (s : State) (core n : Nat) : Place → List Byte
  | .wbuf o => (s.coreOf core).wRead o n
  | .abuf o => (s.coreOf core).aRead o n
  | .peer m o => (s.coreOf m).aRead o n
  | .phys _ g => s.readSegs g
  | .remote _ _ => List.replicate n 0

/-- A read of a record, list or table through a context's translation (R468): its window 0x4 pointer already checked. -/
def readVirt (s : State) (x p n : Nat) : Res (List Byte) := do
  if bits p 59 56 ≠ 0 ∨ bits p 55 0 + n > 2 ^ 56 then .error (.cause 0x061 p 0)
  else
    let l ← xlate s .tables x (bits p 63 60) (bits p 55 0) n false 0
    .ok (s.readSegs (l.map (fun c => c.seg)))

/-- The pointer check of R468: window 0x0 or a reserved one takes 0x060, another window than the table gives or a wrong
alignment the word's own cause. -/
def checkDesc (p align code : Nat) : Res Unit :=
  let w := bits p 63 60
  if w = 0 ∨ 8 ≤ w then .error (.cause 0x060 p 0)
  else if w ≠ 4 ∨ p % align ≠ 0 then .error (.cause code p 0)
  else .ok ()

/-- Whether some byte of a physical range lies in a page of a kernel image. -/
def State.meetsImage (s : State) (pa n : Nat) : Bool :=
  n != 0 && (List.range' (pa / 65536) ((pa + n - 1) / 65536 + 1 - pa / 65536)).any (fun f => s.imageAt (f * 65536))

/-- Whether every page of a range of window 0x4 or 0x5 satisfies a test of its leaf entry as it stands in the tables (R361 and the checks
that use it). -/
def allPages (s : State) (x p n : Nat) (f : Nat → Bool) : Bool :=
  decide (bits p 59 56 = 0) && decide (bits p 55 0 + n ≤ 2 ^ 56) &&
    (match xlate s .tables x (bits p 63 60) (bits p 55 0) n false 0 with
     | .ok l => l.all (fun c => f c.leaf)
     | .error _ => false)

/-- Whether a range of window 0x4 or 0x5 of a context is PINNED (R361). -/
def pinned (s : State) (x p n : Nat) : Bool := allPages s x p n (fun e => bit e 4)

end Sys2Proof.Machine
end

