-- ==== Sys2Proof/Machine/Order.lean ====
section
/-! DEFINITION. The load and store queues of a stream, MARK and fences, timeline counters, events and POST (R114, R127,
R137, R258 to R267). -/

namespace Sys2Proof.Machine

/-! ### Timeline counters -/

/-- The completed value of a stream's counter: the largest n with every command 1 to n complete (R267). -/
def StreamSt.completed (m : StreamSt) : Nat := m.out.foldl (fun a n => min a (n - 1)) m.issued

/-- The next number of a stream's counter is taken; it stays outstanding until `finishNum` completes it. -/
def StreamSt.takeNum (m : StreamSt) : StreamSt := { m with issued := m.issued + 1, out := m.out ++ [m.issued + 1] }

/-- Number n of a stream reaches its completion point. -/
def StreamSt.finishNum (m : StreamSt) (n : Nat) : StreamSt := { m with out := m.out.filter (fun k => k != n) }

/-- A number taken and completed at issue. -/
def StreamSt.countNum (m : StreamSt) : StreamSt := { m with issued := m.issued + 1 }

/-! ### Queues -/

/-- Number n completes, unless an entry of its word is still in the store queue. -/
def StreamSt.closeNum (m : StreamSt) (n : Nat) : StreamSt := if m.stores.any (fun e => e.tl == n) then m else m.finishNum n

/-- Whether every element of a store-queue entry stores plain bytes. -/
def StoreEnt.plain (e : StoreEnt) : Bool :=
  e.elems.all (fun x => match x.op with
    | .write _ => true
    | .dwrite _ _ _ _ => true
    | .optw _ _ _ => true
    | _ => false)

/-- Whether an entry of the store queue owes its stream a value. -/
def StoreEnt.returns (e : StoreEnt) : Bool :=
  e.sent.any (fun x => x.2.isSome) || e.elems.any (fun x => match x.op with
    | .atom _ _ _ _ (some _) => true
    | .wake _ => true
    | .arrive _ _ => true
    | .qclaim _ _ _ _ => true
    | _ => false)

/-- Whether every load, and every returning atomic, below sequence number n has returned its value. -/
def StreamSt.loadsDone (m : StreamSt) (n : Nat) : Bool :=
  m.loads.all (fun e => decide (n ≤ e.seq)) && m.stores.all (fun e => decide (n ≤ e.seq) || !e.returns)

/-- Whether every store below sequence number n has performed. -/
def StreamSt.storesDone (m : StreamSt) (n : Nat) : Bool := m.stores.all (fun e => decide (n ≤ e.seq))

/-- Whether a later load of the stream may issue (R263, R264). -/
def StreamSt.ldReady (m : StreamSt) : Bool := m.loadsDone m.ldNeedsLd && m.storesDone m.ldNeedsSt

/-- Whether a later store, atomic, POST, PHMARK or ring publication of the stream may issue (R263, R264). -/
def StreamSt.stReady (m : StreamSt) : Bool :=
  m.loadsDone m.stNeedsLd && m.storesDone m.stNeedsSt && m.posts.all (fun p => p.n != 0)

/-- A load enters the stream's load queue (R127). -/
def StreamSt.pushLoad (m : StreamSt) (tl pc : Nat) (f : LoadFin) : StreamSt :=
  { m with seq := m.seq + 1, loads := m.loads ++ [⟨m.seq, tl, pc, f, []⟩] }

/-- A store enters the stream's store queue (R127). -/
def StreamSt.pushStore (m : StreamSt) (tl win esz : Nat) (es : List StoreElem) : StreamSt :=
  { m with seq := m.seq + 1, stores := m.stores ++ [⟨m.seq, tl, m.pc, win, esz, .elems, es, 0, [], []⟩] }

/-- The window of a place. -/
def Place.win : Place → Nat
  | .wbuf _ => 1
  | .abuf _ => 2
  | .peer _ _ => 3
  | .phys p _ => bits p 63 60
  | .remote _ _ => 6

/-- The windows some elements go to. -/
def winsOf (es : List StoreElem) : List Nat := (es.map (fun e => e.place.win)).eraseDups

/-- The entries of one word enter the store queue, one for each window it stores to. -/
def StreamSt.pushWord (m : StreamSt) (tl esz : Nat) (k : StoreKind) (es : List StoreElem) : StreamSt :=
  let part (w : Nat) : StoreEnt := ⟨m.seq, tl, m.pc, w, esz, k, es.filter (fun e => e.place.win == w), 0, [], []⟩
  { m with seq := m.seq + 1, stores := m.stores ++ (winsOf es).map part }

/-- Plain stores below n are marked as performed at stream scope: from then on no later load of the stream that overlaps them is bound
before they perform at their home (R263). -/
def StreamSt.mark (m : StreamSt) (n : Nat) : StreamSt :=
  { m with stores := m.stores.map (fun e => if e.seq < n && e.plain then { e with level := max e.level 1 } else e) }

/-- The sequence number each stream of a core stands at, in the order of the streams' numbers. -/
def CoreSt.seqs (c : CoreSt) : List Nat := [c.cS.seq, c.lS.seq, c.vS.seq, c.mS.seq, c.sS.seq]

/-- Plain stores of a stream below n perform at core scope now (R258, R137): from then on no agent of the core reads older bytes, and no
store that the core issues later over the same bytes performs before them. -/
def CoreSt.markCore (c : CoreSt) (t : Strm) (n : Nat) : CoreSt :=
  c.setStrm t { c.strm t with stores := (c.strm t).stores.map (fun e =>
    if e.seq < n && e.plain && decide (e.level < 2) then { e with level := 2, since := c.seqs } else e) }

/-- Whether a load of stream `t` that has sequence number n must still wait, from a place, for a store that has performed inside the core
only: one of another stream that has performed at core scope, or an earlier one of its own stream (R258, R263). -/
def CoreSt.blocked (c : CoreSt) (t : Strm) (n : Nat) (p : Place) : Bool :=
  c.covered t p || (c.strm t).stores.any (fun e => decide (1 ≤ e.level) && decide (e.seq < n) && e.elems.any (fun x => placesMeet x.place p))

/-- Whether a load issued now must wait so. -/
def CoreSt.blockedNow (c : CoreSt) (t : Strm) (p : Place) : Bool := c.blocked t (c.strm t).seq p

/-- Whether an entry of a store queue had performed at core scope when stream t issued its access n: t has acquired it (R265). -/
def StoreEnt.acquired (e : StoreEnt) (t : Strm) (n : Nat) : Bool := decide (2 ≤ e.level) && decide (e.since.getD (strmNo t) 0 ≤ n)

/-- The stores of other streams that stream t had acquired when it issued its access n. -/
def CoreSt.acquired (c : CoreSt) (t : Strm) (n : Nat) : List StoreEnt :=
  allStrms.flatMap (fun u => if u = t then [] else (c.strm u).stores.filter (fun e => e.acquired t n))

/-- Whether an entry of a stream's store queue must wait for stores of other streams over its bytes: for those acquired before it, and,
when it reads what it updates, for all that have performed at core scope (R258, R265, R338). -/
def CoreSt.overtakes (c : CoreSt) (t : Strm) (e : StoreEnt) : Bool :=
  e.elems.any (fun x => (!e.plain && c.covered t x.place) || (c.acquired t e.seq).any (fun a => a.elems.any (fun y => placesMeet y.place x.place)))

/-- Whether everything ahead of an entry of a stream's store queue is done: its stream's earlier accesses, and what it had acquired. A
write that ends a WAITA, and a WAKE, are releases of it (R266, R305). -/
def CoreSt.cleared (c : CoreSt) (t : Strm) (e : StoreEnt) : Bool :=
  (c.strm t).loadsDone e.seq && (c.strm t).storesDone e.seq && (c.acquired t e.seq).isEmpty

/-- Whether a store of the core has performed at core scope and not yet at its home. -/
def CoreSt.carried (c : CoreSt) (t : Strm) : Bool :=
  allStrms.any (fun u => u != t && (c.strm u).stores.any (fun e => decide (2 ≤ e.level)))

/-! ### Loads -/

/-- The sources of a load entry with their lengths. -/
def LoadEnt.sources (e : LoadEnt) : List (Place × Nat) :=
  match e.fin with
  | .creg _ n p => [(p, n)]
  | .rows f v _ rs =>
    let n := fmtBytes (match v with
      | .copy => f
      | .conv src _ _ _ => src) 128
    rs.filterMap (fun r => r.src.map (fun p => (p, n)))
  | .gather f _ _ _ src => src.map (fun e => (e.2, max 1 (fmtBytes f 1)))
  | .fill _ _ _ => []
  | .tile f p _ _ _ _ => [(p, fmtBytes f 16384)]
  | .shape _ p tab => (p, 256) :: tab.toList
  | .opt _ _ _ rows _ _ => rows.map (fun p => (p, 512))

/-- Bytes of one element of a load's sources: what it binds at once (R259). -/
def LoadEnt.unit (e : LoadEnt) : Nat :=
  match e.fin with
  | .creg _ n _ => n
  | .rows f v _ _ => max 1 (fmtBytes (match v with
      | .copy => f
      | .conv src _ _ _ => src) 1)
  | .gather f _ _ _ _ => max 1 (fmtBytes f 1)
  | .tile f _ _ _ _ _ => max 1 (fmtBytes f 1)
  | .shape _ _ _ => 4
  | .opt _ _ _ _ _ _ => 4
  | .fill _ _ _ => 1

/-- The versions, as (handle, version), that words of a core wait for: those noted for the waiting words of its streams, and that of an LDT at the head
of the load queue (R336, R399); each may since have come back. -/
def CoreSt.needs (c : CoreSt) : List (Nat × Nat) :=
  (c.wver.filter (fun w => (c.strm w.1).waiting)).map (fun w => w.2) ++
    (match c.lS.loads.head?.map (fun e => e.fin) with
     | some (.tile _ _ h v _ _) => [(h, v)]
     | _ => [])

/-- The element of a load's word that byte o of its sources belongs to (R103); padding rows and false lanes are counted. -/
def LoadEnt.elemAt (e : LoadEnt) (o : Nat) : Nat :=
  match e.fin with
  | .rows f v _ rs =>
    let b := fmtBits (match v with
      | .copy => f
      | .conv src _ _ _ => src)
    let js := ((List.range rs.length).zip rs).filterMap (fun r => r.2.src.map (fun _ => r.1))
    128 * js.getD (o / (16 * b)) 0 + o % (16 * b) * 8 / b
  | .gather f _ _ _ src => (src.map (fun x => x.1)).getD (o / max 1 (fmtBytes f 1)) 0
  | .tile f _ _ _ _ _ => o * 8 / fmtBits f
  | .opt adam _ _ _ _ _ => 128 * (o / 512 / (if adam then 3 else 2)) + o % 512 / 4
  | _ => 0

/-! ### Work set aside (R131, R366, R415) -/

/-- The window 0x6 elements of some entries that have not been sent: each is counted by the write-acknowledge count (R430). -/
def unsent (l : List StoreEnt) : Nat := ((l.filter (fun e => e.win == 6)).map (fun e => e.elems.length)).sum

/-- Everything in a stream's queues from sequence number n on set aside. What a load had bound is read again; accesses of window 0x6 that have been
sent stay until they are acknowledged. -/
def CoreSt.freeze (c : CoreSt) (t : Strm) (n : Nat) : CoreSt :=
  let m := c.strm t
  let out := m.stores.filter (fun e => decide (n ≤ e.seq) && !e.elems.isEmpty)
  let f : Frozen := ⟨t, n, c.hand.isSome, (m.loads.filter (fun e => decide (n ≤ e.seq))).map (fun e => { e with got := [] }),
    out.map (fun e => { e with sent := [] }), m.posts.filter (fun e => decide (n ≤ e.seq))⟩
  let stay (e : StoreEnt) : List StoreEnt := if e.seq < n then [e] else if e.sent.isEmpty then [] else [{ e with elems := [] }]
  let m := { m with loads := m.loads.filter (fun e => decide (e.seq < n)), stores := m.stores.flatMap stay,
                    posts := m.posts.filter (fun e => decide (e.seq < n)) }
  { c.setStrm t m with frozen := c.frozen ++ [f], wacks := c.wacks - unsent out }

/-- A stream with what was set aside from it in its place again. -/
def StreamSt.putBack (m : StreamSt) (f : Frozen) : StreamSt :=
  let back {α : Type} (k : α → Nat) (l r : List α) : List α := l.filter (fun e => decide (k e < f.seq)) ++ r ++ l.filter (fun e => decide (f.seq ≤ k e))
  { m with loads := back (fun e => e.seq) m.loads f.loads, stores := back (fun e => e.seq) m.stores f.stores, posts := back (fun e => e.seq) m.posts f.posts }

/-- The window 0x6 words of a stream that are wholly acknowledged are complete. -/
def StreamSt.finishSent (m : StreamSt) : StreamSt :=
  let acked (e : StoreEnt) : Bool := e.win == 6 && e.elems.isEmpty && e.sent.isEmpty
  (m.stores.filter acked).foldl (fun m e => m.closeNum e.tl) { m with stores := m.stores.filter (fun e => !acked e) }

/-- What was set aside of some kind is put back. -/
def CoreSt.thaw (c : CoreSt) (f : Frozen → Bool) : CoreSt :=
  (c.frozen.filter f).foldl (fun c e => { c.setStrm e.strm ((c.strm e.strm).putBack e).finishSent with wacks := c.wacks + unsent e.stores })
    { c with frozen := c.frozen.filter (fun e => !f e) }

/-- What was set aside of a stream is given up, and its numbers complete: the stream goes on elsewhere. -/
def CoreSt.forget (c : CoreSt) (t : Strm) : CoreSt :=
  let gone := c.frozen.filter (fun e => e.strm == t)
  let ns := gone.flatMap (fun e => e.loads.map (fun l => l.tl) ++ e.stores.map (fun l => l.tl))
  { c.setStrm t (ns.foldl (fun m n => m.closeNum n) (c.strm t)) with frozen := c.frozen.filter (fun e => e.strm != t) }

/-- A core that goes on in the mode it stopped in: what was set aside in that mode is put back. -/
def CoreSt.thawMode (c : CoreSt) : CoreSt := c.thaw (fun e => e.hnd == c.hand.isSome)

/-! ### MARK and FENCE -/

/-- MARK (R263): later accesses issue after earlier loads have returned and earlier stores performed at stream scope. -/
def StreamSt.doMark (m : StreamSt) : StreamSt :=
  let m' := m.mark m.seq
  let k := if m.stores.all (fun e => e.plain) then m.ldNeedsSt else m.seq
  { m' with ldNeedsLd := m.seq, stNeedsLd := m.seq, ldNeedsSt := k, stNeedsSt := max m.stNeedsSt k }

/-- The release part of a fence (R264). At stream and at core scope plain stores need not perform at their home: at core scope a release
takes its place among the stream's POSTs, as one that adds nothing. -/
def StreamSt.release (m : StreamSt) (scope : Nat) : StreamSt :=
  if 2 ≤ scope ∨ m.stores.any (fun e => !e.plain) then { m with stNeedsLd := m.seq, stNeedsSt := m.seq }
  else if scope = 1 then { m with seq := m.seq + 1, stNeedsLd := m.seq, posts := m.posts ++ [⟨0, 0, m.seq, m.pc, 0⟩] }
  else { m.mark m.seq with stNeedsLd := m.seq }

/-- The acquire part of a fence (R264). -/
def StreamSt.acquire (m : StreamSt) : StreamSt := { m with ldNeedsLd := m.seq, stNeedsLd := m.seq }

/-- A fence (R264): flavour 1 acquire, 2 release, 3 full. A full fence also holds back later loads until the stores have performed at its scope: at core
scope inside the core, unless an earlier release of a wider scope holds that up. -/
def StreamSt.fence (m : StreamSt) (scope flavour : Nat) : StreamSt :=
  match flavour with
  | 1 => m.acquire
  | 2 => m.release scope
  | _ =>
    let m' := (m.release scope).acquire
    if 2 ≤ scope ∨ m.stores.any (fun e => !e.plain) ∨ !m.storesDone m.stNeedsSt then { m' with ldNeedsSt := m.seq } else m'

/-- What a release of group scope or wider waits for before it can act: stores of the core's other streams that it has
acquired (R264, cumulativity), and for system scope the acknowledgements of window 0x6. -/
def CoreSt.releaseReady (c : CoreSt) (t : Strm) (scope : Nat) : Bool :=
  !(decide (2 ≤ scope) && c.carried t) && !(decide (4 ≤ scope) && c.wacks != 0)

/-! ### Events -/

/-- The count of event e. -/
def CoreSt.event (c : CoreSt) (e : Nat) : Nat := look 0 c.events e

/-- A core with the count of event e set. -/
def CoreSt.setEvent (c : CoreSt) (e n : Nat) : CoreSt := { c with events := put 0 c.events e n }

/-- AWAIT (R114): served in order of arrival; waits until the count is at least n, then subtracts n. -/
def CoreSt.doAwait (c : CoreSt) (t : Strm) (e n : Nat) : Option CoreSt :=
  let ahead := (c.evWait.filter (fun w => w.1 == e)).head?
  if n ≤ c.event e && (ahead == none || ahead == some (e, t)) then
    some { c.setEvent e (c.event e - n) with evWait := c.evWait.filter (fun w => w != (e, t)) }
  else none

/-- A waiter takes its place at an event. -/
def CoreSt.queueAwait (c : CoreSt) (t : Strm) (e : Nat) : CoreSt :=
  if c.evWait.contains (e, t) then c else { c with evWait := c.evWait ++ [(e, t)] }

/-- Whether a POST issued with sequence number n may raise its count (R137): loads returned, stores performed at core
scope, an earlier release satisfied. -/
def StreamSt.postReady (m : StreamSt) (n : Nat) : Bool :=
  m.loadsDone n && m.stores.all (fun e => decide (n ≤ e.seq) || e.plain) && m.loadsDone m.stNeedsLd && m.storesDone m.stNeedsSt

end Sys2Proof.Machine
end

