-- ==== Sys2Proof/Machine/Vers.lean ====
section
/-! DEFINITION. Tile pools: which bytes belong to which version, version states, and the check of every write to a
tile-pool page (R363, R378, R381, R383, Tables 5-10 and 17-3). -/

namespace Sys2Proof.Machine

/-- A pool of a context. -/
def State.poolOf (s : State) (x p : Nat) : Option TPool := find? (s.ctxOf x).pools p

/-- The state with a pool of a context replaced. -/
def State.setPool (s : State) (x p : Nat) (t : TPool) : State :=
  s.setCtxOf x { s.ctxOf x with pools := setKey (s.ctxOf x).pools p t }

/-- Bytes of one version's data: 16,384 elements of the pool's format. -/
def TPool.dataLen (t : TPool) : Nat := fmtBytes t.fmt 16384

/-- A slot of a pool; NEXT is 1 when the pool is defined (R381). -/
def TPool.slot (t : TPool) (n : Nat) : PSlot := (find? t.slots n).getD ⟨1, []⟩

/-- A pool with a slot replaced. -/
def TPool.setSlot (t : TPool) (n : Nat) (q : PSlot) : TPool := { t with slots := setKey t.slots n q }

/-- Whether version v of a slot is FREE by its number (R381): 0, or not yet allocated. -/
def PSlot.isFree (q : PSlot) (v : Nat) : Bool := v == 0 || (q.next != 0 && decide (q.next ≤ v))

/-- The state of version v of a slot; none is FREE, and an allocated version the slot no longer lists is RETIRED. -/
def PSlot.state (q : PSlot) (v : Nat) : Option VState :=
  if q.isFree v then none else some (((find? q.vers v).map (fun e => e.st)).getD .retired)

/-- The pool and slot a handle names in a context, when it names one (R378). -/
def State.handleSlot (s : State) (x h : Nat) : Option (Nat × Nat × TPool) :=
  let p := bits h 63 48
  let n := bits h 47 0
  match s.poolOf x p with
  | some t => if n < t.nslot then some (p, n, t) else none
  | none => none

/-- The handle of a slot of a pool (R378). -/
def handleFor (p n : Nat) : Nat := p * 2 ^ 48 + n

/-- The version record, when the slot lists one. -/
def TPool.ver (t : TPool) (n v : Nat) : Option Ver := find? (t.slot n).vers v

/-- The state with a version record replaced. -/
def State.setVer (s : State) (x p n v : Nat) (e : Ver) : State :=
  match s.poolOf x p with
  | some t => s.setPool x p (t.setSlot n { t.slot n with vers := setKey (t.slot n).vers v e })
  | none => s

/-- Virtual offsets of the data and header unit of a frame (R378). -/
def TPool.frameAddr (t : TPool) (n v : Nat) : Frame → Nat × Nat
  | .home => (t.dbase % 2 ^ 56 + (n * t.vdep + v % t.vdep) * t.dataLen, t.hbase % 2 ^ 56 + (n * t.vdep + v % t.vdep) * 256)
  | .shadow k => (t.sdbase % 2 ^ 56 + k * t.dataLen, t.shbase % 2 ^ 56 + k * 256)

/-- The physical segments of a stretch of window 0x4 whose pages are known to translate. -/
def State.segsAt (s : State) (x va n : Nat) : List Seg :=
  match xlate s .tables x 4 va n false 0 with
  | .ok l => l.map (fun c => c.seg)
  | .error _ => []

/-- The segments of the data and of the header unit of a version, in the frame it lives in. -/
def State.verSegs (s : State) (x : Nat) (t : TPool) (n v : Nat) (f : Frame) : List Seg × List Seg :=
  let a := t.frameAddr n v f
  (s.segsAt x a.1 t.dataLen, s.segsAt x a.2 256)

/-- Where the bytes of a version lie, reachable or not. -/
def State.verSeat (s : State) (x : Nat) (t : TPool) (n v : Nat) (f : Frame) : List Seg :=
  let a := t.frameAddr n v f
  s.seatOf x a.1 t.dataLen ++ s.seatOf x a.2 256

/-- The header unit of a version as bytes. -/
def State.verHeader (s : State) (x : Nat) (t : TPool) (n v : Nat) (f : Frame) : List Byte :=
  s.readSegs (s.verSegs x t n v f).2

/-- The version a home frame holds: the highest allocated version with that frame number (R383). -/
def PSlot.holds (q : PSlot) (vdep f : Nat) : Option Nat :=
  (q.vers.filter (fun e => e.1 % vdep == f)).foldl (fun m e => match m with
    | some v => if v < e.1 then some e.1 else m
    | none => some e.1) none

/-- The byte of a pool that a virtual offset is: slot and frame number of a home frame, or a shadow frame. -/
inductive PByte where
  | home (slot f : Nat)
  | shadow (k : Nat)
  deriving DecidableEq, Repr

/-- Which byte of a pool's regions a virtual offset of window 0x4 is. -/
def TPool.byteAt (t : TPool) (va : Nat) : Option PByte :=
  let d := t.dbase % 2 ^ 56
  let h := t.hbase % 2 ^ 56
  let sd := t.sdbase % 2 ^ 56
  let sh := t.shbase % 2 ^ 56
  let dl := t.dataLen
  if d ≤ va ∧ va < d + t.nslot * t.vdep * dl then some (.home ((va - d) / dl / t.vdep) ((va - d) / dl % t.vdep))
  else if h ≤ va ∧ va < h + t.nslot * t.vdep * 256 then
    some (.home ((va - h) / 256 / t.vdep) ((va - h) / 256 % t.vdep))
  else if sd ≤ va ∧ va < sd + t.nshadow * dl then some (.shadow ((va - sd) / dl))
  else if sh ≤ va ∧ va < sh + t.nshadow * 256 then some (.shadow ((va - sh) / 256))
  else none

/-- The version that lives in shadow frame k of a pool, or the private copy a rebuild run keeps there: slot, version, and the
run's logical id for a private copy. -/
def TPool.shadowOf (t : TPool) (k : Nat) : Option (Nat × Nat × Option Nat) :=
  t.slots.findSome? (fun q => q.2.vers.findSome? (fun e =>
    if e.2.frame == .shadow k then some (q.1, e.1, none)
    else (e.2.priv.find? (fun r => r.2 == k)).map (fun r => (q.1, e.1, some r.1))))

/-- What Table 5-10 decides for a write. -/
inductive Admit where
  | ok (tag : Option VerTag)
  | drop
  | refuse
  deriving DecidableEq, Repr

/-- The logical id of the task of a core when it is a rebuild run (R398). -/
def State.runOf (s : State) (core : Nat) : Option Nat :=
  match (s.coreOf core).task.bind (fun i => find? s.tasks i) with
  | some t => if t.origin = .rebuild then some t.lid else none
  | none => none

/-- The logical id of the current core's task when it is a rebuild run. -/
def State.runLid (s : State) : Option Nat := s.runOf s.cur

/-- The shadow frame a version lives in. -/
def Frame.shadowNo : Frame → Option Nat
  | .home => none
  | .shadow k => some k

/-- Table 5-10 for version v of a slot and a write of the rebuild run `run` (none for any other writer); `tag` names the version and its
frame. -/
def admitVer (q : PSlot) (x p n v : Nat) (run : Option Nat) : Admit :=
  match q.state v with
  | some .filling => .ok (some ⟨x, p, n, v, false, none⟩)
  | some .retired => .drop
  | some .rebuilding =>
    (match find? q.vers v with
     | some e => if run.isSome ∧ e.run = run then .ok (some ⟨x, p, n, v, true, e.frame.shadowNo⟩) else .refuse
     | none => .refuse)
  | _ => .refuse

/-- The check at issue of one byte of a tile-pool page (R363): the version its frame holds decides, and a byte of no pool is
a byte of a FREE version. A private copy of a rebuild run is writable for the run alone (R398). -/
def State.lineAdmit (s : State) (x va : Nat) (run : Option Nat) : Admit :=
  match (s.ctxOf x).pools.findSome? (fun e => (e.2.byteAt va).map (fun b => (e.1, e.2, b))) with
  | none => .refuse
  | some (p, t, PByte.home n f) =>
    match (t.slot n).holds t.vdep f with
    | none => .refuse
    | some v =>
      if ((t.ver n v).map (fun e => e.frame)) = some .home then admitVer (t.slot n) x p n v run
      else if (t.slot n).state v = some .retired then .drop else .refuse
  | some (p, t, PByte.shadow k) =>
    match t.shadowOf k with
    | none => .refuse
    | some (n, v, none) => admitVer (t.slot n) x p n v run
    | some (n, v, some r) => if run = some r then .ok (some ⟨x, p, n, v, true, some k⟩) else .refuse

/-- Whether the version a write was admitted to still is in the state that admitted it, and in the frame it was admitted in, when the
write performs (R383). -/
def State.tagHolds (s : State) (g : VerTag) : Bool :=
  match s.poolOf g.ctx g.pool with
  | none => false
  | some t =>
    let q := t.slot g.slot
    match find? q.vers g.ver with
    | none => false
    | some e =>
      if g.rebuilding then
        (q.state g.ver == some .rebuilding && e.frame.shadowNo == g.shadow) || e.priv.any (fun r => some r.2 == g.shadow)
      else q.state g.ver == some .filling && e.frame == .home && q.holds t.vdep (g.ver % t.vdep) == some g.ver

/-- The versions a checkpoint holds are let go once its transfer has ended (R400). -/
def State.letGo (s : State) (x : Nat) (t : Xfer) : State :=
  match t.kind with
  | .ckpt _ _ _ vs _ => s.forEach vs (fun e s =>
      match s.handleSlot x e.1 with
      | some (p, n, t) =>
        (match t.ver n e.2 with
         | some r => s.setVer x p n e.2 { r with kept := r.kept - 1 }
         | none => s)
      | none => s)
  | _ => s

/-- STALEC raised by n, sticking at all ones (R383). -/
def State.stale (s : State) (x n : Nat) : State :=
  s.setCtxOf x ((s.ctxOf x).setCsr 0x3DD (BitVec.ofNat 64 (min (((s.ctxOf x).csr 0x3DD).toNat + n) (2 ^ 32 - 1))))

/-- What becomes of a write that no word makes: performed, dropped because of its version's state, or impossible. -/
inductive SysOut where
  | done
  | dropped
  | failed
  deriving DecidableEq, Repr

/-- Where a write of n bytes goes that Skatas itself makes through a context's translation at a generic pointer, for the rebuild run `run`
or none, and what becomes of it: on a tile-pool page the version decides, at this one moment, as for any other write (R363). `w` says whether
the page must have W; the arrays a unit of Skatas keeps in PINNED pages need not (R312). -/
def State.sysPlanWith (s : State) (w : Bool) (x p n : Nat) (run : Option Nat) : List Seg × SysOut :=
  match xlate s .tables x (bits p 63 60) (winOff (bits p 63 60) p) n w 1 with
  | .error _ => ([], .failed)
  | .ok l =>
    let g := l.map (fun c => c.seg)
    if bits p 63 60 ≠ 7 ∧ l.any (fun c => bit c.leaf 3) then
      match s.lineAdmit x (winOff (bits p 63 60) p) run with
      | .ok _ => (g, .done)
      | .drop => (g, .dropped)
      | .refuse => (g, .failed)
    else (g, .done)

/-- Such a write to a page that must have W. -/
def State.sysPlan (s : State) (x p n : Nat) (run : Option Nat) : List Seg × SysOut := s.sysPlanWith true x p n run

/-- Such a write carried out as planned; a dropped one is counted. -/
def State.sysAct (s : State) (x : Nat) (r : List Seg × SysOut) (bs : List Byte) : State :=
  match r.2 with
  | .done => (s.perform r.1 bs).touch x (r.1.filterMap (fun c => homeDie c.pa))
  | .dropped => s.stale x 1
  | .failed => s

/-- A write that Skatas itself makes, planned and carried out at once, with what became of it. -/
def State.sysWrite (s : State) (x p : Nat) (run : Option Nat) (bs : List Byte) : State × SysOut :=
  let r := s.sysPlan x p bs.length run
  (s.sysAct x r bs, r.2)

/-- The 64-byte lines of n bytes at a pointer that is a multiple of 64, as (offset, length). -/
def lines64 (n : Nat) : List (Nat × Nat) := (List.range ((n + 63) / 64)).map (fun i => (64 * i, min 64 (n - 64 * i)))

/-- Bytes that a unit of Skatas writes to an array it keeps in PINNED pages of a context: line by line, each checked against the version that
holds it when it lies in a tile pool; a line that cannot be written keeps its bytes (R312, R363). -/
def State.unitWrite (s : State) (x p : Nat) (bs : List Byte) : State :=
  s.forEach (lines64 bs.length) (fun l s => s.sysAct x (s.sysPlanWith false x (p + l.1) l.2 none) ((bs.drop l.1).take l.2))

/-- The current version of a handle (R379): the highest SEALED or REPLICATED version of its slot. -/
def PSlot.current (q : PSlot) : Option Nat :=
  (q.vers.filter (fun e => e.2.st == .sealed || e.2.st == .replicated)).foldl (fun m e => match m with
    | some v => if v < e.1 then some e.1 else m
    | none => some e.1) none

/-- The dies a version is resident on (R378). -/
def State.verDies (s : State) (x : Nat) (t : TPool) (n v : Nat) (f : Frame) : List Nat :=
  let g := s.verSegs x t n v f
  ((g.1 ++ g.2).filterMap (fun c => homeDie c.pa)).eraseDups

/-- The home die of a version: the die that homes its header unit (R382). -/
def State.verHome (s : State) (x : Nat) (t : TPool) (n v : Nat) (f : Frame) : Nat :=
  match (s.verSegs x t n v f).2 with
  | c :: _ => engineDie c.pa
  | [] => 0

/-- A version becomes LOST (Table 17-3): one that was FILLING has no lineage and is unrecoverable. Recovery starts with the
event of R397. -/
def State.loseVer (s : State) (x p n v : Nat) : State :=
  match s.poolOf x p with
  | none => s
  | some t =>
    match t.ver n v with
    | none => s
    | some e =>
      match e.st with
      | .filling => s.setVer x p n v { e with st := .lost, unrec := true }
      | .sealed => s.setVer x p n v { e with st := .lost }
      | .replicated => s.setVer x p n v { e with st := .lost }
      | .rebuilding => s.setVer x p n v { e with st := .lost, run := none, priv := [] }
      | _ => s

/-- Every version of a context, pool by pool and slot by slot: pool, slot, version. -/
def State.allVers (s : State) (x : Nat) : List (Nat × Nat × Nat) :=
  (s.ctxOf x).pools.flatMap (fun p => p.2.slots.flatMap (fun q => q.2.vers.map (fun e => (p.1, q.1, e.1))))

/-- The versions of every context with a byte for which a test of physical segments holds become LOST. -/
def State.loseWhere (s : State) (f : List Seg → Bool) : State :=
  s.forEach (s.ctxs.map (fun c => c.1)) (fun x s => s.forEach (s.allVers x) (fun v s =>
    match (s.poolOf x v.1).bind (fun t => (t.ver v.2.1 v.2.2).map (fun e => (t, e))) with
    | some (t, e) =>
      if f (s.verSeat x t v.2.1 v.2.2 e.frame) then s.loseVer x v.1 v.2.1 v.2.2 else s
    | none => s))

/-- A frame enters the poison record (R362): the versions with a byte in it become LOST, and it is counted and reported, with the
replace request for the die cache lines fenced with it (R448). -/
def State.poisonFrame (s : State) (f : Nat) : State :=
  if s.poison.contains f then s
  else
    let hit (g : List Seg) : Bool := g.any (fun c => decide (c.pa / 65536 ≤ f) && decide (f ≤ (c.pa + c.len - 1) / 65536))
    let s := s.loseWhere hit
    let s := ({ s with poison := f :: s.poison }).count 2 (engineDie (f * 65536)) 1
    (s.send (.poison f)).askReplace.flushAlmanac

/-- FMT in the header of a version (R380): software can store that byte while the version is FILLING. -/
def State.headerFmt (s : State) (x : Nat) (t : TPool) (n v : Nat) (f : Frame) : Nat := (((s.verHeader x t n v f).getD 0x0C 0).toNat) % 16

/-- The segments of the 16,384 elements of a format in a version's data. -/
def State.dataSegs (s : State) (x : Nat) (t : TPool) (n v : Nat) (f : Frame) (fmt : Nat) : List Seg :=
  s.segsAt x (t.frameAddr n v f).1 (fmtBytes fmt 16384)

/-- A version that a load in format `fmt` may read (R142, Table 5-6): pool, slot and frame; 0x090 for a handle that names nothing. The header
of a version that is FILLING, SEALED or REPLICATED is checked for its format first; a version that is FREE, RETIRED, LOST or REBUILDING
has no header to check, and its state decides (R381; log entry 24). -/
def State.sealedVer (s : State) (x h v fmt : Nat) : Res (Nat × Nat × TPool × Frame) :=
  match s.handleSlot x h with
  | none => stop 0x090
  | some (p, n, t) =>
    match (t.slot n).state v, t.ver n v with
    | some .lost, some e => if e.unrec then stop 0x1A5 else .error .wait
    | some .rebuilding, _ => .error .wait
    | some .retired, _ => stop 0x0A2
    | some st, some e =>
      if s.headerFmt x t n v e.frame ≠ fmt then stop 0x0A3
      else if st = .filling then stop 0x0A1
      else .ok (p, n, t, e.frame)
    | _, _ => stop 0x0A1

end Sys2Proof.Machine
end

