-- ==== Sys2Proof/Machine/Sched.lean ====
section
/-! DEFINITION. The dependency table, join counters, placement, ready pools and the completion combiner (R322 to R336). -/

namespace Sys2Proof.Machine

/-- The state with task entry i replaced. -/
def State.setTask (s : State) (i : Nat) (t : Task) : State := { s with tasks := setKey s.tasks i t }

/-- The generation of entry i of the dependency table. -/
def State.gen (s : State) (i : Nat) : Nat := (find? s.gens i).getD 0

/-- A task by its entry and the generation of the entry: no later task of the entry has the same number (R315, R323). -/
def State.taskKey (s : State) (i : Nat) : Nat := i + s.gen i * 2 ^ 18

/-- The handle of entry i (R323). -/
def State.handleOf (s : State) (i x : Nat) : Nat := i + x * 2 ^ 18 + s.gen i % 2 ^ 32 * 2 ^ 32

/-- The live entry a task handle names in a context, none when it names no task (R323). -/
def State.taskOf (s : State) (x h : Nat) : Option Nat :=
  let i := bits h 17 0
  match find? s.tasks i with
  | some t => if bits h 31 26 = 0 ∧ bits h 25 18 = x ∧ t.ctx = x ∧ bits h 63 32 = s.gen i % 2 ^ 32 then some i else none
  | none => none

/-- The lowest free entry at or above i, searching n of them. -/
def freeFrom (used : List Nat) (i : Nat) : Nat → Option Nat
  | 0 => none
  | n + 1 => if used.contains i then freeFrom used (i + 1) n else some i

/-- Entries reserved by accepted launches and entries in use. -/
def State.usedEntries (s : State) : List Nat :=
  keys s.tasks ++ s.graphs.flatMap (fun g => g.2.launches.flatMap (fun l => l.entries))

/-- A free entry of the dependency table, when there is one. -/
def State.freeEntry (s : State) : Option Nat :=
  let u := s.usedEntries.eraseDups
  if Config.depEntries ≤ u.length then none else freeFrom u 0 (min (u.length + 1) Config.depEntries)

/-- `n` free entries of the dependency table. -/
def State.freeEntries (s : State) (n : Nat) : Option (List Nat) :=
  let u := s.usedEntries
  if Config.depEntries < u.eraseDups.length + n then none
  else some (((List.range (u.length + n)).filter (fun i => !u.contains i)).take n)

/-- A task put into entry i, whose generation rises when the entry is reused (R323). -/
def State.newTask (s : State) (i : Nat) (t : Task) : State :=
  let g := match find? s.gens i with
    | some g => g + 1
    | none => 0
  { s with tasks := setKey s.tasks i t, gens := setKey s.gens i g }

/-! ### Placement and ready pools -/

/-- The candidate dies of a context: not lost, and holding a core of its partition (R332). -/
def State.candidates (s : State) (x : Nat) : List Nat :=
  (List.range 4).filter (fun d => !(s.dieOf d).lost && (s.coresOfCtx x).any (fun c => dieOfCore c.2 == d))

/-- Bytes of the current versions of a task's tiles homed on a die (R332). -/
def State.tileBytes (s : State) (x : Nat) (tiles : List Nat) (d : Nat) : Nat :=
  tiles.foldl (fun n h =>
    if h = 0 then n
    else match s.handleSlot x h with
      | none => n
      | some (_, k, t) =>
        match (t.slot k).current with
        | none => n
        | some v =>
          let f := ((t.ver k v).map (fun e => e.frame)).getD .home
          let g := s.verSegs x t k v f
          n + ((g.1 ++ g.2).filter (fun c => homeDie c.pa == some d)).foldl (fun a c => a + c.len) 0) 0

/-- The die a task is placed on (R332). -/
def State.placeDie (s : State) (x lid : Nat) (tiles : List Nat) : Nat :=
  let dd := s.candidates x
  let sh := dd.map (fun d => (d, s.tileBytes x tiles d))
  if sh.all (fun e => e.2 == 0) then
    match dd.find? (fun d => decide (lid % 4 ≤ d)) with
    | some d => d
    | none => dd.headD 0
  else (sh.foldl (fun b e => if b.2 < e.2 then e else b) (0, 0)).1

/-- The die a task that is placed again keeps, unless it has been lost (R332). -/
def State.keptDie (s : State) (t : Task) : Nat := if (s.dieOf t.die).lost then s.placeDie t.ctx t.lid t.tiles else t.die

/-- The pool of a partition on a die. -/
def State.rpool (s : State) (part die : Nat) : RPool := (find? s.pools (part * 4 + die)).getD ⟨0, 0, [], []⟩

/-- The state with a pool replaced. -/
def State.setRpool (s : State) (part die : Nat) (p : RPool) : State :=
  { s with pools := setKey s.pools (part * 4 + die) p }

/-- A task enters the pool of its die at its level with the pool's next ticket (R332, R333). -/
def State.enterPool (s : State) (i : Nat) : State :=
  match find? s.tasks i with
  | none => s
  | some t =>
    let part := (s.ctxOf t.ctx).part
    let p := s.rpool part t.die
    let s := s.setRpool part t.die { p with next := p.next + 1, tasks := p.tasks ++ [(t.level, p.next, i)] }
    s.setTask i { t with ticket := p.next }

/-! ### Priority of rebuild runs (R336) -/

/-- Versions a rebuild run rebuilds: pool, slot, version. -/
def State.runVers (s : State) (x lid : Nat) : List (Nat × Nat × Nat) :=
  (s.ctxOf x).pools.flatMap (fun p => p.2.slots.flatMap (fun q => (q.2.vers.filter (fun e => e.2.run == some lid)).map (fun e => (p.1, q.1, e.1))))

/-- The priorities that reach a run: of RUNNING tasks with a word waiting on a version it rebuilds, and of READY tasks whose TILE
handles name such a version. -/
def State.runLevel (s : State) (x lid base : Nat) : Nat :=
  let vs := s.runVers x lid
  let hs := vs.map (fun r => handleFor r.1 r.2.1)
  let waits (c : CoreSt) : Bool := c.needs.any (fun w => vs.any (fun r => handleFor r.1 r.2.1 == w.1 && r.2.2 == w.2))
  let a := s.tasks.filterMap (fun (t : Nat × Task) =>
    if t.2.ctx = x ∧ ((t.2.st = .running ∧ t.2.cores.any (fun c => waits (s.coreOf c.1))) ∨ (t.2.st = .ready ∧ t.2.tiles.any (fun h => hs.contains h)))
    then some t.2.prio else none)
  a.foldl max base

/-- Tasks in REBUILD whose waiters have a higher priority move to that level with a new ticket. -/
def State.raiseRebuilds (s : State) (x : Nat) : State :=
  s.forEach (s.tasks.filter (fun t => t.2.ctx == x && t.2.st == .rebuild)) (fun e s =>
    let l := s.runLevel x e.2.lid e.2.level
    if e.2.level < l then
      let part := (s.ctxOf x).part
      let p := s.rpool part e.2.die
      if p.tasks.any (fun k => k.2.2 == e.1) then
        let s := s.setRpool part e.2.die { p with next := p.next + 1, tasks := p.tasks.filter (fun k => k.2.2 != e.1) ++ [(l, p.next, e.1)] }
        s.setTask e.1 { e.2 with level := l, ticket := p.next }
      else s.setTask e.1 { e.2 with level := l }
    else s)

/-! ### Becoming READY -/

/-- Whether a task may be dispatched once it is READY: a spawned one only after the scheduler has taken its record (R330). -/
def Task.taken (t : Task) : Bool :=
  match t.origin with
  | .queue _ _ k => k
  | .discarded => false
  | _ => true

/-- A task becomes READY (or stays REBUILD), is placed, and enters its pool when it may be dispatched (R330, R332); it may be a waiter that raises
rebuild runs (R336). -/
def State.makeReady (s : State) (i : Nat) : State :=
  match find? s.tasks i with
  | none => s
  | some t =>
    let t := { t with st := if t.st = .rebuild then .rebuild else .ready, die := s.placeDie t.ctx t.lid t.tiles, level := max t.level t.prio }
    let s := s.setTask i t
    (if t.taken then s.enterPool i else s).raiseRebuilds t.ctx

/-- Insertion into a list sorted by logical id. -/
def insertLid (k : Nat × Nat) : List (Nat × Nat) → List (Nat × Nat)
  | [] => [k]
  | e :: r => if k.1 < e.1 then k :: e :: r else e :: insertLid k r

/-- Several tasks become READY at one moment: they take tickets in ascending logical id (R332). -/
def State.readyAll (s : State) (l : List Nat) : State :=
  let ks := l.foldl (fun a i => insertLid (((find? s.tasks i).map (fun t => t.lid)).getD 0, i) a) []
  s.forEach ks (fun k s => s.makeReady k.2)

/-- The outcome of one decrement of a join counter (R117, R294, R331). -/
inductive Dec where
  | none
  | zero
  | ok (ready : Bool)
  deriving DecidableEq, Repr

/-- Decrements the join counter of the WAITING task in entry i. -/
def State.decJoin (s : State) (i : Nat) : Dec × State :=
  match find? s.tasks i with
  | none => (.none, s)
  | some t =>
    if t.st ≠ .waiting then (.none, s)
    else if t.join = 0 then (.zero, s)
    else (.ok (t.join == 1), s.setTask i { t with join := t.join - 1 })

/-- Decrements the counters of a list of handles in order, and makes the tasks that reached 0 READY together; each handle
that cannot be decremented reports `code` (R294, R331). -/
def State.decAll (s : State) (x core code : Nat) (hs : List Nat) : State :=
  let r := hs.foldl (fun (a : State × List Nat) h =>
    match a.1.taskOf x h with
    | none => (a.1.inform x core code, a.2)
    | some i =>
      match a.1.decJoin i with
      | (.ok true, s) => (s, a.2 ++ [i])
      | (.ok false, s) => (s, a.2)
      | (_, s) => (s.inform x core code, a.2)) (s, [])
  r.1.readyAll r.2

/-- A list of handles in memory: an 8-byte count up to 4,096 and the handles, wholly in window 0x4 (R290, R324). -/
def readHandles (s : State) (x p : Nat) : Option (List Nat) :=
  if bits p 63 60 ≠ 4 ∨ p % 8 ≠ 0 then none
  else
    match readVirt s x p 8 with
    | .error _ => none
    | .ok b =>
      let n := leNat b
      if 4096 < n then none
      else match readVirt s x (p + 8) (8 * n) with
        | .error _ => none
        | .ok l => some ((List.range n).map (fun i => fieldLE l (8 * i) 8))

/-- The handles of a task's successors; none when its list cannot be used (R324). -/
def State.succOf (s : State) (t : Task) : Option (List Nat) :=
  match t.succ with
  | .list hs => some hs
  | .ptr 0 => some []
  | .ptr p => readHandles s t.ctx p

/-- TASKTL raised by one (R331). -/
def State.tick (s : State) (x : Nat) : State :=
  s.setCtxOf x ((s.ctxOf x).setCsr 0x3F6 ((s.ctxOf x).csr 0x3F6 + 1))

/-- Whether a task has ended. -/
def Task.over (t : Task) : Bool := t.st == .done || t.st == .abandoned

/-- Entries of a launch whose tasks are all over are freed, and so are those of spawned and rebuild tasks that are over
(R329). -/
def State.reap (s : State) : State :=
  let isOver (i : Nat) : Bool := ((find? s.tasks i).map (fun t => t.over)).getD true
  let gone := s.graphs.flatMap (fun g => (g.2.launches.filter (fun l => l.started && l.entries.all isOver)).flatMap (fun l => l.entries))
  let s := { s with graphs := mapVals (fun _ g => { g with launches := g.launches.filter (fun l => !(l.started && l.entries.all isOver)) }) s.graphs }
  { s with tasks := s.tasks.filter (fun e => !(gone.contains e.1 || (e.2.over && (match e.2.origin with
    | .launch _ _ => false
    | _ => true)))) }

/-- A RETIRED kernel of which no core task runs is ABSENT (Table 4-2). -/
def State.retireKernel (s : State) (n : Nat) : State :=
  if (s.kernelOf n).st = .retired ∧ s.tasks.all (fun t => t.2.st != .running || t.2.kslot != n) then
    s.setKernelOf n { s.kernelOf n with st := .absent, bound := [] } else s

/-- The private copies of a rebuild run discarded: one that starts again takes new ones (R398). -/
def State.dropPrivs (s : State) (x lid : Nat) : State :=
  let ver (e : Ver) : Ver := { e with priv := e.priv.filter (fun r => r.1 != lid) }
  let pool (t : TPool) : TPool := { t with slots := mapVals (fun _ (q : PSlot) => { q with vers := mapVals (fun _ e => ver e) q.vers }) t.slots }
  s.setCtxOf x { s.ctxOf x with pools := mapVals (fun _ t => pool t) (s.ctxOf x).pools }

/-- What a rebuild run leaves behind when it ends: its private copies are discarded, and no run writes the versions it has not sealed. -/
def State.endRun (s : State) (x lid : Nat) : State :=
  let ver (e : Ver) : Ver := { e with priv := e.priv.filter (fun r => r.1 != lid), run := if e.run = some lid then none else e.run }
  let pool (t : TPool) : TPool := { t with slots := mapVals (fun _ (q : PSlot) => { q with vers := mapVals (fun _ e => ver e) q.vers }) t.slots }
  s.setCtxOf x { s.ctxOf x with pools := mapVals (fun _ t => pool t) (s.ctxOf x).pools }

/-- A task is ABANDONED, and with it every WAITING successor, and theirs (R331). `fuel` bounds the depth. -/
def State.abandon (core : Nat) : Nat → State → Nat → State
  | 0, s, _ => s
  | fuel + 1, s, i =>
    match find? s.tasks i with
    | none => s
    | some t =>
      let s := (s.setTask i { t with st := .abandoned }).tick t.ctx
      match s.succOf t with
      | none => s.inform t.ctx core 3
      | some hs => s.forEach hs (fun h s =>
          match s.taskOf t.ctx h with
          | none => s.inform t.ctx core 3
          | some j =>
            match find? s.tasks j with
            | some u => if u.st = .waiting then State.abandon core fuel s j else s.inform t.ctx core 3
            | none => s)

/-- The completion combiner when every member of the task in entry i has ended (R331); `core` is the core whose CAUSE takes
an informational event. -/
def State.endTask (s : State) (core i : Nat) : State :=
  match find? s.tasks i with
  | none => s
  | some t =>
    let isRebuild := t.origin == .rebuild
    let s :=
      if isRebuild then ((s.setTask i { t with st := .done }).endRun t.ctx t.lid).tick t.ctx
      else if t.aband then s.abandon core (s.tasks.length + 1) i
      else
        let s := s.setTask i { t with st := .done }
        let s := match s.succOf t with
          | none => s.inform t.ctx core 3
          | some hs => s.decAll t.ctx core 3 hs
        s.tick t.ctx
    s.reap

end Sys2Proof.Machine
end

