-- ==== Sys2Proof/Machine/Barr.lean ====
section
/-! DEFINITION. Device barrier records and their engines: arrivals, markers, pending bytes, release and break, the held
writes of deterministic pages and ordered reductions, flag writes (R271 to R276, R287 to R296, R469). -/

namespace Sys2Proof.Machine

/-- The sync address of the barrier record that a pointer of a context names (R290): a record start of the sync map. -/
def State.barrierAt (s : State) (x p : Nat) : Option Nat :=
  if bits p 63 60 ≠ 7 ∨ bits p 59 36 ≠ 0 ∨ p % 64 ≠ 0 then none
  else
    match (s.ctxOf x).sync.find? (fun e => e.page == bits p 35 16) with
    | none => none
    | some e => if e.barriers.contains (p % 65536) then some (syncBase e.die e.frame + p % 65536) else none

/-- The barrier record a sync address lies in, in any context's map. -/
def State.recordAt (s : State) (pa : Nat) : Option Nat :=
  s.ctxs.findSome? (fun c => c.2.sync.findSome? (fun e =>
    (e.barriers.find? (fun o => decide (syncBase e.die e.frame + o ≤ pa) && decide (pa < syncBase e.die e.frame + o + 64))).map
      (fun o => syncBase e.die e.frame + o)))

/-- The fields of a record (Table 11-2). -/
structure Bar where
  st : Nat
  auto : Bool
  phase : Nat
  parts : Nat
  arriv : Nat
  narr : Nat
  mcnt : Nat
  marr : Nat
  nmarr : Nat
  mmask : Nat
  pend : Nat
  bndl : Nat
  flagp : Nat
  gang : Nat
  deriving DecidableEq, Repr

/-- A record as it stands in sync storage. -/
def State.bar (s : State) (b : Nat) : Bar :=
  let w := s.readN b 4
  { st := w % 8, auto := bit w 3, phase := s.readN (b + 4) 4, parts := s.readN (b + 8) 4, arriv := s.readN (b + 12) 4,
    narr := s.readN (b + 16) 4, mcnt := s.readN (b + 20) 2, marr := s.readN (b + 22) 2, nmarr := s.readN (b + 24) 2,
    mmask := s.readN (b + 26) 1 % 128, pend := s.readN (b + 32) 8, bndl := s.readN (b + 40) 8,
    flagp := s.readN (b + 48) 8, gang := s.readN (b + 56) 8 }

/-- The fields of a record that Skatas itself changes, written. -/
def State.putBar (s : State) (b : Nat) (r : Bar) : State :=
  let s := s.writeN b 4 (r.st + r.auto.toNat * 8)
  let s := s.writeN (b + 4) 4 r.phase
  let s := s.writeN (b + 12) 4 r.arriv
  let s := s.writeN (b + 16) 4 r.narr
  let s := s.writeN (b + 22) 2 r.marr
  let s := s.writeN (b + 24) 2 r.nmarr
  s.writeN (b + 32) 8 r.pend

/-- Waits on the doublewords of a record are evaluated after its fields changed (R303). -/
def State.barWaits (s : State) (b : Nat) : State := s.evalWaits [⟨b, 64⟩]

/-- A record written back: a write like any other, which can end waits (R303). -/
def State.setBar (s : State) (b : Nat) (r : Bar) : State := (s.putBar b r).barWaits b

/-- OPEN becomes CLOSING once ARRIV = PARTS and MARR = MCNT (Table 11-3). -/
def State.barClose (s : State) (b : Nat) : State :=
  let r := s.bar b
  if r.st = 1 ∧ r.arriv = r.parts ∧ r.marr = r.mcnt then s.setBar b { r with st := 2 } else s

/-- Whether the record is OPEN. -/
def State.barOpen (s : State) (b : Nat) : Bool := (s.bar b).st == 1

/-! ### Waits (R294, R298) -/

/-- The result of a word on a BROKEN barrier: bit 63 with the phase. -/
def brokenRes (ph : Nat) : Word := BitVec.ofNat 64 (2 ^ 63 + ph)

/-- What a wait on phase p returns at a barrier that stands at a phase, none while it waits (R298). -/
def waitOver (broken : Bool) (phase p : Nat) : Option Word :=
  let k := (phase + 2 ^ 32 - p % 2 ^ 32) % 2 ^ 32
  if broken then some (brokenRes phase)
  else if 1 ≤ k ∧ k ≤ 2 ^ 31 then some (BitVec.ofNat 64 phase)
  else none

/-- What a wait on phase p of a device barrier returns. -/
def State.barWait (s : State) (b p : Nat) : Option Word := waitOver ((s.bar b).st == 4) (s.bar b).phase p

/-- What a wait on phase p of a group barrier returns. -/
def GBar.waitRes (b : GBar) (p : Nat) : Option Word := waitOver b.broken b.phase p

/-- A wait at a barrier that is over is completed. -/
def BarWait.over (b : BarId) (f : Nat → Option Word) (w : BarWait) : BarWait :=
  match w with
  | .wait b' p _ =>
    if b' = b then (match f p with
      | some v => .done v
      | Option.none => w) else w
  | w => w

/-- Every wait at the device barrier at b that is over is completed by its engine (R294, R295). -/
def State.endBarWaits (s : State) (b : Nat) : State :=
  { s with cores := mapVals (fun _ (c : CoreSt) => { c with bwait := c.bwait.over (.dev b) (s.barWait b) }) s.cores }

/-- Every wait of the members of the task in entry i at its group barriers that is over is completed; what else runs on their cores is another
task's (R300). -/
def State.endGroupWaits (s : State) (i : Nat) (t : Task) : State :=
  match t.group with
  | none => s
  | some g => s.forEach g.members (fun k s => s.setCoreOf k { s.coreOf k with
      bwait := (List.range 16).foldl (fun w n => w.over (.grp i n) ((find? g.bars n).getD ⟨0, [], [], false⟩).waitRes) (s.coreOf k).bwait })

/-! ### Breaks, pending bytes, arrivals -/

/-- A break of an OPEN or CLOSING barrier (R295): held writes and contributions of the phase are discarded, and its waits end. -/
def State.breakBar (s : State) (b : Nat) : State :=
  let r := s.bar b
  if r.st = 1 ∨ r.st = 2 then
    let s := s.setBar b { r with st := 4 }
    { s with dheld := s.dheld.filter (fun h => h.bar != b), aheld := s.aheld.filter (fun h => h.bar != b),
             arrs := s.arrs.filter (fun a => a.1 != b) }.endBarWaits b
  else s

/-- Bytes added to PEND (R296); an increment beyond 2^36 − 1 is refused. -/
def State.addPend (s : State) (b n : Nat) : Option State :=
  let r := s.bar b
  if 2 ^ 36 ≤ r.pend + n then none else some (s.setBar b { r with pend := r.pend + n })

/-- PEND lowered (R371, R372). -/
def State.subPend (s : State) (b n : Nat) : State :=
  let r := s.bar b
  s.setBar b { r with pend := r.pend - n }

/-- The result of an arrival (Table 11-3, R298): a refusal, or the state and the phase arrived in; broken barriers count
nothing. -/
inductive Arrive where
  | refused
  | broken (phase : Nat)
  | ok (phase : Nat) (s : State)

/-- BARA on a device barrier: Table 11-3's arrival row. -/
def State.arrive (s : State) (b x : Nat) : Arrive :=
  let r := s.bar b
  if r.st = 4 then .broken r.phase
  else if r.st = 1 ∧ r.arriv < r.parts then
    let s := { s.setBar b { r with arriv := r.arriv + 1 } with arrs := (b, x, r.phase) :: s.arrs }
    .ok r.phase (s.barClose b)
  else if (r.st = 2 ∨ r.st = 1) ∧ r.auto then
    if r.parts < r.narr + 1 then .refused
    else
      let next := (r.phase + 1) % 2 ^ 32
      .ok next { s.setBar b { r with narr := r.narr + 1 } with arrs := (b, x, next) :: s.arrs }
  else .refused

/-- A marker arrival for a phase is delivered (R292, R293): it counts for the current phase while the barrier is OPEN, and for the next while it
is OPEN or CLOSING. -/
def State.markArrive (s : State) (b phase : Nat) : State :=
  let r := s.bar b
  if r.st = 1 ∧ phase = r.phase then (s.setBar b { r with marr := r.marr + 1 }).barClose b
  else if (r.st = 1 ∨ r.st = 2) ∧ phase = (r.phase + 1) % 2 ^ 32 then s.setBar b { r with nmarr := r.nmarr + 1 }
  else s

/-! ### Group barriers (R300) -/

/-- The members of a task's group that have not ended (R348). -/
def Task.live (t : Task) : List Nat :=
  match t.group with
  | some g => (List.range g.members.length).filter (fun k => !t.ended.contains (g.members.getD k 0))
  | none => []

/-- A barrier whose phase every live member has arrived in passes to the next phase; a member that has ended counts as arriving
in every phase (R300, R348). `fuel` is 2, since a member arrives at most once ahead. -/
def GBar.close (live : List Nat) : Nat → GBar → GBar
  | 0, b => b
  | f + 1, b =>
    if ¬b.broken ∧ ¬live.isEmpty ∧ live.all (fun m => b.arr.contains m) then
      GBar.close live f { b with phase := (b.phase + 1) % 2 ^ 32, arr := b.narr, narr := [] }
    else b

/-- The state with the task in entry i replaced, every barrier of its group closed where it may, and the waits that this ends. -/
def State.setClosed (s : State) (i : Nat) (t : Task) : State :=
  let t := { t with group := t.group.map (fun (g : Group) => { g with bars := mapVals (fun _ b => b.close t.live 2) g.bars }) }
  (s.setTask i t).endGroupWaits i t

/-- The state with group barrier n of the task in entry i replaced. -/
def State.setGroupBar (s : State) (i n : Nat) (b : GBar) : State :=
  match find? s.tasks i with
  | some t => s.setClosed i { t with group := t.group.map (fun (g : Group) => { g with bars := setKey g.bars n b }) }
  | none => s

/-- An arrival of member m: the result and the barrier before it closes; none for a third arrival in one phase. -/
def GBar.arrive (b : GBar) (m : Nat) : Option (Word × GBar) :=
  if b.broken then some (brokenRes b.phase, b)
  else if !b.arr.contains m then some (BitVec.ofNat 64 b.phase, { b with arr := b.arr ++ [m] })
  else if !b.narr.contains m then some (BitVec.ofNat 64 ((b.phase + 1) % 2 ^ 32), { b with narr := b.narr ++ [m] })
  else none

/-- Group barrier n of a core's task, with the dependency entry and the core's member index; none outside a group. -/
def State.groupBarOf (s : State) (core n : Nat) : Option (Nat × GBar × Nat) :=
  match (s.coreOf core).task, s.groupOf core with
  | some i, some g => some (i, (find? g.bars n).getD ⟨0, [], [], false⟩, (g.members.findIdx? (fun m => m == core)).getD 0)
  | _, _ => none

/-- The barriers of a group become BROKEN (R300, R351). -/
def breakBars (g : Group) : Group :=
  { g with bars := (List.range 16).map (fun n => (n, { (find? g.bars n).getD ⟨0, [], [], false⟩ with broken := true })) }

/-- The barriers of the group of the task in entry i become BROKEN, and the waits at them end. -/
def State.breakTask (s : State) (i : Nat) (st : Option GroupState) : State :=
  match find? s.tasks i with
  | none => s
  | some t =>
    match t.group with
    | none => s
    | some g =>
      let t := { t with group := some { breakBars g with st := st.getD g.st } }
      (s.setTask i t).endGroupWaits i t

/-! ### Flag writes (R469) -/

/-- Whether a flag pointer names a word that a flag write may touch: in window 0x4 or 0x7, aligned, and in no barrier record (R290, R291,
R368). -/
def State.flagAt (s : State) (x p : Nat) : Option (List Seg) :=
  let w := bits p 63 60
  if (w ≠ 4 ∧ w ≠ 7) ∨ !inExtent w p ∨ p % 4 ≠ 0 then none
  else match xlate s .tables x w (winOff w p) 4 true 3 with
    | .error _ => none
    | .ok l => if l.any (fun c => decide (2 ^ 56 ≤ c.seg.pa) && (s.recordAt c.seg.pa).isSome) then none else some (l.map (fun c => c.seg))

/-- A quiet 32-bit update of a flag word through the context's translation, performed now; when it cannot be performed it is skipped and 0x006
reported at `core`. On a tile-pool page the version decides, as for every other write: the one it was admitted to at issue, if it was checked
there (R363, R383). -/
def State.flagUpdate (s : State) (x core p : Nat) (tag : Option VerTag) (f : Nat → Nat) : State :=
  if p = 0 then s
  else
    match s.flagAt x p with
    | none => s.inform x core 6
    | some g =>
      let bs := toLE 4 (f (leNat (s.readSegs g)) % 2 ^ 32)
      match tag with
      | some v => if s.tagHolds v then (s.perform g bs).touch x (g.filterMap (fun c => homeDie c.pa)) else s.stale x 1
      | none =>
        let r := s.sysWrite x p none bs
        match r.2 with
        | .failed => s.inform x core 6
        | _ => r.1

/-! ### Release -/

/-- Keys of Table 10-6 compared field by field. -/
def keyLt (a b : DKey) : Bool :=
  decide (a.kind < b.kind) || (a.kind == b.kind && (decide (a.f1 < b.f1) || (a.f1 == b.f1 && (decide (a.f2 < b.f2) ||
    (a.f2 == b.f2 && (decide (a.f3 < b.f3) || (a.f3 == b.f3 && decide (a.f4 < b.f4))))))))

/-- Insertion by key, and by member index among the equal keys that two members of a gang can give their writes (R338; log entry 48); after equal ones. -/
def insertHeld (h : DHeld) : List DHeld → List DHeld
  | [] => [h]
  | e :: r => if keyLt h.key e.key ∨ (h.key = e.key ∧ h.mem < e.mem) then h :: e :: r else e :: insertHeld h r

/-- The order of contributions: target, then key, logical id, issue position (R288). -/
def aLt (a b : AHeld) : Bool :=
  decide (a.pa < b.pa) || (a.pa == b.pa && (decide (a.key < b.key) || (a.key == b.key && (decide (a.lid < b.lid) ||
    (a.lid == b.lid && decide (a.pos < b.pos))))))

/-- Insertion in that order. -/
def insertContrib (h : AHeld) : List AHeld → List AHeld
  | [] => [h]
  | e :: r => if aLt h e then h :: e :: r else e :: insertContrib h r

/-- One held write applied (R275); on a tile-pool page it is checked a second time here (R363). In a poisoned frame nothing is written
(Table 15-5). -/
def State.applyHeld (s : State) (h : DHeld) : State :=
  if h.segs.any (fun c => s.poisoned c.pa) then s
  else match h.tag with
  | some g => if s.tagHolds g then s.perform h.segs h.data else s.stale h.ctx h.cnt
  | none => s.perform h.segs h.data

/-- The contributions to one target combined in order, and the sum written once (R288). Those whose version has left the state that
admitted them are dropped, each counted (R363). -/
def State.applyTarget (s : State) (cs : List AHeld) : State :=
  let ok (h : AHeld) : Bool := match h.tag with
    | some g => s.tagHolds g
    | none => true
  let s' := s.forEach (cs.filter (fun h => !ok h)) (fun h s => s.stale h.ctx 1)
  match cs.filter ok with
  | [] => s'
  | h :: r =>
    if s.poisoned h.pa then s'
    else s'.perform [⟨h.pa, 4⟩] (toLE 4 ((h :: r).foldl (fun acc c => fadd 0 acc c.val) (BitVec.ofNat 32 (s.readN h.pa 4))).toNat)

/-- The release of a CLOSING barrier (R294), by context x that owns its flag and bundle pointers; `core` is the core of
logical number 0. What no marker has claimed belongs to the phase that closes next (R274). -/
def State.releaseBar (s : State) (x core b : Nat) : State :=
  let r := s.bar b
  let now (fixed : Bool) (p : Nat) : Bool := !fixed || decide ((r.phase + 2 ^ 32 - p % 2 ^ 32) % 2 ^ 32 < 2 ^ 31)
  let ws := (s.dheld.filter (fun h => h.bar == b && now h.fixed h.phase)).foldl (fun a h => insertHeld h a) []
  let s := { s with dheld := s.dheld.filter (fun h => !(h.bar == b && now h.fixed h.phase)) }
  let s := s.forEach ws (fun h s => s.applyHeld h)
  let cs := (s.aheld.filter (fun h => h.bar == b && now h.fixed h.phase)).foldl (fun a h => insertContrib h a) []
  let s := { s with aheld := s.aheld.filter (fun h => !(h.bar == b && now h.fixed h.phase)) }
  let s := s.forEach (cs.map (fun h => h.pa)).eraseDups (fun pa s => s.applyTarget (cs.filter (fun h => h.pa == pa)))
  let ph := (r.phase + 1) % 2 ^ 32
  let s := s.setBar b { r with phase := ph }
  let s := s.flagUpdate x core r.flagp none (fun _ => ph)
  let s :=
    if r.bndl = 0 then s
    else match readHandles s x r.bndl with
      | none => s.inform x core 2
      | some hs => s.decAll x core 2 hs
  let s := s.endBarWaits b
  let r' := s.bar b
  let s :=
    if r'.auto then s.setBar b { r' with st := 1, arriv := r'.narr, marr := r'.nmarr, narr := 0, nmarr := 0 }
    else s.setBar b { r' with st := 3 }
  let s := { s with arrs := s.arrs.filter (fun a => !(a.1 == b && a.2.2 == r.phase)) }
  s.barClose b

/-! ### Stores to records (R291, R292) -/

/-- Whether byte o of a record is a field a store may write. -/
def barWritable (o : Nat) : Bool :=
  (4 ≤ o && o < 12) || o == 20 || o == 21 || o == 26 || (40 ≤ o && o < 64)

/-- Whether byte o of a record is one of the counters, whose stored bytes are discarded. -/
def barCounter (o : Nat) : Bool := (12 ≤ o && o < 20) || (22 ≤ o && o < 26) || (32 ≤ o && o < 40)

/-- The bytes of a store that act, as (offset, byte): STATE is handled apart; none when the store must be refused. -/
def barBytes : Nat → List Byte → Option (List (Nat × Byte))
  | _, [] => some []
  | o, v :: r =>
    match barBytes (o + 1) r with
    | none => none
    | some l =>
      if o < 4 ∨ barCounter o then some l
      else if barWritable o then (if o = 26 ∧ v.toNat ≥ 128 then none else some ((o, v) :: l))
      else if v = 0 then some l else none

/-- What is held or marked for phases of a barrier follows a PHASE that software has stored anew between two openings: the phase of the next
opening stays the phase of the next opening (R274, R293). -/
def State.rephase (s : State) (b old new : Nat) : State :=
  let f (p : Nat) : Nat := (p + new + 2 ^ 32 - old % 2 ^ 32) % 2 ^ 32
  let elem (x : StoreElem) : StoreElem := match x.op with
    | .dwrite d b' k (some p) => if b' = b then { x with op := .dwrite d b' k (some (f p)) } else x
    | .optw i (some (b', k)) (some p) => if b' = b then { x with op := .optw i (some (b', k)) (some (f p)) } else x
    | .ared k l n v b' (some p) => if b' = b then { x with op := .ared k l n v b' (some (f p)) } else x
    | _ => x
  let strm (m : StreamSt) : StreamSt := { m with stores := m.stores.map (fun e => { e with elems := e.elems.map elem }) }
  { s with
    dheld := s.dheld.map (fun (h : DHeld) => if h.bar = b then { h with phase := f h.phase } else h),
    aheld := s.aheld.map (fun (h : AHeld) => if h.bar = b then { h with phase := f h.phase } else h),
    arrs := s.arrs.map (fun a => if a.1 = b then (a.1, a.2.1, f a.2.2) else a),
    cores := mapVals (fun _ (c : CoreSt) => { c with
      cS := strm c.cS, sS := strm c.sS,
      frozen := c.frozen.map (fun (e : Frozen) => { e with stores := e.stores.map (fun e => { e with elems := e.elems.map elem }) }), marks := c.marks.map (fun (m : MarkEnt) => if m.bar = b then { m with phase := f m.phase } else m),
      marked := c.marked.map (fun e => if e.1 = b then (e.1, f e.2) else e) }) s.cores,
    ctxs := mapVals (fun _ (x : Ctx) => { x with copyq := mapVals (fun _ (q : CopyQ) => { q with cmds := q.cmds.map (fun (t : Xfer) =>
      if t.dbar = some b then { t with dphase := t.dphase.map f } else t) }) x.copyq }) s.ctxs }

/-- Bytes of a record written at their offsets; what the barrier holds follows a new PHASE. -/
def State.barPut (s : State) (b : Nat) (l : List (Nat × Byte)) : State :=
  let u := s.forEach l (fun e s => { s with mem := put 0 s.mem (b + e.1) e.2 })
  if (u.bar b).phase = (s.bar b).phase then u else u.rephase b (s.bar b).phase (u.bar b).phase

/-- A store of `bs` at offset o of record b: the state after it, or none for cause 0x148 (R291, Table 11-3). A store of STATE 4 keeps AUTO as it was,
whatever its own bit 3 says: Table 11-3 does not say (log entry 49). -/
def State.storeBar (s : State) (b o : Nat) (bs : List Byte) : Option State :=
  let r := s.bar b
  match barBytes o bs with
  | none => none
  | some l =>
    let u := s.barPut b l
    let q := u.bar b
    if o = 0 then
      let v := leNat (bs.take 4)
      let nst := v % 8
      if v / 16 ≠ 0 then none
      else if nst = 4 ∧ (r.st = 1 ∨ r.st = 2) then if bs.length = 4 then some (s.breakBar b) else none
      else if nst = 0 ∧ (r.st = 3 ∨ r.st = 4) then
        let s := u.setBar b { q with st := 0, auto := bit v 3 }
        some ({ s with dheld := s.dheld.filter (fun h => h.bar != b), aheld := s.aheld.filter (fun h => h.bar != b) }.endBarWaits b)
      else if nst = 1 ∧ (r.st = 0 ∨ r.st = 3) then
        if 1 ≤ q.parts ∧ q.parts ≤ 2 ^ 24 ∧ q.mcnt ≤ 4096 ∧ zeroBytes (getBytes u.mem b 64) 27 5 then
          let q := { q with st := 1, auto := bit v 3 }
          let q := if r.st = 0 then { q with arriv := 0, narr := 0, marr := 0, nmarr := 0, pend := 0 }
            else { q with arriv := r.narr, marr := r.nmarr, narr := 0, nmarr := 0 }
          some (((u.setBar b q).barClose b).endBarWaits b)
        else none
      else none
    else if r.st = 0 ∨ r.st = 3 ∨ r.st = 4 then some ((u.barWaits b).endBarWaits b)
    else none

/-- The device barrier DPHB of core k names, when it is OPEN (R273). -/
def State.dphb (s : State) (k : Nat) : Option Nat :=
  let p := ((s.coreOf k).csr 0x3DA).toNat
  if p = 0 then none
  else match s.barrierAt (s.ctxNoOf k) p with
    | some b => if s.barOpen b then some b else none
    | none => none

/-- Barriers broken when a context becomes DEAD or takes a class 13 trap (R295): those it arrived at in the current phase,
or marked with the marker not delivered; a context that is off its cores has no such marker, since it has drained (R277). -/
def State.breakFor (s : State) (x : Nat) : State :=
  let bs := s.arrs.filterMap (fun a => if a.2.1 = x ∧ a.2.2 = (s.bar a.1).phase then some a.1 else none)
  let ms := if (s.ctxOf x).loc = .cores then (s.coresOfCtx x).flatMap (fun c => (s.coreOf c.2).marks.map (fun m => m.bar)) else []
  s.forEach (bs ++ ms).eraseDups (fun b s => s.breakBar b)

end Sys2Proof.Machine
end

