-- ==== Sys2Proof/Machine/Queue.lean ====
section
/-! DEFINITION. The ring shape and the queues in device memory (R308 to R315). -/

namespace Sys2Proof.Machine

/-! ### The ring shape (R308 to R310) -/

/-- A difference of free-running counters. -/
def diff32 (a b : Nat) : Nat := (a + 2 ^ 32 - b % 2 ^ 32) % 2 ^ 32

/-- The phase of ticket j in a ring of 2^n slots. -/
def phaseOf (n j : Nat) : Nat := j / 2 ^ n % 2

/-- Whether a tag is CLAIMED for ticket j. -/
def tagClaimed (n j tag : Nat) : Bool := tag % 2 != phaseOf n j

/-- Whether a tag is FULL for ticket j. -/
def tagFull (n j tag : Nat) : Bool := tag % 2 == phaseOf n j && tag / 2 % 2 != phaseOf n j

/-- A tag after the ticket is published, with content or VOID. -/
def tagPublish (n j tag : Nat) (void : Bool) : Nat := phaseOf n j + tag / 2 % 2 * 2 + void.toNat * 4

/-- A tag after the ticket is released. -/
def tagRelease (n j tag : Nat) : Nat := tag % 2 + phaseOf n j * 2 + tag / 4 % 2 * 4

/-- The ticket of a slot in [lo, hi), when it has one. -/
def ticketOf (n lo hi slot : Nat) : Option Nat :=
  let d := (slot + 2 ^ n - lo % 2 ^ n) % 2 ^ n
  if d < diff32 hi lo then some ((lo + d) % 2 ^ 32) else none

/-- The release point moved over every released ticket below the head; `fuel` bounds the tickets. -/
def advance (n : Nat) (tag : Nat → Nat) (h : Nat) : Nat → Nat → Nat
  | 0, q => q
  | f + 1, q =>
    if 0 < diff32 h q ∧ tag (q % 2 ^ n) / 2 % 2 = phaseOf n q then advance n tag h f ((q + 1) % 2 ^ 32) else q

/-! ### Device-memory queues -/

/-- The segments of n bytes of window 0x4 of a queue's context. -/
def State.qSegs (s : State) (k : Queue) (p n : Nat) : List Seg := s.segsAt k.ctx (bits p 55 0) n

/-- The tag of a slot of a queue. -/
def State.qTag (s : State) (k : Queue) (slot : Nat) : Nat := leNat (s.readSegs (s.qSegs k (k.tagp + slot) 1))

/-- A tag of a queue written, whether its page has W or not (R312); in a tile pool the version decides, as for any other write (R363). -/
def State.setQTag (s : State) (k : Queue) (slot v : Nat) : State :=
  s.sysAct k.ctx (s.sysPlanWith false k.ctx (k.tagp + slot) 1 none) (toLE 1 v)

/-- The pointer of ticket j's slot. -/
def Queue.slotPtr (k : Queue) (j : Nat) : Nat := k.base + j % 2 ^ k.logn * (k.slotsz * 64)

/-- The slot a pointer is the first byte of. -/
def Queue.slotAt (k : Queue) (p : Nat) : Option Nat :=
  let z := k.slotsz * 64
  if k.base ≤ p ∧ z ≠ 0 ∧ (p - k.base) % z = 0 ∧ (p - k.base) / z < 2 ^ k.logn then some ((p - k.base) / z) else none

/-- The core may be served now: it is the first that waits, or none waits (R318). In replay the log alone orders those that wait (R342). -/
def State.turnOf (s : State) (x core : Nat) (l : List Nat) : Bool :=
  match l with
  | [] => true
  | k :: _ => k == core || bits ((s.ctxOf x).csr 0x3F3).toNat 1 0 == 2

/-- A core takes its place among those that wait. -/
def joinWait (l : List Nat) (core : Nat) : List Nat := if l.contains core then l else l ++ [core]

/-- A store queue in which the claim of queue q that waits has ended. -/
def StreamSt.endClaim (m : StreamSt) (q : Nat) : StreamSt :=
  { m with stores := m.stores.map (fun e => { e with elems := e.elems.map (fun x => match x.op with
      | .qclaim n nw d _ => if n = q then { x with op := .qclaim n nw d true } else x
      | _ => x) }) }

/-- Every word that waits on queue q in the places `ks` ends with the cause it gives for a queue that is not ACTIVE: an RCLAIM in the C store queue,
else the word the C stream stands in (R313). -/
def State.endQueueWaits (s : State) (q : Nat) (claims : Bool) (ks : List Nat) : State :=
  s.forEach ks (fun k s =>
    let c := s.coreOf k
    s.setCoreOf k (if claims ∧ (s.queueOf q).kind = 1 then { c with cS := c.cS.endClaim q }
      else { c with rwait := setKey c.rwait 0 (.over 0x090) }))

/-- A queue enters a state in which no word may wait on it. -/
def State.closeQueue (s : State) (q : Nat) (st : RingState) : State :=
  let k := s.queueOf q
  ((s.setQueueOf q { k with st := st, waitC := [], waitT := [] }).endQueueWaits q true k.waitC).endQueueWaits q false k.waitT

/-- DRAINING becomes DISABLED at Q = T (Table 12-4). -/
def State.settleQueue (s : State) (q : Nat) : State :=
  let k := s.queueOf q
  if k.st = .draining ∧ k.q = k.t then (s.setQueueOf q { k with claims := [], takes := [] }).closeQueue q .disabled else s

/-- Ticket j of a queue published (R310, R315). -/
def State.qPublish (s : State) (q j : Nat) (void : Bool) : State :=
  let k := s.queueOf q
  let slot := j % 2 ^ k.logn
  let s := s.setQTag k slot (tagPublish k.logn j (s.qTag k slot) void)
  s.setQueueOf q { k with claims := k.claims.filter (fun c => c.1 != j) }

/-- Ticket j of a queue released (R310). -/
def State.qRelease (s : State) (q j : Nat) : State :=
  let k := s.queueOf q
  let slot := j % 2 ^ k.logn
  let s := s.setQTag k slot (tagRelease k.logn j (s.qTag k slot))
  (s.setQueueOf q { k with takes := k.takes.filter (fun c => c.1 != j), q := advance k.logn (s.qTag k) k.h (2 ^ k.logn) k.q }).settleQueue q

/-- Every VOID ticket at the head taken and released (R315); `fuel` bounds them. -/
def State.qSkipVoid (q : Nat) : Nat → State → State
  | 0, s => s
  | f + 1, s =>
    let k := s.queueOf q
    let tag := s.qTag k (k.h % 2 ^ k.logn)
    if 0 < diff32 k.t k.h ∧ tagFull k.logn k.h tag ∧ bit tag 2 then
      State.qSkipVoid q f ((s.setQueueOf q { k with h := (k.h + 1) % 2 ^ 32 }).qRelease q k.h)
    else s

/-- Whether a claim finds the queue full. -/
def Queue.full (k : Queue) : Bool := decide (2 ^ k.logn ≤ diff32 k.t k.q)

/-- Whether the head slot is FULL. -/
def State.qReady (s : State) (k : Queue) : Bool :=
  decide (0 < diff32 k.t k.h) && tagFull k.logn k.h (s.qTag k (k.h % 2 ^ k.logn))

/-- The ticket of the slot at a pointer, in a range, when its tag passes a test. -/
def State.heldTicket (s : State) (k : Queue) (p lo hi : Nat) (f : Nat → Nat → Bool) : Option Nat :=
  (k.slotAt p).bind (fun slot => (ticketOf k.logn lo hi slot).filter (fun j => f j (s.qTag k slot)))

/-- The ticket that an RPUBL, or an RRELS for `rel`, of the slot at a pointer acts on (R310). -/
def State.heldBy (s : State) (k : Queue) (p : Nat) (rel : Bool) : Option Nat :=
  if rel then s.heldTicket k p k.q k.h (tagFull k.logn) else s.heldTicket k p k.q k.t (tagClaimed k.logn)

/-- A queue is faulted (R313). -/
def State.faultQueue (s : State) (q : Nat) : State :=
  let k := s.queueOf q
  if k.st = .active ∨ k.st = .draining then s.closeQueue q .faulted else s

/-- RPUBL, or RRELS for `rel`, acts on ticket j of a queue (R310): none when the queue or the slot is no longer in a state for it, and the queue
is then faulted. -/
def State.ringAct (s : State) (q j : Nat) (rel : Bool) : Option State :=
  let k := s.queueOf q
  if (k.st = .active ∨ k.st = .draining) ∧ s.heldBy k (k.slotPtr j) rel = some j then
    some (if rel then s.qRelease q j else s.qPublish q j false)
  else none

end Sys2Proof.Machine
end

