-- ==== Sys2Proof/Machine/Kill.lean ====
section
/-! DEFINITION. What ends with a stopping or dying context: waits, transfers, queues, groups, tasks, collective groups
(R295, R300, R306, R313, R345, R372, R423). -/

namespace Sys2Proof.Machine

/-- A barrier wait whose stream is stopped: a BARAW whose arrival has been counted waits on its phase again on resumption, a BARW starts
from its beginning (R301). -/
def BarWait.stop : BarWait → BarWait
  | .wait b p true => .stopped b p
  | .wait _ _ false => .none
  | w => w

/-- An RCLAIM that waits in the C store queue of a stopped core starts again when its stream goes on: it is set aside with what follows it (R104,
R317). -/
def State.setAside (s : State) (core : Nat) : State :=
  let c := s.coreOf core
  let waits (e : StoreElem) : Bool := match e.op with
    | .qclaim q _ _ _ => (s.queueOf q).waitC.contains core
    | _ => false
  match c.cS.stores.find? (fun e => e.elems.any waits) with
  | some e => s.setCoreOf core (c.freeze .C e.seq)
  | none => s

/-- What a stopped core's waiting words held is given up: wait entries, poll registers, places in waiting lists (R104, R301,
R306). -/
def State.dropWaits (s : State) (core : Nat) : State :=
  let c := s.coreOf core
  let w : WaitSt := match c.wait with
    | .woken v => .woken v
    | _ => .none
  let s := s.setCoreOf core { c with wait := w, bwait := c.bwait.stop, evWait := [], rwait := c.rwait.filter (fun e => e.2.ended), want := [] }
  let s := s.setAside core
  let s := (s.forN 4 (fun d s => s.setDieOf d { s.dieOf d with waits := (s.dieOf d).waits.filter (fun w => w.core != core) })).dropSend core
  { s with queues := mapVals (fun _ q => { q with waitC := q.waitC.filter (fun k => k != core),
                                                  waitT := q.waitT.filter (fun k => k != core) }) s.queues }

/-- The group barriers of every task of a context that is stopped by a trap become BROKEN (R300). -/
def State.breakGroups (s : State) (x : Nat) : State :=
  s.forEach ((s.tasks.filter (fun t => t.2.ctx == x && t.2.group.isSome)).map (fun t => t.1)) (fun i s => s.breakTask i none)

/-- The informational and flag effects of a transfer that goes FAULTED (R372): PEND falls, its barrier breaks, the flag
takes bit 31 (not for a DEAD context, `quiet`: nothing further is written, Table 16-4), FLT and LASTF of its queue are set, and the
versions a checkpoint held are let go. -/
def State.faultXfer (s : State) (x q : Nat) (quiet : Bool) (t : Xfer) : State :=
  let s := match t.bar with
    | some b => (s.subPend b t.bytes).breakBar b
    | none => s
  let s := if quiet then s else s.flagUpdate x t.core t.flag t.ftag (fun v => v ||| 0x80000000)
  let s := s.letGo x t
  let c := (s.ctxOf x).cq q
  let s := s.setCtxOf x { s.ctxOf x with
    copyq := setKey (s.ctxOf x).copyq q { c with cmds := c.cmds.filter (fun e => e.num != t.num), flt := true, lastf := max c.lastf t.num } }
  (s.inform x t.core 4).send (.xferFault x q t.num)

/-- WITHDRAW of a collective group of the context (R432): the group is BROKEN. -/
def State.withdraw (s : State) (l : Nat) : State :=
  match find? s.fabric.groups l with
  | none => s
  | some g => { s with fabric := { s.fabric with groups := setKey s.fabric.groups l { g with st := .broken, pendJoin := [] } } }.send (.withdraw l)

/-- A stream stopped for good: its queues are discarded. -/
def StreamSt.halt (m : StreamSt) : StreamSt :=
  { m with run := false, waiting := false, loads := [], stores := [], posts := [], out := [] }

/-- Every stream of a core stopped for good, and the core without a task. -/
def CoreSt.haltAll (k : CoreSt) : CoreSt :=
  { k with cS := k.cS.halt, lS := k.lS.halt, vS := k.vS.halt, mS := k.mS.halt, sS := k.sS.halt, marks := [], links := [], wacks := 0,
           task := none, hand := none, wait := .none, bwait := .none, late := [], frozen := [], rwait := [], sleep := none, ended := false }

/-- A core of the partition halted. -/
def State.haltCore (s : State) (core : Nat) : State :=
  let s := s.dropWaits core
  s.setCoreOf core (s.coreOf core).haltAll

/-- What is kept of a core of a DEAD context: CAUSE and its trap record. -/
def CoreSt.recordOnly (c : CoreSt) : CoreSt := { CoreSt.zero with csrs := c.csrs.filter (fun e => decide (0x304 ≤ e.1) && decide (e.1 ≤ 0x30F)) }

/-- Every effect of R423 on a context that becomes DEAD, with the code reported. -/
def State.killCtx (s : State) (x code : Nat) : State :=
  let s := s.breakFor x
  let cs := s.coresOfCtx x
  -- the trap records stay readable through SUMMARY (R415, R450)
  let recs := cs.map (fun (c : Nat × Nat) => (x * 256 + c.1, (s.savedCore x c).recordOnly))
  let onCores := (s.ctxOf x).loc == .cores
  -- stop every stream and discard store queues
  let s := if onCores then s.forEach cs (fun c s => s.haltCore c.2) else s
  -- transfers
  let ts := (s.ctxOf x).copyq.flatMap (fun q => (q.2.cmds.map (fun t => (q.1, t))))
  let s := s.forEach ts (fun t s => s.faultXfer x t.1 true t.2)
  -- collective groups
  let s := s.forEach ((s.fabric.groups.filter (fun g => g.2.ctx == x)).map (fun g => g.1)) (fun l s => s.withdraw l)
  -- queues
  let s := s.forEach ((s.queues.filter (fun q => q.2.ctx == x)).map (fun q => q.1)) (fun q s => s.faultQueue q)
  -- tasks and groups
  let s := s.breakGroups x
  let live := s.tasks.filter (fun t => t.2.ctx == x && !t.2.over)
  let s := { s with
    tasks := mapVals (fun _ (t : Task) => if t.ctx = x ∧ !t.over then
      { t with st := .abandoned, cores := [], group := t.group.map (fun (g : Group) => { g with st := .disbanded }) } else t) s.tasks,
    pools := mapVals (fun _ (p : RPool) => { p with
      claimed := p.claimed.filter (fun i => ((find? s.tasks i).map (fun (t : Task) => t.ctx != x)).getD false),
      tasks := p.tasks.filter (fun e => ((find? s.tasks e.2.2).map (fun (t : Task) => t.ctx != x)).getD false) }) s.pools }
  let s := s.forEach live (fun _ s => s.tick x)
  -- its launches are complete, and those not started will not start
  let s := s.reap
  let s := { s with graphs := mapVals (fun _ (g : Graph) => if g.ctx = x then { g with launches := [] } else g) s.graphs }
  let s := s.forEach ((live.map (fun t => t.2.kslot)).eraseDups) (fun n s => s.retireKernel n)
  -- the partition
  let p := (s.ctxOf x).part
  let s := s.setPartOf p { s.partOf p with
    live := if (s.partOf p).live = some x then none else (s.partOf p).live,
    shelf := if (s.partOf p).shelf = some x then none else (s.partOf p).shelf,
    next := if (s.partOf p).next = some x then (s.partOf p).after.head? else (s.partOf p).next,
    after := ((if (s.partOf p).next = some x then (s.partOf p).after.drop 1 else (s.partOf p).after)).filter (fun y => y != x),
    swap := (s.partOf p).swap && !((s.partOf p).next == none && (s.partOf p).live == some x) }
  let s := { s with shelf := s.shelf.filter (fun (e : Nat × CoreSt) => e.1 / 256 != x),
                    spill := s.spill.filter (fun (e : Nat × CoreSt) => e.1 / 256 != x) ++ recs }
  let c := s.ctxOf x
  (s.setCtxOf x { c with st := .dead, loc := .zero, moving := none, stop := some (c.stop.getD code) }).sendFirst c x code

/-! ### Integrity faults (R232) -/

/-- The slots a stopped task had claimed or taken in the queues of its context (R315). -/
def State.voidTickets (s : State) (x i : Nat) : State :=
  s.forEach ((s.queues.filter (fun q => q.2.ctx == x)).map (fun q => q.1)) (fun q s =>
    let k := s.queueOf q
    let s := s.forEach ((k.claims.filter (fun c => c.2 == s.taskKey i)).map (fun c => c.1)) (fun j s => s.qPublish q j true)
    s.forEach ((k.takes.filter (fun c => c.2 == s.taskKey i)).map (fun c => c.1)) (fun j s => s.qRelease q j))

/-- A member (physical, logical) of a task of context x halted, wherever its state is held. -/
def State.haltMember (s : State) (x : Nat) (c : Nat × Nat) : State :=
  if (s.ctxOf x).loc = .cores then (if s.ctxNoOf c.1 = x then s.haltCore c.1 else s) else s.onSaved x c.2 CoreSt.haltAll

/-- Steps 1, 3 and 4 of R232: the members of the task in entry i are stopped, the task returns to READY with its ticket and priority (a rebuild run
too: Table 13-4), and the versions it sealed become LOST. A RETIRED kernel it was the last to run is ABSENT. -/
def State.returnTask (s : State) (i : Nat) : State :=
  match find? s.tasks i with
  | none => s
  | some t =>
    let s := s.forEach t.cores (fun c s => s.haltMember t.ctx c)
    let s := s.voidTickets t.ctx i
    let s := s.forEach t.sealed (fun v s => s.loseVer t.ctx v.1 v.2.1 v.2.2)
    let s := if t.origin = .rebuild then s.dropPrivs t.ctx t.lid else s
    let part := (s.ctxOf t.ctx).part
    let die := s.keptDie t
    let p := s.rpool part die
    let s := s.setRpool part die { p with tasks := p.tasks ++ [(t.level, t.ticket, i)] }
    ((s.setTask i { t with st := .ready, die := die, cores := [], started := [], ended := [], aband := false, sealed := [], allocs := [],
                           aredos := [], group := none }).retireKernel t.kslot).raiseRebuilds t.ctx

/-- A core taken out of service (R232): the replace request is set, and the almanac is written (R451). -/
def State.fenceCore (s : State) (core : Nat) : State :=
  let d := { s.dev with fenced := core :: s.dev.fenced.filter (fun k => k != core) }
  { s with dev := { d with almFlash := d.almanac } }.askReplace

/-- The report of an integrity fault of core `core` (R232, R234), whose trap record is written: row, d(i) and tol. -/
def State.integrity (s : State) (core code row detail : Nat) : State :=
  let x := s.ctxNoOf core
  let i := (s.coreOf core).task
  let s := s.count 5 core 1
  let s := match i with
    | some i => s.returnTask i
    | none => s.haltCore core
  (s.fenceCore core).send (.integrity x core code row (detail / 2 ^ 32) (detail % 2 ^ 32))

end Sys2Proof.Machine
end

