-- ==== Sys2Proof/Machine/Ops.lean ====
section
/-! DEFINITION. The named operations over the state: fetching a stream's code, taking a cause and returning from its
handler (R413 to R419), issue and retirement of words, and the interlocked register accesses of the C stream. -/

namespace Sys2Proof.Machine

/-! ### The code of a stream -/

/-- `n` bytes at offset `o` of the image a stream of the core runs: its kernel's (R96, R98), or for the C stream in handler mode the
handler's (R416). -/
def State.imageBytes (s : State) (core : Nat) (t : Strm) (o n : Nat) : List Byte :=
  let c := s.coreOf core
  match c.hand, t with
  | some h, .C => s.readSegs (s.segsAt (s.ctxNoOf core) (bits h.code 55 0 + o) n)
  | _, _ => getBytes s.mem ((s.kernelOf (c.csr 0x010).toNat).image + o) n

/-- The offset and the number of words of a stream's code array (Table 4-1). -/
def State.codeArray (s : State) (core : Nat) (t : Strm) : Nat × Nat :=
  let h := s.imageBytes core t (0x10 + 16 * strmNo t) 8
  (fieldLE h 0 4, fieldLE h 4 4)

/-- Bytes of one word of a stream (R26). -/
def wordLen : Strm → Nat
  | .C => 4
  | .M => 24
  | _ => 12

/-- The bytes of word n of a stream's array. -/
def State.wordAt (s : State) (core : Nat) (t : Strm) (n : Nat) : List Byte :=
  s.imageBytes core t ((s.codeArray core t).1 + n * wordLen t) (wordLen t)

/-- Whether a stream is present in the image the core runs (smask, Table 4-1). -/
def State.present (s : State) (t : Strm) : Bool := bit (leNat (s.imageBytes s.cur .C 6 2)) (strmNo t)

/-- The target of a taken transfer: inside the stream's array, or cause 0x025 (R111, R136). -/
def State.target (s : State) (t : Strm) (n : Int) : Res Nat :=
  if 0 ≤ n ∧ n < ((s.codeArray s.cur t).2 : Int) then .ok n.toNat else stop 0x025

/-! ### Taking a cause -/

/-- What a trap record says of the failing word: its stream (5 a copy queue, 6 the context), timeline number, macro-PC,
μPC, copy queue. -/
structure Site where
  strm : Nat
  cmd : Nat
  mpc : Nat
  upc : Nat
  cq : Nat
  deriving DecidableEq, Repr

/-- Whether a stream of a core is running: the C stream while the core runs a task, an engine from FORK to END. -/
def CoreSt.running (c : CoreSt) (t : Strm) : Bool := if t = .C then c.task.isSome && !c.ended else (c.strm t).run

/-- Bits of a per-stream flag, stream n at bit n. -/
def strmBits (f : Strm → Bool) : Nat :=
  (f .C).toNat + 2 * (f .L).toNat + 4 * (f .V).toNat + 8 * (f .M).toNat + 16 * (f .S).toNat

/-- A core with its trap record written (Table 18-4a); `lc` is its logical number. -/
def CoreSt.record (c : CoreSt) (lc : Nat) (w : Site) (code addr detail : Nat) (hnd : Bool) : CoreSt :=
  let set (n v : Nat) (c : CoreSt) : CoreSt := c.setCsr n (BitVec.ofNat 64 v)
  let wait := strmBits (fun t => (c.strm t).waiting && c.running t)
  let c := set 0x304 code c
  let c := set 0x308 (code + hnd.toNat * 512) c
  let c := set 0x309 w.cmd c
  let c := set 0x30A (w.strm + w.cq * 256 + lc * 65536) c
  let c := set 0x30B (strmBits c.running + wait * 32) c
  let c := set 0x30C w.mpc c
  let c := set 0x30D w.upc c
  let c := set 0x30E addr c
  set 0x30F detail c

/-- The trap record of a core written. -/
def State.record (s : State) (core : Nat) (w : Site) (code addr detail : Nat) (hnd : Bool) : State :=
  s.setCoreOf core ((s.coreOf core).record (s.lcoreOf core) w code addr detail hnd)

/-- The context stops: its streams stop at their stop points, what waiting words held is given up, and it is DRAINING until
R277 is met (R406, R415). A class 13 cause breaks its barriers (R295); any stop breaks its groups' barriers (R300). -/
def State.stopCtx (s : State) (x code : Nat) : State :=
  let s := if code / 32 = 13 then s.breakFor x else s
  let s := s.breakGroups x
  let s := s.forEach (s.coresOfCtx x) (fun c s => s.dropWaits c.2)
  let c := s.ctxOf x
  (s.setCtxOf x { c with st := .draining, stop := some (c.stop.getD code) }).sendFirst c x code

/-- The handler table entry of a class (R416): CODE, SAVEB, DATA; none when the class has no handler. -/
def State.handlerEntry (s : State) (x cls : Nat) : Option (Nat × Nat × Nat) :=
  let b := ((s.ctxOf x).csr 0x301).toNat
  if b = 0 then none
  else
    let e := s.readSegs (s.segsAt x (bits b 55 0 + cls * 32) 32)
    if fieldLE e 0 8 = 0 then none else some (fieldLE e 0 8, fieldLE e 8 8, fieldLE e 16 8)

/-- Where the four lines of a save area go, and what becomes of them. -/
def State.saveLines (s : State) (x sv : Nat) : List (List Seg × SysOut) :=
  (List.range 4).map (fun i => s.sysPlan x (4 * 2 ^ 60 + (bits sv 55 0 + 64 * i) % 2 ^ 56) 64 s.runLid)

/-- Where the current core saves its registers when it enters the handler of a table entry (R417). -/
def State.saveArea (s : State) (he : Nat × Nat × Nat) : Nat := he.2.1 + s.lcoreOf s.cur * 256

/-- The lost die or the poisoned frame, as a cause with its address and detail, that n bytes of window 0x4 meet which Skatas itself reads or writes (R16,
R362). -/
def State.areaBad (s : State) (x p n : Nat) : Option (Nat × Nat × Nat) :=
  match xlate s .tables x 4 (bits p 55 0) n false 0 with
  | .error (.cause c a d) => if c = 0x1A1 ∨ c = 0x084 then some (c, a, d) else none
  | _ => none

/-- What handler entry meets instead, for a class whose context has a handler table: the table or the save area on a lost die or in a
poisoned frame (R16, R362; log entry 99). -/
def State.entryBad (s : State) (x cls : Nat) : Option (Nat × Nat × Nat) :=
  let b := ((s.ctxOf x).csr 0x301).toNat
  if b = 0 then none
  else match s.areaBad x (b + cls * 32) 32 with
    | some e => some e
    | none => (s.handlerEntry x cls).bind (fun he => s.areaBad x (s.saveArea he) 256)

/-- Entering a handler on the current core (R417). Its streams stop: waiting words give up their places and start again afterwards; a
SLEEP keeps its remaining count (R104), a BARAW whose arrival has been counted its phase (R301), and a wait that has ended its value, until
ERET. `cont` is where the failing stream goes on when the cause was one of work issued before (R114, R366); for the C stream the macro-PC saved is then the
failing word's. -/
def State.enterHandler (s : State) (t : Strm) (mpc : Nat) (cont : Option Nat) (code : Nat) (he : Nat × Nat × Nat) : State :=
  let x := s.ctxNo
  let sv := s.saveArea he
  let pc := if t = .C ∧ cont.isSome then mpc else s.core.cS.pc
  let img := toLE 8 pc ++ (List.range' 1 31).flatMap (fun n => toLE 8 (s.core.sreg (BitVec.ofNat 5 n)).toNat)
  let lines := (s.saveLines x sv).zip ((List.range 4).map (fun i => (img.drop (64 * i)).take 64))
  let tab := s.segsAt x (bits (((s.ctxOf x).csr 0x301).toNat + code / 32 * 32) 55 0) 32
  let s := ((s.dropWaits s.cur).touch x (tab.filterMap (fun c => homeDie c.pa))).forEach lines (fun e s => s.sysAct x e.1 e.2)
  let k := s.core
  let c := { k.leaveRing .C with
    sregs := [], hand := some ⟨he.1, sv, t, mpc, cont, pc, k.cS.seq, k.sleep, k.bwait, k.wait, k.ringOver .C⟩, sleep := none, bwait := .none, wait := .none }
  let c := ((c.setSreg 1 (BitVec.ofNat 64 he.2.2)).setSreg 2 (BitVec.ofNat 64 code)).setSreg 3 (BitVec.ofNat 64 sv)
  s.setCore { c with cS := { c.cS with pc := 0, waiting := false } }

/-- Whether values the C stream still waits for would land in a handler's registers. -/
def CoreSt.owes (c : CoreSt) : Bool := !c.cS.loadsDone c.cS.seq

/-- The handler a cause enters, when one is installed for its class (R414, R417). -/
def State.handlerOf (s : State) (code : Nat) : Option (Nat × Nat × Nat) :=
  if code / 32 = 13 ∨ code / 32 = 14 then none else s.handlerEntry s.ctxNo (code / 32)

/-- The values that loads and atomics of the C stream owe hold back the handler that a cause would enter: they would land in its registers. -/
def State.owedFirst (s : State) (code : Nat) : Bool :=
  s.core.hand.isNone && code != 0x100 && code != 0x102 && (s.handlerOf code).isSome && s.core.owes

/-- Whether a cause of stream `t` of the current core can be taken now. While the context drains, a cause is discarded and raised again
on resumption (R410, R415), but for classes 8, 13 and 14 while it drains for a swap (R410). While a handler runs, a cause of an engine
stream is raised afterwards (R415). A handler is entered once the loads and atomics of the C stream have returned. -/
def State.raisable (s : State) (t : Strm) (code : Nat) : Bool :=
  let x := s.ctxOf s.ctxNo
  let cls := code / 32
  (x.st == .running || (x.st == .draining && x.stop == none && (cls == 8 || cls == 13 || cls == 14))) &&
    (s.core.hand.isNone || t == .C || cls == 13 || cls == 14) && !s.owedFirst code

/-- Taking a cause of the context itself: the record of logical core 0 is written unless it holds the cause that has stopped the context already
(R415), no handler is entered, the context stops (R413, R414); one that is SHELVED or SPILLED is TRAPPED where it is (R15). `lcore` is what TRAPW2 names. -/
def State.raiseCtx (s : State) (x code addr detail lcore : Nat) : State :=
  let st := (s.ctxOf x).st
  if st = .free ∨ st = .dead then s
  else
    let s := if (s.ctxOf x).stop.isSome then s else s.onSaved x 0 (fun c => c.record lcore ⟨6, 0, 0, 0, 0⟩ code addr detail false)
    if st = .running ∨ st = .draining then s.stopCtx x code
    else
      let s := if code / 32 = 13 then s.breakFor x else s
      let s := s.breakGroups x
      let c := s.ctxOf x
      (s.setCtxOf x { c with st := .trapped, stop := some (if code = 0x1A2 then code else c.stop.getD code) }).sendFirst c x code

/-- The tasks of a pool that are the first of their level among those of a context. -/
def RPool.heads (p : RPool) (f : Nat → Bool) : List Nat :=
  let ts := p.tasks.filter (fun e => f e.2.2)
  (ts.filter (fun e => ts.all (fun g => g.1 != e.1 || decide (e.2.1 ≤ g.2.1)))).map (fun e => e.2.2)

/-- The check of R347: a gang larger than its partition at the head of its level, in any pool of a RUNNING context, takes cause 0x14B. -/
def State.checkHeads (s : State) (x : Nat) : State :=
  let c := s.ctxOf x
  let task (i : Nat) : Option Task := (find? s.tasks i).filter (fun t => t.ctx == x)
  let wide (i : Nat) : Bool := ((task i).map (fun t => decide ((s.coresOfCtx x).length < t.gang))).getD false
  if c.st = .running ∧ (List.range 4).any (fun d => ((s.rpool c.part d).heads (fun i => (task i).isSome)).any wide) then s.raiseCtx x 0x14B 0 0 0
  else s

/-- A word whose cause is not taken now stays at its stop point; for the M stream of a context that drains, or of a core in a handler, that is
where the stream has stopped (R206, R410, R415). -/
def State.leaveAt (s : State) (t : Strm) : State :=
  let s := s.setSm t { s.sm t with waiting := false }
  if t = .M ∧ ((s.ctxOf s.ctxNo).st = .draining ∨ s.core.hand.isSome) then s.setCore { s.core with mstop := true } else s

/-- Taking a cause of a word of stream `t` on the current core: the one shared operation (Table 18-4). One that cannot be taken now
leaves the word at its stop point, where it raises its cause again. In a handler every cause but those of classes 0, 13
and 14 is 0x1A3, and the context dies (R418). Causes 0x100 and 0x102 stop the core task alone (R232). Otherwise the handler of the class
is entered, or the context stops; when the handler cannot be entered for a lost die or a poisoned frame, it stops with that cause. `cont` is where
the failing stream goes on after a cause of work it issued before (R114, R366). -/
def State.raiseAt (s : State) (t : Strm) (w : Site) (cont : Option Nat) (code addr detail : Nat) : State :=
  let x := s.ctxNo
  let cls := code / 32
  if !s.raisable t code then s.leaveAt t
  else if s.core.hand.isSome ∧ cls ≠ 13 ∧ cls ≠ 14 then
    (s.record s.cur w 0x1A3 addr detail false).killCtx x 0x1A3
  else if code = 0x100 ∨ code = 0x102 then ((s.record s.cur { w with upc := 0 } code addr detail false).integrity s.cur code addr detail).checkHeads x
  else
    let k := if code = 0x162 then s.count 10 0 1 else s
    match if cls = 13 ∨ cls = 14 then none else s.entryBad x cls with
    | some (c, a, d) => (k.record s.cur w c a d false).stopCtx x c
    | none =>
      match s.handlerOf code with
      | some he => (k.record s.cur w code addr detail true).enterHandler t w.mpc cont code he
      | none => (k.record s.cur w code addr detail false).stopCtx x code

/-- Taking a precise cause. -/
def State.raise (s : State) (t : Strm) (w : Site) (code addr detail : Nat) : State := s.raiseAt t w none code addr detail

/-- The M word that stands inside its work is left: it holds nothing any more, and the number it has taken is complete. -/
def CoreSt.leaveWord (c : CoreSt) : CoreSt :=
  match c.within.bind (fun h => h.num) with
  | some n => { c with within := none, mS := c.mS.finishNum n }
  | none => { c with within := none }

/-- ERET in handler mode (R419), once earlier stores and atomics have performed at core scope: s1 to s31 and the macro-PC
come back from the save area, and what the interrupted C word had under way when that macro-PC is its own; a failing engine stream resumes at TRAPW4, with its μPC kept only when TRAPW4 is unchanged, or, after a
cause of work it issued before, where it stopped when TRAPW4 is unchanged (R114, R366): what its queues set aside is then put back. The same holds
of the C stream and the macro-PC in the save area. -/
def State.eret (s : State) (h : HandlerSt) : State :=
  let img := s.readSegs (s.segsAt s.ctxNo (bits h.save 55 0) 256)
  let c := s.core
  let regs := (List.range' 1 31).foldl (fun m n => put 0 m n (BitVec.ofNat 64 (fieldLE img (8 * n) 8))) []
  let c := { c with sregs := regs, hand := none, mstop := false, sleep := none, bwait := .none, wait := .none,
                    cS := { c.cS with pc := fieldLE img 0 8, waiting := false } }
  let mpc := (c.csr 0x30C).toNat
  let same := if h.strm = .C then fieldLE img 0 8 == h.cpc else mpc == h.mpc
  let c := (if same then c else c.forget h.strm).thaw (fun _ => true)
  let c := c.leaveRing .C
  let c := if fieldLE img 0 8 = h.cpc then
    { c with sleep := h.sleep, bwait := h.bwait, wait := h.wait, rwait := (h.ringEnd.map (fun n => (0, .over n))).toList ++ c.rwait } else c
  let c := if h.strm = .C ∧ same then { c with cS := { c.cS with pc := h.cont.getD c.cS.pc } } else c
  let c :=
    if h.strm = .C then c
    else
      let c := c.setStrm h.strm { c.strm h.strm with pc := if mpc = h.mpc then h.cont.getD mpc else mpc }
      if h.strm = .M ∧ mpc ≠ h.mpc then { c.leaveWord with tiles := mapVals (fun _ t => { t with prog := 0, pend := 0 }) c.tiles } else c
  s.setCore c

/-! ### Causes of queued work -/

/-- A cause met by an access that stream `t` of the current core issued before: sequence number n, number `tl`, macro-PC `pc`, element `elem`. What the
queues of the stream hold from it on is set aside, and its cause is taken, precise: nothing of the word is done, and it is made again where it was when
the stream goes on (R131, R366, R415). A cause that cannot be taken yet leaves the access set aside until it can; one that owed values hold back changes
nothing yet; one of an access issued before the handler that runs waits for ERET. `first` is what the cause does before. -/
def State.accessFault (s : State) (t : Strm) (n tl pc elem : Nat) (first : State → State) (code addr detail : Nat) : State :=
  let f := s.setCore (s.core.freeze t n)
  if f.owedFirst code ∧ (s.ctxOf s.ctxNo).st = .running then s
  else if !f.raisable t code || (s.core.hand.any (fun h => t == .C && decide (n < h.seq)) && code / 32 != 13 && code / 32 != 14) then f
  else (first f).raiseAt t ⟨strmNo t, tl, pc, if t = .L ∨ t = .S then elem else 0, 0⟩ (some (s.sm t).pc) code addr detail

/-! ### POST -/

/-- Raises the POSTs of a stream of the current core that may be raised, oldest first (R137). One whose count would overflow has
completed without changing it, and owes its cause (R114). -/
def State.raisePosts (t : Strm) : Nat → State → State
  | 0, s => s
  | fuel + 1, s =>
    match (s.sm t).posts with
    | [] => s
    | p :: r =>
      if (s.sm t).postReady p.seq then
        let s := s.setCore (s.core.markCore t p.seq)
        let s := s.setSm t { s.sm t with posts := r }
        if 65535 < s.core.event p.ev + p.n then
          State.raisePosts t fuel (s.setCore { s.core with late := s.core.late ++ [⟨t, p.cmd, p.pc, 0x140, 0, 0⟩] })
        else State.raisePosts t fuel (s.setCore (s.core.setEvent p.ev (s.core.event p.ev + p.n)))
      else s

/-- The first cause the current core owes that can be taken is taken. -/
def State.raiseLate (s : State) : State :=
  match s.core.late.find? (fun l => s.raisable l.strm l.code) with
  | some l =>
    (s.setCore { s.core with late := s.core.late.erase l }).raiseAt l.strm ⟨strmNo l.strm, l.cmd, l.pc, 0, 0⟩ (some (s.sm l.strm).pc) l.code l.addr l.detail
  | none => s

/-- Every POST of the current core that may be raised is raised, and a cause the core owes is taken. -/
def State.flushPosts (s : State) : State :=
  (allStrms.foldl (fun s t => State.raisePosts t ((s.sm t).posts.length) s) s).raiseLate

/-- POST of n to event e by a stream takes its place (R114, R137). -/
def State.pushPost (s : State) (t : Strm) (e n cmd : Nat) : State :=
  let m := s.sm t
  s.setSm t { m with seq := m.seq + 1, posts := m.posts ++ [⟨e, n, m.seq, m.pc, cmd⟩] }

/-- An outcome followed by the POSTs that may be raised. -/
def thenPosts (o : Host.Outcome State Fault Refusal) : Host.Outcome State Fault Refusal :=
  match o with
  | .next s => .next s.flushPosts
  | o => o

/-! ### C words -/

/-- The current core's C stream. -/
def State.c (s : State) : StreamSt := s.core.cS

/-- The state with the C stream replaced. -/
def State.setC (s : State) (m : StreamSt) : State := s.setSm .C m

/-- A C word is done: the macro-PC moves to the next word. -/
def State.retire (s : State) : State := s.setC { s.c with pc := s.c.pc + 1, waiting := false }

/-- A C word is done with a transfer to word n. -/
def State.jump (s : State) (n : Nat) : State := s.setC { s.c with pc := n, waiting := false }

/-- A stream stands in a waiting word: nothing else changes (R104). -/
def State.park (s : State) (t : Strm) : State :=
  let s := s.setSm t { s.sm t with waiting := true }
  if s.core.wver.any (fun e => e.1 == t) then s.setCore { s.core with wver := s.core.wver.filter (fun e => e.1 != t) } else s

/-- A stream stands in a word that waits for a version, which is noted when it is LOST or REBUILDING, and raises its rebuild run (R336, R399). -/
def State.noteVer (s : State) (t : Strm) (h v : Nat) : State :=
  match s.handleSlot s.ctxNo h with
  | some (_, n, p) =>
    let st := (p.slot n).state v
    if st = some .lost ∨ st = some .rebuilding then
      ((s.setCore { s.core with wver := (t, h, v) :: s.core.wver }).raiseRebuilds s.ctxNo).checkHeads s.ctxNo
    else s
  | none => s

/-- The site of a C word; `num` says whether the word takes a TLC number. -/
def State.siteC (s : State) (num : Bool) : Site := ⟨0, if num then s.c.issued + 1 else 0, s.c.pc, 0, 0⟩

/-- What becomes of a C word: done, waiting, or a cause taken. -/
def finish (num : Bool) (r : Res State) (s : State) : Host.Outcome State Fault Refusal :=
  match r with
  | .ok t => .next t.retire
  | .error .wait => .next (s.park .C)
  | .error (.cause c a d) => .next (s.raise .C (s.siteC num) c a d)
  | .error (.at c a d _) => .next (s.raise .C (s.siteC num) c a d)

/-- What becomes of a C word that may transfer control: the state with the index of the next word. -/
def finishJump (r : Res (State × Nat)) (s : State) : Host.Outcome State Fault Refusal :=
  match r with
  | .ok (t, n) => .next (t.jump n)
  | .error .wait => .next (s.park .C)
  | .error (.cause c a d) => .next (s.raise .C (s.siteC false) c a d)
  | .error (.at c a d _) => .next (s.raise .C (s.siteC false) c a d)

/-- A read of a scalar register, interlocked: it waits for a load or atomic in flight to it (R109). -/
def State.rd (s : State) (r : Reg) : Res Word := if s.core.busy r then .error .wait else .ok (s.core.sreg r)

/-- A write of a scalar register, interlocked in the same way. -/
def State.wr (s : State) (r : Reg) (v : Word) : Res State :=
  if s.core.busy r then .error .wait else .ok (s.setCore (s.core.setSreg r v))

/-- The newest value of an address register for a stream other than the one whose update is pending (R48): every pending
post-update of the core applied. -/
def CoreSt.aregNew (c : CoreSt) (n : Nat) : AReg :=
  [c.lS, c.vS, c.mS, c.sS].foldl (fun a m => m.pend.foldl (fun a p =>
    if p.file = 3 ∧ p.num = n ∧ p.wr ≠ 0 then (match p.val with
      | .base b => { a with base := b }
      | .addr v => v
      | _ => a) else a) a) (c.areg n)

/-- Pending results of one register are not written any more, in any stream: a write ordered after them replaces them (R45). A word of their
own stream that reads the register too early still does so (R44). -/
def CoreSt.dropPend (c : CoreSt) (file num : Nat) : CoreSt :=
  let f (m : StreamSt) : StreamSt := { m with pend := m.pend.map (fun (p : Pend) => if p.file = file ∧ p.num = num then { p with wr := 0 } else p) }
  { c with lS := f c.lS, vS := f c.vS, mS := f c.mS, sS := f c.sS }

/-- An address register written whole by a word that is not of fixed latency (R48). -/
def CoreSt.putAreg (c : CoreSt) (n : Nat) (a : AReg) : CoreSt := (c.dropPend 3 n).setAreg n a

/-- A core with every pending result of address register n changed, in any stream. -/
def CoreSt.mapAddr (c : CoreSt) (n : Nat) (f : Pend → Pend) : CoreSt :=
  let g (m : StreamSt) : StreamSt := { m with pend := m.pend.map (fun (p : Pend) => if p.file = 3 ∧ p.num = n ∧ p.wr ≠ 0 then f p else p) }
  { c with lS := g c.lS, vS := g c.vS, mS := g c.mS, sS := g c.sS }

/-- Whether a write of the whole of address register n is pending. -/
def CoreSt.wholePend (c : CoreSt) (n : Nat) : Bool :=
  [c.lS, c.vS, c.mS, c.sS].any (fun m => m.pend.any (fun p => p.file == 3 && p.num == n && p.wr != 0 && (match p.val with
    | .addr _ => true
    | _ => false)))

/-- The base and stride of an address register written, its limit kept (R110): a pending whole write keeps its limit, and a pending
post-update is replaced. -/
def CoreSt.putBase (c : CoreSt) (n : Nat) (b : Word) (st : W32) : CoreSt :=
  (c.mapAddr n (fun p => match p.val with
    | .addr v => { p with val := .addr { v with base := b, stride := st } }
    | _ => { p with wr := 0 })).setAreg n { c.areg n with base := b, stride := st }

/-- The limit of an address register written, its base and stride kept (R110): a pending post-update still shows to its own stream at its
distance (R42). -/
def CoreSt.putLimit (c : CoreSt) (n : Nat) (l : W32) : CoreSt :=
  (c.mapAddr n (fun p => match p.val with
    | .addr v => { p with val := .addr { v with limit := l } }
    | _ => p)).setAreg n { c.areg n with limit := l }

/-- A post-update by a stream whose results are visible at once, with the new base as it follows from the newest value (R48). Over a pending
whole write it is a part of that write, so that no stream sees the new base with the old stride; over pending post-updates both take effect. -/
def CoreSt.moveBase (c : CoreSt) (n : Nat) (b : Word) : CoreSt :=
  let d := b - (c.aregNew n).base
  let k := c.mapAddr n (fun p => match p.val with
    | .addr v => { p with val := .addr { v with base := v.base + d } }
    | .base x => { p with val := .base (x + d) }
    | _ => p)
  if c.wholePend n then k else k.setAreg n { c.areg n with base := (c.areg n).base + d }

/-- TLC taken for a C word (R267). -/
def State.tlc (s : State) : Nat × State := (s.c.issued + 1, s.setC s.c.takeNum)

end Sys2Proof.Machine
end

