-- ==== Sys2Proof/Machine/Alu.lean ====
section
/-! DEFINITION. The ALU register group and the immediate group of the C stream (R106, R107). -/

namespace Sys2Proof.Machine

/-- An ALU word with two sources: sources read, the result written, both interlocked. -/
def alu2 (d a b : Reg) (f : Word → Word → Word) (s : State) : Res State := do
  let x ← s.rd a
  let y ← s.rd b
  s.wr d (f x y)

/-- An ALU word with one source. -/
def alu1 (d a : Reg) (f : Word → Word) (s : State) : Res State := do
  let x ← s.rd a
  s.wr d (f x)

/-- ADD (Table 4-6). -/
def execAdd (d a b : Reg) (s : State) : Host.Outcome State Fault Refusal :=
  finish false (alu2 d a b (fun x y => x + y) s) s

/-- SUB (Table 4-6). -/
def execSub (d a b : Reg) (s : State) : Host.Outcome State Fault Refusal :=
  finish false (alu2 d a b (fun x y => x - y) s) s

/-- MUL (Table 4-6). -/
def execMul (d a b : Reg) (s : State) : Host.Outcome State Fault Refusal :=
  finish false (alu2 d a b (fun x y => x * y) s) s

/-- MULH (Table 4-6). -/
def execMulh (d a b : Reg) (s : State) : Host.Outcome State Fault Refusal :=
  finish false (alu2 d a b (mulHi) s) s

/-- MULHU (Table 4-6). -/
def execMulhu (d a b : Reg) (s : State) : Host.Outcome State Fault Refusal :=
  finish false (alu2 d a b (mulHiU) s) s

/-- DIV (Table 4-6). -/
def execDiv (d a b : Reg) (s : State) : Host.Outcome State Fault Refusal :=
  finish false (alu2 d a b (divS) s) s

/-- DIVU (Table 4-6). -/
def execDivu (d a b : Reg) (s : State) : Host.Outcome State Fault Refusal :=
  finish false (alu2 d a b (divU) s) s

/-- REM (Table 4-6). -/
def execRem (d a b : Reg) (s : State) : Host.Outcome State Fault Refusal :=
  finish false (alu2 d a b (remS) s) s

/-- REMU (Table 4-6). -/
def execRemu (d a b : Reg) (s : State) : Host.Outcome State Fault Refusal :=
  finish false (alu2 d a b (remU) s) s

/-- AND (Table 4-6). -/
def execAnd (d a b : Reg) (s : State) : Host.Outcome State Fault Refusal :=
  finish false (alu2 d a b (fun x y => x &&& y) s) s

/-- OR (Table 4-6). -/
def execOr (d a b : Reg) (s : State) : Host.Outcome State Fault Refusal :=
  finish false (alu2 d a b (fun x y => x ||| y) s) s

/-- XOR (Table 4-6). -/
def execXor (d a b : Reg) (s : State) : Host.Outcome State Fault Refusal :=
  finish false (alu2 d a b (fun x y => x ^^^ y) s) s

/-- SHL (Table 4-6). -/
def execShl (d a b : Reg) (s : State) : Host.Outcome State Fault Refusal :=
  finish false (alu2 d a b (fun x y => x <<< amount y) s) s

/-- SHR (Table 4-6). -/
def execShr (d a b : Reg) (s : State) : Host.Outcome State Fault Refusal :=
  finish false (alu2 d a b (fun x y => x >>> amount y) s) s

/-- SRA (Table 4-6). -/
def execSra (d a b : Reg) (s : State) : Host.Outcome State Fault Refusal :=
  finish false (alu2 d a b (fun x y => x.sshiftRight (amount y)) s) s

/-- MIN (Table 4-6). -/
def execMin (d a b : Reg) (s : State) : Host.Outcome State Fault Refusal :=
  finish false (alu2 d a b (fun x y => if ltS y x then y else x) s) s

/-- MAX (Table 4-6). -/
def execMax (d a b : Reg) (s : State) : Host.Outcome State Fault Refusal :=
  finish false (alu2 d a b (fun x y => if ltS x y then y else x) s) s

/-- MINU (Table 4-6). -/
def execMinu (d a b : Reg) (s : State) : Host.Outcome State Fault Refusal :=
  finish false (alu2 d a b (fun x y => if ltU y x then y else x) s) s

/-- MAXU (Table 4-6). -/
def execMaxu (d a b : Reg) (s : State) : Host.Outcome State Fault Refusal :=
  finish false (alu2 d a b (fun x y => if ltU x y then y else x) s) s

/-- SLT (Table 4-6). -/
def execSlt (d a b : Reg) (s : State) : Host.Outcome State Fault Refusal :=
  finish false (alu2 d a b (fun x y => flag (ltS x y)) s) s

/-- SLTU (Table 4-6). -/
def execSltu (d a b : Reg) (s : State) : Host.Outcome State Fault Refusal :=
  finish false (alu2 d a b (fun x y => flag (ltU x y)) s) s

/-- SEQ (Table 4-6). -/
def execSeq (d a b : Reg) (s : State) : Host.Outcome State Fault Refusal :=
  finish false (alu2 d a b (fun x y => flag (x == y)) s) s

/-- CLZ (Table 4-6). -/
def execClz (d a : Reg) (s : State) : Host.Outcome State Fault Refusal :=
  finish false (alu1 d a clz64 s) s

/-- POPC (Table 4-6). -/
def execPopc (d a : Reg) (s : State) : Host.Outcome State Fault Refusal :=
  finish false (alu1 d a popc64 s) s

/-- ADDI (Table 4-7). -/
def execAddi (d a : Reg) (i : BitVec 16) (s : State) : Host.Outcome State Fault Refusal :=
  finish false (alu1 d a (fun x => x + sx64 i) s) s

/-- ANDI (Table 4-7). -/
def execAndi (d a : Reg) (i : BitVec 16) (s : State) : Host.Outcome State Fault Refusal :=
  finish false (alu1 d a (fun x => x &&& zx64 i) s) s

/-- ORI (Table 4-7). -/
def execOri (d a : Reg) (i : BitVec 16) (s : State) : Host.Outcome State Fault Refusal :=
  finish false (alu1 d a (fun x => x ||| zx64 i) s) s

/-- XORI (Table 4-7). -/
def execXori (d a : Reg) (i : BitVec 16) (s : State) : Host.Outcome State Fault Refusal :=
  finish false (alu1 d a (fun x => x ^^^ zx64 i) s) s

/-- SLTI (Table 4-7). -/
def execSlti (d a : Reg) (i : BitVec 16) (s : State) : Host.Outcome State Fault Refusal :=
  finish false (alu1 d a (fun x => flag (ltS x (sx64 i))) s) s

/-- SLTIU (Table 4-7). -/
def execSltiu (d a : Reg) (i : BitVec 16) (s : State) : Host.Outcome State Fault Refusal :=
  finish false (alu1 d a (fun x => flag (ltU x (sx64 i))) s) s

/-- SHLI (Table 4-7). -/
def execShli (d a : Reg) (i : BitVec 6) (s : State) : Host.Outcome State Fault Refusal :=
  finish false (alu1 d a (fun x => x <<< i.toNat) s) s

/-- SHRI (Table 4-7). -/
def execShri (d a : Reg) (i : BitVec 6) (s : State) : Host.Outcome State Fault Refusal :=
  finish false (alu1 d a (fun x => x >>> i.toNat) s) s

/-- SRAI (Table 4-7). -/
def execSrai (d a : Reg) (i : BitVec 6) (s : State) : Host.Outcome State Fault Refusal :=
  finish false (alu1 d a (fun x => x.sshiftRight i.toNat) s) s

/-- LUI (Table 4-7): the immediate times 2^16, sign-extended from 32 bits. -/
def execLui (d : Reg) (i : BitVec 16) (s : State) : Host.Outcome State Fault Refusal :=
  finish false (s.wr d (sx64 (i ++ (0 : BitVec 16)))) s

end Sys2Proof.Machine
end

