-- ==== Sys2Proof/WellFormed.lean ====
section
/-! DEFINITION. The decode checks that depend on the meaning of a word's fields (R30 to R34, R39, R58, R59, Table 2-11):
which operand kinds, formats, variants and matrix fields each instruction accepts, and the lowest cause of those it breaks.
An instruction is well-formed when it breaks none. -/

namespace Sys2Proof

/-! ### Operand positions -/

/-- What an opcode accepts in one operand position (Tables 2-3, 5-4, 5-5, 5-8, 6-1). The bounds are those of imm8. -/
inductive Opd where
  /-- not used: the descriptor is 0 -/
  | no
  /-- a vector register whose number is a multiple of `al`, with an imm8 -/
  | vec (al lo hi : Nat)
  /-- a scalar broadcast, with an imm8 -/
  | bcast (lo hi : Nat)
  /-- a scalar broadcast or a vector register -/
  | sc
  /-- a vector register, a broadcast or a row -/
  | src
  /-- a vector register or a row -/
  | dst
  /-- a kind 1 operand -/
  | str
  /-- a kind 1 operand that only names an address register -/
  | ring
  /-- an imm8 alone -/
  | imm (lo hi : Nat)
  /-- an imm8 alone in a V word, whose shorthand allows no register number beside it (Table 6-1) -/
  | konst (lo hi : Nat)
  /-- the signed offset of an engine-control word -/
  | off
  deriving DecidableEq, Repr

/-- The cause of an imm8 that the position does not use, or that is out of its range. -/
def immCause (v lo hi : Nat) : List Nat :=
  if lo ≤ v ∧ v ≤ hi then [] else if lo = 0 ∧ hi = 0 then [0x021] else [0x022]

/-- The causes of a descriptor in a position. -/
def Opd.causes (o : Opd) (d : Desc) : List Nat :=
  match o, d with
  | .no, d => if d = .reg 0 false 0 then [] else [0x021]
  | .vec al lo hi, .reg i bc r => (if bc then [0x023] else if r.toNat % al ≠ 0 then [0x022] else []) ++ immCause i.toNat lo hi
  | .bcast lo hi, .reg i bc _ => (if bc then [] else [0x023]) ++ immCause i.toNat lo hi
  | .sc, .reg i _ _ => immCause i.toNat 0 0
  | .src, .reg i _ _ => immCause i.toNat 0 0
  | .dst, .reg i bc _ => (if bc then [0x023] else []) ++ immCause i.toNat 0 0
  | .imm lo hi, .reg i bc r =>
    (if bc then [0x023] else []) ++ (if r ≠ 0 then [0x021] else []) ++
      (if lo ≤ i.toNat ∧ i.toNat ≤ hi then [] else [0x022])
  | .konst lo hi, .reg i bc r => (if bc || r != 0 then [0x023] else []) ++ (if lo ≤ i.toNat ∧ i.toNat ≤ hi then [] else [0x022])
  | .src, .str _ _ _ => []
  | .dst, .str _ _ _ => []
  | .str, .str _ _ _ => []
  | .ring, .str _ p f => if p ≠ 0 ∨ f ≠ 0 then [0x022] else []
  | .off, .str a p _ => if a ≠ 0 ∨ p ≠ 0 then [0x021] else []
  | _, _ => [0x023]

/-- What an opcode accepts: its three operands, its formats (none: fmt is not used), whether it uses rm, its variants (none:
var is not used). -/
structure Form where
  d : Opd
  a : Opd
  b : Opd
  fmts : List Nat
  rm : Bool
  vars : List Nat
  deriving DecidableEq, Repr

/-- The causes of a 96-bit word's fields under a form. -/
def Form.causes (f : Form) (w : W96) : List Nat :=
  (if f.fmts = [] then (if w.fmt ≠ 0 then [0x021] else []) else if f.fmts.contains w.fmt.toNat then [] else [0x040]) ++
  (if f.rm || w.rm == 0 then [] else [0x021]) ++
  (if f.vars = [] then (if w.var ≠ 0 then [0x021] else []) else if f.vars.contains w.var.toNat then [] else [0x022]) ++
  f.d.causes w.d ++ f.a.causes w.a ++ f.b.causes w.b

/-- imm8 of a descriptor. -/
def Desc.imm : Desc → Nat
  | .reg i _ _ => i.toNat
  | .str _ _ _ => 0

/-- Register number of a descriptor. -/
def Desc.num : Desc → Nat
  | .reg _ _ r => r.toNat
  | .str _ _ _ => 0

/-- Whether a descriptor is kind 1. -/
def Desc.isStr : Desc → Bool
  | .reg _ _ _ => false
  | .str _ _ _ => true

/-- The eight formats, and those that hold data elements. -/
def allFmts : List Nat := [0, 1, 2, 3, 4, 5, 6, 7]
def dataFmts : List Nat := [0, 1, 2, 3, 4, 5, 7]

/-! ### Forms -/

/-- Floating-point words with two sources, with and without rm, and with one source (Tables 6-4, 6-5). -/
def fp2 : Form := ⟨.dst, .src, .src, [0], true, []⟩
def fp2x : Form := ⟨.dst, .src, .src, [0], false, []⟩
def fp1 : Form := ⟨.dst, .src, .no, [0], false, []⟩

/-- Compares in a format (Table 6-6). -/
def cmpF (fmt : Nat) : Form := ⟨.konst 0 7, .src, .src, [fmt], false, [0, 1, 2]⟩

/-- Integer words with two sources and with one (Table 6-7). -/
def int2 : Form := ⟨.dst, .src, .src, [5], false, []⟩
def int1 : Form := ⟨.dst, .src, .no, [5], false, []⟩

/-- Sorting words (R176 to R178). -/
def sortF (d a b : Opd) : Form := ⟨d, a, b, [0, 5], false, [0, 1, 2, 3]⟩

/-- Element field width of VPACK and VUNPK (R171); a format that has none takes cause 0x040 and bounds no q. -/
def packWidth (fmt : Nat) : Nat :=
  match fmt with
  | 1 => 16
  | 7 => 16
  | 3 => 4
  | _ => 8

/-- The form of a 96-bit word and the causes of rules that look at several fields together. A VLANE with an undefined var has the operands of var 00,
the model's choice (log entry 107). -/
def Instr.form (i : Instr) : Option (W96 × Form × List Nat) :=
  match i with
  -- engine control (Table 5-4)
  | .engineNop w => some (w, ⟨.no, .no, .no, [], false, []⟩, [])
  | .enginePost w => some (w, ⟨.imm 0 63, .imm 1 255, .no, [], false, []⟩, [])
  | .engineAwait w => some (w, ⟨.imm 0 63, .imm 1 255, .no, [], false, []⟩, [])
  | .engineMark w => some (w, ⟨.no, .no, .no, [], false, []⟩, [])
  | .jmp w => some (w, ⟨.no, .no, .off, [], false, []⟩, [])
  | .boqb w => some (w, ⟨.no, .no, .off, [], false, [0]⟩, [])
  | .boqbPush w => some (w, ⟨.imm 0 3, .imm 0 7, .no, [], false, [1]⟩, [])
  | .boqbPushall w => some (w, ⟨.imm 0 3, .imm 0 7, .no, [], false, [2]⟩, [])
  | .loop w => some (w, ⟨.imm 0 15, .no, .off, [], false, []⟩, [])
  | .iaddi w => some (w, ⟨.imm 0 15, .no, .off, [], false, []⟩, [])
  | .iset w => some (w, ⟨.imm 0 15, .no, .off, [], false, []⟩, [])
  | .ipop w => some (w, ⟨.imm 0 15, .no, .no, [], false, []⟩, [])
  | .engineFence w => some (w, ⟨.imm 0 4, .imm 1 3, .no, [], false, []⟩, [])
  | .trapx w => some (w, ⟨.imm 0 31, .no, .no, [], false, []⟩, [])
  | .endStream w => some (w, ⟨.no, .no, .no, [], false, []⟩, if w.pred ≠ 0 ∨ w.pneg then [0x022] else [])
  -- load stream (R141 to R147)
  | .ldb w => some (w, ⟨.str, .str, .vec 1 1 128, allFmts, false, []⟩, [])
  | .ldtBuffer w => some (w, ⟨.str, .bcast 0 0, .bcast 0 0, allFmts, false, [0]⟩, [])
  | .ldtTile w => some (w, ⟨.imm 0 15, .bcast 0 0, .bcast 0 0, [0, 1, 5], false, [1]⟩, [])
  | .ldg w => some (w, ⟨.vec 1 0 0, .str, .vec 1 0 63, dataFmts, false, []⟩, [])
  | .ldz w => some (w, ⟨.str, .bcast 0 0, .imm 1 128, allFmts, false, []⟩, [])
  | .ldc w => some (w, ⟨.str, .str, .vec 1 1 128, dataFmts, true, [0, 1]⟩, [])
  | .ldsh w => some (w, ⟨.imm 1 63, .str, .no, [], false, []⟩, [])
  | .lpref w => some (w, ⟨.no, .str, .imm 1 128, allFmts, false, []⟩, [])
  | .lwfree w => some (w, ⟨.imm 0 15, .no, .ring, [], false, []⟩, [])
  | .lpubl w => some (w, ⟨.imm 0 15, .no, .ring, [], false, []⟩, [])
  -- store stream (R148 to R154)
  | .stb w => some (w, ⟨.str, .str, .imm 1 128, allFmts, false, []⟩, [])
  | .sttBuffer w => some (w, ⟨.bcast 0 0, .bcast 0 0, .str, allFmts, true, [0]⟩, [])
  | .sttTile w => some (w, ⟨.bcast 0 0, .bcast 0 0, .imm 0 15, dataFmts, true, [1]⟩, [])
  | .stsc w => some (w, ⟨.str, .vec 1 0 0, .vec 1 0 0, [0, 1, 2, 4, 5, 7], true, []⟩, [])
  | .stadd w => some (w, ⟨.str, .str, .imm 1 128, [0, 1], true, []⟩, [])
  | .staxpy w => some (w, ⟨.str, .str, .bcast 1 128, [0, 1], true, []⟩, [])
  | .stopt w => some (w, ⟨.str, .str, .imm 1 128, [0], false, [0]⟩, [])
  | .stoptAdam w => some (w, ⟨.str, .str, .imm 1 128, [0], false, [1]⟩, [])
  | .stcvt w => some (w, ⟨.str, .str, .imm 1 128, dataFmts, true, [0]⟩, [])
  | .stcvtTile w => some (w, ⟨.str, .imm 0 15, .imm 1 128, dataFmts, true, [1]⟩, [])
  | .satom w => some (w, ⟨.str, .vec 1 0 0, .vec 1 0 255, [0, 5], false, []⟩,
      if w.fmt = 5 ∧ 7 < w.b.imm ∨ w.fmt = 0 ∧ ¬(0x0A ≤ w.b.imm ∧ w.b.imm ≤ 0x0C) then [0x022] else [])
  | .swfill w => some (w, ⟨.imm 0 15, .no, .ring, [], false, []⟩, [])
  | .srels w => some (w, ⟨.imm 0 15, .no, .ring, [], false, []⟩, [])
  -- vector stream (chapters 6 and 9)
  | .vadd w => some (w, fp2, [])
  | .vsub w => some (w, fp2, [])
  | .vmul w => some (w, fp2, [])
  | .vfma w => some (w, fp2, [])
  | .vfms w => some (w, fp2, [])
  | .vmin w => some (w, fp2x, [])
  | .vmax w => some (w, fp2x, [])
  | .vabs w => some (w, fp1, [])
  | .vneg w => some (w, fp1, [])
  | .vcpys w => some (w, fp2x, [])
  | .vrcp w => some (w, fp1, [])
  | .vrsq w => some (w, fp1, [])
  | .vsqrt w => some (w, fp1, [])
  | .vexp2 w => some (w, fp1, [])
  | .vlog2 w => some (w, fp1, [])
  | .vexpd w => some (w, fp2x, [])
  | .vtanh w => some (w, fp1, [])
  | .vsigm w => some (w, fp1, [])
  | .vcmpeq w => some (w, cmpF 0, [])
  | .vcmplt w => some (w, cmpF 0, [])
  | .vcmple w => some (w, cmpF 0, [])
  | .vcmpun w => some (w, cmpF 0, [])
  | .vclass w => some (w, fp1, [])
  | .viadd w => some (w, int2, [])
  | .visub w => some (w, int2, [])
  | .vimul w => some (w, int2, [])
  | .vimad w => some (w, int2, [])
  | .vand w => some (w, int2, [])
  | .vor w => some (w, int2, [])
  | .vxor w => some (w, int2, [])
  | .vandn w => some (w, int2, [])
  | .vshl w => some (w, int2, [])
  | .vshr w => some (w, int2, [])
  | .vsra w => some (w, int2, [])
  | .vimin w => some (w, int2, [])
  | .vimax w => some (w, int2, [])
  | .viminu w => some (w, int2, [])
  | .vimaxu w => some (w, int2, [])
  | .vicmpeq w => some (w, cmpF 5, [])
  | .vicmplt w => some (w, cmpF 5, [])
  | .vicmpltu w => some (w, cmpF 5, [])
  | .vpcnt w => some (w, int1, [])
  | .vclz w => some (w, int1, [])
  | .vcvt w => some (w, ⟨.dst, .src, .konst 0 255, allFmts, true, []⟩,
      if 7 < w.b.imm ∨ (¬w.a.isStr ∧ w.b.imm ≠ 0 ∧ w.b.imm ≠ 5) then [0x040] else [])
  | .vqnt w => some (w, ⟨.str, .vec 1 0 0, if w.var = 1 then .bcast 0 0 else .str, [2, 3, 4, 7], true, [0, 1]⟩, [])
  | .vdqnt w => some (w, ⟨.vec 1 0 63, .str, if w.var = 1 then .bcast 0 0 else .str, [2, 3, 4, 7], false, [0, 1]⟩, [])
  | .vscale w => some (w, ⟨.dst, .src, .src, [0], true, []⟩, [])
  | .vpack w => some (w, ⟨.vec 1 0 255, .src, .src, [1, 2, 3, 4, 6, 7], true, []⟩,
      if w.fmt = 0 ∨ w.fmt = 5 ∨ 2 * w.d.imm + 1 < 32 / packWidth w.fmt.toNat then [] else [0x022])
  | .vunpk w => some (w, ⟨.vec 1 0 255, .vec 1 0 0, .no, [1, 2, 3, 4, 6, 7], false, []⟩,
      if w.fmt = 0 ∨ w.fmt = 5 ∨ w.d.imm < 32 / packWidth w.fmt.toNat then [] else [0x022])
  | .vrsum w => some (w, ⟨.vec 1 0 0, .src, .no, [0, 5], true, []⟩, [])
  | .vrmax w => some (w, ⟨.vec 1 0 0, .src, .no, [0, 5], false, []⟩, [])
  | .vrmin w => some (w, ⟨.vec 1 0 0, .src, .no, [0, 5], false, []⟩, [])
  | .vrarg w => some (w, ⟨.vec 1 0 0, .src, .no, [0, 5], false, [0, 1]⟩, [])
  | .vscan w => some (w, ⟨.vec 1 0 0, .src, .no, [0, 5], true, []⟩, [])
  | .vscanx w => some (w, ⟨.vec 1 0 0, .src, .no, [0, 5], true, []⟩, [])
  | .vsort w => some (w, sortF (.vec 2 0 0) (.vec 1 0 0) (.vec 1 0 0), if w.fmt = 0 ∧ 2 ≤ w.var.toNat then [0x022] else [])
  | .vtopk w => some (w, sortF (.vec 2 1 128) (.vec 1 0 0) (.vec 1 0 0), if w.fmt = 0 ∧ 2 ≤ w.var.toNat then [0x022] else [])
  | .vmrg w => some (w, sortF (.vec 4 0 0) (.vec 2 0 0) (.vec 2 0 0), if w.fmt = 0 ∧ 2 ≤ w.var.toNat then [0x022] else [])
  | .vperm w => some (w, ⟨.vec 1 0 0, .vec 1 0 0, .vec 1 0 0, [], false, [0, 1]⟩, [])
  | .vbcst w => some (w, ⟨.vec 1 0 0, .vec 1 0 0, .konst 0 127, [], false, []⟩, [])
  | .vrot w => some (w, ⟨.vec 1 0 0, .vec 1 0 0, if w.var = 1 then .bcast 0 0 else .konst 0 127, [], false, [0, 1]⟩, [])
  | .vsel w => some (w, ⟨.vec 1 0 7, .src, .src, [], false, []⟩, [])
  | .vmov w => some (w, ⟨.dst, .src, .no, [], false, []⟩, [])
  | .vldi w => some (w, ⟨.vec 1 0 0, .konst 0 255, .konst 0 255, [0, 5], false, []⟩, [])
  | .vlane w => some (w, ⟨.vec 1 0 0, .no, .no, [], false, [0]⟩, [])
  | .vlaneAddress w => some (w, ⟨.konst 0 15, .vec 1 0 0, .no, [], false, [1]⟩, [])
  | .vpushc w => some (w, ⟨.vec 2 0 0, .vec 1 0 0, .konst 0 15, [], false, []⟩, [])
  | .vpopc w => some (w, ⟨.vec 1 0 7, .vec 2 0 15, .no, [], false, [0, 1]⟩,
      if w.d.num = w.a.num ∨ w.d.num = w.a.num + 1 then [0x022] else [])
  | .vrebal w => some (w, ⟨.vec 1 0 0, .vec 1 0 0, .vec 1 0 0, [], false, []⟩, [])
  | .vcount w => some (w, ⟨.vec 1 0 0, if w.var = 2 then .vec 1 0 7 else .konst 0 7, .no, [], false, [0, 1, 2]⟩, [])
  | .vsred w => some (w, ⟨.vec 1 1 63, .src, .konst 0 3, [0, 5], true, [0, 1]⟩, if w.b.imm ≠ 0 ∧ w.rm ≠ 0 then [0x021] else [])
  | .vsscan w => some (w, ⟨.vec 1 1 63, .src, .no, [0, 5], true, [0, 1]⟩, if w.fmt = 5 ∧ w.rm ≠ 0 then [0x021] else [])
  | .vsnorm w => some (w, ⟨.vec 1 1 63, .src, .no, [0], false, [0]⟩, [])
  | .vsmask w => some (w, ⟨.konst 0 7, .konst 1 63, .no, [0], false, [0, 1, 2]⟩, [])
  | .vslen w => some (w, ⟨.vec 1 1 63, .no, .no, [5], false, [0, 1, 2]⟩, [])
  | .vblz w => some (w, ⟨.vec 1 1 63, .konst 0 15, .no, [5], false, [0]⟩, [])
  | .vrng w => some (w, ⟨.vec 1 0 0, .sc, .sc, [], false, []⟩, [])
  | .vrngu w => some (w, ⟨.vec 1 0 0, .sc, .sc, [], false, []⟩, [])
  | _ => none

/-! ### Matrix words -/

/-- The fields of a matrix word an opcode may use beyond pred, pneg and stall (Table 7-4), in the order tile, afmt, bfmt,
asrc, btr, acc, shape, greg and gexp, reissue, kth, areg, aoff, arsc, breg, boff, geom, kcount, chk, retry. -/
structure MUse where
  tile : Bool := false
  afmt : Bool := false
  bfmt : Bool := false
  acc : Bool := false
  reissue : Bool := false
  kth : Bool := false
  a : Bool := false
  arsc : Bool := false
  b : Bool := false
  boff : Bool := false
  kcount : Bool := false
  step : Bool := false
  rows : Bool := false
  deriving DecidableEq, Repr

/-- Cause 0x021 for a nonzero field that the opcode does not use. -/
def MUse.causes (u : MUse) (w : W192) : List Nat :=
  if (u.tile || w.tile == 0) && (u.afmt || w.afmt == 0) && (u.bfmt || w.bfmt == 0) && (u.acc || w.acc == false) &&
     (u.reissue || w.reissue == 0) && (u.kth || w.kth == 0) && (u.a || (w.areg == 0 && w.aoff == 0)) &&
     (u.arsc || w.arsc == 0) && (u.b || w.breg == 0) && (u.boff || w.boff == 0) && (u.kcount || w.kcount == 0) &&
     (u.step || (w.btr == false && w.shape == 0 && w.gen == false && w.greg == 0 && w.gexp == 0 && w.chk == false &&
       w.retry == false)) &&
     (u.rows || (w.asrc == 0 && w.geom == 0)) then [] else [0x021]

/-- The format pairs of a tile step (Table 7-5). -/
def pairOk (a b : Nat) : Bool :=
  (a == 3 && b == 3) || (a == 2 && (b == 2 || b == 3)) || (a == 3 && b == 2) || (a == 1 && b == 1) || (a == 0 && b == 0) ||
    (a == 4 && b == 4)

/-- Whether a format takes block scales in a tile step (R195). -/
def scaled (f : Nat) : Bool := f == 2 || f == 3

/-- Causes of a tile-step word's own fields (R34, R193, R195). -/
def stepCauses (w : W192) : List Nat :=
  (if w.asrc = 3 ∨ 2 ≤ w.geom.toNat then [0x022] else []) ++
  (if (w.gen ∧ w.kcount ≠ 0) ∨ (¬w.gen ∧ (w.greg ≠ 0 ∨ w.gexp ≠ 0)) then [0x022] else []) ++
  (if pairOk w.afmt.toNat w.bfmt.toNat then [] else [0x040]) ++
  (if (scaled w.afmt.toNat ∧ w.areg.toNat % 2 = 1) ∨ (scaled w.bfmt.toNat ∧ w.breg.toNat % 2 = 1) then [0x022] else [])

/-- Whether MDRAIN writes block scales for a format (R208). -/
def drainScaled (f : Nat) : Bool := f == 2 || f == 3 || f == 4 || f == 7

/-- The causes of a matrix word. MDRAIN to E8M0 takes 0x040 in the register form too, the model's choice (log entry 106). -/
def Instr.mcauses (i : Instr) : List Nat :=
  match i with
  | .mma w => stepCauses w ++ MUse.causes { tile := true, afmt := true, bfmt := true, acc := true, a := true, arsc := true, b := true, boff := true, kcount := true, step := true, rows := true } w
  | .mmat w => stepCauses w ++ MUse.causes { tile := true, afmt := true, bfmt := true, acc := true, a := true, b := true, boff := true, kcount := true, step := true } w
  | .mmas w => stepCauses w ++ MUse.causes { tile := true, afmt := true, bfmt := true, acc := true, a := true, arsc := true, b := true, boff := true, kcount := true, step := true, rows := true } w ++
      (if w.shape = 0 then [0x022] else [])
  | .mzero w => MUse.causes { tile := true } w
  | .minit w => MUse.causes { tile := true, acc := true, a := true, b := true } w ++ (if w.aoff ≠ 0 then [0x021] else [])
  | .mdrain w => MUse.causes { tile := true, afmt := true, acc := true, a := true, arsc := true, b := true, boff := true } w ++
      (if ¬drainScaled w.afmt.toNat ∧ (w.breg ≠ 0 ∨ w.boff ≠ 0) then [0x021] else []) ++
      (if w.afmt = 6 ∨ 8 ≤ w.afmt.toNat then [0x040] else [])
  | .mdrainRegister w => MUse.causes { tile := true, afmt := true, acc := true, a := true, kcount := true } w ++
      (if w.areg ≠ 0 ∨ w.aoff.toNat / 2 ^ 13 ≠ 0 then [0x021] else []) ++
      (if w.afmt = 6 ∨ 8 ≤ w.afmt.toNat then [0x040] else []) ++
      (if 1 ≤ w.kcount.toNat ∧ w.kcount.toNat ≤ 64 ∧ w.aoff.toNat % 64 + w.kcount.toNat ≤ 64 ∧
          w.aoff.toNat / 64 % 128 + w.kcount.toNat ≤ 128 then [] else [0x022])
  | .mret w => MUse.causes { tile := true, acc := true, reissue := true, kth := true } w
  | .mcal w => MUse.causes { tile := true, a := true } w
  | .msetk w => MUse.causes { tile := true, a := true } w
  | .mwide w => MUse.causes { tile := true, reissue := true } w ++ (if w.reissue = 3 then [0x022] else [])
  | .mchk w => MUse.causes { bfmt := true, b := true, boff := true, kcount := true } w ++
      (if [0, 1, 2, 3, 4].contains w.bfmt.toNat then [] else [0x040]) ++ (if w.kcount = 0 then [0x022] else [])
  | .mspill w => MUse.causes { tile := true, a := true } w
  | .mfill w => MUse.causes { tile := true, a := true } w
  | .mstat w => MUse.causes { tile := true, a := true } w
  | _ => []

/-! ### C words -/

/-- Whether a control and status register is implemented (R50; the maps of the chapters, Table 18-9). -/
def csrExists (n : Nat) : Bool :=
  (decide (0x010 ≤ n) && decide (n ≤ 0x015)) || (decide (0x300 ≤ n) && decide (n ≤ 0x304)) ||
  (decide (0x308 ≤ n) && decide (n ≤ 0x30F)) || (decide (0x3A0 ≤ n) && decide (n ≤ 0x3C1)) ||
  (decide (0x3C8 ≤ n) && decide (n ≤ 0x3D1)) || n == 0x3D8 || n == 0x3DA || n == 0x3DC || n == 0x3DD ||
  (decide (0x3E0 ≤ n) && decide (n ≤ 0x3E3)) || (decide (0x3E8 ≤ n) && decide (n ≤ 0x3EA)) ||
  (decide (0x3F0 ≤ n) && decide (n ≤ 0x3F6)) || n == 0x3F8

/-- Whether a timeline id is one of Table 10-3. -/
def tlExists (n : Nat) : Bool := decide (n ≤ 4) || decide (64 ≤ n)

/-- The causes of a C word's field values. -/
def Instr.ccauses (i : Instr) : List Nat :=
  match i with
  | .geta _ _ sel => if 3 ≤ sel.toNat then [0x022] else []
  | .post _ n => if n = 0 then [0x022] else []
  | .await _ n => if n = 0 then [0x022] else []
  | .tlrd _ _ c => if tlExists c.toNat then [] else [0x022]
  | .tlwait _ c => if tlExists c.toNat then [] else [0x022]
  | .phmark _ m => if m = 0 then [0x022] else []
  | .fence f sc => if 1 ≤ f.toNat ∧ f.toNat ≤ 3 ∧ sc.toNat ≤ 4 then [] else [0x022]
  | .csrr _ c => if csrExists c.toNat then [] else [0x024]
  | .csrw _ c => if csrExists c.toNat then [] else [0x024]
  | _ => []

/-! ### The check -/

/-- The lowest of a list of causes (R59). -/
def lowest : List Nat → Option Nat
  | [] => none
  | c :: r => match lowest r with
    | none => some c
    | some d => some (min c d)

/-- The decode cause of an instruction's field values, when it has one. -/
def Instr.cause (i : Instr) : Option Nat :=
  lowest ((match i.form with
    | some (w, f, x) => f.causes w ++ x
    | none => []) ++ i.mcauses ++ i.ccauses)

/-- An instruction none of whose fields breaks a decode check. -/
def Instr.wf (i : Instr) : Bool := i.cause == none

end Sys2Proof
end

