-- ==== Sys2Proof/Machine/Operands.lean ====
section
/-! DEFINITION. The operand forms of the engine words and what every engine word shares: predication, guards, the schedule
position, pending results and the checking scoreboard, timeline numbers, post-updates (R30, R31, R36 to R46, R125, R156 to
R159), elements in bytes, rows and shape slots (R133, R242, R244 to R247). -/

namespace Sys2Proof.Machine

/-! ### Elements -/

/-- Little-endian groups of four, of two and of one byte, and half-bytes (Table 3-1: the lower index in bits [3:0]). -/
def words4 : List Byte → List Nat
  | a :: b :: c :: d :: r => leNat [a, b, c, d] :: words4 r
  | _ => []
def words2 : List Byte → List Nat
  | a :: b :: r => leNat [a, b] :: words2 r
  | _ => []
def halves : List Byte → List Nat
  | [] => []
  | a :: r => (a.toNat % 16) :: (a.toNat / 16) :: halves r

/-- The codes of the elements that bytes hold in a format. -/
def elems (f : Nat) (bs : List Byte) : List Nat :=
  match fmtBits f with
  | 32 => words4 bs
  | 16 => words2 bs
  | 8 => bs.map (fun b => b.toNat)
  | _ => halves bs

/-- Pairs of half-byte codes as bytes. -/
def packHalves : List Nat → List Byte
  | a :: b :: r => BitVec.ofNat 8 (a % 16 + 16 * (b % 16)) :: packHalves r
  | [a] => [BitVec.ofNat 8 (a % 16)]
  | [] => []

/-- The bytes of elements' codes in a format. -/
def packElems (f : Nat) (cs : List Nat) : List Byte :=
  match fmtBits f with
  | 4 => packHalves cs
  | b => cs.flatMap (fun c => toLE (b / 8) c)

/-- Bytes of one element, at least one. -/
def elemSize (f : Nat) : Nat := max 1 (fmtBits f / 8)

/-! ### The head of an engine word -/

/-- The stall count and predicate of an engine word. -/
structure Hd where
  stall : Nat
  pneg : Bool
  pred : Nat
  deriving DecidableEq, Repr

/-- The head of a 96-bit word. -/
def hd96 (w : W96) : Hd := ⟨w.stall.toNat, w.pneg, w.pred.toNat⟩

/-- The head of a 192-bit word. -/
def hd192 (w : W192) : Hd := ⟨w.stall.toNat, w.pneg, w.pred.toNat⟩

/-- The lanes a word is enabled for (R36, R37): in the V stream the predicate lane by lane, elsewhere all or none. -/
def StreamSt.active (m : StreamSt) (t : Strm) (h : Hd) : Mask :=
  let p := if h.pneg then ~~~(m.preg h.pred) else m.preg h.pred
  if t = .V then p else if p.getLsbD 0 then BitVec.allOnes 128 else 0

/-! ### Pending results -/

/-- A register of the files of Table 2-13 with the lanes of it that matter. -/
structure Rg where
  file : Nat
  num : Nat
  mask : Mask
  deriving DecidableEq, Repr

/-- The whole of a register. -/
def rg (file num : Nat) : Rg := ⟨file, num, BitVec.allOnes 128⟩

/-- One result of a word: the register and lanes it writes, and the value. -/
structure Wr where
  file : Nat
  num : Nat
  mask : Mask
  val : PVal
  deriving DecidableEq, Repr

/-- A core with a result in its register (R37: only the lanes written change). -/
def CoreSt.writeRes (c : CoreSt) (t : Strm) (file num : Nat) (mask : Mask) (v : PVal) : CoreSt :=
  match v with
  | .vec x => c.setVreg num (blend mask x (c.vreg num))
  | .pred x => c.setStrm t ((c.strm t).setPreg num ((x &&& mask) ||| ((c.strm t).preg num &&& ~~~mask)))
  | .idx x => c.setStrm t ((c.strm t).setIreg num x)
  | .base b => c.setAreg num { c.areg num with base := b }
  | .addr a => if file = 3 then c.setAreg num a else c

/-- Pending results without the lanes of a register that a later result covers (R45). -/
def cutLanes (file num : Nat) (mask : Mask) (ps : List Pend) : List Pend :=
  (ps.map (fun p => if p.file = file ∧ p.num = num then { p with mask := p.mask &&& ~~~mask, wr := p.wr &&& ~~~mask } else p)).filter (fun p => p.mask != 0)

/-- The pending results of a stream at its schedule position: those visible go to their registers, in program order, and
take the lanes of earlier results with them (R42, R45). -/
def CoreSt.settle (c : CoreSt) (t : Strm) : CoreSt :=
  let m := c.strm t
  let r := m.pend.foldl (fun (a : CoreSt × List Pend) p =>
    if p.vis ≤ m.sigma then (if p.wr = 0 then a.1 else a.1.writeRes t p.file p.num p.wr p.val, cutLanes p.file p.num p.mask a.2)
    else (a.1, a.2 ++ [p])) (c, [])
  r.1.setStrm t { r.1.strm t with pend := r.2 }

/-- A vector register as a stream other than V sees it once it is ordered after V's words: every pending result applied. -/
def CoreSt.vregNew (c : CoreSt) (n : Nat) : Vec :=
  c.vS.pend.foldl (fun v p => if p.file = 0 ∧ p.num = n then (match p.val with
    | .vec x => blend p.wr x v
    | _ => v) else v) (c.vreg n)

/-- A vector register written by the L or the M stream: results of V pending in those lanes are older and will not be written, but a word of V
that reads them too early still does so (R44). -/
def CoreSt.putVreg (c : CoreSt) (n : Nat) (mask : Mask) (v : Vec) : CoreSt :=
  let c := { c with vS := { c.vS with pend := c.vS.pend.map (fun (p : Pend) => if p.file = 0 ∧ p.num = n then { p with wr := p.wr &&& ~~~mask } else p) } }
  c.setVreg n (blend mask v (c.vreg n))

/-- An address register as a stream reads it (R48): V sees its own pending writes at their distance, another stream the
newest. -/
def CoreSt.aregOf (c : CoreSt) (t : Strm) (n : Nat) : AReg := if t = .V then c.areg n else c.aregNew n

/-- The latest word whose result for a register the word reads is not yet visible (R44). Of a word that wrote several of the registers read,
the register named is the last in the order of that word's results: R44 says only which word is named (DESIGN CHOICE, log entry 16). -/
def StreamSt.short (m : StreamSt) (rs : List Rg) : Option Pend :=
  if m.sbck then (m.pend.filter (fun p => rs.any (fun r => r.file == p.file && r.num == p.num && r.mask &&& p.mask != 0))).getLast?
  else none

/-! ### What an engine word does -/

/-- The effect of an enabled engine word: the state after it, its register results with their latency (none: interlocked,
visible at once), the macro-PC it transfers to, and whether its timeline number stays open. -/
structure Eff where
  s : State
  res : List Wr := []
  lat : Option Nat := none
  next : Option Nat := none
  opened : Bool := false
  taken : Option Nat := none

/-- A word of stream t issued: its timeline number, its results, its schedule position and macro-PC (R36, R41, R42, R130). -/
def State.issueEngine (t : Strm) (h : Hd) (e : Eff) : State :=
  let m := e.s.sm t
  let pc := m.pc
  let m := match e.taken with
    | some n => m.finishNum n
    | none => if e.opened then m.takeNum else m.countNum
  let res := e.res.filter (fun r => r.mask != 0 && !(r.file == 1 && r.num == 0))
  let e := { e with s := e.s.setCore (e.s.core.noWant t) }
  let m := { m with sigma := m.sigma + 1 + h.stall, pc := e.next.getD (pc + 1), waiting := false }
  match e.lat with
  | some l =>
    let vis := m.sigma - 1 - h.stall + l
    e.s.setSm t { m with pend := m.pend ++ res.map (fun r => ⟨r.file, r.num, r.mask, r.mask, r.val, vis, pc⟩) }
  | none =>
    let s := e.s.setSm t m
    s.setCore (res.foldl (fun c r =>
      match r.file, r.val with
      | 3, .base b => c.moveBase r.num b
      | 3, .addr a => c.putAreg r.num a
      | _, v =>
        let c := c.setStrm t { c.strm t with pend := cutLanes r.file r.num r.mask (c.strm t).pend }
        c.writeRes t r.file r.num r.mask v) s.core)

/-- The number that the M word which stands inside its work has taken (R191). -/
def CoreSt.standNum (c : CoreSt) (t : Strm) : Option Nat := if t = .M then c.within.bind (fun h => h.num) else none

/-- The site of an engine word for the trap record; `upc` is its μPC. -/
def State.siteE (s : State) (t : Strm) (upc : Nat) : Site :=
  ⟨strmNo t, (s.core.standNum t).getD ((s.sm t).issued + 1), (s.sm t).pc, upc, 0⟩

/-- An engine word of stream t: results due are settled, the scoreboard is checked (0x120 with Table 2-13), a false slot does
R36, and an enabled word its body. `reads` are the registers an enabled word reads besides its predicate; `onWait` is what a
waiting word leaves behind, and `onCause` what a word that takes a cause does first. -/
def engineWith (t : Strm) (h : Hd) (reads : Mask → List Rg) (onWait : State → State) (onCause : Nat → State → State)
    (body : Mask → State → Res Eff) (s0 : State) : Host.Outcome State Fault Refusal :=
  let s := s0.setCore (s0.core.settle t)
  let act := (s.sm t).active t h
  match (s.sm t).short (rg 1 h.pred :: (if act = 0 then [] else reads act)) with
  | some p => .next (s.raise t (s.siteE t 0) 0x120 0 (p.xpc % 2 ^ 32 + p.num * 2 ^ 32 + p.file * 2 ^ 40))
  | none =>
    if act = 0 then .next (State.issueEngine t h { s := s })
    else match body act s with
      | .ok e => .next (State.issueEngine t h e)
      | .error .wait => .next (onWait (s.park t))
      | .error (.cause c a d) => .next ((onCause c s).raise t (s.siteE t 0) c a d)
      | .error (.at c a d i) => .next ((onCause c s).raise t (s.siteE t (if t = .L ∨ t = .S then i else 0)) c a d)

/-- An engine word that does nothing before it takes a cause. -/
def engine (t : Strm) (h : Hd) (reads : Mask → List Rg) (onWait : State → State) (body : Mask → State → Res Eff) (s : State) :
    Host.Outcome State Fault Refusal :=
  engineWith t h reads onWait (fun _ s => s) body s

/-! ### Address operands -/

/-- The pointer of the first element of a kind 1 operand (R31); half-bytes of an odd F4 offset are dropped. -/
def strPtr (a : AReg) (off : Int) (f : Nat) : Nat := wrap64 ((a.base.toNat : Int) + off * (fmtBits f : Int) / 8)

/-- The alignment an operand must have: its element size; no address is a multiple of 0, which stands for an F4 offset in
the middle of a byte (R31, R125). -/
def strAlign (off : Int) (f : Nat) : Nat := if f = 3 ∧ off % 2 ≠ 0 then 0 else elemSize f

/-- The base after a post-update (R31). -/
def postBase (a : AReg) (b : Word) (p : BitVec 2) : Option Word :=
  match p with
  | 0 => none
  | 1 => some (b + sx64 a.stride)
  | 2 => some (b + sx64 a.stride * 128)
  | _ => some (b - sx64 a.stride)

/-- The post-updates of operands in the order given (R157: all address from the base at issue, updates accumulate). -/
def postUpdates (c : CoreSt) (t : Strm) (ds : List Desc) : List Wr :=
  (ds.foldl (fun (acc : List (Nat × Word)) d =>
    match d with
    | .reg _ _ _ => acc
    | .str n p _ =>
      let a := c.aregOf t n.toNat
      let b := (find? acc n.toNat).getD a.base
      match postBase a b p with
      | some b' => setKey acc n.toNat b'
      | none => acc) []).map (fun e => ⟨3, e.1, BitVec.allOnes 128, .base e.2⟩)

/-- The address registers descriptors name. -/
def descRegs (ds : List Desc) : List Rg :=
  ds.filterMap (fun d => match d with
    | .str n _ _ => some (rg 3 n.toNat)
    | .reg _ _ _ => none)

/-! ### Shape slots -/

/-- The record of a version pair in the blaze cache; a word that misses waits for the refill (R246). -/
def State.recOf (s : State) (e : Nat × Nat) : Res BlzEnt :=
  match s.core.blaze.find? (fun b => b.addr == e.1 && b.ver == e.2) with
  | some b => .ok b
  | none => .error .wait

/-- The pair of slot m, or cause 0x0C3 (R133, R244). -/
def State.slotOf (s : State) (m : Nat) : Res (Nat × Nat) :=
  match find? s.core.slots m with
  | some e => .ok e
  | none => stop 0x0C3

/-- The record of slot m. -/
def State.slotRec (s : State) (m : Nat) : Res BlzEnt := do
  let e ← s.slotOf m
  s.recOf e

/-- The spare value that slot m gives F4 codes; the default NaN for m = 0 (R74). -/
def State.spareOf (s : State) (m : Nat) : Res W32 :=
  if m = 0 then .ok nan32 else (s.slotRec m).map (fun r => r.spare)

/-- Whether an LDSH of slot m is under way: later L words that use the slot wait for it (R145). -/
def CoreSt.shaping (c : CoreSt) (m : Nat) : Bool :=
  c.lS.loads.any (fun e => match e.fin with
    | .shape k _ _ => k == m
    | _ => false)

/-- What a word waiting for the blaze cache leaves behind: the pair stream t wants. -/
def State.wantSlot (t : Strm) (m : Nat) (s : State) : State :=
  if t = .L ∧ s.core.shaping m then s
  else
    match find? s.core.slots m with
    | some e =>
      if s.core.blaze.any (fun b => b.addr == e.1 && b.ver == e.2) then s
      else s.setCore { s.core with want := (t, e.1, e.2) :: s.core.want.filter (fun w => w.1 != t) }
    | none => s

/-- The segment of a position (R238). -/
def segOf (tab : List Nat) (t : Nat) : Option Nat := tab.findIdx? (fun b => decide (t < b))

/-- Whether a pair of positions is masked under a mask mode (Table 9-3): 0 plain, 1 causal, 2 pair. -/
def maskedPair (tab : List Nat) (mode t u : Nat) : Bool :=
  match mode with
  | 0 => segOf tab t == none || segOf tab u == none
  | 1 => segOf tab t == none || segOf tab t != segOf tab u || decide (t < u)
  | _ => segOf tab t == none || segOf tab t != segOf tab u

/-! ### Counters of conversions -/

/-- Saturations and NaNs of conversions counted into CVCNT (Table 3-7). -/
def CoreSt.cvcnt (c : CoreSt) (sat nan : Nat) : CoreSt :=
  let v := (c.csr 0x3C0).toNat
  if sat = 0 ∧ nan = 0 then c
  else c.setCsr 0x3C0 (BitVec.ofNat 64 (min (v % 2 ^ 32 + sat) (2 ^ 32 - 1) + min (v / 2 ^ 32 + nan) (2 ^ 32 - 1) * 2 ^ 32))

/-- How many conversions saturated, and how many counted a NaN. -/
def countConv (l : List Conv) : Nat × Nat :=
  ((l.filter (fun r => r.sat)).length, (l.filter (fun r => r.nan)).length)

end Sys2Proof.Machine
end

