-- ==== Sys2Proof/Machine/Engine.lean ====
section
/-! DEFINITION. The engine-control group of the L, V, M and S streams (R57, R136 to R140). -/

namespace Sys2Proof.Machine

/-- An engine-control word of the current stream that reads no register besides its predicate. -/
def control (w : W96) (body : State → Res Eff) (s : State) : Host.Outcome State Fault Refusal :=
  engine s.cst (hd96 w) (fun _ => []) id (fun _ s => body s) s

/-- The index of the word a transfer by the B operand goes to (R136). -/
def State.offTarget (s : State) (d : Desc) : Res Nat :=
  match d with
  | .str _ _ o => s.target s.cst (((s.sm s.cst).pc : Int) + o.toInt)
  | .reg _ _ _ => stop 0x023

/-- The value of the offset operand. -/
def offValue (d : Desc) : W32 :=
  match d with
  | .str _ _ o => o.signExtend 32
  | .reg _ _ _ => 0

/-- NOP. -/
def execEngineNop (w : W96) (s : State) : Host.Outcome State Fault Refusal := control w (fun s => .ok { s := s }) s

/-- POST (R114, R137): the count is raised once the earlier work of the stream has completed; later words go on. -/
def execEnginePost (w : W96) (s : State) : Host.Outcome State Fault Refusal :=
  thenPosts (control w (fun s => .ok { s := s.pushPost s.cst w.d.imm w.a.imm ((s.sm s.cst).issued + 1) }) s)

/-- AWAIT (R114, R137). -/
def execEngineAwait (w : W96) (s : State) : Host.Outcome State Fault Refusal :=
  engine s.cst (hd96 w) (fun _ => []) (fun s => s.setCore (s.core.queueAwait s.cst w.d.imm))
    (fun _ s => match s.core.doAwait s.cst w.d.imm w.a.imm with
      | some c => .ok { s := s.setCore c }
      | none => .error .wait) s

/-- MARK (R263). -/
def execEngineMark (w : W96) (s : State) : Host.Outcome State Fault Refusal :=
  control w (fun s => .ok { s := s.setSm s.cst (s.sm s.cst).doMark }) s

/-- JMP. -/
def execJmp (w : W96) (s : State) : Host.Outcome State Fault Refusal :=
  control w (fun s => do .ok { s := s, next := some (← s.offTarget w.b) }) s

/-- BOQB with var 00: pops the stream's branch-outcome queue and branches on the bit. -/
def execBoqb (w : W96) (s : State) : Host.Outcome State Fault Refusal :=
  control w (fun s =>
    let m := s.sm s.cst
    match m.boq with
    | [] => .error .wait
    | b :: r => do
      let n ← if b then (s.offTarget w.b).map some else .ok none
      .ok { s := s.setSm s.cst { m with boq := r }, next := n }) s

/-- Pushes a bit onto the branch-outcome queue of a stream, which holds 32 entries. -/
def State.pushBoq (s : State) (x : Strm) (b : Bool) : Res State :=
  if 32 ≤ (s.sm x).boq.length then .error .wait
  else .ok (s.setSm x { s.sm x with boq := (s.sm x).boq ++ [b] })

/-- BOQB push and pushall: the bit of p[k], in the V stream whether any lane or every lane is set. -/
def boqbPush (w : W96) (f : Mask → Bool) (s : State) : Host.Outcome State Fault Refusal :=
  engine s.cst (hd96 w) (fun _ => [rg 1 w.a.imm]) id
    (fun _ s => do
      let p := (s.sm s.cst).preg w.a.imm
      let s ← s.pushBoq (engineOf w.d.imm) (if s.cst = .V then f p else p.getLsbD 0)
      .ok { s := s }) s

/-- BOQB push. -/
def execBoqbPush (w : W96) (s : State) : Host.Outcome State Fault Refusal := boqbPush w (fun p => p != 0) s

/-- BOQB pushall. -/
def execBoqbPushall (w : W96) (s : State) : Host.Outcome State Fault Refusal := boqbPush w (fun p => p == BitVec.allOnes 128) s

/-- A result in index register n of the stream, visible one position later (R138). -/
def idxRes (n : Nat) (v : W32) : List Wr := [⟨2, n, BitVec.allOnes 128, .idx v⟩]

/-- LOOP (R136, R138). -/
def execLoop (w : W96) (s : State) : Host.Outcome State Fault Refusal :=
  engine s.cst (hd96 w) (fun _ => [rg 2 w.d.imm]) id
    (fun _ s => do
      let v := (s.sm s.cst).ireg w.d.imm - 1
      let n ← if v ≠ 0 then (s.offTarget w.b).map some else .ok none
      .ok { s := s, res := idxRes w.d.imm v, lat := some 1, next := n }) s

/-- IADDI. -/
def execIaddi (w : W96) (s : State) : Host.Outcome State Fault Refusal :=
  engine s.cst (hd96 w) (fun _ => [rg 2 w.d.imm]) id
    (fun _ s => .ok { s := s, res := idxRes w.d.imm ((s.sm s.cst).ireg w.d.imm + offValue w.b), lat := some 1 }) s

/-- ISET. -/
def execIset (w : W96) (s : State) : Host.Outcome State Fault Refusal :=
  control w (fun s => .ok { s := s, res := idxRes w.d.imm (offValue w.b), lat := some 1 }) s

/-- IPOP: pops the parameter queue, interlocked (R43). -/
def execIpop (w : W96) (s : State) : Host.Outcome State Fault Refusal :=
  control w (fun s =>
    let m := s.sm s.cst
    match m.pq with
    | [] => .error .wait
    | v :: r => .ok { s := s.setSm s.cst { m with pq := r }, res := idxRes w.d.imm v }) s

/-- FENCE (R264). -/
def execEngineFence (w : W96) (s : State) : Host.Outcome State Fault Refusal :=
  thenPosts (control w (fun s => do
    await (w.a.imm = 1 ∨ s.core.releaseReady s.cst w.d.imm)
    .ok { s := s.setSm s.cst ((s.sm s.cst).fence w.d.imm w.a.imm) }) s)

/-- TRAPX: a software trap. -/
def execTrapx (w : W96) (s : State) : Host.Outcome State Fault Refusal :=
  control w (fun _ => stop (0x1E0 + w.d.imm)) s

/-- END (R140): waits until every earlier word has delivered its loads and done its register, buffer, tile and slot writes;
then the stream is idle. Stores and pending results stay. -/
def execEndStream (w : W96) (s : State) : Host.Outcome State Fault Refusal :=
  control w (fun s => do
    let m := s.sm s.cst
    await (m.loadsDone m.seq)
    .ok { s := s.setSm s.cst { m with run := false } }) s

end Sys2Proof.Machine
end

