-- ==== Sys2Proof/Machine/Control.lean ====
section
/-! DEFINITION. Scalar memory access, address registers, branches, forking and joining, events and queues to the engines,
and the ordering words of the C stream (R108 to R115, R119, R120, R263 to R271). -/

namespace Sys2Proof.Machine

/-! ### Memory words -/

/-- What a C load or store of n bytes asks (R108). -/
def accC (n : Nat) (wr : Bool) : Acc := ⟨[4, 5, 6, 7], none, n, n, wr, if wr then 1 else 0⟩

/-- The effective address of a C memory word. -/
def eaC (a : Word) (i : BitVec 16) : Nat := (a + sx64 i).toNat

/-- A C load: checked at issue, bound and delivered later in load-queue order (R109, R127). -/
def loadC (n : Nat) (d a : Reg) (i : BitVec 16) (s : State) : Res State := do
  let x ← s.rd a
  await (!s.core.busy d)
  await s.c.ldReady
  let t ← access s s.cur (accC n false) none (eaC x i)
  let s := s.touch s.ctxNo t.place.dies
  .ok (s.setC (s.c.pushLoad 0 s.c.pc (.creg d n t.place)))

/-- The tile-version check of a write at issue (R363, Table 5-10): the tag it carries, or that it is dropped. -/
def State.admitAt (s : State) (t : Tgt) (code : Nat) : Res (Option (Option VerTag)) :=
  if t.tpage then
    match s.lineAdmit s.ctxNo (winOff (bits t.ptr 63 60) t.ptr) s.runLid with
    | .ok g => .ok (some g)
    | .drop => .ok none
    | .refuse => .error (.cause code t.ptr 0)
  else .ok (some none)

/-- The key of a D-page write of a stream (Table 10-6). -/
def State.streamKey (s : State) (t : Strm) (num elem : Nat) : DKey := ⟨0, s.lidOf s.cur, strmNo t, num, elem⟩

/-- The store operation of plain bytes: on a D page they are held for a phase of the barrier DPHB names (R273). -/
def State.writeOp (s : State) (t : Tgt) (data : List Byte) (key : DKey) : Res StoreOp :=
  if t.dpage then
    match s.dphb s.cur with
    | some b => .ok (.dwrite data b key none)
    | none => .error (.cause 0x161 t.ptr 0)
  else .ok (.write data)

/-- The device barrier record a checked access touches. -/
def State.recordOf (s : State) (t : Tgt) : Option Nat := t.place.segs.findSome? (fun g => if g.pa < 2 ^ 56 then none else s.recordAt g.pa)

/-- Accesses to window 0x6 raise the write-acknowledge count at their issue (R430). -/
def CoreSt.sent (c : CoreSt) (t : Tgt) : CoreSt :=
  match t.place with
  | .remote _ _ => { c with wacks := c.wacks + 1 }
  | _ => c

/-- A C store (R108): checked at issue, performed later in store-queue order; it takes the next TLC number. A store to a
device barrier record acts at the record once the earlier stores of its window have performed, so that its cause is precise
(R291). -/
def storeC (n : Nat) (d a : Reg) (i : BitVec 16) (s : State) : Res State := do
  let x ← s.rd a
  let v ← s.rd d
  await s.c.stReady
  let t ← access s s.cur (accC n true) none (eaC x i)
  let num := s.c.issued + 1
  match s.recordOf t with
  | some r => do
    await (s.c.stores.all (fun e => e.win != 7))
    match s.storeBar r (segAddr t.place.segs 0 - r) (toLE n v.toNat) with
    | some s =>
      let s := s.touch s.ctxNo t.place.dies
      .ok (s.setC s.c.countNum)
    | none => .error (.cause 0x148 t.ptr 0)
  | none =>
    match ← s.admitAt t 0x0A0 with
    | none => .ok ((s.setC s.c.countNum).stale s.ctxNo 1)
    | some g => do
      let op ← s.writeOp t (toLE n v.toNat) (s.streamKey .C num 0)
      let s := s.touch s.ctxNo t.place.dies
      let s := s.setCore (s.core.sent t)
      .ok (s.setC (s.c.takeNum.pushStore num (bits t.ptr 63 60) n [⟨t.place, op, g, 0⟩]))

/-- LDW. -/
def execLdw (d a : Reg) (i : BitVec 16) (s : State) : Host.Outcome State Fault Refusal := finish false (loadC 4 d a i s) s

/-- LDD. -/
def execLdd (d a : Reg) (i : BitVec 16) (s : State) : Host.Outcome State Fault Refusal := finish false (loadC 8 d a i s) s

/-- STW. -/
def execStw (d a : Reg) (i : BitVec 16) (s : State) : Host.Outcome State Fault Refusal := finish true (storeC 4 d a i s) s

/-- STD. -/
def execStd (d a : Reg) (i : BitVec 16) (s : State) : Host.Outcome State Fault Refusal := finish true (storeC 8 d a i s) s

/-! ### Address registers (R110) -/

/-- SETA. -/
def execSeta (n : BitVec 4) (a b : Reg) (s : State) : Host.Outcome State Fault Refusal :=
  finish false (do
    let x ← s.rd a
    let y ← s.rd b
    .ok (s.setCore (s.core.putBase n.toNat x (y.setWidth 32)))) s

/-- SETK. -/
def execSetk (n : BitVec 4) (a : Reg) (s : State) : Host.Outcome State Fault Refusal :=
  finish false (do
    let x ← s.rd a
    .ok (s.setCore (s.core.putLimit n.toNat (x.setWidth 32)))) s

/-- GETA. -/
def execGeta (d : Reg) (n : BitVec 4) (sel : BitVec 5) (s : State) : Host.Outcome State Fault Refusal :=
  finish false (
    let r := s.core.aregNew n.toNat
    match sel with
    | 0 => s.wr d r.base
    | 1 => s.wr d (sx64 r.stride)
    | 2 => s.wr d (zx64 r.limit)
    | _ => stop 0x022) s

/-! ### Control transfer (R111) -/

/-- A conditional branch. -/
def branch (a b : Reg) (o : BitVec 16) (f : Word → Word → Bool) (s : State) : Res (State × Nat) := do
  let x ← s.rd a
  let y ← s.rd b
  if f x y then .ok (s, ← s.target .C ((s.c.pc : Int) + o.toInt)) else .ok (s, s.c.pc + 1)

/-- BEQ. -/
def execBeq (a b : Reg) (o : BitVec 16) (s : State) : Host.Outcome State Fault Refusal :=
  finishJump (branch a b o (fun x y => x == y) s) s

/-- BNE. -/
def execBne (a b : Reg) (o : BitVec 16) (s : State) : Host.Outcome State Fault Refusal :=
  finishJump (branch a b o (fun x y => x != y) s) s

/-- BLT. -/
def execBlt (a b : Reg) (o : BitVec 16) (s : State) : Host.Outcome State Fault Refusal := finishJump (branch a b o ltS s) s

/-- BGE. -/
def execBge (a b : Reg) (o : BitVec 16) (s : State) : Host.Outcome State Fault Refusal :=
  finishJump (branch a b o (fun x y => !ltS x y) s) s

/-- BLTU. -/
def execBltu (a b : Reg) (o : BitVec 16) (s : State) : Host.Outcome State Fault Refusal := finishJump (branch a b o ltU s) s

/-- BGEU. -/
def execBgeu (a b : Reg) (o : BitVec 16) (s : State) : Host.Outcome State Fault Refusal :=
  finishJump (branch a b o (fun x y => !ltU x y) s) s

/-- J. -/
def execJ (o : BitVec 26) (s : State) : Host.Outcome State Fault Refusal :=
  finishJump (do .ok (s, ← s.target .C ((s.c.pc : Int) + o.toInt))) s

/-- JAL: s31 takes the index of the next word. -/
def execJal (o : BitVec 26) (s : State) : Host.Outcome State Fault Refusal :=
  finishJump (do
    let n ← s.target .C ((s.c.pc : Int) + o.toInt)
    .ok (← s.wr 31 (BitVec.ofNat 64 (s.c.pc + 1)), n)) s

/-- JALR: the target is computed from s[sa] before s[sd] is written. -/
def execJalr (d a : Reg) (i : BitVec 16) (s : State) : Host.Outcome State Fault Refusal :=
  finishJump (do
    let x ← s.rd a
    let n ← s.target .C ((x + sx64 i).toNat : Int)
    .ok (← s.wr d (BitVec.ofNat 64 (s.c.pc + 1)), n)) s

/-- LOOPC: compares with s[sb] after s[sa] is written. -/
def execLoopc (a b : Reg) (o : BitVec 16) (s : State) : Host.Outcome State Fault Refusal :=
  finishJump (do
    let x ← s.rd a
    let _ ← s.rd b
    let nv := x + 1
    let s' ← s.wr a nv
    if nv ≠ s'.core.sreg b then .ok (s', ← s.target .C ((s.c.pc : Int) + o.toInt)) else .ok (s', s.c.pc + 1)) s

/-! ### Forking and joining (R112, R113) -/

/-- The engine streams a 4-bit mask names. -/
def maskStrms (m : BitVec 4) : List Strm := [Strm.L, .V, .M, .S].filter (fun t => m.getLsbD (strmNo t - 1))

/-- A stream started by FORK: word 0, σ = 0, results still pending at their remaining distance (R46), the scoreboard as
CTXCFG has it (R411). -/
def StreamSt.start (m : StreamSt) (sbck : Bool) : StreamSt :=
  { m with run := true, pc := 0, sigma := 0, sbck := sbck, waiting := false,
           pend := m.pend.map (fun p => { p with vis := p.vis - m.sigma }) }

/-- FORK: a core-scope release of the C stream (Table 10-2). Its earlier loads and atomics have returned, and its earlier stores perform at
core scope as the streams start (R129, R266). The count of the M stream's work is set to 0 by a FORK that starts that stream: R205 says by FORK (log entry
102). -/
def execFork (m : BitVec 4) (s : State) : Host.Outcome State Fault Refusal :=
  finish false (do
    let l := maskStrms m
    need (!l.any (fun t => (s.sm t).run)) 0x026
    need (l.all (fun t => s.present t)) 0x029
    await (!s.core.owes && s.c.postReady s.c.seq)
    let sb := s.ctx.csr 0x300 &&& 1 != 0
    let c := l.foldl (fun c t => c.setStrm t ((c.strm t).start sb)) (s.core.markCore .C s.c.seq)
    .ok (s.setCore (if l.contains .M then { c with cost := 0 } else c))) s

/-- RDV (R113). R338 counts it among what orders two writers of a byte, and Table 10-2 orders no memory by it: the model takes the stores of the streams
joined as performed at core scope here, atomics among them performed, so that no later store of the core goes before them (log entry 101). -/
def execRdv (m : BitVec 4) (s : State) : Host.Outcome State Fault Refusal :=
  finish false (do
    let l := maskStrms m
    await (l.all (fun t => !(s.sm t).run && (s.sm t).postReady (s.sm t).seq))
    .ok (s.setCore (l.foldl (fun c t => c.markCore t (c.strm t).seq) s.core))) s

/-! ### Events and queues (R114, R115) -/

/-- POST of the C stream. -/
def execPost (e : BitVec 6) (n : BitVec 10) (s : State) : Host.Outcome State Fault Refusal :=
  thenPosts (finish false (do
    need (n ≠ 0) 0x022
    .ok (s.pushPost .C e.toNat n.toNat 0)) s)

/-- AWAIT of the C stream. -/
def execAwait (e : BitVec 6) (n : BitVec 10) (s : State) : Host.Outcome State Fault Refusal :=
  if n = 0 then finish false (stop 0x022) s
  else match s.core.doAwait .C e.toNat n.toNat with
    | some c => finish false (.ok (s.setCore c)) s
    | none => .next ((s.setCore (s.core.queueAwait .C e.toNat)).park .C)

/-- BOQP. -/
def execBoqp (a : Reg) (x : BitVec 2) (s : State) : Host.Outcome State Fault Refusal :=
  finish false (do
    let v ← s.rd a
    s.pushBoq (engineOf x.toNat) (v != 0)) s

/-- QPUT: the parameter queue holds 16 entries. -/
def execQput (a : Reg) (x : BitVec 2) (s : State) : Host.Outcome State Fault Refusal :=
  finish false (do
    let v ← s.rd a
    let t := engineOf x.toNat
    await ((s.sm t).pq.length < 16)
    .ok (s.setSm t { s.sm t with pq := (s.sm t).pq ++ [v.setWidth 32] })) s

/-! ### BKSEL (R119) -/

/-- A read of a table by a C word (R468): it follows earlier loads of the stream and is not served from stores that have not
reached their home. -/
def State.readC (s : State) (p n align code : Nat) : Res (List Byte) := do
  checkDesc p align code
  await (s.c.ldReady && s.c.loadsDone s.c.seq)
  if bits p 59 56 ≠ 0 ∨ 2 ^ 56 < bits p 55 0 + n then .error (.cause 0x061 p 0)
  else
    let l ← xlate s (.core s.cur) s.ctxNo 4 (bits p 55 0) n false 0
    let g := l.map (fun c => c.seg)
    await (!s.core.blockedNow .C (.phys p g))
    .ok (s.readSegs g)

/-- The state after a table has been read: the context has touched the dies that home it (R13). -/
def State.touchC (s : State) (p n : Nat) : State :=
  s.touch s.ctxNo ((s.segsAt s.ctxNo (bits p 55 0) n).filterMap (fun g => homeDie g.pa))

/-- The entries of a bucket table as (size, target). -/
def buckets (bs : List Byte) (n : Nat) : List (Nat × Nat) :=
  (List.range n).map (fun j => (fieldLE bs (8 * j) 4, fieldLE bs (8 * j + 4) 4))

/-- Whether sizes rise strictly. -/
def rising : List (Nat × Nat) → Bool
  | a :: b :: r => decide (a.1 < b.1) && rising (b :: r)
  | _ => true

/-- BKSEL. -/
def execBksel (d a : Reg) (i : BitVec 16) (s : State) : Host.Outcome State Fault Refusal :=
  finishJump (do
    let n ← s.rd a
    let b ← s.rd d
    let ta := (b + sx64 i).toNat
    let h ← s.readC ta 8 8 0x04A
    let cnt := fieldLE h 0 4
    need (1 ≤ cnt ∧ cnt ≤ 64 ∧ fieldLE h 4 4 = 0) 0x04A
    let l := buckets (← s.readC (wrap64 (ta + 8)) (8 * cnt) 8 0x04A) cnt
    need (rising l) 0x04A
    let s := s.touchC ta (8 + 8 * cnt)
    match l.find? (fun e => decide (n.toNat ≤ e.1)) with
    | some e => do
      let t ← s.target .C (e.2 : Int)
      let s := s.setCore (s.core.setCsr 0x014 (BitVec.ofNat 64 e.1 - n))
      .ok (← s.wr d (BitVec.ofNat 64 e.1), t)
    | none =>
      let s := s.setCore (s.core.setCsr 0x014 0)
      .ok (← s.wr d 0, s.c.pc + 1)) s

/-! ### SYS words without registers of their own (R120, R121) -/

/-- NOP. -/
def execNop (s : State) : Host.Outcome State Fault Refusal := finish false (.ok s) s

/-- TRAP d: a software trap. -/
def execTrap (d : BitVec 5) (s : State) : Host.Outcome State Fault Refusal := finish false (stop (0x1E0 + d.toNat)) s

/-- ERET (R419): it reads the save area once the handler's own stores to it have performed there (R258); a lost die or a poisoned frame is the word's
cause (R16, R362). -/
def execEret (s : State) : Host.Outcome State Fault Refusal :=
  match s.core.hand with
  | none => finish false (stop 0x027) s
  | some h =>
    if s.core.owes ∨ !s.c.postReady s.c.seq then .next (s.park .C)
    else
      let s := s.setCore (s.core.markCore .C s.c.seq)
      match s.areaBad s.ctxNo h.save 256 with
      | some (c, a, d) => finish false (.error (.cause c a d)) s
      | none =>
        if s.core.blockedNow .C (.phys 0 (s.segsAt s.ctxNo (bits h.save 55 0) 256)) then .next (s.park .C) else thenPosts (.next (s.eret h))

/-- FENCE of the C stream (R264). -/
def execFence (f sc : BitVec 5) (s : State) : Host.Outcome State Fault Refusal :=
  thenPosts (finish false (do
    need (1 ≤ f.toNat ∧ f.toNat ≤ 3 ∧ sc.toNat ≤ 4) 0x022
    await (f = 1 ∨ s.core.releaseReady .C sc.toNat)
    .ok (s.setC (s.c.fence sc.toNat f.toNat))) s)

/-- SLEEP: the count of cycles still to go stands in the core; the word is done when it has run out (R104). -/
def execSleep (a : Reg) (s : State) : Host.Outcome State Fault Refusal :=
  match s.core.sleep with
  | some v => if v = 0 then .next (s.setCore { s.core with sleep := none }).retire else .next (s.park .C)
  | none =>
    match s.rd a with
    | .ok v => if v = 0 then .next s.retire else .next ((s.setCore { s.core with sleep := some v }).park .C)
    | _ => .next (s.park .C)

/-- HALT: done first, then the context takes cause 0x1C3, so that the record names HALT and RESUME goes on after it. -/
def execHalt (s : State) : Host.Outcome State Fault Refusal := .next (s.retire.raise .C (s.siteC false) 0x1C3 0 0)

/-- SCRUB (R121): the number of lines corrected and whether a line held an uncorrectable error are the memory's, so they are
free values; a line that did makes its frame poisoned. The die of the frame and the core that runs the word count them (R451; log entry 104). A page that is poisoned already sets bit 63 (Table 15-5); a poisoned table is a fault
of the translation. -/
def execScrub (d a : Reg) (s : State) : Host.Outcome State Fault Refusal :=
  finish false (do
    let x ← s.rd a
    let p := x.toNat / 65536 * 65536
    needAt (bits p 63 60 = 4) 0x060 p
    await (!s.core.busy d)
    let (v, s) := s.free
    let n := v.toNat % 1025
    match access s s.cur ⟨[4], none, 65536, 65536, false, 0⟩ none p with
    | .error (.cause 0x084 e l) =>
      (match s.pageOf s.cur (bits p 55 0) with
       | none => .error (.cause 0x084 e l)
       | some pa => (((s.count 1 (engineDie pa) n).count 3 s.cur n).touch s.ctxNo [engineDie pa]).wr d (BitVec.ofNat 64 (n + 2 ^ 63)))
    | .error e => .error e
    | .ok t =>
      let bad := v.msb
      let s := (s.count 1 (engineDie ((t.place.segs.map (fun g => g.pa)).headD 0)) n).count 3 s.cur n
      let s := if bad then (s.count 4 s.cur 1).forEach t.place.segs (fun g s => s.poisonFrame (g.pa / 65536)) else s
      (s.touch s.ctxNo t.place.dies).wr d (BitVec.ofNat 64 (n + if bad then 2 ^ 63 else 0))) s

/-! ### Ordering words (R263 to R271) -/

/-- MARK of the C stream. -/
def execMark (s : State) : Host.Outcome State Fault Refusal := finish false (.ok (s.setC s.c.doMark)) s

/-- Issued and completed value of a copy queue (R267). -/
def CopyQ.completed (q : CopyQ) : Nat := q.cmds.foldl (fun a t => min a (t.num - 1)) q.issued

/-- The stream whose counter has an id of Table 10-3. -/
def tlStrm (c : Nat) : Strm :=
  match c with
  | 0 => .C
  | n + 1 => engineOf n

/-- The issued and the completed value of a timeline counter. -/
def State.timeline (s : State) (c : Nat) : Nat × Nat :=
  if 64 ≤ c then ((s.ctx.cq (c - 64)).issued, (s.ctx.cq (c - 64)).completed)
  else ((s.sm (tlStrm c)).issued, (s.sm (tlStrm c)).completed)

/-- TLRD. -/
def execTlrd (d : Reg) (sel : Bool) (c : BitVec 7) (s : State) : Host.Outcome State Fault Refusal :=
  finish false (do
    need (tlExists c.toNat) 0x022
    let v := s.timeline c.toNat
    s.wr d (BitVec.ofNat 64 (if sel then v.1 else v.2))) s

/-- TLWAIT. -/
def execTlwait (a : Reg) (c : BitVec 7) (s : State) : Host.Outcome State Fault Refusal :=
  finish false (do
    need (tlExists c.toNat) 0x022
    let n ← s.rd a
    if n = 0 then .ok s
    else do
      let v := s.timeline c.toNat
      need (64 ≤ c.toNat ∨ n.toNat ≤ v.1) 0x143
      await (n.toNat ≤ v.2)
      .ok (s.setC s.c.acquire)) s

/-- The queues of a core as a PHMARK with a mask finds them (R271). -/
def State.markNow (s : State) (bar phase cmd mask : Nat) : MarkEnt :=
  let c := s.core
  { bar := bar, phase := phase, cmd := cmd, mask := mask, cSeq := c.cS.seq, lSeq := c.lS.seq, vNum := c.vS.issued,
    mNum := c.mS.issued, sSeq := c.sS.seq, copies := c.xq.map (fun q => (q, (s.ctx.cq q).issued)), link := cmd }

/-- D-page writes and contributions of a queue that no marker has claimed yet take the phase of a new marker (R274). -/
def claimPhase (bar phase : Nat) (m : StreamSt) : StreamSt :=
  { m with stores := m.stores.map (fun e => { e with elems := e.elems.map (fun x =>
      match x.op with
      | .dwrite d b k none => if b = bar then { x with op := .dwrite d b k (some phase) } else x
      | .optw i (some (b, k)) none => if b = bar then { x with op := .optw i (some (b, k)) (some phase) } else x
      | .ared k l p v b none => if b = bar then { x with op := .ared k l p v b (some phase) } else x
      | _ => x) }) }

/-- The same for writes that have landed and contributions that hold an entry. -/
def State.claimLanded (s : State) (bar phase : Nat) (q : Nat → Bool) : State :=
  { s with
    dheld := s.dheld.map (fun (h : DHeld) =>
      if h.bar = bar ∧ h.core = s.cur ∧ !h.fixed ∧ q h.strm then { h with phase := phase, fixed := true } else h),
    aheld := s.aheld.map (fun (h : AHeld) =>
      if h.bar = bar ∧ h.core = s.cur ∧ !h.fixed ∧ q 0 then { h with phase := phase, fixed := true } else h) }

/-- The same for copy commands of the core that have not landed. -/
def State.claimCopies (s : State) (bar phase : Nat) : State :=
  s.setCtxOf s.ctxNo { s.ctx with copyq := mapVals (fun _ (q : CopyQ) => { q with cmds := q.cmds.map (fun (t : Xfer) =>
    if t.core = s.cur ∧ t.dbar = some bar ∧ t.dphase = none ∧ t.st ≠ .landed then { t with dphase := some phase } else t) }) s.ctx.copyq }

/-- The pointer of a device barrier checked (R125, R271): its sync address, or cause `code` when it names no barrier. -/
def State.barPtr (s : State) (p code : Nat) : Res Nat := do
  let _ ← access s s.cur ⟨[7], none, 64, 64, false, 3⟩ none p
  match s.barrierAt s.ctxNo p with
  | some b => .ok b
  | none => .error (.cause code p 0)

/-- The phase a new PHMARK of the current core on a barrier closes: the barrier's, and one later for each earlier PHMARK of the core whose
arrival is not delivered (R293), and later than every phase from the current one on that the core has closed (R271). -/
def State.markPhase (s : State) (b : Nat) : Nat :=
  let cur := (s.bar b).phase
  let owed := (s.core.marks.filter (fun m => m.bar == b)).length
  let done := match find? s.core.marked b with
    | some q => let k := (q + 2 ^ 32 - cur) % 2 ^ 32; if k < 2 ^ 31 then k + 1 else 0
    | none => 0
  (cur + max owed done) % 2 ^ 32

/-- PHMARK (R271, R292, R293). -/
def execPhmark (a : Reg) (m : BitVec 7) (s : State) : Host.Outcome State Fault Refusal :=
  finish true (do
    need (m ≠ 0) 0x022
    let p ← s.rd a
    await s.c.stReady
    let b ← s.barPtr p.toNat 0x142
    needAt (s.barOpen b) 0x142 p.toNat
    let cur := (s.bar b).phase
    let phase := s.markPhase b
    needAt ((phase + 2 ^ 32 - cur) % 2 ^ 32 ≤ 1) 0x142 p.toNat
    needAt ((s.bar b).mmask &&& m.toNat == (s.bar b).mmask) 0x142 p.toNat
    let (num, s) := s.tlc
    let e := s.markNow b phase num m.toNat
    let s := s.touch s.ctxNo [engineDie b]
    let s := s.claimLanded b phase (fun q => (q == 0 && m.getLsbD 0) || (q == 4 && m.getLsbD 4) || (q == 5 && m.getLsbD 5))
    let s := if m.getLsbD 5 then s.claimCopies b phase else s
    let c := s.core
    let c := if m.getLsbD 0 then { c with cS := claimPhase b phase c.cS } else c
    let c := if m.getLsbD 4 then { c with sS := claimPhase b phase c.sS } else c
    let c := { c with marks := c.marks ++ [e], marked := setKey c.marked b phase, cS := { c.cS with seq := c.cS.seq + 1 } }
    .ok (s.setCore c)) s

end Sys2Proof.Machine
end

