-- ==== Sys2Proof/Machine/DLog.lean ====
section
/-! DEFINITION. The decision log of a context (R339 to R342). -/

namespace Sys2Proof.Machine

/-- The pointer of the entry of decision n of a context in the ring at DLOGB. -/
def State.logPtr (s : State) (x n : Nat) : Nat :=
  let c := s.ctxOf x
  (c.csr 0x3F2).toNat + n % 2 ^ bits (c.csr 0x3F3).toNat 15 8 * 32

/-- Where decision n of a context is held: the bytes of its entry. -/
def State.logSegs (s : State) (x n : Nat) : List Seg := s.segsAt x (bits (s.logPtr x n) 55 0) 32

/-- One decision of a word of the current core (Table 13-11): recorded, matched in replay, or free when the log is off. An entry on a lost die or in a
poisoned frame is the word's cause, and the log does not move (R16, R362). -/
def State.decision (s : State) (kind loc : Nat) (t : Strm) (elem num : Nat) : Res State :=
  let x := s.ctxNo
  let c := s.ctxOf x
  let m := (c.csr 0x3F3).toNat
  let w := (c.csr 0x3F4).toNat
  let r := (c.csr 0x3F5).toNat
  let who := strmNo t + elem % 2 ^ 14 * 2 ^ 8 + num % 2 ^ 42 * 2 ^ 22
  match bits m 1 0 with
  | 1 =>
    if 2 ^ bits m 15 8 ≤ w - r then (if bit m 2 then stop 0x162 else .error .wait)
    else if let some (c, a, d) := s.areaBad x (s.logPtr x w) 32 then .error (.cause c a d)
    else
      let s := (s.sysWrite x (s.logPtr x w) s.runLid (toLE 8 kind ++ toLE 8 loc ++ toLE 8 (s.lidOf s.cur) ++ toLE 8 who)).1
      .ok (s.setCtxOf x ((s.ctxOf x).setCsr 0x3F4 (BitVec.ofNat 64 (w + 1))))
  | 2 =>
    if r = w then (if bit m 2 then stop 0x164 else .error .wait)
    else if let some (c, a, d) := s.areaBad x (s.logPtr x r) 32 then .error (.cause c a d)
    else
      let s := s.touch x ((s.logSegs x r).filterMap (fun g => homeDie g.pa))
      let c := s.ctxOf x
      let e := s.readSegs (s.logSegs x r)
      if fieldLE e 16 8 = s.lidOf s.cur ∧ fieldLE e 24 8 = who then
        if fieldLE e 0 8 = kind ∧ fieldLE e 8 8 = loc then .ok (s.setCtxOf x (c.setCsr 0x3F5 (BitVec.ofNat 64 (r + 1))))
        else .error (.cause 0x163 r loc)
      else .error .wait
  | _ => .ok s

/-- The decisions of several elements of one word, as (location, element index), in order. -/
def State.decisions (s : State) (kind : Nat) (t : Strm) (num : Nat) (l : List (Nat × Nat)) : Res State :=
  l.foldlM (fun s e => s.decision kind e.1 t e.2 num) s

end Sys2Proof.Machine
end

