-- ==== Sys2Proof/Machine/Perform.lean ====
section
/-! DEFINITION. What an element of a store queue does when it performs at its home, and the order in which elements perform
(R148, R261, R262, R274, R283, R285, R305, R383). -/

namespace Sys2Proof.Machine

/-! ### Atomics (Table 11-1) -/

/-- A value of w bits as a signed number. -/
def sgn (w v : Nat) : Int := sextN v w

/-- The new value of an atomic of w bits. -/
def atomNew (op w old b cmp : Nat) : Nat :=
  match op with
  | 0x00 => (old + b) % 2 ^ w
  | 0x01 => if sgn w b < sgn w old then b else old
  | 0x02 => if sgn w old < sgn w b then b else old
  | 0x03 => min old b
  | 0x04 => max old b
  | 0x05 => old &&& b
  | 0x06 => old ||| b
  | 0x07 => old ^^^ b
  | 0x08 => b
  | 0x09 => if old = cmp then b else old
  | 0x0A => (fadd 0 (BitVec.ofNat 32 old) (BitVec.ofNat 32 b)).toNat
  | 0x0B => (fmin (BitVec.ofNat 32 old) (BitVec.ofNat 32 b)).toNat
  | _ => (fmax (BitVec.ofNat 32 old) (BitVec.ofNat 32 b)).toNat

/-- The value a return form writes (R283). -/
def atomRet (wide : Bool) (old : Nat) : Word := if wide then BitVec.ofNat 64 old else sx64 (BitVec.ofNat 32 old)

/-- An atomic performed on a list of segments: the old value, and the state after it. -/
def State.atomAt (s : State) (g : List Seg) (op : Nat) (wide : Bool) (operand compare : Word) : Nat × State :=
  let w := if wide then 64 else 32
  let old := leNat (s.readSegs g)
  let cmp := compare.toNat % 2 ^ w
  if op = 9 ∧ old ≠ cmp then (old, s)
  else (old, s.perform g (toLE (w / 8) (atomNew op w old (operand.toNat % 2 ^ w) cmp)))

/-- STADD and STAXPY (R148): round(alpha × src + mem) in FP32 or BF16, rounded once. -/
def fmaElem (fmt rm : Nat) (alpha src : W32) (old : Nat) : Nat :=
  let m := if fmt = 1 then fp32Of 1 nan32 old else BitVec.ofNat 32 old
  let x := xvAdd rm (xvMul (xv32 alpha) (xv32 src)) (xv32 m)
  (encElem fmt rm none x).code

/-! ### Waits ended by WAKE (R305) -/

/-- Every wait on a doubleword ended with its current value: the number ended, and the state after it. -/
def State.wakeAll (s : State) (pa : Nat) : Nat × State :=
  let v := BitVec.ofNat 64 (s.readN pa 8)
  let tabs := (List.range 4).flatMap (fun d => ((s.dieOf d).waits.filter (fun w => w.pa == pa)).map (fun w => w.core))
  let polls := (s.cores.filter (fun c => match c.2.wait with
    | .poll w => w.pa == pa
    | _ => false)).map (fun c => c.1)
  let s := s.forN 4 (fun d s =>
    if (s.dieOf d).waits.any (fun w => w.pa == pa) then
      s.setDieOf d { s.dieOf d with waits := (s.dieOf d).waits.filter (fun w => w.pa != pa) } else s)
  (tabs.length + polls.length, s.forEach (tabs ++ polls) (fun c s => s.wake c v))

/-! ### One element -/

/-- The phase an element that lands is held for, none when its barrier is IDLE or BROKEN (R274, R295). -/
def State.landPhase (s : State) (bar : Nat) (phase : Option Nat) : Option (Nat × Bool) :=
  let r := s.bar bar
  if r.st = 0 ∨ r.st = 4 then none
  else match phase with
    | some p => some (p, true)
    | none => some (r.phase, false)

/-- What STALEC rises by for a dropped piece of `n` bytes of a word with element size `esz`, half-bytes for 0 (R383). -/
def staleOf (esz n : Nat) : Nat := if esz = 0 then 2 * n else (n + esz - 1) / esz

/-- Whether an entry is an STT word's. -/
def StoreEnt.isTile (e : StoreEnt) : Bool :=
  match e.kind with
  | .tile _ => true
  | _ => false

/-- What STALEC rises by for a piece of an entry: an STT word counts once, however many of its pieces are dropped (R383). -/
def StoreEnt.staleFor (e : StoreEnt) (n : Nat) : Nat := if e.isTile then 1 else staleOf e.esz n

/-- KIND of Table 15-8 of what an element does. -/
def StoreOp.kind : StoreOp → Nat
  | .write _ => 1
  | .dwrite _ _ _ _ => 1
  | .fma _ _ _ _ => 2
  | .atom _ _ _ _ _ => 3
  | .ared _ _ _ _ _ _ => 3
  | .wake _ => 0
  | .optw _ _ _ => 2
  | .arrive _ _ => 0
  | .qtag _ _ _ => 1
  | .qclaim _ _ _ _ => 1

/-- Whether an element writes where it performs. -/
def StoreOp.stores : StoreOp → Bool
  | .wake _ => false
  | .arrive _ _ => false
  | .qtag _ _ _ => false
  | .qclaim _ _ _ _ => false
  | _ => true

/-- Whether a place lies in a poisoned frame. -/
def State.placePoisoned (s : State) (p : Place) : Bool := p.segs.any (fun c => s.poisoned c.pa || s.poisoned (c.pa + c.len - 1))

/-- Where an access issued earlier goes now: when a frame of it has been poisoned since, its pointer is translated again, which finds where its page
is now or is its cause, at the first byte that fails (R362, R366, Table 15-5). -/
def State.refresh (s : State) (core : Nat) (wr : Bool) (kind : Nat) (p : Place) : Res Place :=
  match p with
  | .phys q g =>
    if !s.placePoisoned p then .ok p
    else
      let w := bits q 63 60
      (xlate s (.core core) (s.ctxNoOf core) w (winOff w q) (g.map (fun c => c.len)).sum wr kind).map (fun l => .phys q (l.map (fun c => c.seg)))
  | p => .ok p

/-- Where an element that performs at its home goes now. -/
def State.placeNow (s : State) (core : Nat) (e : StoreElem) : Res Place :=
  if e.op.stores then s.refresh core true e.op.kind e.place else .ok e.place

/-- The generic pointer of a place's first byte, 0 outside memory. -/
def Place.ptr : Place → Nat
  | .phys p _ => p
  | _ => 0

/-- A value returned to the C stream of a core. -/
def State.giveBack (s : State) (core : Nat) (dst : Option Nat) (v : Word) : State :=
  match dst with
  | some d => s.setCoreOf core ((s.coreOf core).setSreg (BitVec.ofNat 5 d) v)
  | none => s

/-- An element of a window 0x6 entry sent to its device. -/
def State.sendRemote (s : State) (e : StoreElem) (dev off : Nat) : State :=
  match e.op with
  | .write d => s.send (.remoteStore dev off d)
  | .atom op wide b cmp _ => s.send (.remoteAtomic dev off (op + if wide then 16 else 0) b cmp)
  | .fma fmt rm alpha src =>
    s.send (.remoteAtomic dev off (64 + fmt * 4 + rm) (zx64 alpha) (zx64 src))
  | _ => s

/-- What a window 0x6 element leaves behind once it has been sent. -/
def StoreElem.sent (e : StoreElem) : List (Nat × Option (Nat × Bool)) :=
  match e.place, e.op with
  | .remote dev _, .atom _ wide _ _ (some d) => [(dev, some (d, wide))]
  | .remote dev _, _ => [(dev, none)]
  | _, _ => []

/-- A D-page write that lands is held for its phase (R274); of an STT word one piece of a phase carries the count. -/
def State.holdWrite (s : State) (core x : Nat) (t : Strm) (ent : StoreEnt) (e : StoreElem) (d : List Byte) (bar : Nat) (key : DKey)
    (phase : Option Nat) : State :=
  match s.landPhase bar phase with
  | none => s
  | some (p, f) =>
    let twin (h : DHeld) : Bool := h.bar == bar && h.phase == p && h.key.f1 == key.f1 && h.key.f2 == key.f2 && h.key.f3 == key.f3 && h.core == core
    let n := if ent.isTile ∧ s.dheld.any twin then 0 else ent.staleFor d.length
    { s with dheld := s.dheld ++ [⟨n, bar, p, f, core, s.memberNo core, strmNo t, x, key, e.place.segs, d, e.tag⟩] }

/-- The arrival of a BARA whose release is satisfied: its result goes to its register, or it is refused with its cause (R298, Table 11-3). -/
def State.doArrive (s : State) (core x b : Nat) (grp : Option Nat) (dst : Nat) : Res State :=
  match grp with
  | none =>
    (match s.arrive b x with
     | .refused => stop 0x147
     | .broken ph => .ok (s.giveBack core (some dst) (brokenRes ph))
     | .ok ph s => .ok (s.giveBack core (some dst) (BitVec.ofNat 64 ph)))
  | some n =>
    match s.groupBarOf core n with
    | none => stop 0x146
    | some (i, g, m) =>
      match g.arrive m with
      | none => stop 0x147
      | some (v, g) => .ok ((s.setGroupBar i n g).giveBack core (some dst) v)

/-- An RPUBL or RRELS acts at its queue. When the slot has left the state it was checked in, another word has published or released it: cause
0x046. On a queue that is no longer ACTIVE or DRAINING it is 0x090 (R313, R316). -/
def State.doRing (s : State) (q j : Nat) (rel : Bool) : Res State :=
  match s.ringAct q j rel with
  | some s => .ok s
  | none => stop (if (s.queueOf q).st = .active ∨ (s.queueOf q).st = .draining then 0x046 else 0x090)

/-- The number of the task of a core (R315). -/
def State.taskNoOf (s : State) (core : Nat) : Nat := ((s.coreOf core).task.map s.taskKey).getD (2 ^ 64)

/-- An RCLAIM acts at its queue, served in the order of arrival there; while the queue is full, or it is not its turn, it waits (R316 to R318). -/
def State.doClaim (s : State) (core q : Nat) (nw : Bool) (dst : Nat) (ended : Bool) : Res State :=
  let k := s.queueOf q
  let left := k.waitC.filter (fun c => c != core)
  if ended ∨ k.st ≠ .active then stop 0x090
  else if k.full then (if nw then .ok ((s.setQueueOf q { k with waitC := left }).giveBack core (some dst) 0) else .error .wait)
  else if !s.turnOf k.ctx core k.waitC then .error .wait
  else do
    let s ← State.decision { s with cur := core } 1 q .C 0 0
    let s := s.setQueueOf q { k with t := (k.t + 1) % 2 ^ 32, claims := (k.t, s.taskNoOf core) :: k.claims, waitC := left }
    .ok (s.giveBack core (some dst) (BitVec.ofNat 64 (k.slotPtr k.t)))

/-- An element performs at its home (or lands there), or meets its cause: context x, stream t of a core, entry ent. -/
def State.doElem (s : State) (core x : Nat) (t : Strm) (ent : StoreEnt) (e : StoreElem) : Res State :=
  match e.place with
  | .remote dev off => .ok (s.sendRemote e dev off)
  | .phys _ g =>
    if g.any (fun c => s.homeLost c.pa) then .ok s
    else do
      let pl ← s.placeNow core e
      let e := { e with place := pl }
      let g := pl.segs
      let held := match e.tag with
        | some v => s.tagHolds v
        | none => true
      match e.op with
      | .write d => .ok (if held then s.perform g d else s.stale x (ent.staleFor d.length))
      | .dwrite d bar key phase => .ok (s.holdWrite core x t ent e d bar key phase)
      | .atom op wide b cmp dst =>
        .ok (if held then
          let r := s.atomAt g op wide b cmp
          r.2.giveBack core dst (atomRet wide r.1)
        else (s.stale x 1).giveBack core dst (atomRet wide (leNat (s.readSegs g))))
      | .fma fmt rm alpha src =>
        .ok (if held then s.perform g (toLE (fmtBytes fmt 1) (fmaElem fmt rm alpha src (leNat (s.readSegs g)))) else s.stale x 1)
      | .ared key lid pos v bar phase =>
        .ok (match s.landPhase bar phase with
         | some (p, f) =>
           let pa := segAddr g 0
           let h : AHeld := { bar := bar, phase := p, fixed := f, core := core, die := engineDie pa, pa := pa, key := key,
                              lid := lid, pos := pos, val := v, ctx := x, tag := e.tag }
           { s with aheld := s.aheld ++ [h] }
         | none => s)
      | .wake dst =>
        let r := s.wakeAll (segAddr g 0)
        .ok (r.2.giveBack core (some dst) (BitVec.ofNat 64 r.1))
      | .optw _ _ _ => .ok s
      | .arrive grp dst => s.doArrive core x (segAddr g 0) grp dst
      | .qtag q j rel => s.doRing q j rel
      | .qclaim q nw dst ended => s.doClaim core q nw dst ended
  | _ => .ok s

/-! ### Taking elements off a queue -/

/-- The first n bytes of an element, which are `d` elements of its word, and what is left of it. -/
def splitElem (n d : Nat) (e : StoreElem) : StoreElem × Option StoreElem :=
  let cut (l : List Byte) (mk : List Byte → StoreOp) : StoreElem × Option StoreElem :=
    if l.length ≤ n ∨ n = 0 then (e, none)
    else
      let a : Place := match e.place with
        | .phys p g => .phys p (segSlice g 0 n)
        | p => p
      let b : Place := match e.place with
        | .phys p g => .phys (wrap64 (p + n)) (segSlice g n (l.length - n))
        | .remote v o => .remote v (o + n)
        | p => p
      ({ e with place := a, op := mk (l.take n) }, some { e with place := b, op := mk (l.drop n), idx := e.idx + d })
  match e.op with
  | .write l => cut l .write
  | .dwrite l b key ph => cut l (fun x => .dwrite x b key ph)
  | _ => (e, none)

/-- The first k units of `u` bytes, each `d` elements of the word, of a list of elements, and the rest. -/
def takeUnits (u d : Nat) : Nat → List StoreElem → List StoreElem × List StoreElem
  | 0, l => ([], l)
  | _, [] => ([], [])
  | k + 1, e :: r =>
    match splitElem u d e with
    | (a, none) => let p := takeUnits u d k r; (a :: p.1, p.2)
    | (a, some b) => let p := takeUnits u d k (b :: r); (a :: p.1, p.2)

/-- The pieces a performing entry gives up: of its first elements of one kind all for k = 0, else k elements, or k pairs of half-byte ones. -/
def StoreEnt.pieces (ent : StoreEnt) (k : Nat) (f : StoreOp → Bool) : List StoreElem × List StoreElem :=
  let a := ent.elems.takeWhile (fun x => f x.op)
  let b := ent.elems.dropWhile (fun x => f x.op)
  if k = 0 then (a, b)
  else
    let p := takeUnits (max 1 ent.esz) (if ent.esz = 0 then 2 else 1) k a
    (p.1, p.2 ++ b)

/-- Whether an element is a write whose version has left the state that admitted it. -/
def State.dropped (s : State) (e : StoreElem) : Bool :=
  match e.op, e.tag with
  | .write _, some v => !s.tagHolds v
  | _, _ => false

/-- What has become of pieces of an entry: the state, the pieces not made, whether an STT word's has been dropped, and the cause the first one
not made has met. -/
structure Pieces where
  s : State
  left : List StoreElem
  dropped : Bool
  bad : Option (StoreElem × Stop)

/-- Pieces of an entry made in order, up to one that meets a cause. The first dropped piece of an STT word drops the rest of it, so that the word counts
once (R383). -/
def State.doPieces (core x : Nat) (t : Strm) (ent : StoreEnt) : List StoreElem → State → Pieces
  | [], s => ⟨s, [], false, none⟩
  | e :: r, s =>
    match s.doElem core x t ent e with
    | .error c => ⟨s, e :: r, false, some (e, c)⟩
    | .ok s' => if ent.isTile && s.dropped e then ⟨s', [], true, none⟩ else State.doPieces core x t ent r s'

/-- The element of a word that a cause at an address inside one of its pieces names (R103). -/
def StoreElem.elemAt (e : StoreElem) (esz addr : Nat) : Nat :=
  e.idx + (if addr = 0 then 0 else (addr + 2 ^ 64 - e.place.ptr) % 2 ^ 64 * 8 / (if esz = 0 then 4 else 8 * esz))

/-- An entry of a store queue whose next piece meets a cause: it takes it as it would have at issue; one of a ring word faults its queue (R316,
R321). -/
def State.storeFault (s : State) (t : Strm) (ent : StoreEnt) (e : StoreElem) (c : Stop) : State :=
  match c with
  | .wait =>
    -- an RCLAIM takes its place among those that wait (R318)
    match e.op with
    | .qclaim q _ _ _ => s.setQueueOf q { s.queueOf q with waitC := joinWait (s.queueOf q).waitC s.cur }
    | _ => s
  | .cause code a d =>
    s.accessFault t ent.seq ent.tl ent.pc (e.elemAt ent.esz a) (match e.op with
      | .qtag q _ _ => fun s => if code = 0x046 then s.faultQueue q else s
      | _ => id) code a d
  | .at code a d i => s.accessFault t ent.seq ent.tl ent.pc i id code a d

/-- The first elements of a kind of the oldest entry of a window of a stream of the current core perform, `k` of them (0 for all), up to one that meets a
cause; when that is the first of them, its cause is taken (R131, R366). An entry with nothing left completes its number, unless another entry of its
word is left; one of window 0x6 stays until its accesses are acknowledged (R430). A tile register whose STT completes is drained (Table 7-3). -/
def State.performSome (s : State) (core : Nat) (t : Strm) (win k : Nat) (f : StoreOp → Bool) : State :=
  let m := (s.coreOf core).strm t
  match m.stores.find? (fun e => e.win == win && !e.elems.isEmpty) with
  | none => s
  | some ent =>
    let p := ent.pieces k f
    let r := State.doPieces core (s.ctxNoOf core) t ent p.1 s
    match if r.left.length = p.1.length then r.bad else none with
    | some (e, c) => s.storeFault t ent e c
    | none =>
      let s := r.s
      let rest := if r.dropped then [] else r.left ++ p.2
      let c := s.coreOf core
      let c := match ent.kind, rest with
        | .tile (some k), [] => c.setTile k { c.tile k with stat := (c.tile k).stat &&& ~~~2#32 }
        | _, _ => c
      let m := c.strm t
      let m :=
        if rest.isEmpty ∧ win ≠ 6 then { m with stores := m.stores.filter (fun e => !(e.seq == ent.seq && e.win == win)) }.closeNum ent.tl
        else { m with stores := m.stores.map (fun e => if e.seq = ent.seq ∧ e.win = win ∧ !e.elems.isEmpty then
          { e with elems := rest, sent := e.sent ++ (p.1.take (p.1.length - r.left.length)).flatMap StoreElem.sent } else e) }
      s.setCoreOf core (c.setStrm t m)

/-- The oldest entry of a window of a stream that still has elements to perform, when the first of them satisfies a test and, for those that
return a value, every earlier load has returned (R262). -/
def StreamSt.oldest (m : StreamSt) (win : Nat) (f : StoreOp → Bool) : Option StoreEnt :=
  match m.stores.find? (fun e => e.win == win && !e.elems.isEmpty) with
  | some e =>
    if ((e.elems.head?.map (fun x => f x.op)).getD false) && (!e.returns || m.loads.all (fun l => decide (e.seq ≤ l.seq))) then some e else none
  | none => none

/-- Whether an element ends waits if it performs: it is a WAKE, a BARA or an RPUBL, or touches a doubleword that holds a wait (R298, R303, R305,
R317). -/
def State.endsWaits (s : State) (e : StoreElem) : Bool :=
  match e.op with
  | .wake _ => true
  | .arrive _ _ => true
  | .qtag _ _ rel => !rel
  | .qclaim _ _ _ _ => false
  | .dwrite _ _ _ _ => false
  | .ared _ _ _ _ _ _ => false
  | _ => (List.range 4).any (fun d => (s.dieOf d).waits.any (fun w => touches e.place.segs w.pa)) ||
      s.cores.any (fun c => match c.2.wait with
        | .poll w => touches e.place.segs w.pa
        | _ => false)

/-- Whether an operation is an RPUBL or RRELS. -/
def StoreOp.isQtag : StoreOp → Bool
  | .qtag _ _ _ => true
  | _ => false

/-- Whether an entry may perform now: no store of another stream goes before it (R258, R265, R338), what it releases has performed when
it ends a wait (R266), and the loads before a ring word have returned (R317). -/
def State.mayPerform (s : State) (core : Nat) (t : Strm) (ent : StoreEnt) : Bool :=
  let c := s.coreOf core
  !c.overtakes t ent && (!ent.elems.any (fun x => s.endsWaits x) || c.cleared t ent) &&
    (!ent.elems.any (fun x => x.op.isQtag) || (c.strm t).loadsDone ent.seq)

/-- A step outside the streams that acts for core k: the POSTs it allows are raised. -/
def State.onCore (s : State) (k : Nat) (f : State → State) : State := (f { s with cur := k }).flushPosts

/-- Whether every store and atomic of a stream has performed, so that a word may act at its home at once. -/
def StreamSt.quiet (m : StreamSt) : Bool := m.stores.isEmpty

end Sys2Proof.Machine
end

