-- ==== Sys2Proof/Machine/Atomic.lean ====
section
/-! DEFINITION. Atomics, ordered reductions, waits on addresses and WAKE (R282 to R289, R302 to R306). -/

namespace Sys2Proof.Machine

/-! ### Atomics -/

/-- What an atomic of w bits asks (R282). -/
def accAtom (wide : Bool) : Acc := ⟨[4, 6, 7], none, if wide then 8 else 4, if wide then 8 else 4, true, 3⟩

/-- The tag of an atomic whose write Table 5-10 drops: it names no version, so that the atomic writes nothing (R285). -/
def noVersion (x : Nat) : VerTag := ⟨x, 65536, 0, 0, false, none⟩

/-- An ATOM word (R282 to R286): `dst` is the register of a return form, `cmp` the register of the expected value. While the
decision log is on it performs at its issue, once the stream's earlier stores have, so that its decision is its own; one in window 0x6 is decided at its
issue, and the named device performs it (R340). -/
def atomC (op : Nat) (wide : Bool) (dst cmp : Option Reg) (a b : Reg) (s : State) : Res State := do
  let p ← s.rd a
  let v ← s.rd b
  let e ← match cmp with
    | some r => s.rd r
    | none => .ok 0
  await (!(match dst with
    | some r => s.core.busy r
    | none => false))
  await s.c.stReady
  let t ← access s s.cur (accAtom wide) none p.toNat
  needAt (!(t.dpage && (dst.isSome || op == 8 || op == 9 || op == 10))) 0x160 t.ptr
  needAt (s.recordOf t == none) 0x148 t.ptr
  let g ← s.admitAt t 0x0A0
  let tag := g.getD (some (noVersion s.ctxNo))
  let num := s.c.issued + 1
  let win := bits t.ptr 63 60
  let el : StoreElem := ⟨t.place, .atom op wide v e (dst.map (fun r => r.toNat)), tag, 0⟩
  let s := s.touch s.ctxNo t.place.dies
  let s := s.setCore (s.core.sent t)
  if s.logOn s.ctxNo ∧ win = 6 then do
    let s ← s.decision 3 t.ptr .C 0 num
    .ok (s.setC (s.c.takeNum.pushStore num win 8 [el]))
  else if s.logOn s.ctxNo ∧ ¬t.dpage then do
    await (s.c.quiet && (dst.isNone || s.c.loadsDone s.c.seq))
    let r := s.setC (s.c.takeNum.pushStore num win 8 [el])
    await ((r.c.stores.getLast?.map (fun e => r.mayPerform s.cur .C e)).getD true)
    let s ← s.decision 3 t.ptr .C 0 num
    let s := s.setC (s.c.takeNum.pushStore num win 8 [el])
    .ok (s.performSome s.cur .C win 0 (fun _ => true))
  else .ok (s.setC (s.c.takeNum.pushStore num win 8 [el]))

/-- AADD. -/
def execAadd (d a b : Reg) (w : Bool) (s : State) : Host.Outcome State Fault Refusal := finish true (atomC 0 w (some d) none a b s) s

/-- AADDQ. -/
def execAaddq (a b : Reg) (w : Bool) (s : State) : Host.Outcome State Fault Refusal := finish true (atomC 0 w none none a b s) s

/-- AMIN. -/
def execAmin (d a b : Reg) (w : Bool) (s : State) : Host.Outcome State Fault Refusal := finish true (atomC 1 w (some d) none a b s) s

/-- AMINQ. -/
def execAminq (a b : Reg) (w : Bool) (s : State) : Host.Outcome State Fault Refusal := finish true (atomC 1 w none none a b s) s

/-- AMAX. -/
def execAmax (d a b : Reg) (w : Bool) (s : State) : Host.Outcome State Fault Refusal := finish true (atomC 2 w (some d) none a b s) s

/-- AMAXQ. -/
def execAmaxq (a b : Reg) (w : Bool) (s : State) : Host.Outcome State Fault Refusal := finish true (atomC 2 w none none a b s) s

/-- AMINU. -/
def execAminu (d a b : Reg) (w : Bool) (s : State) : Host.Outcome State Fault Refusal := finish true (atomC 3 w (some d) none a b s) s

/-- AMINUQ. -/
def execAminuq (a b : Reg) (w : Bool) (s : State) : Host.Outcome State Fault Refusal := finish true (atomC 3 w none none a b s) s

/-- AMAXU. -/
def execAmaxu (d a b : Reg) (w : Bool) (s : State) : Host.Outcome State Fault Refusal := finish true (atomC 4 w (some d) none a b s) s

/-- AMAXUQ. -/
def execAmaxuq (a b : Reg) (w : Bool) (s : State) : Host.Outcome State Fault Refusal := finish true (atomC 4 w none none a b s) s

/-- AAND. -/
def execAand (d a b : Reg) (w : Bool) (s : State) : Host.Outcome State Fault Refusal := finish true (atomC 5 w (some d) none a b s) s

/-- AANDQ. -/
def execAandq (a b : Reg) (w : Bool) (s : State) : Host.Outcome State Fault Refusal := finish true (atomC 5 w none none a b s) s

/-- AOR. -/
def execAor (d a b : Reg) (w : Bool) (s : State) : Host.Outcome State Fault Refusal := finish true (atomC 6 w (some d) none a b s) s

/-- AORQ. -/
def execAorq (a b : Reg) (w : Bool) (s : State) : Host.Outcome State Fault Refusal := finish true (atomC 6 w none none a b s) s

/-- AXOR. -/
def execAxor (d a b : Reg) (w : Bool) (s : State) : Host.Outcome State Fault Refusal := finish true (atomC 7 w (some d) none a b s) s

/-- AXORQ. -/
def execAxorq (a b : Reg) (w : Bool) (s : State) : Host.Outcome State Fault Refusal := finish true (atomC 7 w none none a b s) s

/-- AXCHG. -/
def execAxchg (d a b : Reg) (w : Bool) (s : State) : Host.Outcome State Fault Refusal := finish true (atomC 8 w (some d) none a b s) s

/-- AXCHGQ. -/
def execAxchgq (a b : Reg) (w : Bool) (s : State) : Host.Outcome State Fault Refusal := finish true (atomC 8 w none none a b s) s

/-- ACAS: the expected value is the old s[sd]. -/
def execAcas (d a b : Reg) (w : Bool) (s : State) : Host.Outcome State Fault Refusal := finish true (atomC 9 w (some d) (some d) a b s) s

/-- ACASQ. -/
def execAcasq (d a b : Reg) (w : Bool) (s : State) : Host.Outcome State Fault Refusal := finish true (atomC 9 w none (some d) a b s) s

/-- AFADD. -/
def execAfadd (d a b : Reg) (s : State) : Host.Outcome State Fault Refusal := finish true (atomC 10 false (some d) none a b s) s

/-- AFADDQ. -/
def execAfaddq (a b : Reg) (s : State) : Host.Outcome State Fault Refusal := finish true (atomC 10 false none none a b s) s

/-- AFMIN. -/
def execAfmin (d a b : Reg) (s : State) : Host.Outcome State Fault Refusal := finish true (atomC 11 false (some d) none a b s) s

/-- AFMINQ. -/
def execAfminq (a b : Reg) (s : State) : Host.Outcome State Fault Refusal := finish true (atomC 11 false none none a b s) s

/-- AFMAX. -/
def execAfmax (d a b : Reg) (s : State) : Host.Outcome State Fault Refusal := finish true (atomC 12 false (some d) none a b s) s

/-- AFMAXQ. -/
def execAfmaxq (a b : Reg) (s : State) : Host.Outcome State Fault Refusal := finish true (atomC 12 false none none a b s) s

/-! ### Ordered reductions (R287 to R289) -/

/-- Entries in use at the engine of a die: contributions held, and those reserved by AREDOs that have not landed. -/
def State.aredoUse (s : State) (d : Nat) : Nat :=
  (s.aheld.filter (fun h => h.die == d)).length +
    (s.cores.map (fun c => (c.2.cS.stores.flatMap (fun e => e.elems.filter (fun x => match x.op with
      | .ared _ _ _ _ _ _ => engineDie (segAddr x.place.segs 0) == d
      | _ => false))).length)).sum

/-- AREDO. -/
def execAredo (d a b : Reg) (s : State) : Host.Outcome State Fault Refusal :=
  finish true (do
    let p ← s.rd a
    let v ← s.rd b
    let k ← s.rd d
    await s.c.stReady
    let t ← access s s.cur ⟨[4, 7], none, 4, 4, true, 3⟩ none p.toNat
    needAt (s.recordOf t == none) 0x148 t.ptr
    match s.dphb s.cur with
    | none => .error (.cause 0x161 t.ptr 0)
    | some bar => do
      let g ← s.admitAt t 0x0A0
      let die := engineDie (segAddr t.place.segs 0)
      let used := s.aredoUse die
      needAt (!(decide (32768 ≤ used) && decide (32768 + Config.overflowEntries die ≤ used))) 0x144 t.ptr
      let num := s.c.issued + 1
      let s := s.touch s.ctxNo t.place.dies
      match g with
      | none => .ok ((s.setC s.c.countNum).stale s.ctxNo 1)
      | some tag =>
        let m := s.memberNo s.cur
        let pos := (s.core.task.bind (fun i => (find? s.tasks i).map (fun t => look 0 t.aredos m))).getD 0
        let s := match s.core.task.bind (fun i => (find? s.tasks i).map (fun t => (i, t))) with
          | some (i, t) => s.setTask i { t with aredos := put 0 t.aredos m (pos + 1) }
          | none => s
        .ok (s.setC (s.c.takeNum.pushStore num (bits t.ptr 63 60) 4
          [⟨t.place, .ared k.toNat (s.lidOf s.cur) (16 * pos + m) (v.setWidth 32) bar none, tag, 0⟩]))) s

/-! ### Waiting on addresses (R302 to R306) -/

/-- The word WAITA at a doubleword it may read: done with the value, or waiting with an entry of its home die's table, or of
its own poll register when the table is full (R302, R304). -/
def waitStart (p mask e : Word) (s : State) : Res (State × Option Word) := do
  let cmp := p.toNat % 8
  need (cmp < 6) 0x022
  let ea := p.toNat / 8 * 8
  let t ← access s s.cur ⟨[4, 7], none, 8, 8, false, 0⟩ none ea
  await (s.c.stReady && s.c.loadsDone s.c.seq && s.c.stores.all (fun x => x.win != bits ea 63 60) && !s.core.covered .C t.place)
  let s := s.touch s.ctxNo t.place.dies
  let pa := segAddr t.place.segs 0
  let w : WaitEnt := ⟨s.ctxNo, s.cur, ea, pa, mask, cmp, e⟩
  let v := BitVec.ofNat 64 (s.readN pa 8)
  if waitHolds w v then .ok (s, some v)
  else
    let d := s.dieOf (engineDie pa)
    if d.waits.length < 4096 then
      .ok ((s.setDieOf (engineDie pa) { d with waits := d.waits ++ [w] }).setCore { s.core with wait := .table }, none)
    else .ok (s.setCore { s.core with wait := .poll w }, none)

/-- Whether the wait of the current core cannot end by a write any more: its entry has gone with its die, or its doubleword has. -/
def State.waitLost (s : State) : Bool :=
  match s.core.wait with
  | .table => !(List.range 4).any (fun d => !(s.dieOf d).lost && (s.dieOf d).waits.any (fun w => w.core == s.cur))
  | .poll w => s.homeLost w.pa
  | _ => false

/-- WAITA. One that a write has ended completes with the value; with the decision log on, its wake message is a decision, taken in the order
in which the messages are sent (R303, Table 13-11). One whose doubleword has been lost with its die takes 0x1A1 (R16). -/
def execWaita (d a b : Reg) (s : State) : Host.Outcome State Fault Refusal :=
  let lost (t : State) : Host.Outcome State Fault Refusal :=
    if t.waitLost then finish false (.error (.cause 0x1A1 ((t.core.sreg a).toNat / 8 * 8) 0)) (t.dropWaits t.cur) else .next (t.park .C)
  match s.core.wait with
  | .table => lost s
  | .poll _ => lost s
  | .sending v =>
    finish false (do
      await (s.mySend s.ctxNo s.cur)
      let s ← s.decision 4 ((s.core.sreg a).toNat / 8 * 8) .C 0 0
      ((s.dropSend s.cur).setCore { s.core with wait := .none }).wr d v) s
  | .woken v => finish false ((s.setCore { s.core with wait := .none }).wr d v) s
  | .none =>
    match (do
      let p ← s.rd a
      let m ← s.rd d
      let e ← s.rd b
      waitStart p m e s : Res (State × Option Word)) with
    | .ok (t, none) => .next (t.park .C)
    | .ok (t, some v) => finish false (t.wr d v) s
    | .error e => finish false (.error e) s

/-- WAKE: it performs at the home engine after every earlier store and atomic of the stream, and what the stream had acquired. -/
def execWake (d a : Reg) (s : State) : Host.Outcome State Fault Refusal :=
  finish true (do
    let p ← s.rd a
    await (!s.core.busy d)
    await s.c.stReady
    let t ← access s s.cur ⟨[4, 7], none, 8, 8, false, 0⟩ none p.toNat
    let num := s.c.issued + 1
    let s := s.touch s.ctxNo t.place.dies
    .ok (s.setC (s.c.takeNum.pushStore num (bits t.ptr 63 60) 8 [⟨t.place, .wake d.toNat, none, 0⟩]))) s

end Sys2Proof.Machine
end

