-- ==== Sys2Proof/Machine/Barrier.lean ====
section
/-! DEFINITION. The barrier words of device and group barriers (R297 to R301). -/

namespace Sys2Proof.Machine

/-! ### Device barriers -/

/-- The release of a barrier word (R264): every earlier load has returned and every earlier store and atomic performed, with
those the stream has acquired. -/
def State.released (s : State) (scope : Nat) : Bool :=
  s.c.loadsDone s.c.seq && s.c.storesDone s.c.seq && s.core.releaseReady .C scope

/-- The device barrier that s[sa] names (R297). -/
def State.barOf (s : State) (a : Reg) : Res Nat := do
  let p ← s.rd a
  s.barPtr p.toNat 0x148

/-- The check of R299. A task with GANG = 1 in its record can wait on a barrier whose GANG is its own logical id: the last row of Table 14-1 gives 0x146 to
any barrier wait of such a task, and the model takes R299's test (log entry 100). -/
def State.gangCheck (s : State) (b : Nat) : Res Unit :=
  let g := (s.bar b).gang
  need (g ≠ 0 ∧ g = s.lidOf s.cur) 0x146

/-- A BARA: it acts as a release of the scope, which holds back no later load, and takes its place in the store queue. It arrives once its
release is satisfied, and s[sd] owes its result until then (R298). -/
def State.baraWord (s : State) (scope : Nat) (place : Place) (grp : Option Nat) (d : Reg) : Res State := do
  await (!s.core.busy d)
  await s.c.stReady
  await (s.core.releaseReady .C scope)
  let m := s.c.release scope
  .ok (s.setC (m.pushStore 0 7 8 [⟨place, .arrive grp d.toNat, none, 0⟩]))

/-- BARA of a device barrier. -/
def execBaraDevice (d a : Reg) (s : State) : Host.Outcome State Fault Refusal :=
  finish false (do
    let b ← s.barOf a
    let p ← s.rd a
    (s.touch s.ctxNo [engineDie b]).baraWord 3 (.phys p.toNat [⟨b, 64⟩]) none d) s

/-- A barrier word that waits: on phase p of barrier `b`, over at once with the value `w`, else until the barrier's engine completes it
(R294, R295). -/
def State.startWait (s : State) (b : BarId) (p : Nat) (arrived : Bool) (w : Option Word) : State :=
  s.setCore { s.core with bwait := match w with
    | some v => .done v
    | none => .wait b p arrived }

/-- What becomes of a word whose wait has been started: done, as an acquire, or waiting. -/
def finishWait (d : Reg) (s : State) : Host.Outcome State Fault Refusal :=
  match s.core.bwait with
  | .done v => finish false (((s.setCore { s.core with bwait := .none }).setC s.c.acquire).wr d v) s
  | .wait (.dev b) _ _ => if s.homeLost b then finish false (stop 0x1A1) (s.setCore { s.core with bwait := .none }) else .next (s.park .C)
  | _ => .next (s.park .C)

/-- A barrier word that waits, from wherever it has come to: `start` issues it, `resume` takes up one that was stopped after its arrival
(R301). -/
def waitWord (d : Reg) (start : State → Res State) (resume : BarId → Nat → State → State) (s : State) : Host.Outcome State Fault Refusal :=
  match s.core.bwait with
  | .done _ => finishWait d s
  | .wait _ _ _ => finishWait d s
  | .stopped b p => finishWait d (resume b p s)
  | .none =>
    match start s with
    | .ok t => finishWait d t
    | .error e => finish false (.error e) s

/-- A wait on a phase taken up again after the word was stopped. -/
def State.resumeWait (b : BarId) (p : Nat) (s : State) : State :=
  match b with
  | .dev a => s.startWait b p true (s.barWait a p)
  | .grp _ n => s.startWait b p true ((s.groupBarOf s.cur n).bind (fun g => g.2.1.waitRes p))

/-- BARW of a device barrier. GANG is checked at issue (R299). -/
def execBarwDevice (d a : Reg) (s : State) : Host.Outcome State Fault Refusal :=
  waitWord d (fun s => do
    let b ← s.barOf a
    let p ← s.rd d
    s.gangCheck b
    let p := p.toNat % 2 ^ 32
    .ok ((s.touch s.ctxNo [engineDie b]).startWait (.dev b) p false (s.barWait b p))) State.resumeWait s

/-- BARAW of a device barrier. -/
def execBarawDevice (d a : Reg) (s : State) : Host.Outcome State Fault Refusal :=
  waitWord d (fun s => do
    let b ← s.barOf a
    await (!s.core.busy d)
    s.gangCheck b
    await (s.c.stReady && s.released 3)
    let s := s.touch s.ctxNo [engineDie b]
    match s.arrive b s.ctxNo with
    | .refused => stop 0x147
    | .broken ph => .ok (s.startWait (.dev b) ph true (some (brokenRes ph)))
    | .ok ph s => .ok (s.startWait (.dev b) ph true (s.barWait b ph))) State.resumeWait s

/-! ### Group barriers (R300) -/

/-- Group barrier n of the current core's task; cause 0x146 outside a group. -/
def State.groupBar (s : State) (n : Nat) : Res (Nat × GBar × Nat) :=
  match s.groupBarOf s.cur n with
  | some g => .ok g
  | none => stop 0x146

/-- BARA of a group barrier. -/
def execBaraGroup (d : Reg) (n : BitVec 4) (s : State) : Host.Outcome State Fault Refusal :=
  finish false (do
    let _ ← s.groupBar n.toNat
    s.baraWord 2 (.phys 0 []) (some n.toNat) d) s

/-- BARW of a group barrier. -/
def execBarwGroup (d : Reg) (n : BitVec 4) (s : State) : Host.Outcome State Fault Refusal :=
  waitWord d (fun s => do
    let (i, b, _) ← s.groupBar n.toNat
    let p ← s.rd d
    let p := p.toNat % 2 ^ 32
    .ok (s.startWait (.grp i n.toNat) p false (b.waitRes p))) State.resumeWait s

/-- BARAW of a group barrier. -/
def execBarawGroup (d : Reg) (n : BitVec 4) (s : State) : Host.Outcome State Fault Refusal :=
  waitWord d (fun s => do
    let (i, b, m) ← s.groupBar n.toNat
    await (!s.core.busy d)
    await (s.c.stReady && s.released 2)
    match b.arrive m with
    | none => stop 0x147
    | some (v, b) => do
      let p := v.toNat % 2 ^ 32
      -- the wait is entered before the barrier may pass to its next phase, which completes it
      let t := s.startWait (.grp i n.toNat) p true (if b.broken then some v else none)
      .ok (t.setGroupBar i n.toNat b)) State.resumeWait s

end Sys2Proof.Machine
end

