-- ==== Sys2Proof/Machine/Crypto.lean ====
section
/-! DEFINITION. The checks the specification names by their standards: the CRC-64 of ECMA-182 as R380 fixes it, SHA-256
(R96, R386, R444, R446), and ECDSA verification on P-256 (R443, R444). -/

namespace Sys2Proof.Machine

/-! ### CRC-64 (R380) -/

/-- One bit step of the CRC-64: polynomial 0x42F0_E1EB_A9EA_3693, no reflection. -/
def crcBit (c : Word) : Word := if c.msb then (c <<< 1) ^^^ 0x42F0E1EBA9EA3693 else c <<< 1

/-- One byte of the CRC-64. -/
def crcByte (c : Word) (b : Byte) : Word :=
  crcBit (crcBit (crcBit (crcBit (crcBit (crcBit (crcBit (crcBit (c ^^^ (b.zeroExtend 64 <<< 56)))))))))

/-- The CRC-64 of bytes in ascending address order, initial value 0, no final inversion. -/
def crc64 (bs : List Byte) : Word := bs.foldl crcByte 0

/-! ### SHA-256 -/

/-- The greatest r plus a number of n bits whose k-th power is at most x, found from the highest bit down. -/
def rootFloor (k x : Nat) : Nat → Nat → Nat
  | 0, r => r
  | n + 1, r => rootFloor k x n (if (r + 2 ^ n) ^ k ≤ x then r + 2 ^ n else r)

/-- The first 64 primes: a number below 312 that is no prime has a factor of at most 17. -/
def shaPrimes : List Nat := (List.range' 2 310).filter (fun p => (List.range' 2 16).all (fun d => p == d || p % d != 0))

/-- The first 32 bits of the fraction of the k-th root of a prime. -/
def rootFraction (k p : Nat) : W32 := BitVec.ofNat 32 (rootFloor k (p * 2 ^ (32 * k)) 37 0)

/-- The round constants come from cube roots of the primes, the initial state from square roots of the first eight. -/
def shaK : List W32 := shaPrimes.map (rootFraction 3)
def shaInit : List W32 := (shaPrimes.take 8).map (rootFraction 2)

/-- The exclusive or of a word rotated right by several amounts. -/
def rotations (x : W32) (l : List Nat) : W32 := l.foldl (fun y n => y ^^^ x.rotateRight n) 0

/-- A big-endian 32-bit word of four bytes, and its bytes. -/
def be32 (a b c d : Byte) : W32 := a ++ b ++ c ++ d
def ofBe32 (w : W32) : List Byte :=
  [w.extractLsb' 24 8, w.extractLsb' 16 8, w.extractLsb' 8 8, w.extractLsb' 0 8]

/-- The message words of a block, first to last. -/
def shaWords : List Byte → List W32
  | a :: b :: c :: d :: r => be32 a b c d :: shaWords r
  | _ => []

/-- The message schedule: `n` more words, the list held newest first. -/
def shaSched : Nat → List W32 → List W32
  | 0, w => w
  | n + 1, w =>
    let near := w.getD 1 0
    let far := w.getD 14 0
    let x := w.getD 15 0 + w.getD 6 0 + (rotations near [17, 19] ^^^ (near >>> 10)) + (rotations far [7, 18] ^^^ (far >>> 3))
    shaSched n (x :: w)

/-- One round of the compression. -/
def shaRound (v : List W32) (kw : W32 × W32) : List W32 :=
  match v with
  | [a, b, c, d, e, f, g, h] =>
    let mixed := kw.1 + kw.2 + h + rotations e [6, 11, 25] + (g ^^^ (e &&& (f ^^^ g)))
    let major := rotations a [2, 13, 22] + ((b &&& c) ||| (a &&& (b ||| c)))
    [mixed + major, a, b, c, d + mixed, e, f, g]
  | w => w

/-- The compression of one 64-byte block into the state. -/
def shaBlock (h : List W32) (blk : List Byte) : List W32 :=
  let w := (shaSched 48 (shaWords blk).reverse).reverse
  List.zipWith (· + ·) h ((shaK.zip w).foldl shaRound h)

/-- The blocks of a padded message; `n` is their number. -/
def shaGo : Nat → List Byte → List W32 → List W32
  | 0, _, h => h
  | n + 1, bs, h => shaGo n (bs.drop 64) (shaBlock h (bs.take 64))

/-- SHA-256 of a byte string. -/
def sha256 (bs : List Byte) : List Byte :=
  let l := bs.length
  let pad := (119 - l % 64) % 64
  let msg := bs ++ [0x80] ++ List.replicate pad 0 ++ (toLE 8 (8 * l)).reverse
  (shaGo (msg.length / 64) msg shaInit).flatMap ofBe32

/-! ### ECDSA on P-256 -/

def p256P : Nat := 2 ^ 256 - 2 ^ 224 + 2 ^ 192 + 2 ^ 96 - 1
def p256N : Nat := 0xffffffff00000000ffffffffffffffffbce6faada7179e84f3b9cac2fc632551
def p256B : Nat := 0x5ac635d8aa3a93e7b3ebbd55769886bc651d06b0cc53b0f63bce3c3e27d2604b
def p256G : Nat × Nat :=
  (0x6b17d1f2e12c4247f8bce6e563a440f277037d812deb33a0f4a13945d898c296,
   0x4fe342e2fe1a7f9b8ee7eb4a7c0f9e162bce33576b315ececbb6406837bf51f5)

/-- x^e mod m by the `n` low bits of the exponent, from the top. -/
def powMod (m x e : Nat) : Nat → Nat → Nat
  | 0, acc => acc
  | n + 1, acc => powMod m x e n (let a := acc * acc % m; if bit e n then a * x % m else a)

/-- The inverse modulo a prime. -/
def invMod (m x : Nat) : Nat := powMod m x (m - 2) 256 1

/-- Addition of points of the curve; `none` is the point at infinity. -/
def ecAdd (a b : Option (Nat × Nat)) : Option (Nat × Nat) :=
  match a, b with
  | none, q => q
  | q, none => q
  | some (x1, y1), some (x2, y2) =>
    if x1 = x2 ∧ (y1 + y2) % p256P = 0 then none
    else
      let l := if x1 = x2 then (3 * x1 * x1 + (p256P - 3)) * invMod p256P (2 * y1 % p256P) % p256P
               else (y2 + p256P - y1) * invMod p256P ((x2 + p256P - x1) % p256P) % p256P
      let x3 := (l * l + 2 * p256P - x1 - x2) % p256P
      some (x3, (l * (x1 + p256P - x3) + p256P - y1) % p256P)

/-- k × q by the `n` low bits of k, from the top. -/
def ecMul (k : Nat) (q : Option (Nat × Nat)) : Nat → Option (Nat × Nat) → Option (Nat × Nat)
  | 0, acc => acc
  | n + 1, acc => ecMul k q n (let d := ecAdd acc acc; if bit k n then ecAdd d q else d)

/-- A big-endian number of bytes. -/
def beNat (bs : List Byte) : Nat := leNat bs.reverse

/-- ECDSA verification: public key, message digest, and a signature of r then s, each 32 bytes big-endian (R443). -/
def ecdsaVerify (key : Nat × Nat) (digest sig : List Byte) : Bool :=
  let r := beNat (sig.take 32)
  let s := beNat ((sig.drop 32).take 32)
  let e := beNat digest
  if r = 0 ∨ s = 0 ∨ r ≥ p256N ∨ s ≥ p256N ∨ sig.length ≠ 64 then false
  else if key.1 ≥ p256P ∨ key.2 ≥ p256P ∨ key.2 * key.2 % p256P ≠ (key.1 * key.1 * key.1 + (p256P - 3) * key.1 + p256B) % p256P then false
  else
    let w := invMod p256N s
    match ecAdd (ecMul (e * w % p256N) (some p256G) 256 none) (ecMul (r * w % p256N) (some key) 256 none) with
    | none => false
    | some (x, _) => x % p256N == r

end Sys2Proof.Machine
end

