-- ==== Sys2Proof/Machine/Lineage.lean ====
section
/-! DEFINITION. Lineage entries, replication, shadow frames, retirement and the recovery walk (R381 to R398). -/

namespace Sys2Proof.Machine

/-! ### Shadow frames -/

/-- The shadow frames a pool has in use: by versions that are not RETIRED or are still held, and by private copies. -/
def TPool.usedShadows (t : TPool) : List Nat :=
  t.slots.flatMap (fun q => q.2.vers.flatMap (fun e =>
    (match e.2.frame with
     | .shadow k => if e.2.st ≠ .retired ∨ 0 < e.2.kept then [k] else []
     | .home => []) ++ e.2.priv.map (fun r => r.2)))

/-- The places that loads still queued on the cores of a context read. -/
def State.readsOf (s : State) (x : Nat) : List Place :=
  (s.coresOfCtx x).flatMap (fun c => allStrms.flatMap (fun t => ((s.coreOf c.2).strm t).loads.flatMap (fun e => e.sources.map (fun y => y.1))))

/-- Whether a load still queued reads bytes of some segments (R382). -/
def State.reading (s : State) (x : Nat) (g : List Seg) : Bool := (s.readsOf x).any (fun p => overlap p.segs g)

/-- The shadow frames of a pool that loads still queued read: frames and header units are multiples of 256 bytes, so that one byte of each 256
and the last one name every frame a place meets. -/
def State.readShadows (s : State) (x : Nat) (t : TPool) : List Nat :=
  (s.readsOf x).flatMap (fun p => match p with
    | .phys a g =>
      let n := (g.map (fun c => c.len)).sum
      ((n - 1) :: (List.range (n / 256 + 1)).map (fun i => min (256 * i) (n - 1))).filterMap (fun o =>
        match t.byteAt (bits a 55 0 + o) with
        | some (.shadow k) => if bits a 63 60 = 4 then some k else none
        | _ => none)
    | _ => [])

/-- The lowest number from i on that is not excluded, among n. -/
def lowestFrom (bad : Nat → Bool) (i : Nat) : Nat → Option Nat
  | 0 => none
  | n + 1 => if bad i then lowestFrom bad (i + 1) n else some i

/-- A free shadow frame of a pool; one that a load still reads is not free (R382, R387), and one homed on a lost die cannot be taken (R16). -/
def State.freeShadow (s : State) (x : Nat) (t : TPool) : Option Nat :=
  let u := t.usedShadows ++ s.readShadows x t
  lowestFrom (fun k =>
    let a := t.frameAddr 0 0 (.shadow k)
    u.contains k || s.lostAt x 4 a.1 t.dataLen || s.lostAt x 4 a.2 256) 0 t.nshadow

/-- A pool in which RETIRED versions no longer name shadow frame k. -/
def TPool.clearShadow (t : TPool) (k : Nat) : TPool :=
  { t with slots := mapVals (fun _ (q : PSlot) => { q with vers := mapVals (fun _ (e : Ver) =>
      if e.st = .retired ∧ e.frame = .shadow k then { e with frame := .home } else e) q.vers }) t.slots }

/-! ### Entries (R391, R393, R394) -/

/-- The head entry of a record (Table 17-8), as the shard or as its mirror holds it. -/
def LinEnt.head (e : LinEnt) (mirror : Bool) : List Byte :=
  toLE 8 e.handle ++ toLE 4 e.ver ++ toLE 1 e.depth ++ toLE 1 e.ops.length ++ toLE 1 e.ord ++
    toLE 1 (mirror.toNat + (!e.mack).toNat * 2 + e.forced.toNat * 4) ++ toLE 8 e.lid ++ toLE 8 e.frame ++ toLE 4 e.tctrl ++
    toLE 4 (e.exts.headD 0xFFFFFFFF) ++ e.digest ++ toLE 8 e.crc

/-- Extension entry j of a record: four operands, the index of the next extension, zeros (R391). -/
def LinEnt.extension (e : LinEnt) (j : Nat) : List Byte :=
  (List.range 4).flatMap (fun k => match e.ops[4 * j + k]? with
    | some o => toLE 8 o.1 ++ toLE 4 o.2
    | none => List.replicate 12 0) ++ toLE 4 (e.exts.getD (j + 1) 0xFFFFFFFF) ++ List.replicate 12 0

/-- A lineage record as bytes: its head and its extensions. -/
def LinEnt.record (e : LinEnt) (mirror : Bool) : List Byte :=
  e.head mirror ++ (List.range e.exts.length).flatMap (fun j => e.extension j)

/-- How many extensions a record of n operands has: one for each started group of four (R391). -/
def extCount (n : Nat) : Nat := (n + 3) / 4

/-- The lowest n entries of a shard that no record uses. -/
def Die.freeIdx (d : Die) (n : Nat) : List Nat :=
  let u := d.shard.flatMap (fun e => e.idx :: e.exts)
  ((List.range (u.length + n)).filter (fun k => !u.contains k)).take n

/-- A record as a shard holds it: with indices of its own for the head and the extensions. -/
def Die.index (d : Die) (e : LinEnt) : LinEnt :=
  let l := d.freeIdx (1 + extCount e.ops.length)
  { e with idx := l.headD 0, exts := l.drop 1 }

/-- Every kept entry of a context, with the die of its shard. Those of a lost die are read from their mirrors. -/
def State.entries (s : State) (x : Nat) : List (Nat × LinEnt) :=
  s.dies.flatMap (fun d => (d.2.shard.filter (fun e => e.ctx == x)).map (fun e => (d.1, e)))

/-- Whether a device of the replica list can be reached (R394, R429). -/
def State.reachable (s : State) (r : ReplicaDev) : Bool := r.reachable && s.fabric.reach.any (fun e => e.1 == r.dev)

/-- Whether a device can be reached: it has a reach entry, and the replica list does not give it as out of reach. -/
def State.devUp (s : State) (dev : Nat) : Bool :=
  s.fabric.reach.any (fun e => e.1 == dev) && s.fabric.replicas.all (fun r => r.dev != dev || r.reachable)

/-- Whether an entry of the shard of a die can be read: the primary while the die is in service, else its acknowledged mirror while that
device can be reached (R397). -/
def State.readable (s : State) (e : Nat × LinEnt) : Bool :=
  !(s.dieOf e.1).lost || (e.2.mack && (e.2.mdev.map s.devUp).getD false)

/-- The kept entry of a version, where it can be read. -/
def State.entryOf (s : State) (x h v : Nat) : Option LinEnt :=
  ((s.entries x).filter s.readable).findSome? (fun e => if e.2.handle = h ∧ e.2.ver = v then some e.2 else none)

/-- The record of an entry sent to the device of its mirror, for the shard of the same die index (R391). -/
def State.sendMirror (s : State) (die : Nat) (e : LinEnt) : State :=
  match e.mdev with
  | some d => s.send (.mirror d die (e.record true))
  | none => s

/-- An entry written to the shard of a die, and mirrored to the buddy when that can be reached; it carries NOMIR until the mirror is
acknowledged (R391, R394). -/
def State.putEntry (s : State) (die : Nat) (e : LinEnt) : State :=
  let e := { (s.dieOf die).index e with mdev := (s.fabric.replicas.head?.filter s.reachable).map (fun r => r.dev), mack := false }
  (s.setDieOf die { s.dieOf die with shard := (s.dieOf die).shard ++ [e] }).sendMirror die e

/-- The entry of a version whose shard was lost with its die is written to the shard of a die in service (R466); its mirror stays. -/
def State.rehome (s : State) (x h v die : Nat) : State :=
  match (s.entries x).find? (fun e => e.2.handle == h && e.2.ver == v) with
  | none => s
  | some (d, e) =>
    if !(s.dieOf d).lost ∨ d = die then s
    else
      let s := s.setDieOf d { s.dieOf d with shard := (s.dieOf d).shard.filter (fun k => !(k.ctx == x && k.handle == h && k.ver == v)) }
      s.setDieOf die { s.dieOf die with shard := (s.dieOf die).shard ++ [(s.dieOf die).index e] }

/-- Every entry of a context that names version v of handle h as an operand gains FORCED, and its mirror with it (R387). -/
def State.forceEntries (s : State) (x h v : Nat) : State :=
  let hit (e : LinEnt) : Bool := e.ctx == x && e.ops.contains (h, v)
  s.forEach (keys s.dies) (fun d s =>
    let s := s.setDieOf d { s.dieOf d with shard := (s.dieOf d).shard.map (fun e => if hit e then { e with forced := true } else e) }
    s.forEach ((s.dieOf d).shard.filter hit) (fun e s => s.sendMirror d e))

/-- The entry of a version trimmed, with its mirror (R393). -/
def State.trim (s : State) (x h v : Nat) : State :=
  match (s.entries x).find? (fun e => e.2.handle == h && e.2.ver == v) with
  | none => s
  | some (_, e) =>
    let s := match e.mdev with
      | some d => s.send (.mirrorTrim d h v)
      | none => s
    { s with dies := mapVals (fun _ (d : Die) => { d with shard := d.shard.filter (fun e => !(e.ctx == x && e.handle == h && e.ver == v)) }) s.dies }

/-! ### Replication (R395) -/

/-- A die in service for the replica that a device keeps in its own memory: the lowest-numbered one that does not home the version (R395). -/
def State.otherDie (s : State) (homes : List Nat) : CoPlace :=
  match (List.range 4).find? (fun d => !(s.dieOf d).lost && !homes.contains d) with
  | some d => .die d
  | none => .nowhere

/-- Replication of a SEALED version started: the target by the two steps of R395; co-located replicas are reported at `core`. -/
def State.startRepl (s : State) (x core p n v : Nat) : State :=
  match (s.poolOf x p).bind (fun t => (t.ver n v).map (fun e => (t, e))) with
  | none => s
  | some (t, e) =>
    let img := s.verHeader x t n v e.frame ++ s.readSegs (s.verSegs x t n v e.frame).1
    let h := handleFor p n
    match s.fabric.replicas.find? (fun r => s.reachable r && r.domain != s.fabric.domain) with
    | some r => (s.setVer x p n v { e with repl := .sent r.dev, rimg := img }).send (.replica r.dev h v)
    | none =>
      match s.fabric.replicas.find? s.reachable with
      | some r => ((s.setVer x p n v { e with repl := .coloc (.device r.dev), rimg := img }).send (.replica r.dev h v)).inform x core 5
      | none => (s.setVer x p n v { e with repl := .coloc (s.otherDie (s.verDies x t n v e.frame)), rimg := img }).inform x core 5

/-! ### Retirement (R387) -/

/-- Version v retired: replication and recovery cancelled, replica freed, entry trimmed. -/
def State.retireVer (s : State) (x p n v : Nat) : State :=
  match (s.poolOf x p).bind (fun t => t.ver n v) with
  | none => s
  | some e =>
    (s.setVer x p n v { e with st := .retired, unrec := false, repl := .none, rimg := [], run := none, priv := [] }).trim x (handleFor p n) v

/-! ### Recovery (R397) -/

/-- Version v marked unrecoverable. -/
def State.unrecover (s : State) (x p n v : Nat) : State :=
  match (s.poolOf x p).bind (fun t => t.ver n v) with
  | some e => s.setVer x p n v { e with st := .lost, unrec := true, run := none }
  | none => s

/-- The rebuild run of an entry: the task in the dependency table that already is it. -/
def State.rebuildRun (s : State) (x lid : Nat) : Option Nat :=
  (s.tasks.find? (fun t => t.2.ctx == x && t.2.origin == .rebuild && t.2.lid == lid && !t.2.over)).map (fun t => t.1)

/-- Whether the rebuild run of a logical id has left REBUILD and is not over. -/
def State.runUnderWay (s : State) (x lid : Nat) : Bool :=
  s.tasks.any (fun t => t.2.ctx == x && t.2.origin == .rebuild && t.2.lid == lid && !t.2.over && t.2.st != .rebuild && t.2.st != .ready)

/-- The rebuild run created from an entry, as it enters REBUILD (R397). -/
def rebuildTask (x : Nat) (e : LinEnt) : Task :=
  { ctx := x, st := .rebuild, kslot := bits e.tctrl 11 0, prio := bits e.tctrl 17 12, gang := bits e.tctrl 22 18, ctrl := e.tctrl, join := 0,
    lid := e.lid, frame := e.frame, succ := .ptr 0, tiles := (List.range 4).map (fun k => ((e.ops[k]?).map (fun o => o.1)).getD 0),
    origin := .rebuild, die := 0, ticket := 0, level := bits e.tctrl 17 12, cores := [], started := [], ended := [], aband := false,
    sealed := [], allocs := [], aredos := [], group := none }

/-- A header unit as a frame holds it: SCLP names that frame's own scale bytes (Table 17-2). -/
def TPool.headerIn (t : TPool) (n v : Nat) (f : Frame) (hd : List Byte) : List Byte :=
  let sclp := if t.fmt = 2 ∨ t.fmt = 3 ∨ t.fmt = 4 ∨ t.fmt = 7 then 4 * 2 ^ 60 + (t.frameAddr n v f).2 + 64 else 0
  hd.take 0x20 ++ toLE 8 sclp ++ hd.drop 0x28

/-- The header unit that TALLOC writes for version v of a slot in a frame (R380, R385). -/
def TPool.freshHeader (t : TPool) (p n v : Nat) (f : Frame) : List Byte :=
  t.headerIn n v f (toLE 8 (handleFor p n) ++ toLE 4 v ++ toLE 1 t.fmt ++ List.replicate 243 0)

/-- What the coppice unit does for a LOST version whose operands are recoverable: a shadow frame, REBUILDING, and the run that rebuilds it. It
waits while no shadow frame is free. -/
def State.startRebuild (s : State) (x p n v : Nat) (en : LinEnt) : State :=
  match (s.poolOf x p).bind (fun t => (t.ver n v).bind (fun e => (s.freeShadow x t).map (fun k => (t, e, k)))) with
  | none => s
  | some (t, e, k) =>
    let s := (s.setPool x p (t.clearShadow k)).setVer x p n v { e with st := .rebuilding, frame := .shadow k, run := some en.lid, repl := .none, rimg := [] }
    s.perform (s.verSegs x t n v (.shadow k)).2 (t.freshHeader p n v (.shadow k))

/-- The walk of R397 over one version; `fuel` bounds the depth. A counted replica is copied into a shadow frame, which
COPY_BACK_VERIFIED completes. A version without an entry whose counted replica has been lost stays LOST, and is not unrecoverable, while a
checkpoint holds it (R396). Walks are serialised per LID: while the rebuild run of an entry is under way, the walk of another of its versions
waits, and that version is rebuilt by the next run. -/
def State.recover (x : Nat) : Nat → Nat × Nat → State → State
  | 0, _, s => s
  | fuel + 1, (h, v), s =>
    match s.handleSlot x h with
    | none => s
    | some (p, n, t) =>
      match t.ver n v with
      | none => s
      | some e =>
        if e.st ≠ .lost ∨ e.unrec then s
        else match e.repl with
          | .counted _ =>
            (match s.freeShadow x t with
             | some k => (s.setPool x p (t.clearShadow k)).setVer x p n v { e with st := .rebuilding, frame := .shadow k, run := none }
             | none => s)
          | _ =>
            match s.entryOf x h v with
            | none => if 0 < e.kept ∧ e.relost then s else s.unrecover x p n v
            | some en =>
              if en.forced ∨ e.ext then s.unrecover x p n v
              else if s.runUnderWay x en.lid then s
              else
                let s := s.forEach en.ops (fun o s => State.recover x fuel o s)
                let st (o : Nat × Nat) : Option Ver := match s.handleSlot x o.1 with
                  | some (_, m, u) => u.ver m o.2
                  | none => none
                if en.ops.any (fun o => ((st o).map (fun e => e.unrec)).getD true) then s.unrecover x p n v
                else if en.ops.any (fun o => ((st o).map (fun e => e.st == .lost)).getD false) then s
                else s.startRebuild x p n v en

/-- The entry a rebuild run is created from. -/
def State.runEntry (s : State) (x lid : Nat) : Option LinEnt :=
  (s.runVers x lid).findSome? (fun r => s.entryOf x (handleFor r.1 r.2.1) r.2.2)

/-- Whether no operand of any version a run rebuilds is LOST or REBUILDING. -/
def State.runReady (s : State) (x lid : Nat) : Bool :=
  (s.runVers x lid).all (fun r => ((s.entryOf x (handleFor r.1 r.2.1) r.2.2).map (fun en => en.ops.all (fun o =>
    match s.handleSlot x o.1 with
    | some (_, m, u) => (u.slot m).state o.2 != some .lost && (u.slot m).state o.2 != some .rebuilding
    | none => true))).getD true)

end Sys2Proof.Machine
end

