-- ==== Sys2Proof/Machine/Xfer.lean ====
section
/-! DEFINITION. Copy handles, the XFER words and what a copy engine moves (R367 to R375). -/

namespace Sys2Proof.Machine

/-! ### Handles (R367, R370 step 3) -/

/-- The core whose buffer member m of the issuing core's group names (R367). -/
def State.memberCore (s : State) (m : Nat) : Res Nat :=
  match s.groupOf s.cur with
  | some g =>
    (match g.members[m]? with
     | some k => .ok k
     | none => stop 0x045)
  | none => if m = 0 then .ok s.cur else stop 0x045

/-- One side of a copy for the issuing core; a device out of reach takes its cause (R429). -/
def State.xEnd (s : State) (h : Handle) : Res XEnd :=
  match h.kind with
  | 2 => (s.memberCore h.member).map (fun k => .wbuf k h.base)
  | 3 => (s.memberCore h.member).map (fun k => .abuf k h.base)
  | 4 =>
    match s.fabric.reach.find? (fun e => e.1 == h.dev) with
    | none => stop 0x183
    | some (_, len, _) => if h.base + h.len ≤ len then .ok (.remote h.dev h.base) else stop 0x185
  | _ => .ok (.phys h.segs)

/-- Whether rows of `rowb` bytes at o, o + st, … lie within len bytes. -/
def rowsIn (len rowb n : Nat) (o : Nat) (st : Int) : Bool :=
  let f (r : Nat) : Bool := let a := (o : Int) + r * st; decide (0 ≤ a) && decide (a + rowb ≤ len)
  n == 0 || (f 0 && f (n - 1))

/-- The offset of row r. -/
def rowOff (o : Nat) (st : Int) (r : Nat) : Nat := ((o : Int) + r * st).toNat

/-- The place of n bytes at offset o of a side; copies are not translated, and memory has no pointer here. -/
def XEnd.place (e : XEnd) (o n : Nat) : Place :=
  match e with
  | .phys g => .phys 0 (segSlice g o n)
  | .wbuf _ b => .wbuf (b + o)
  | .abuf k b => .peer k (b + o)
  | .remote d b => .remote d (b + o)

/-- The dies that rows of `rowb` bytes at some offsets of a side lie on (R13, R15). -/
def XEnd.rowDies (e : XEnd) (rowb : Nat) (os : List Nat) : List Nat :=
  match e with
  | .phys g => (os.flatMap (fun o => (segSlice g o rowb).filterMap (fun x => homeDie x.pa))).eraseDups
  | .wbuf k _ => if os.isEmpty then [] else [dieOfCore k]
  | .abuf k _ => if os.isEmpty then [] else [dieOfCore k]
  | .remote _ _ => []

/-- The offsets of n rows. -/
def rowOffs (n o : Nat) (st : Int) : List Nat := (List.range n).map (fun r => rowOff o st r)

/-- A handle that a command names, checked (R370 step 3): 0x090 with the index in TRAPW7; rows with a byte on a lost die take 0x1A1 (R16). -/
def State.useHandle (s : State) (idx : Nat) (ok : Handle → Bool) (rowb n o : Nat) (st : Int) : Res (Handle × XEnd) :=
  match find? s.ctx.handles idx with
  | none => .error (.cause 0x090 0 idx)
  | some h =>
    if h.v ∧ ok h ∧ rowsIn h.len rowb n o st then do
      let e ← s.xEnd h
      needAt (!(e.rowDies rowb (rowOffs n o st)).any (fun d => (s.dieOf d).lost)) 0x1A1 (wrap64 (h.vbase + o))
      .ok (h, e)
    else .error (.cause 0x090 0 idx)

/-- The pieces of n bytes at address a that lie in one aligned 64-byte unit each, as (offset, length) (R374). -/
def granulesAt (a : Nat) : Nat → Nat → Nat → List (Nat × Nat)
  | 0, _, _ => []
  | fuel + 1, o, n =>
    if n = 0 then []
    else
      let k := min n (64 - (a + o) % 64)
      (o, k) :: granulesAt a fuel (o + k) (n - k)

/-- The pieces of a row. -/
def rowPieces (a n : Nat) : List (Nat × Nat) := granulesAt a (n / 64 + 2) 0 n

/-! ### Issue (R368 to R370) -/

/-- A copy command descriptor (Table 16-2). -/
structure XDesc where
  ctrl : Nat
  gexp : Nat
  srch : Nat
  dsth : Nat
  rowb : Nat
  srco : Nat
  dsto : Nat
  sstr : Int
  dstr : Int
  rows : Nat
  bnd : W32
  barp : Nat
  flagp : Nat

/-- The fields of 64 bytes. -/
def XDesc.of (b : List Byte) : XDesc :=
  { ctrl := fieldLE b 0 4, gexp := fieldLE b 4 2, srch := fieldLE b 6 2, dsth := fieldLE b 8 2, rowb := fieldLE b 12 4,
    srco := fieldLE b 16 8, dsto := fieldLE b 24 8, sstr := sextN (fieldLE b 32 4) 32, dstr := sextN (fieldLE b 36 4) 32,
    rows := fieldLE b 40 4, bnd := BitVec.ofNat 32 (fieldLE b 44 4), barp := fieldLE b 48 8, flagp := fieldLE b 56 8 }

/-- Whether every field lies in Table 16-2; op is 0 XCOPY, 1 XCOPY2, 2 XFILL. -/
def XDesc.ok (d : XDesc) (b : List Byte) (op : Nat) : Bool :=
  d.ctrl / 32 == 0 && decide (bits d.ctrl 4 1 < 8) && zeroBytes b 10 2 && d.srch / 4096 == 0 && d.dsth / 4096 == 0 &&
    (op != 2 || d.srch == 0) && d.rowb % 4 == 0 && decide (4 ≤ d.rowb) && decide (d.rowb ≤ 2 ^ 24) && d.dsto % 4 == 0 &&
    d.sstr % 4 == 0 && d.dstr % 4 == 0 && (op == 1 || d.sstr == 0) && (op != 0 || d.dstr == 0) && decide (d.rows ≤ 65535) &&
    (!bit d.ctrl 0 || d.rows == 0) && !isNaN32 d.bnd && !d.bnd.getLsbD 31 &&
    (d.barp == 0 || (bits d.barp 63 60 == 7 && d.barp % 64 == 0)) &&
    (d.flagp == 0 || ((bits d.flagp 63 60 == 4 || bits d.flagp 63 60 == 7) && d.flagp % 4 == 0))

/-- The rows a command moves; 0 for a guarded no-op (R370 step 6). -/
def XDesc.count (d : XDesc) (g : Nat) : Nat :=
  if bit d.ctrl 0 then (if bits g 31 16 = d.gexp then bits g 15 0 else 0) else d.rows

/-- The flag of a command checked as an AADDQ (R370 step 4, R282, R285, R291): the version it is admitted to, and the dies it lies on. -/
def State.checkFlag (s : State) (p : Nat) : Res (Option VerTag × List Nat) :=
  if p = 0 then .ok (none, [])
  else do
    let t ← access s s.cur (accAtom false) none p
    needAt (s.recordOf t == none) 0x148 t.ptr
    let g ← s.admitAt t 0x0A0
    .ok (g.getD (some (noVersion s.ctxNo)), t.place.dies)

/-- The barrier of a command (R370 step 4). -/
def State.checkBarp (s : State) (p : Nat) : Res (Option Nat) :=
  if p = 0 then .ok none
  else do
    let b ← s.barPtr p 0x148
    needAt (s.barOpen b) 0x147 p
    .ok (some b)

/-- The versions the granules of a destination in a tile pool are admitted to (R370 step 5, Table 5-10); a RETIRED one drops its
granule when it performs. -/
def State.admitRows (s : State) (h : Handle) (rows : List (Nat × Nat)) (rowb : Nat) : Res (List (Option VerTag)) :=
  if !h.t then .ok []
  else (rows.flatMap (fun r => (rowPieces (h.vbase + r.2) rowb).map (fun e => h.vbase + r.2 + e.1))).mapM (fun p =>
    match s.lineAdmit s.ctxNo (winOff 4 p) s.runLid with
    | .ok g => .ok g
    | .drop => .ok (some (noVersion s.ctxNo))
    | .refuse => .error (.cause 0x0A0 p 0))

/-- The dies of a transfer's source and destination rows. -/
def Xfer.dies (t : Xfer) : List Nat :=
  t.dst.rowDies t.rowb (t.rows.map (fun r => r.2)) ++ match t.kind with
    | .copy e => e.rowDies t.rowb (t.rows.map (fun r => r.1))
    | _ => []

/-- Steps 3 to 5 of R370 for a command of n rows: the transfer, without its number, and the dies it touches, those of its flag and barrier
among them (R13). -/
def State.planCopy (s : State) (op : Nat) (d : XDesc) (n : Nat) : Res (Xfer × List Nat) := do
  let ss : Int := if op = 0 then d.rowb else d.sstr
  let ds : Int := if op = 0 then d.rowb else d.dstr
  let kind ← if op = 2 then .ok (XKind.fill d.srco) else
    (s.useHandle d.srch (fun h => h.kind != 2) d.rowb n d.srco ss).map (fun e => XKind.copy e.2)
  let (h, dst) ← s.useHandle d.dsth (fun h => h.w && !h.segs.any (fun g => s.meetsImage g.pa g.len)) d.rowb n d.dsto ds
  need (h.kind != 4 || (d.dsto % 64 == 0 && d.rowb % 64 == 0 && ds % 64 == 0)) 0x04F
  let (ftag, fd) ← s.checkFlag d.flagp
  let bar ← s.checkBarp d.barp
  let dbar ← if !h.d then .ok none else
    match s.dphb s.cur with
    | some b => .ok (some b)
    | none => .error (.cause 0x161 (wrap64 (h.vbase + d.dsto)) 0)
  let rows := (List.range n).map (fun r => (if op = 2 then 0 else rowOff d.srco ss r, rowOff d.dsto ds r))
  let tags ← s.admitRows h rows d.rowb
  let t : Xfer :=
    { num := 0, die := dieOfCore s.cur, core := s.cur, st := .queued, kind := kind, dst := dst, gbase := h.vbase, rows := rows,
      rowb := d.rowb, handles := if op = 2 then [d.dsth] else [d.srch, d.dsth], fmt := bits d.ctrl 4 1, bnd := d.bnd,
      dbar := dbar, dphase := none, tags := tags, bar := bar, bytes := if bar.isSome then d.rowb * n else 0, flag := d.flagp,
      ftag := ftag, acked := false }
  .ok (t, t.dies ++ fd ++ bar.toList.filterMap homeDie)

/-- The queue and guard word of an XFER word (R369). -/
def State.xQueue (s : State) (b : Reg) : Res (Nat × Nat) := do
  let v ← s.rd b
  need (bits v.toNat 31 6 == 0) 0x022
  .ok (v.toNat % 64, bits v.toNat 63 32)

/-- A copy queue of the current context replaced. -/
def State.setCq (s : State) (x q : Nat) (c : CopyQ) : State :=
  s.setCtxOf x { s.ctxOf x with copyq := setKey (s.ctxOf x).copyq q c }

/-- A command takes the next number of queue q, and enters the queue unless it is a guarded no-op (R370 step 8). -/
def State.enqueue (s : State) (q : Nat) (t : Option Xfer) (d : Reg) : Res State :=
  let c := s.ctx.cq q
  let n := c.issued + 1
  let s := match t with
    | some t => s.setCq s.ctxNo q { c with issued := n, cmds := c.cmds ++ [{ t with num := n }] }
    | none => s.setCq s.ctxNo q { c with issued := n }
  let s := if s.core.xq.contains q then s else s.setCore { s.core with xq := q :: s.core.xq }
  s.wr d (BitVec.ofNat 64 n)

/-- XCOPY, XCOPY2 and XFILL up to step 8: the queue, the transfer, none for a guarded no-op, and the state with the dies touched. -/
def State.planXfer (s : State) (op : Nat) (d a b : Reg) : Res (Nat × Option Xfer × State) := do
  let (q, g) ← s.xQueue b
  let p ← s.rd a
  await (!s.core.busy d)
  let bs ← s.readC p.toNat 64 64 0x04F
  let x := XDesc.of bs
  need (x.ok bs op) 0x04F
  let n := x.count g
  let (t, ds) ← if n = 0 then .ok (none, []) else (s.planCopy op x n).map (fun r => (some r.1, r.2))
  await (decide ((s.ctx.cq q).cmds.length < 256))
  await (s.released 3)
  .ok (q, t, (s.touchC p.toNat 64).touch s.ctxNo ds)

/-- The site of a word that takes a number of the copy queue that s[b] names (Table 10-3). -/
def State.siteX (s : State) (b : Reg) : Site := { s.siteC false with cmd := (s.ctx.cq ((s.core.sreg b).toNat % 64)).issued + 1 }

/-- What becomes of a word that takes a number of the copy queue that s[b] names. -/
def finishCopy (b : Reg) (r : Res State) (s : State) : Host.Outcome State Fault Refusal :=
  match r with
  | .ok t => .next t.retire
  | .error .wait => .next (s.park .C)
  | .error (.cause c a d) => .next (s.raise .C (s.siteX b) c a d)
  | .error (.at c a d _) => .next (s.raise .C (s.siteX b) c a d)

/-- An XFER word; PEND beyond its limit breaks the barrier and takes 0x145 (R296). -/
def xferWord (op : Nat) (d a b : Reg) (s : State) : Host.Outcome State Fault Refusal :=
  match s.planXfer op d a b with
  | .error e => finishCopy b (.error e) s
  | .ok (q, t, u) =>
    match t.bind (fun t => t.bar.map (fun b => (b, t.bytes))) with
    | none => finishCopy b (u.enqueue q t d) s
    | some (bar, n) =>
      match u.addPend bar n with
      | none => if s.raisable .C 0x145 then .next ((u.breakBar bar).raise .C (s.siteX b) 0x145 0 0) else .next (s.park .C)
      | some s' => finishCopy b (s'.enqueue q t d) s

/-- XCOPY. -/
def execXcopy (d a b : Reg) (s : State) : Host.Outcome State Fault Refusal := xferWord 0 d a b s

/-- XCOPY2. -/
def execXcopy2 (d a b : Reg) (s : State) : Host.Outcome State Fault Refusal := xferWord 1 d a b s

/-- XFILL. -/
def execXfill (d a b : Reg) (s : State) : Host.Outcome State Fault Refusal := xferWord 2 d a b s

/-- XSTAT (R373). -/
def execXstat (d b : Reg) (s : State) : Host.Outcome State Fault Refusal :=
  finish false (do
    let (q, _) ← s.xQueue b
    let c := s.ctx.cq q
    let s := s.setCq s.ctxNo q { c with flt := false }
    s.wr d (BitVec.ofNat 64 (c.flt.toNat * 2 ^ 63 + c.cmds.length * 2 ^ 32 + c.lastf % 2 ^ 32))) s

/-! ### What an engine moves (R371, R372) -/

/-- A transfer of a context's queue by its number. -/
def State.xferOf (s : State) (x q n : Nat) : Option Xfer := (s.ctxOf x).cq q |>.cmds.find? (fun t => t.num == n)

/-- The state with a transfer replaced. -/
def State.setXfer (s : State) (x q : Nat) (t : Xfer) : State :=
  let c := (s.ctxOf x).cq q
  s.setCq x q { c with cmds := c.cmds.map (fun e => if e.num = t.num then t else e) }

/-- The state with a transfer taken off its queue. -/
def State.dropXfer (s : State) (x q n : Nat) : State :=
  let c := (s.ctxOf x).cq q
  s.setCq x q { c with cmds := c.cmds.filter (fun e => e.num != n) }

/-- Whether a place meets a poisoned frame. -/
def State.placeBad (s : State) (p : Place) : Bool :=
  p.segs.any (fun g => (List.range' (g.pa / 65536) ((g.pa + g.len - 1) / 65536 + 1 - g.pa / 65536)).any (fun f => s.poisoned (f * 65536)))

/-- Whether a transfer cannot go on: a poisoned frame, or a die that is lost (R371). -/
def State.xferBad (s : State) (t : Xfer) : Bool :=
  let lost (d : Nat) : Bool := (s.dieOf d).lost
  lost t.die || t.dies.any lost || t.rows.any (fun r => s.placeBad (t.dst.place r.2 t.rowb) ||
    match t.kind with
    | .copy e => s.placeBad (e.place r.1 t.rowb)
    | _ => false)

/-- The bytes of a row; those of another device are free. -/
def State.rowData (s : State) (t : Xfer) (o : Nat) : List Byte × State :=
  match t.kind with
  | .copy (.remote _ _) => s.freeBytes t.rowb
  | .copy (.phys g) => (s.readSegs (segSlice g o t.rowb), s)
  | .copy (.abuf k b) => ((s.coreOf k).aRead (b + o) t.rowb, s)
  | .copy (.wbuf k b) => ((s.coreOf k).wRead (b + o) t.rowb, s)
  | .fill p => ((List.range t.rowb).map (fun i => BitVec.ofNat 8 (p / 2 ^ (8 * (i % 8)))), s)
  | .ckpt _ _ _ _ _ => ([], s)

/-- One granule of memory written: held for its phase on a D page, dropped when its version has left its state (R363, R383). -/
def State.landPiece (s : State) (x q : Nat) (t : Xfer) (g : List Seg) (gran : Nat) (data : List Byte) (tag : Option VerTag) : State :=
  match t.dbar with
  | some b =>
    (match s.landPhase b t.dphase with
     | some (p, f) =>
       let h : DHeld := { cnt := 1, bar := b, phase := p, fixed := f, core := t.core, mem := 0, strm := 5, ctx := x, key := ⟨1, q, t.num, gran, 0⟩,
                          segs := g, data := data, tag := tag }
       { s with dheld := s.dheld ++ [h] }
     | none => s)
  | none =>
    match tag with
    | some v => if s.tagHolds v then s.perform g data else s.stale x 1
    | none => s.perform g data

/-- The pieces of a row of memory written in order; `tags` are those of the pieces left, the rest is answered. -/
def State.landRow (x q : Nat) (t : Xfer) (o : Nat) (data : List Byte) :
    List (Nat × Nat) → List (Option VerTag) → State → State × List (Option VerTag)
  | [], tags, s => (s, tags)
  | e :: r, tags, s =>
    let s := s.landPiece x q t ((t.dst.place (o + e.1) e.2).segs) ((t.gbase + o + e.1) / 64) ((data.drop e.1).take e.2) (tags.headD none)
    State.landRow x q t o data r (tags.drop 1) s

/-- The rows of a transfer written in order. -/
def State.landRows (x q : Nat) (t : Xfer) : List (Nat × Nat) → List (Option VerTag) → State → State
  | [], _, s => s
  | r :: rs, tags, s =>
    let (data, s) := s.rowData t r.1
    match t.dst with
    | .phys _ =>
      let p := State.landRow x q t r.2 data (rowPieces (t.gbase + r.2) t.rowb) tags s
      State.landRows x q t rs p.2 p.1
    | .wbuf k b => State.landRows x q t rs tags (s.setCoreOf k ((s.coreOf k).wWrite (b + r.2) data t.fmt t.bnd))
    | .abuf k b => State.landRows x q t rs tags (s.setCoreOf k ((s.coreOf k).aWrite (b + r.2) data t.bnd))
    | .remote d b => State.landRows x q t rs tags (s.send (.remoteStore d (b + r.2) data))

/-- Every destination byte of a transfer performed, with the bound tags of the granules it covers whole (R134, R372). -/
def State.landXfer (s : State) (x q : Nat) (t : Xfer) : State :=
  let s := State.landRows x q t t.rows t.tags s
  let rows (b : Nat) : List (Nat × Nat × W32) := t.rows.map (fun r => (b + r.2, t.rowb, t.bnd))
  match t.dst with
  | .wbuf k b => s.setCoreOf k { s.coreOf k with wtags := tagCover (s.coreOf k).wtags (rows b) }
  | .abuf k b => s.setCoreOf k { s.coreOf k with atags := tagCover (s.coreOf k).atags (rows b) }
  | _ => s

end Sys2Proof.Machine
end

