-- ==== Sys2Proof/Machine/Tiles.lean ====
section
/-! DEFINITION. The tile words (R384 to R390, R398) and the bytes of a checkpoint (R400, R401). -/

namespace Sys2Proof.Machine

/-! ### Operands (R384) -/

/-- The slot a register's handle names: handle, pool, slot. -/
def State.tileOf (s : State) (a : Reg) : Res (Nat × Nat × Nat × TPool) := do
  let h ← s.rd a
  match s.handleSlot s.ctxNo h.toNat with
  | some (p, n, t) => .ok (h.toNat, p, n, t)
  | none => stop 0x090

/-- The version operand: s[sb][31:0], and the bits a word gives a meaning; the others must be zero. -/
def State.verOperand (s : State) (b : Reg) (hi : Nat) : Res (Nat × Nat) := do
  let v ← s.rd b
  need (v.toNat / 2 ^ (32 + hi) == 0) 0x022
  .ok (v.toNat % 2 ^ 32, v.toNat / 2 ^ 32)

/-- The ordinal of the task's next TALLOC on a slot (R385). -/
def State.nextOrd (s : State) (p n : Nat) : Nat :=
  match s.core.task.bind (fun i => find? s.tasks i) with
  | some t => ((t.allocs.find? (fun e => e.1 == p && e.2.1 == n)).map (fun e => e.2.2)).getD 0 + 1
  | none => 1

/-- A TALLOC on a slot counted. -/
def State.countAlloc (s : State) (p n k : Nat) : State :=
  match s.core.task.bind (fun i => (find? s.tasks i).map (fun t => (i, t))) with
  | some (i, t) => s.setTask i { t with allocs := (p, n, k) :: t.allocs.filter (fun e => !(e.1 == p && e.2.1 == n)) }
  | none => s

/-- An access of a tile word to bytes of window 0x4 through the core's translation. -/
def State.tileAcc (s : State) (va n : Nat) (wr : Bool) : Res (List Seg) :=
  (xlate s (.core s.cur) s.ctxNo 4 va n wr wr.toNat).map (fun l => l.map (fun c => c.seg))

/-- A word that acts on a version at its home: one homed on a lost die takes 0x1A1 (R16, R382). -/
def State.atHome (s : State) (t : TPool) (n v : Nat) (e : Ver) : Res Unit :=
  let a := (t.frameAddr n v e.frame).2
  if s.lostAt s.ctxNo 4 a 256 then .error (.cause 0x1A1 (4 * 2 ^ 60 + a) 0) else .ok ()

/-- The private copy of a surviving version for the current rebuild run, taken when there is none yet; the word waits while no shadow
frame is free (R398). Its header names its own scale bytes (Table 17-2). -/
def State.privateCopy (s : State) (p n v lid : Nat) : Res (Nat × State) :=
  let x := s.ctxNo
  match (s.poolOf x p).bind (fun t => (t.ver n v).map (fun e => (t, e))) with
  | none => stop 0x090
  | some (t, e) =>
    match e.priv.find? (fun r => r.1 == lid) with
    | some r => .ok (r.2, s)
    | none =>
      match s.freeShadow x t with
      | none => .error .wait
      | some k =>
        let hd := s.verHeader x t n v e.frame
        let data := s.readSegs (s.verSegs x t n v e.frame).1
        let s := (s.setPool x p (t.clearShadow k)).setVer x p n v { e with priv := (lid, k) :: e.priv }
        let g := s.verSegs x t n v (.shadow k)
        let s := (s.perform g.1 data).perform g.2 (t.headerIn n v (.shadow k) hd)
        .ok (k, s.touch x (s.verDies x t n v e.frame ++ s.verDies x t n v (.shadow k)))

/-- The version the k-th TALLOC of a rebuild run on a slot returns: the one whose entry has that LID, slot and ORD. -/
def State.runAlloc (s : State) (lid h k : Nat) : Option Nat :=
  ((s.entries s.ctxNo).filter s.readable).findSome? (fun e =>
    if e.2.lid = lid ∧ e.2.handle = h ∧ e.2.ord = k then some e.2.ver else none)

/-! ### TALLOC (R385) -/

/-- Allocation of the next version of a slot. It waits while a load that is still queued reads the frame (R382, R387). -/
def State.allocate (s : State) (p n k : Nat) (t : TPool) (d : Reg) : Res State := do
  let x := s.ctxNo
  let q := t.slot n
  let v := q.next
  need (v != 0) 0x0A9
  let f := v % t.vdep
  need (q.vers.all (fun e => e.1 % t.vdep != f || (e.2.frame != .home || (e.2.st == .retired && e.2.kept == 0)))) 0x0A8
  let fa := t.frameAddr n v .home
  let g ← s.tileAcc fa.2 256 true
  await (!s.reading x (g ++ s.segsAt x fa.1 t.dataLen))
  let e : Ver := { st := .filling, frame := .home, unrec := false, ext := false, depth := 0, lid := s.lidOf s.cur, ord := k, repl := .none,
                   run := none, priv := [], kept := 0, rimg := [], relost := false }
  let vs := q.vers.filter (fun e => !(e.1 % t.vdep == f && e.2.st == .retired && e.2.kept == 0))
  let s := s.setPool x p (t.setSlot n { next := (v + 1) % 2 ^ 32, vers := setKey vs v e })
  let s := (s.perform g (t.freshHeader p n v .home)).touch x (g.filterMap (fun c => homeDie c.pa))
  (s.countAlloc p n k).wr d (BitVec.ofNat 64 v)

/-- TALLOC. -/
def execTalloc (d a : Reg) (s : State) : Host.Outcome State Fault Refusal :=
  finish false (do
    let (h, p, n, t) ← s.tileOf a
    await (!s.core.busy d)
    let k := s.nextOrd p n
    match s.runLid.bind (fun lid => (s.runAlloc lid h k).map (fun v => (lid, v))) with
    | none => s.allocate p n k t d
    | some (lid, v) => do
      let st := (t.slot n).state v
      match t.ver n v with
      | some e => s.atHome t n v e
      | none => .ok ()
      let s ← if st = some .sealed ∨ st = some .replicated then (s.privateCopy p n v lid).map (fun r => r.2) else .ok s
      (s.countAlloc p n k).wr d (BitVec.ofNat 64 v)) s

/-! ### TSEAL (R386, R398) -/

/-- A seal descriptor: its operands and PLEN (Table 17-6). -/
def State.sealDesc (s : State) (p : Nat) : Res (List (Nat × Nat) × Nat) := do
  let b ← s.readC p 16 64 0x0AC
  let nops := fieldLE b 0 4
  let plen := fieldLE b 4 4
  need (decide (nops ≤ 8) && decide (plen ≤ 4096) && zeroBytes b 8 8) 0x0AC
  if nops = 0 then .ok ([], plen)
  else do
    let o ← s.readC p (16 + 16 * nops) 64 0x0AC
    need ((List.range nops).all (fun k => zeroBytes o (0x1C + 16 * k) 4)) 0x0AC
    .ok ((List.range nops).map (fun k => (fieldLE o (0x10 + 16 * k) 8, fieldLE o (0x18 + 16 * k) 4)), plen)

/-- An operand of a seal: its depth as R386 step 5 counts it. -/
def State.operandDepth (s : State) (o : Nat × Nat) : Res Nat :=
  match s.handleSlot s.ctxNo o.1 with
  | none => stop 0x090
  | some (_, n, t) =>
    match (t.slot n).state o.2, t.ver n o.2 with
    | none, _ => stop 0x0AD
    | some .filling, _ => stop 0x0AD
    | some .retired, _ => stop 0x0AD
    | some _, some e => .ok (if e.ext ∨ e.st = .replicated then 0 else e.depth)
    | some _, none => stop 0x0AD

/-- DIGEST of R386 step 7 for the current task, and the dies its frame lies on. -/
def State.digest (s : State) (plen : Nat) : Res (List Byte × List Nat) := do
  let t := s.core.task.bind (fun i => find? s.tasks i)
  let fp := (t.map (fun t => t.frame)).getD 0
  let g ← if plen = 0 then .ok (Place.wbuf 0) else (access s s.cur ⟨[4, 5], none, plen, 1, false, 0⟩ none fp).map (fun g => g.place)
  .ok ((sha256 (toLE 2 ((s.core.csr 0x010).toNat) ++ s.readSegs g.segs)).take 16, g.dies)

/-- Which copy of a version a TSEAL seals: the FILLING version, the REBUILDING one of this task, or this run's private copy. -/
inductive SealCase where
  | filling
  | rebuild
  | priv (k : Nat)
  deriving DecidableEq, Repr

/-- Step 2 of R386. -/
def State.sealCase (s : State) (t : TPool) (n v : Nat) : Res (SealCase × Ver) :=
  match (t.slot n).state v, t.ver n v with
  | some .filling, some e => .ok (.filling, e)
  | some .rebuilding, some e => if e.run.isSome ∧ e.run = s.runLid then .ok (.rebuild, e) else stop 0x0A0
  | some _, some e =>
    (match s.runLid.bind (fun lid => e.priv.find? (fun r => r.1 == lid)) with
     | some r => .ok (.priv r.2, e)
     | none => stop 0x0A0)
  | _, _ => stop 0x0A0

/-- What a TSEAL knows after its first five steps; `dies` are those it has read from besides the version's. -/
structure SealPlan where
  h : Nat
  p : Nat
  n : Nat
  v : Nat
  pool : TPool
  which : SealCase
  e : Ver
  ext : Bool
  ops : List (Nat × Nat)
  digest : List Byte
  crc : Nat
  hdr : List Byte
  dn : Nat
  dies : List Nat

/-- Steps 1 to 5 of R386. -/
def State.planSeal (s : State) (d a b : Reg) : Res SealPlan := do
  let (h, p, n, t) ← s.tileOf a
  let (v, _) ← s.verOperand b 0
  let ext := d == 0
  let q ← s.rd d
  let (ops, plen) ← if ext then .ok ([], 0) else s.sealDesc q.toNat
  let ds ← ops.mapM (fun o => s.operandDepth o)
  let (w, e) ← s.sealCase t n v
  await (s.released 3)
  let fr := match w with
    | .priv k => Frame.shadow k
    | _ => e.frame
  let fa := t.frameAddr n v fr
  let dl ← s.tileAcc fa.1 t.dataLen false
  let hl ← s.tileAcc fa.2 256 true
  let crc := (crc64 (s.readSegs dl)).toNat
  let hd := s.readSegs hl
  need (!(bit (fieldLE hd 0x0D 1) 1 && fieldLE hd 0x18 8 != crc)) 0x0AA
  let (dg, fd) ← if ext then .ok ([], []) else s.digest plen
  let dd := if ext then [] else (s.segsAt s.ctxNo (bits q.toNat 55 0) (16 + 16 * ops.length)).filterMap (fun g => homeDie g.pa)
  .ok ⟨h, p, n, v, t, w, e, ext, ops, dg, crc, hd, 1 + ds.foldl max 0, dd ++ fd⟩

/-- Whether a seal starts replication (R386 step 5). -/
def State.sealReplicates (s : State) (x : SealPlan) : Bool :=
  x.pool.layer == 1 || (!x.ext && decide ((s.core.csr 0x3DC).toNat % 256 < x.dn))

/-- Steps 5 and 6 of R386: the header's CRC, DEPTH, FLAGS and LID, and the version SEALED. -/
def State.sealVer (s : State) (x : SealPlan) : State :=
  let rep := s.sealReplicates x
  let depth := if x.ext ∨ rep then 0 else x.dn
  let a := (x.pool.frameAddr x.n x.v x.e.frame).2
  let seg (o k : Nat) : List Seg := s.segsAt s.ctxNo (a + o) k
  let flags := fieldLE x.hdr 0x0D 1 % 4 + x.ext.toNat * 4
  let s' := ((s.perform (seg 0x18 8) (toLE 8 x.crc)).perform (seg 0x0D 2) (toLE 1 flags ++ toLE 1 depth)).perform (seg 0x28 8)
    (toLE 8 (if x.ext then 0 else s.lidOf s.cur))
  let s' := s'.setVer s.ctxNo x.p x.n x.v { x.e with st := .sealed, ext := x.ext, depth := depth, run := none, unrec := false }
  let s' := match s'.core.task.bind (fun i => (find? s'.tasks i).map (fun t => (i, t))) with
    | some (i, t) => s'.setTask i { t with sealed := (x.p, x.n, x.v) :: t.sealed }
    | none => s'
  if rep then s'.startRepl s.ctxNo s.cur x.p x.n x.v else s'

/-- The lineage entry of a seal (R386 step 7, Table 17-8). -/
def State.sealEntry (s : State) (x : SealPlan) : LinEnt :=
  let t := s.core.task.bind (fun i => find? s.tasks i)
  let ord := if x.e.lid = s.lidOf s.cur then x.e.ord else 0
  { ctx := s.ctxNo, idx := 0, exts := [], handle := x.h, ver := x.v, depth := if s.sealReplicates x then 0 else x.dn, ord := ord,
    mdev := none, mack := false, forced := false,
    lid := s.lidOf s.cur, frame := (t.map (fun t => t.frame)).getD 0, tctrl := (t.map (fun t => t.ctrl)).getD 0, ops := x.ops,
    digest := x.digest, crc := x.crc }

/-- Whether a rebuilt version is what its entry says (R398). -/
def State.sealMatches (s : State) (x : SealPlan) : Bool :=
  match s.entryOf s.ctxNo x.h x.v with
  | some en => bits en.tctrl 11 0 == (s.core.csr 0x010).toNat && en.digest == x.digest && en.ops == x.ops && en.crc == x.crc && !x.ext
  | none => false

/-- A TSEAL that finds a difference (R398): `t` is the state it leaves, with 0x0AB taken; it waits while no cause can be taken. -/
def failSeal (s t : State) : Host.Outcome State Fault Refusal :=
  if s.raisable .C 0x0AB then .next (t.raise .C (s.siteC false) 0x0AB 0 0) else .next (s.park .C)

/-- TSEAL. -/
def execTseal (d a b : Reg) (s : State) : Host.Outcome State Fault Refusal :=
  match s.planSeal d a b with
  | .error e => finish false (.error e) s
  | .ok x =>
    let s := s.touch s.ctxNo (x.dies ++ s.verDies s.ctxNo x.pool x.n x.v x.e.frame)
    match x.which with
    | .filling =>
      let s' := s.sealVer x
      finish false (.ok (if x.ext then s' else s'.putEntry (s.verHome s.ctxNo x.pool x.n x.v x.e.frame) (s.sealEntry x))) s
    | .rebuild =>
      if s.sealMatches x then
        finish false (.ok ((s.sealVer x).rehome s.ctxNo x.h x.v (s.verHome s.ctxNo x.pool x.n x.v x.e.frame))) s
      else failSeal s (s.unrecover s.ctxNo x.p x.n x.v)
    | .priv k =>
      let s' := s.setVer s.ctxNo x.p x.n x.v { x.e with priv := x.e.priv.filter (fun r => r.2 != k) }
      let crc := if x.e.st = .lost then ((s.entryOf s.ctxNo x.h x.v).map (fun en => en.crc)).getD x.crc
        else fieldLE (s.verHeader s.ctxNo x.pool x.n x.v x.e.frame) 0x18 8
      if crc = x.crc then finish false (.ok s') s else failSeal s s'

/-! ### TRETIRE (R387) -/

/-- The kept entries that name a version as an operand. -/
def State.backed (s : State) (h v : Nat) : List LinEnt :=
  ((s.entries s.ctxNo).map (fun e => e.2)).filter (fun e => e.ops.contains (h, v))

/-- Whether the version of an entry has its replication in progress and not co-located. -/
def State.replicating (s : State) (e : LinEnt) : Bool :=
  match s.handleSlot s.ctxNo e.handle with
  | some (_, n, t) => ((t.ver n e.ver).map (fun r => match r.repl with
      | .sent _ => true
      | _ => false)).getD false
  | none => false

/-- TRETIRE. -/
def execTretire (a b : Reg) (s : State) : Host.Outcome State Fault Refusal :=
  finish false (do
    let (h, p, n, t) ← s.tileOf a
    let (v, hi) ← s.verOperand b 1
    await (s.released 3)
    match (t.slot n).state v, t.ver n v with
    | none, _ => stop 0x0A1
    | some .retired, _ => .ok s
    | some _, none => .ok s
    | some _, some e => do
      s.atHome t n v e
      let s := s.touch s.ctxNo [s.verHome s.ctxNo t n v e.frame]
      let bs := s.backed h v
      if bs.isEmpty then .ok (s.retireVer s.ctxNo p n v)
      else if hi = 1 then .ok ((s.forceEntries s.ctxNo h v).retireVer s.ctxNo p n v)
      else if bs.all s.replicating then .error .wait
      else stop 0x0A7) s

/-! ### TREPL and TLOOK (R388, R389) -/

/-- TREPL. -/
def execTrepl (d a b : Reg) (s : State) : Host.Outcome State Fault Refusal :=
  match (do
    let (h, p, n, t) ← s.tileOf a
    let (v, _) ← s.verOperand b 0
    await (!s.core.busy d)
    .ok (h, p, n, t, v) : Res (Nat × Nat × Nat × TPool × Nat)) with
  | .error e => finish false (.error e) s
  | .ok (h, p, n, t, v) =>
    match (t.slot n).state v, t.ver n v with
    | none, _ => finish false (stop 0x0A1) s
    | some .filling, _ => finish false (stop 0x0A1) s
    | some .retired, _ => finish false (stop 0x0A2) s
    | some .replicated, _ => finish false (s.wr d 1) s
    | some .sealed, some e =>
      let s := s.touch s.ctxNo (s.verDies s.ctxNo t n v e.frame)
      finish false (match e.repl with
        | .sent _ => s.wr d 1
        | .coloc _ => (s.startRepl s.ctxNo s.cur p n v).wr d 2
        | _ => (s.startRepl s.ctxNo s.cur p n v).wr d 0) s
    | some _, some e => if e.unrec then finish false (stop 0x1A5) s else .next ((s.park .C).noteVer .C h v)
    | some _, none => finish false (stop 0x0A2) s

/-- The code of a version state (R389). -/
def stateCode : Option VState → Nat
  | none => 0
  | some .filling => 1
  | some .sealed => 2
  | some .replicated => 3
  | some .retired => 4
  | some .lost => 5
  | some .rebuilding => 6

/-- TLOOK with SEL 0. -/
def lookState (st : Option VState) (e : Option Ver) : Nat :=
  stateCode st + match e with
    | none => 0
    | some e => e.unrec.toNat * 8 + (match e.repl with
        | .coloc _ => 16
        | .sent _ => 32
        | _ => 0) + e.ext.toNat * 64 + (decide (0 < e.kept)).toNat * 128 + e.depth * 256

/-- TLOOK. -/
def execTlook (d a b : Reg) (s : State) : Host.Outcome State Fault Refusal :=
  finish false (do
    let (h, p, n, t) ← s.tileOf a
    let (v, sel) ← s.verOperand b 2
    await (!s.core.busy d)
    let st := (t.slot n).state v
    let e := t.ver n v
    match sel with
    | 0 => s.wr d (BitVec.ofNat 64 (lookState st (if st = none then none else e)))
    | 3 => s.wr d (BitVec.ofNat 64 (t.slot n).next)
    | _ => do
      let own : Option Nat := s.runLid.filter (fun lid =>
        (e.map (fun (e : Ver) => e.priv.any (fun r => r.1 == lid))).getD false ||
          ((st == some VState.sealed || st == some VState.replicated) && ((s.entryOf s.ctxNo h v).map (fun (en : LinEnt) => en.lid)) == some lid))
      let (fr, s) ← (match own with
        | some lid => (s.privateCopy p n v lid).map (fun (r : Nat × State) => (Frame.shadow r.1, r.2))
        | none => .ok ((e.map (fun (e : Ver) => e.frame)).getD .home, s) : Res (Frame × State))
      let fa := t.frameAddr n v fr
      s.wr d (if st = none ∨ st = some .retired then 0 else BitVec.ofNat 64 (4 * 2 ^ 60 + (if sel = 1 then fa.1 else fa.2)))) s

/-! ### Checkpoints (R390, R400, R401) -/

/-- A record of an image: type, length of the body, the body padded with zeros. -/
def ckRecord (ty : Nat) (body : List Byte) : List Byte :=
  toLE 4 ty ++ toLE 4 body.length ++ body ++ List.replicate ((64 - body.length % 64) % 64) 0

/-- A queue's descriptor (Table 12-3) followed by its tags. -/
def State.queueRecord (s : State) (k : Queue) : List Byte :=
  let st : Nat := match k.st with
    | .disabled => 0
    | .active => 1
    | .draining => 2
    | .faulted => 3
  toLE 1 st ++ toLE 1 k.kind ++ toLE 1 k.logn ++ toLE 1 0 ++ toLE 2 k.slotsz ++ toLE 2 k.ctx ++ toLE 8 k.base ++ toLE 8 k.tagp ++
    toLE 4 k.t ++ toLE 4 k.h ++ toLE 4 k.q ++ List.replicate 28 0 ++ s.readSegs (s.qSegs k k.tagp (2 ^ k.logn))

/-- A collective group record with its member list (Table 19-3). -/
def CGroup.record (l : Nat) (g : CGroup) : List Byte :=
  let st : Nat := match g.st with
    | .forming => 0
    | .active => 1
    | .broken => 2
  toLE 4 g.gid ++ toLE 2 l ++ toLE 1 st ++ toLE 1 g.loc ++ toLE 4 g.nmem ++ toLE 4 g.rank ++ toLE 1 g.gwp ++ toLE 1 g.ctx ++
    List.replicate 6 0 ++ toLE 8 g.minexp ++ toLE 4 g.seq ++ List.replicate 28 0 ++ g.members.flatMap (fun m => toLE 4 m)

/-- The context records of a checkpoint, as at the moment CKPT issued. -/
def State.ctxRecords (s : State) (x : Nat) (vs : List (Nat × Nat)) : List Byte :=
  (s.queues.filter (fun q => q.2.ctx == x && q.2.st != .disabled)).flatMap (fun q => ckRecord 2 (s.queueRecord q.2)) ++
    ckRecord 3 (toLE 4 (s.ctxOf x).launch) ++
    ((vs.map (fun e => e.1)).eraseDups).flatMap (fun h => match s.handleSlot x h with
      | some (p, n, t) => ckRecord 4 (toLE 2 p ++ List.replicate 6 0 ++ toLE 8 n ++ toLE 4 (t.slot n).next ++ List.replicate 4 0)
      | none => []) ++
    (s.fabric.groups.filter (fun g => g.2.ctx == x)).flatMap (fun g => ckRecord 5 (g.2.record g.1))

/-- An image: its head, a record for each listed version, the context records, and the closing CRC. -/
def State.ckImage (s : State) (x ckid : Nat) (vs : List (Nat × Nat)) (recs : List Byte) : List Byte :=
  let body := ckRecord 0 (toLE 4 0xCA94C701 ++ toLE 4 vs.length ++ toLE 8 ckid) ++
    vs.flatMap (fun e => match s.handleSlot x e.1 with
      | some (_, n, t) =>
        let f := ((t.ver n e.2).map (fun r => r.frame)).getD .home
        ckRecord 1 (s.verHeader x t n e.2 f ++ s.readSegs (s.verSegs x t n e.2 f).1)
      | none => []) ++ recs ++ toLE 4 0xFFFFFFFF ++ toLE 4 8
  body ++ toLE 8 (crc64 body).toNat ++ List.replicate 56 0

/-- The length of the image a CKPT will write. -/
def ckLen (lens : List Nat) (recs : Nat) : Nat := 72 + (lens.map (fun n => 8 + (256 + n + 63) / 64 * 64)).sum + recs + 72

/-- The listed versions of a checkpoint, checked (R390). -/
def State.ckList (s : State) (p nt : Nat) : Res (List (Nat × Nat) × List Nat) := do
  if nt = 0 then .ok ([], [])
  else do
    let b ← s.readC p (16 * nt) 64 0x0AE
    let es := (List.range nt).map (fun k => (b.drop (16 * k)).take 16)
    need (es.all (fun e => zeroBytes e 12 4)) 0x0AE
    let vs := es.map (fun e => (fieldLE e 0 8, fieldLE e 8 4))
    let ls ← vs.mapM (fun v => match s.handleSlot s.ctxNo v.1 with
      | none => stop 0x090
      | some (_, n, t) => match (t.slot n).state v.2 with
        | none => stop 0x0AD
        | some .filling => stop 0x0AD
        | some .retired => stop 0x0AD
        | some _ => .ok t.dataLen)
    .ok (vs, ls)

/-- The versions of a checkpoint kept until its image is delivered (R390). -/
def State.keepVers (s : State) (vs : List (Nat × Nat)) : State :=
  s.forEach vs (fun e s => match s.handleSlot s.ctxNo e.1 with
    | some (pl, n, t) => (match t.ver n e.2 with
      | some r => s.setVer s.ctxNo pl n e.2 { r with kept := r.kept + 1 }
      | none => s)
    | none => s)

/-- DEST of a checkpoint at issue: every page of the image translates for a write. One that is poisoned is met by the write itself, which
faults the transfer (R390, Table 15-5; log entry 88). -/
def State.checkDest (s : State) (p n : Nat) : Res Unit := do
  checkPtr s s.cur ⟨[5], none, n, 4096, true, 1⟩ p
  let o := bits p 55 0
  (List.range ((o + n + 65535) / 65536 - o / 65536)).forM (fun k =>
    match xlate s (.core s.cur) s.ctxNo 5 (if k = 0 then o else (o / 65536 + k) * 65536) 1 true 1 with
    | .error (.cause 0x084 _ _) => .ok ()
    | .error e => .error e
    | .ok _ => .ok ())

/-- The checks of CKPT: its copy queue, the versions listed, the transfer it enqueues, and the state with the dies it has read from touched. -/
def State.planCkpt (s : State) (d a b : Reg) : Res (Nat × List (Nat × Nat) × Xfer × State) := do
  let qv ← s.rd b
  need (qv.toNat / 64 == 0) 0x022
  let q := qv.toNat
  let p ← s.rd a
  await (!s.core.busy d)
  let bs ← s.readC p.toNat 64 64 0x0AE
  let nt := fieldLE bs 0 4
  let cfl := fieldLE bs 4 4
  let dest := fieldLE bs 8 8
  let list := fieldLE bs 16 8
  need (decide (nt ≤ 65536) && cfl / 4 == 0 && bits dest 63 60 == 5 && dest % 4096 == 0 && bits list 63 60 == 4 && list % 64 == 0 &&
    zeroBytes bs 32 32) 0x0AE
  let (vs, ls) ← s.ckList list nt
  let recs := if bit cfl 1 then s.ctxRecords s.ctxNo vs else []
  s.checkDest dest (ckLen ls recs.length)
  await (decide ((s.ctx.cq q).cmds.length < 256))
  await (s.released 3)
  let dies (e : Nat × Nat) : List Nat := match s.handleSlot s.ctxNo e.1 with
    | some (_, n, t) => ((t.ver n e.2).map (fun r => s.verDies s.ctxNo t n e.2 r.frame)).getD []
    | none => []
  let u := ((s.touchC p.toNat 64).touchC list (16 * nt)).touch s.ctxNo (vs.flatMap dies).eraseDups
  .ok (q, vs, { num := 0, die := dieOfCore s.cur, core := s.cur, st := .queued,
                kind := .ckpt (bit cfl 0) dest (fieldLE bs 24 8) vs recs, dst := .phys [], gbase := dest, rows := [],
                rowb := 0, handles := [], fmt := 0, bnd := 0, dbar := none, dphase := none, tags := [], bar := none, bytes := 0,
                flag := 0, ftag := none, acked := false }, u)

/-- CKPT. -/
def execCkpt (d a b : Reg) (s : State) : Host.Outcome State Fault Refusal :=
  finishCopy b (do
    let (q, vs, t, u) ← s.planCkpt d a b
    (u.keepVers vs).enqueue q (some t) d) s

end Sys2Proof.Machine
end

