-- ==== Sys2Proof/Machine/CopyEngine.lean ====
section
/-! DEFINITION. What the copy engines do with a transfer, and what happens to replicas, mirrors and lost versions (R371, R372, R390,
R394 to R397, R400). -/

namespace Sys2Proof.Machine

/-! ### Transfers (Table 16-4) -/

/-- How many transfers the engine of queue q of a die has ISSUED. -/
def State.issuedOn (s : State) (q die : Nat) : Nat :=
  (s.ctxs.map (fun x => ((x.2.cq q).cmds.filter (fun t => t.die == die && t.st == .issued)).length)).sum

/-- COPY_START: the engine of a die takes the next command of a queue issued from that die. -/
def execCopyStart (x q die : Nat) (s : State) : Host.Outcome State Fault Refusal :=
  match ((s.ctxOf x).cq q).cmds.find? (fun t => t.die == die && t.st == .queued) with
  | none => .next s
  | some t => if (s.dieOf die).lost ∨ 8 ≤ s.issuedOn q die then .next s else .next (s.setXfer x q { t with st := .issued })

/-- The record of a version a checkpoint lists. -/
def State.listed (s : State) (x : Nat) (e : Nat × Nat) : Option Ver :=
  match s.handleSlot x e.1 with
  | some (_, n, t) => t.ver n e.2
  | none => none

/-- Whether every version a checkpoint lists can be drained (R400). -/
def State.drainable (s : State) (x : Nat) (vs : List (Nat × Nat)) : Bool :=
  vs.all (fun e => ((s.listed x e).map (fun r => r.st == .sealed || r.st == .replicated || r.st == .retired)).getD false)

/-- The segments of a checkpoint's image, through the context's translation at the moment of the write; none when a page of it cannot be
written (R390; log entry 88). -/
def State.destSegs (s : State) (x dest n : Nat) : Option (List Seg) :=
  match xlate s .tables x 5 (bits dest 55 0) n true 1 with
  | .ok l => some (l.map (fun c => c.seg))
  | .error _ => none

/-- Whether the bytes of a RETIRED version that a checkpoint holds cannot be read any more: no recovery brings them back (Tables 15-5, 16-4). -/
def State.sourceBad (s : State) (x : Nat) (e : Nat × Nat) : Bool :=
  match s.handleSlot x e.1 with
  | some (_, n, t) =>
    (match t.ver n e.2 with
     | some r =>
       let g := s.verSeat x t n e.2 r.frame
       r.st == .retired && (s.placeBad (.phys 0 g) || g.any (fun c => s.homeLost c.pa))
     | none => false)
  | none => false

/-- Whether a transfer cannot go on (Table 16-4, R390). -/
def State.xferFails (s : State) (x : Nat) (t : Xfer) : Bool :=
  s.xferBad t || (match t.kind with
    | .ckpt _ dest ckid vs recs =>
      vs.any (fun e => ((s.listed x e).map (fun r => r.unrec)).getD false) ||
        (t.bytes == 0 && (vs.any (s.sourceBad x) ||
          (s.drainable x vs && (s.destSegs x dest (s.ckImage x ckid vs recs).length).isNone)))
    | _ => false)

/-- Whether every earlier command of the queue from the same core has landed (R374). -/
def State.inOrder (s : State) (x q : Nat) (t : Xfer) : Bool :=
  ((s.ctxOf x).cq q).cmds.all (fun e => e.core != t.core || decide (t.num ≤ e.num) || e.st == .landed)

/-- A checkpoint's records written at its destination; one that is sent as well then waits for the control node (R390). -/
def State.landCkpt (s : State) (x q : Nat) (t : Xfer) : State :=
  match t.kind with
  | .ckpt send dest ckid vs recs =>
    let img := s.ckImage x ckid vs recs
    (match s.destSegs x dest img.length with
     | none => s
     | some g =>
       let s := s.perform g img
       if send then (s.setXfer x q { t with bytes := 1 }).send (.ckpt x q t.num img) else s.setXfer x q { t with bytes := 1, st := .landed })
  | _ => s

/-- COPY_LANDED. -/
def execCopyLanded (x q n : Nat) (s : State) : Host.Outcome State Fault Refusal :=
  match s.xferOf x q n with
  | none => .next s
  | some t =>
    if t.st ≠ .issued ∨ s.xferFails x t ∨ ¬s.inOrder x q t then .next s
    else
      match t.kind with
      | .ckpt _ _ _ vs _ => if s.drainable x vs ∧ t.bytes = 0 then .next (s.landCkpt x q t) else .next s
      | _ => .next ((s.landXfer x q t).setXfer x q { t with st := .landed })

/-- CHECKPOINT_DELIVERY_ACKNOWLEDGED. -/
def execCheckpointDeliveryAcknowledged (x q n : Nat) (s : State) : Host.Outcome State Fault Refusal :=
  match s.xferOf x q n with
  | none => .next s
  | some t =>
    match t.kind with
    | .ckpt true _ _ _ _ => if t.st = .issued ∧ t.bytes = 1 then .next (s.setXfer x q { t with st := .landed, acked := true }) else .next s
    | _ => .next s

/-- COPY_ACKED: PEND falls, then the flag counts the transfer. -/
def execCopyAcked (x q n : Nat) (s : State) : Host.Outcome State Fault Refusal :=
  match s.xferOf x q n with
  | none => .next s
  | some t =>
    if t.st ≠ .landed then .next s
    else
      let s := match t.bar with
        | some b => s.subPend b t.bytes
        | none => s
      let s := s.flagUpdate x t.core t.flag t.ftag (fun v => v + 1)
      .next (((s.letGo x t).dropXfer x q n).send (.xferDone x q n))

/-- COPY_FAULTED. -/
def execCopyFaulted (x q n : Nat) (s : State) : Host.Outcome State Fault Refusal :=
  match s.xferOf x q n with
  | none => .next s
  | some t => if t.st = .landed ∨ ¬s.xferFails x t then .next s else .next (s.faultXfer x q false t)

/-! ### Replicas (R395, R396) -/

/-- The pool, slot and record of a version of a context. -/
def State.versionAt (s : State) (x h v : Nat) : Option (Nat × Nat × Ver) :=
  match s.handleSlot x h with
  | some (p, n, t) => (t.ver n v).map (fun e => (p, n, e))
  | none => none

/-- The core whose CAUSE takes an informational event of a context: logical core 0. -/
def State.firstCore (s : State) (x : Nat) : Nat := (((s.coresOfCtx x).head?).map (fun c => c.2)).getD 0

/-- REPLICA_COUNTED: the version is REPLICATED and its entry is trimmed. -/
def execReplicaCounted (x : Nat) (handle : Word) (v : Nat) (s : State) : Host.Outcome State Fault Refusal :=
  match s.versionAt x handle.toNat v with
  | none => .next s
  | some (p, n, e) =>
    match e.st, e.repl with
    | .sealed, .sent d => if !s.devUp d then .next s else .next ((s.setVer x p n v { e with st := .replicated, repl := .counted d, relost := false }).trim x (handleFor p n) v)
    | _, _ => .next s

/-- REPLICA_LOST: a REPLICATED version is SEALED again and replicates anew; one that is LOST, or being copied back, has no replica any
more. -/
def execReplicaLost (x : Nat) (handle : Word) (v : Nat) (s : State) : Host.Outcome State Fault Refusal :=
  match s.versionAt x handle.toNat v with
  | none => .next s
  | some (p, n, e) =>
    match e.st, e.repl with
    | .replicated, .counted _ =>
      .next ((s.setVer x p n v { e with st := .sealed, repl := .none, rimg := [], relost := true }).startRepl x (s.firstCore x) p n v)
    | .lost, .counted _ => .next (s.setVer x p n v { e with repl := .none, rimg := [], relost := true })
    | .rebuilding, .counted _ => .next (s.setVer x p n v { e with st := .lost, repl := .none, rimg := [], relost := true })
    | _, _ => .next s

/-- REPLICA_TARGET_LOST: the copy is discarded and replication starts again. -/
def execReplicaTargetLost (x : Nat) (handle : Word) (v : Nat) (s : State) : Host.Outcome State Fault Refusal :=
  match s.versionAt x handle.toNat v with
  | none => .next s
  | some (p, n, e) =>
    match e.st, e.repl with
    | .sealed, .sent _ => .next (s.startRepl x (s.firstCore x) p n v)
    | _, _ => .next s

/-! ### Mirrors (R391, R394) -/

/-- LINEAGE_MIRROR_RETRY: entries of a die's shard with no mirror, or with one whose device is lost, are mirrored to the next reachable
device of the list. -/
def execLineageMirrorRetry (die : Nat) (s : State) : Host.Outcome State Fault Refusal :=
  match s.fabric.replicas.find? s.reachable with
  | none => .next s
  | some r =>
    let bad (e : LinEnt) : Bool := match e.mdev with
      | none => true
      | some d => !s.fabric.replicas.any (fun k => k.dev == d && s.reachable k)
    let again (e : LinEnt) : LinEnt := { e with mdev := some r.dev, mack := false }
    let es := (s.dieOf die).shard.filter bad
    if es.isEmpty ∨ (s.dieOf die).lost then .next s
    else
      let s := s.setDieOf die { s.dieOf die with shard := (s.dieOf die).shard.map (fun (e : LinEnt) => if bad e then again e else e) }
      .next (s.forEach es (fun (e : LinEnt) s => s.sendMirror die (again e)))

/-- LINEAGE_MIRROR_ARRIVAL: another device's entry is held and acknowledged, or trimmed; an acknowledgement clears NOMIR. -/
def execLineageMirrorArrival (die : Nat) (m : MirrorMsg) (s : State) : Host.Outcome State Fault Refusal :=
  let d := s.dieOf die
  if d.lost then .next s
  else
    let others (dev h v : Nat) : List MirEnt := d.mirrors.filter (fun e => !(e.dev == dev && e.handle == h && e.ver == v))
    match m with
    | .store dev h v body =>
      .next ((s.setDieOf die { d with mirrors := others dev h.toNat v ++ [⟨dev, h.toNat, v, body⟩] }).send (.mirrorAck dev h.toNat v))
    | .trim dev h v => .next (s.setDieOf die { d with mirrors := others dev h.toNat v })
    | .ack dev h v => .next (s.setDieOf die { d with shard := d.shard.map (fun (e : LinEnt) =>
        if e.handle = h.toNat ∧ e.ver = v ∧ e.mdev = some dev then { e with mack := true } else e) })

/-! ### Recovery (R397) -/

/-- RECOVERY_WALK of a LOST version. -/
def execRecoveryWalk (x : Nat) (handle : Word) (v : Nat) (s : State) : Host.Outcome State Fault Refusal :=
  .next (((s.recover x ((s.allVers x).length + 1) (handle.toNat, v)).raiseRebuilds x).checkHeads x)

/-- COPY_BACK_VERIFIED: the replica's header unit and data are in the version's shadow frame; when its CRC matches the version is
REPLICATED, else it is LOST again and the walk takes the lineage path. -/
def execCopyBackVerified (x : Nat) (handle : Word) (v : Nat) (s : State) : Host.Outcome State Fault Refusal :=
  match s.versionAt x handle.toNat v with
  | none => .next s
  | some (p, n, e) =>
    match e.st, e.repl, e.run, s.poolOf x p with
    | .rebuilding, .counted _, none, some t =>
      let g := s.verSegs x t n v e.frame
      let hd := e.rimg.take 256
      let data := e.rimg.drop 256
      if fieldLE hd 0x18 8 = (crc64 data).toNat then
        .next (((s.perform g.1 data).perform g.2 (t.headerIn n v e.frame hd)).setVer x p n v { e with st := .replicated })
      else
        .next ((((s.setVer x p n v { e with st := .lost, repl := .none, rimg := [] }).recover x ((s.allVers x).length + 1) (handle.toNat, v)).raiseRebuilds
          x).checkHeads x)
    | _, _, _, _ => .next s

end Sys2Proof.Machine
end

