-- ==== Sys2Proof/Machine/Rings.lean ====
section
/-! DEFINITION. The ring words of the C stream (R314 to R318). -/

namespace Sys2Proof.Machine

/-- Whether the current core may be served now (R318). -/
def State.myTurn (s : State) (l : List Nat) : Bool := s.turnOf s.ctxNo s.cur l

/-- The die that homes a queue's first slot, whose controller keeps it (R312). -/
def State.queueDies (s : State) (q : Nat) : List Nat :=
  ((s.qSegs (s.queueOf q) (s.queueOf q).base 1).filterMap (fun c => homeDie c.pa))

/-- The queue that a register names for a ring word (R316): owned by the context, its controller in service (R16), in a state the word allows, and a
data queue. -/
def State.ringQueue (s : State) (v : Word) (drain : Bool) (kind : Nat) : Res Nat := do
  let k := s.queueOf (v.toNat % 4096)
  need (v.toNat < 4096 ∧ (find? s.queues v.toNat).isSome ∧ k.ctx = s.ctxNo) 0x090
  if k.st ≠ .disabled ∧ s.lostAt k.ctx 4 (bits k.base 55 0) 1 then .error (.cause 0x1A1 k.base 0)
  else do
    need (k.st = .active ∨ (drain ∧ k.st = .draining)) 0x090
    need (k.kind = kind) 0x042
    .ok v.toNat

/-- The number of the current core's task (R315). -/
def State.taskNo (s : State) : Nat := s.taskNoOf s.cur

/-- A word for a queue is sent to its controller: the context touches that die (R13). -/
def State.touchQueue (s : State) (q : Nat) : State := s.touch s.ctxNo (s.queueDies q)

/-- A waiting ring word takes its place, and the C stream waits. -/
def State.parkAt (s : State) (q : Nat) (claim : Bool) : State :=
  let k := s.queueOf q
  ((s.setQueueOf q (if claim then { k with waitC := joinWait k.waitC s.cur } else { k with waitT := joinWait k.waitT s.cur })).touchQueue q).park .C

/-- A word of the C stream that can wait at a queue: when the wait it stands in has ended, it takes the cause it ended with, which it keeps until it can be
taken (R313). -/
def ringEnded (f : State → Host.Outcome State Fault Refusal) (s : State) : Host.Outcome State Fault Refusal :=
  match s.core.ringOver .C with
  | some code => finish false (stop code) (if s.raisable .C code then s.setCore (s.core.leaveRing .C) else s)
  | none => f s

/-- RCLAIM (R316, R317): checked at issue, and entered in the C store queue; what it returns comes when it acts. -/
def execRclaim (d a : Reg) (nw : Bool) (s : State) : Host.Outcome State Fault Refusal :=
  finish false (do
    let v ← s.rd a
    await (!s.core.busy d)
    await s.c.stReady
    let q ← s.ringQueue v false 1
    let k := s.queueOf q
    let e : StoreElem := ⟨.phys k.tagp (s.qSegs k k.tagp 1), .qclaim q nw d.toNat false, none, 0⟩
    .ok ((s.touchQueue q).setC (s.c.pushStore 0 4 1 [e]))) s

/-- Whether the C stream already holds an RPUBL, or an RRELS, of a ticket in its store queue. -/
def StreamSt.hasRing (m : StreamSt) (q j : Nat) (rel : Bool) : Bool :=
  m.stores.any (fun e => e.elems.any (fun x => x.op == .qtag q j rel))

/-- RPUBL, or RRELS for `rel` (R316, R317): checked at issue, where its cause 0x046 is precise and faults the queue, and entered in the C store
queue. -/
def ringHeld (d a : Reg) (rel : Bool) (s : State) : Host.Outcome State Fault Refusal :=
  match (do
    let v ← s.rd a
    let p ← s.rd d
    await s.c.stReady
    let q ← s.ringQueue v true 1
    .ok (q, p.toNat) : Res (Nat × Nat)) with
  | .error e => finish false (.error e) s
  | .ok (q, p) =>
    let k := s.queueOf q
    match (s.heldBy k p rel).filter (fun j => !s.c.hasRing q j rel) with
    | some j =>
      let tag := k.tagp + j % 2 ^ k.logn
      let e : StoreElem := ⟨.phys tag (s.qSegs k tag 1), .qtag q j rel, none, 0⟩
      finish false (.ok ((s.touchQueue q).setC (s.c.pushStore 0 4 1 [e]))) s
    | none => .next ((if s.raisable .C 0x046 then s.faultQueue q else s).raise .C (s.siteC false) 0x046 0 0)

/-- RPUBL. -/
def execRpubl (d a : Reg) (s : State) : Host.Outcome State Fault Refusal := ringHeld d a false s

/-- RTAKE once it is not ended (R316, R317); VOID slots at the head are taken and released whether or not it then waits (R315), and it
takes cause 0x090 where that has emptied a DRAINING queue. One that must wait for its turn or for the decision log has its place among those that wait (R318). -/
def ringTake (d a : Reg) (nw : Bool) (s : State) : Host.Outcome State Fault Refusal :=
  match (do
    let v ← s.rd a
    await (!s.core.busy d)
    await (s.c.ldReady && s.c.loadsDone s.c.seq)
    s.ringQueue v true 1 : Res Nat) with
  | .error e => finish false (.error e) s
  | .ok q =>
    let t := State.qSkipVoid q (2 ^ (s.queueOf q).logn) s
    let k := t.queueOf q
    let left := k.waitT.filter (fun c => c != t.cur)
    if k.st ≠ .active ∧ k.st ≠ .draining then finish false (stop 0x090) t
    else if ¬t.qReady k then
      (if nw then finish false (((t.setQueueOf q { k with waitT := left }).touchQueue q).wr d 0) t else .next (t.parkAt q false))
    else if ¬t.myTurn k.waitT then .next (t.parkAt q false)
    else match t.decision 2 q .C 0 0 with
      | .error .wait => .next (t.parkAt q false)
      | .error e => finish false (.error e) s
      | .ok t => finish false (
        let j := k.h
        let t := t.setQueueOf q { k with h := (j + 1) % 2 ^ 32, takes := (j, t.taskNo) :: k.takes, waitT := left }
        ((t.touchQueue q).setC t.c.acquire).wr d (BitVec.ofNat 64 (k.slotPtr j))) t

/-- RTAKE. -/
def execRtake (d a : Reg) (nw : Bool) (s : State) : Host.Outcome State Fault Refusal := ringEnded (ringTake d a nw) s

/-- RRELS. -/
def execRrels (d a : Reg) (s : State) : Host.Outcome State Fault Refusal := ringHeld d a true s

end Sys2Proof.Machine
end

