-- ==== Sys2Proof/Machine/Tile.lean ====
section
/-! DEFINITION. Tile registers as data: the fields of STAT, elements, rows, and the record of Table 7-1 (R188, R189). -/

namespace Sys2Proof.Machine

/-- Bit n of STAT (Table 7-2). -/
def Tile.bit (t : Tile) (n : Nat) : Bool := t.stat.getLsbD n

/-- STAT with bit n set to b. -/
def Tile.setBit (t : Tile) (n : Nat) (b : Bool) : Tile :=
  { t with stat := if b then t.stat ||| BitVec.ofNat 32 (2 ^ n) else t.stat &&& ~~~(BitVec.ofNat 32 (2 ^ n)) }

/-- V, D, F, INT, IMPL, CHKV, RTOK, RPOK, RPEND, RTU, ZT, OZ, LT. -/
def Tile.v (t : Tile) : Bool := t.bit 0
def Tile.d (t : Tile) : Bool := t.bit 1
def Tile.f (t : Tile) : Bool := t.bit 2
def Tile.int (t : Tile) : Bool := t.bit 3
def Tile.impl (t : Tile) : Bool := t.bit 4
def Tile.chkv (t : Tile) : Bool := t.bit 5
def Tile.rtok (t : Tile) : Bool := t.bit 6
def Tile.rpok (t : Tile) : Bool := t.bit 7
def Tile.rpend (t : Tile) : Bool := t.bit 10
def Tile.rtu (t : Tile) : Bool := t.bit 11
def Tile.zt (t : Tile) : Bool := t.bit 12
def Tile.oz (t : Tile) : Bool := t.bit 13
def Tile.lt (t : Tile) : Bool := t.bit 14

/-- The arithmetic level of the loop. -/
def Tile.lvl (t : Tile) : Nat := bits t.stat.toNat 9 8

/-- A tile with LVL set. -/
def Tile.setLvl (t : Tile) (l : Nat) : Tile := { t with stat := (t.stat &&& ~~~0x300#32) ||| BitVec.ofNat 32 (l % 4 * 256) }

/-- Row i of the elements. -/
def Tile.row (t : Tile) (i : Nat) : Vec := look zeroVec t.elems i

/-- A tile with row i replaced. -/
def Tile.setRow (t : Tile) (i : Nat) (v : Vec) : Tile := { t with elems := put zeroVec t.elems i v }

/-- A tile with its 128 rows given. -/
def Tile.setRows (t : Tile) (rs : List Vec) : Tile :=
  { t with elems := (((List.range 128).zip rs).filter (fun e => e.2 != zeroVec)) }

/-- The 128 rows. -/
def Tile.rows (t : Tile) : List Vec := (List.range 128).map (fun i => t.row i)

/-- The sum of a row's element patterns modulo 2^64 (R234). -/
def rowSum (v : Vec) : Word := BitVec.ofNat 64 (v.foldl (fun n x => n + x.toNat) 0)

/-- A tile with its register row sums formed from its elements (R233). -/
def Tile.keepSums (t : Tile) : Tile := { t with rs := (t.elems.map (fun e => (e.1, rowSum e.2))).filter (fun e => e.2 != 0) }

/-- The first of some rows whose sum differs from the one kept (R234). -/
def Tile.badRow (t : Tile) (rows : List Nat) : Option Nat := rows.find? (fun i => rowSum (t.row i) != look 0 t.rs i)

/-- Every row of a tile. -/
def allRows : List Nat := List.range 128

/-- The check of R234: cause 0x102 with the failing row. -/
def Tile.sumsOk (t : Tile) (rows : List Nat) : Res Unit :=
  match t.badRow rows with
  | none => .ok ()
  | some i => .error (.cause 0x102 i 0)

/-- The 128 rows a version's bytes give a tile register (R142): FP32, BF16 widened, or INT32 patterns. -/
def tileRows (f : Nat) (data : List Byte) : List Vec :=
  let cs := elems f data
  (List.range 128).map (fun i => ((cs.drop (128 * i)).take 128).map (fun c => if f = 1 then fp32Of 1 nan32 c else BitVec.ofNat 32 c))

/-- A count raised by n, sticking at 0xFFFF_FFFF. -/
def stick (c : W32) (n : Nat) : W32 := BitVec.ofNat 32 (min (c.toNat + n) (2 ^ 32 - 1))

/-- The arithmetic counters of a tile raised (R79, R87 to R90). -/
def Tile.count (t : Tile) (sat nan bso : Nat) : Tile :=
  { t with satc := stick t.satc sat, nanc := stick t.nanc nan, bsoc := stick t.bsoc bso }

/-- The tile's bound folded into CAL (R218). -/
def Tile.fold (t : Tile) : Tile := if t.inb = 0 then t else { t with cal := roundUp (xvAdd 0 (xv32 t.cal) (xv32 t.inb)), inb := 0 }

/-- A tile written whole by LDT var 01 (R142, R190): LOADED, its counters, caliper and progress 0, its origin the version. -/
def Tile.loaded (t : Tile) (int : Bool) (rows : List Vec) (bound : W32) (handle ver : Nat) : Tile :=
  let t := ((((((t.setBit 0 true).setBit 1 false).setBit 2 false).setBit 3 int).setBit 12 false).setBit 14 true).setRows rows
  { t with cal := 0, prog := 0, pend := 0, satc := 0, nanc := 0, bsoc := 0, inb := bound, orgh := BitVec.ofNat 64 handle,
           orgv := BitVec.ofNat 32 ver, comp := [] }.keepSums

/-- The 64-byte record of a tile (Table 7-1). -/
def Tile.record (t : Tile) : List Byte :=
  toLE 4 t.stat.toNat ++ toLE 4 t.cal.toNat ++ toLE 4 t.inb.toNat ++ toLE 4 t.prog.toNat ++ toLE 4 t.satc.toNat ++
    toLE 4 t.nanc.toNat ++ toLE 4 t.bsoc.toNat ++ toLE 2 t.satl.toNat ++ toLE 2 t.nanl.toNat ++ toLE 2 t.bsol.toNat ++
    toLE 2 t.orgpc.toNat ++ toLE 4 t.orgv.toNat ++ toLE 4 t.frw.toNat ++ toLE 4 t.fra.toNat ++ toLE 8 t.orgh.toNat ++
    toLE 8 t.pend.toNat

/-- A tile with the record of 64 bytes; its bounds are ones R217 allows. -/
def Tile.ofRecord (t : Tile) (b : List Byte) : Tile :=
  let w (o : Nat) : W32 := BitVec.ofNat 32 (fieldLE b o 4)
  let h (o : Nat) : BitVec 16 := BitVec.ofNat 16 (fieldLE b o 2)
  { t with stat := w 0, cal := asBound (w 4), inb := asBound (w 8), prog := w 12, satc := w 16, nanc := w 20, bsoc := w 24, satl := h 28, nanl := h 30,
           bsol := h 32, orgpc := h 34, orgv := w 36, frw := w 40, fra := w 44, orgh := BitVec.ofNat 64 (fieldLE b 48 8),
           pend := BitVec.ofNat 64 (fieldLE b 56 8) }

end Sys2Proof.Machine
end

