-- ==== Sys2Proof/Machine/VecOps.lean ====
section
/-! DEFINITION. The operands of vector words (R156 to R161, R172) and the fixed orders of reductions, scans and sorts (R91 to
R94). -/

namespace Sys2Proof.Machine

/-! ### Rows -/

/-- A row of `cnt` elements of a format at a kind 1 operand of the V stream (R158). -/
def rowV (s : State) (n : BitVec 4) (off : Int) (f cnt : Nat) (wins : List Nat) (wr : Bool) : Res Tgt :=
  let a := s.core.aregOf .V n.toNat
  access s s.cur ⟨wins, none, fmtBytes f cnt, strAlign off f, wr, if wr then 1 else 0⟩ (some a) (strPtr a off f)

/-- The window of a checked access. -/
def Tgt.win (t : Tgt) : Nat := bits t.ptr 63 60

/-- Offset in the A-buffer of a place there. -/
def Place.aoff : Place → Nat
  | .abuf o => o
  | _ => 0

/-- The die of the peer an operand of V reads a row of format f from (R13). -/
def peerDies (s : State) (f : Nat) (d : Desc) : List Nat :=
  match d with
  | .reg _ _ _ => []
  | .str n _ o =>
    match rowV s n o.toInt f 128 [3] false with
    | .ok t => t.place.dies
    | .error _ => []

/-- What a V word leaves, with the dies of the peers its sources A and B were read from touched by its context (R13, R346). -/
def Eff.peers (e : Eff) (s : State) (w : W96) (f : Nat) : Eff :=
  { e with s := e.s.touch s.ctxNo (peerDies s f w.a ++ peerDies s 0 w.b) }

/-- A V word whose source A, of format f, or B may be a row of a peer. -/
def vword (w : W96) (f : Nat) (reads : Mask → List Rg) (onWait : State → State) (body : Mask → State → Res Eff) (s : State) :
    Host.Outcome State Fault Refusal :=
  engine .V (hd96 w) reads onWait (fun m s => (body m s).map (fun e => e.peers s w f)) s

/-- The value of a src operand (Table 6-1) as 32-bit lanes, row elements as codes of format f, with the window of a row and
its bound tag; 0 for a register. The offset of a row is scaled by the size of the elements the row holds (log entry 30). -/
def vread (s : State) (d : Desc) (f : Nat) (wins : List Nat) : Res (Vec × Nat × W32) :=
  match d with
  | .reg _ true r => .ok (List.replicate 128 ((s.core.sreg (r.setWidth 5)).setWidth 32), 0, 0)
  | .reg _ false r => .ok (s.core.vreg r.toNat, 0, 0)
  | .str n _ o => do
    let t ← rowV s n o.toInt f 128 wins false
    let len := fmtBytes f 128
    let tag := match t.place with
      | .abuf x => tagRead s.core.atags x len
      | .peer m x => tagRead (s.coreOf m).atags x len
      | _ => 0
    .ok ((elems f (s.readPlace s.cur len t.place)).map (fun c => BitVec.ofNat 32 c), t.win, tag)

/-- A src operand of 32-bit elements. -/
def vsrc (s : State) (d : Desc) : Res (Vec × Nat) := do
  let r ← vread s d 0 [2, 3]
  .ok (r.1, r.2.1)

/-- A dst operand checked: the A-buffer offset of a row, none for a register. -/
def vdst (s : State) (d : Desc) (f : Nat) : Res (Option Nat) :=
  match d with
  | .reg _ _ _ => .ok none
  | .str n _ o => do
    let t ← rowV s n o.toInt f 128 [2] true
    .ok (some t.place.aoff)

/-- Elements of a row of the A-buffer written where the mask is set, with a bound (R37, R134, R159). -/
def CoreSt.putRow (c : CoreSt) (o f : Nat) (m : Mask) (v : Vec) (beta : W32) : CoreSt :=
  let codes := v.map (fun x => x.toNat)
  if m = BitVec.allOnes 128 then c.aWrite o (packElems f codes) beta
  else
    let old := (elems f (c.aRead o (fmtBytes f 128))).map (fun x => BitVec.ofNat 32 x)
    let bs := packElems f ((blendFrom m 0 v old).map (fun x => x.toNat))
    let at_ (i : Nat) : Nat := o + i * fmtBits f / 8
    let ls := (List.range 128).filter (fun i => m.getLsbD i)
    let c := { c with abuf := setBytes c.abuf o bs, atags := ls.foldl (fun t i => tagWrite t (at_ i) (elemSize f) beta) c.atags }
    ls.foldl (fun c i => c.unfreeze false (at_ i) (elemSize f)) c

/-- The result of a word in a dst operand: a register result, or a row written. -/
def vput (s : State) (d : Desc) (f : Nat) (o : Option Nat) (m : Mask) (v : Vec) (beta : W32) : State × List Wr :=
  match o with
  | some x => (s.setCore (s.core.putRow x f m v beta), [])
  | none => (s, [⟨0, d.num, m, .vec v⟩])

/-- Latency of a word with sources in the windows given (R161). -/
def vlat (lat : Nat) (wins : List Nat) : Option Nat :=
  if wins.contains 3 then none else if wins.contains 2 then some (lat + 4) else some lat

/-- The registers a src operand reads in the lanes of a mask. -/
def srcRegs (m : Mask) (d : Desc) : List Rg :=
  match d with
  | .reg _ true _ => []
  | .reg _ false r => [⟨0, r.toNat, m⟩]
  | .str n _ _ => [rg 3 n.toNat]

/-- The registers a dst operand reads: its address register, and the old value where the word uses it. -/
def dstRegs (m : Mask) (d : Desc) (old : Bool) : List Rg :=
  match d with
  | .reg _ _ r => if old then [⟨0, r.toNat, m⟩] else []
  | .str n _ _ => [rg 3 n.toNat]

/-- A function of three vectors and the lane number, from lane i on. -/
def vmap3 (g : Nat → W32 → W32 → W32 → W32) : Nat → Vec → Vec → Vec → Vec
  | i, a :: as, b :: bs, d :: ds => g i a b d :: vmap3 g (i + 1) as bs ds
  | _, _, _, _ => []

/-- A vector from a function of the lane number, `n` lanes from lane i on. -/
def vgen (g : Nat → W32) : Nat → Nat → Vec
  | _, 0 => []
  | i, n + 1 => g i :: vgen g (i + 1) n

/-- The true lanes of a mask, in order. -/
def laneList (m : Mask) : List Nat := (List.range 128).filter (fun i => m.getLsbD i)

/-- The elements of a list in the true lanes of a mask, with their lane numbers. -/
def pick {α : Type} (m : Mask) : Nat → List α → List (Nat × α)
  | _, [] => []
  | i, a :: r => if m.getLsbD i then (i, a) :: pick m (i + 1) r else pick m (i + 1) r

/-- A lanewise word of 32-bit elements (Table 6-2): D[i] from A, B and the old D in each true lane. -/
def lanewise (w : W96) (lat : Nat) (useB useD : Bool) (g : Nat → W32 → W32 → W32 → W32) (s : State) :
    Host.Outcome State Fault Refusal :=
  vword w 0
    (fun m => srcRegs m w.a ++ (if useB then srcRegs m w.b else []) ++ dstRegs m w.d useD) id
    (fun m s => do
      let a ← vsrc s w.a
      let b ← if useB then vsrc s w.b else .ok (zeroVec, 0)
      let o ← vdst s w.d 0
      let d : Vec := if useD then (match o with
        | some x => (elems 0 (s.core.aRead x 512)).map (fun c => BitVec.ofNat 32 c)
        | none => s.core.vreg w.d.num) else zeroVec
      let r := vput s w.d 0 o m (vmap3 (fun i x y z => if m.getLsbD i then g i x y z else 0) 0 a.1 b.1 d) 0
      .ok { s := r.1, res := r.2 ++ postUpdates s.core .V [w.a, w.b, w.d],
            lat := vlat lat [a.2, b.2, if useD && w.d.isStr then 2 else 0] }) s

/-! ### Bounds (R172, R217) -/

/-- The largest exact difference of values and what their codes stand for, rounded upward; +∞ when an element saturated or
became a NaN without being one. An element whose difference is no number (a NaN that stays one or becomes the integer 0) adds nothing, which is this model's
choice (log entry 85). -/
def convError (l : List (XV × XV × Bool)) : W32 :=
  if l.any (fun e => e.2.2 || (e.2.1 == .nan && e.1 != .nan)) then 0x7F800000
  else roundUp (l.foldl (fun b e =>
    match xvAbs (xvAdd 0 e.2.1 (xvNeg e.1)) with
    | .num n m x => if xvLt b (.num n m x) then .num n m x else b
    | _ => b) (.num false 0 0))

/-- round_up of the sum of two bounds. -/
def addBound (a b : W32) : W32 := roundUp (xvAdd 0 (xv32 a) (xv32 b))

/-! ### Trees and scans (R91 to R93); an excluded lane is `none` -/

/-- Two results of a level combined; an excluded one passes its partner through. -/
def comb {α : Type} (f : α → α → α) : Option α → Option α → Option α
  | some a, some b => some (f a b)
  | some a, none => some a
  | none, b => b

/-- One level of the tree. -/
def pairUp {α : Type} (f : α → α → α) : List (Option α) → List (Option α)
  | a :: b :: r => comb f a b :: pairUp f r
  | l => l

/-- The tree of a number of levels. -/
def tree {α : Type} (f : α → α → α) : Nat → List (Option α) → Option α
  | 0, l => l.headD none
  | n + 1, l => tree f n (pairUp f l)

/-- The inclusive scan over the distances given. -/
def scanBy {α : Type} (f : α → α → α) (l : List (Option α)) : List Nat → List (Option α)
  | [] => l
  | d :: r => scanBy f (List.zipWith (comb f) (List.replicate d none ++ l) l) r

/-- The seven distances. -/
def scanDists : List Nat := [1, 2, 4, 8, 16, 32, 64]

/-- A vector with the lanes outside a mask excluded, from lane i on. -/
def included (m : Mask) : Nat → Vec → List (Option W32)
  | _, [] => []
  | i, x :: r => (if m.getLsbD i then some x else none) :: included m (i + 1) r

/-- The order of signed 32-bit integers as naturals. -/
def keyS (x : W32) : Nat := (x ^^^ 0x80000000).toNat

/-- Signed maximum and minimum of lanes. -/
def maxS (a b : W32) : W32 := if keyS a < keyS b then b else a
def minS (a b : W32) : W32 := if keyS b < keyS a then b else a

/-- The combining function of a reduction in a format: 0 sum, 1 maximum, 2 minimum. Sums round under the word's rm, as R91 and R93 say; R70
would have them round to nearest-even (log entry 86). -/
def redFn (op fmt rm : Nat) : W32 → W32 → W32 :=
  if fmt = 5 then (match op with
    | 0 => (fun a b => a + b)
    | 1 => maxS
    | _ => minS)
  else (match op with
    | 0 => fadd rm
    | 1 => fmax
    | _ => fmin)

/-- The empty value of a reduction (Table 9-6). -/
def redEmpty (op fmt : Nat) : W32 :=
  if fmt = 5 then (match op with
    | 1 => 0x80000000
    | 2 => 0x7FFFFFFF
    | _ => 0)
  else (match op with
    | 1 => 0xFF800000
    | 2 => 0x7F800000
    | _ => 0)

/-- A reduction of the lanes of a mask. -/
def reduce (op fmt rm : Nat) (m : Mask) (v : Vec) : W32 := (tree (redFn op fmt rm) 7 (included m 0 v)).getD (redEmpty op fmt)

/-- A scan of the lanes of a mask, inclusive or exclusive (R93). -/
def scan (fmt rm : Nat) (excl : Bool) (m : Mask) (v : Vec) : Vec :=
  let l := scanBy (redFn 0 fmt rm) (included m 0 v) scanDists
  (if excl then none :: l.dropLast else l).map (fun x => x.getD 0)

/-- The winner of two (value, lane) pairs (R92), `lo` selecting the minimum. -/
def argWin (fmt : Nat) (lo : Bool) (a b : W32 × Nat) : W32 × Nat :=
  let k (x : W32) : Nat := if fmt = 5 then keyS x else orderKey x
  let nan (x : W32) : Bool := fmt != 5 && isNaN32 x
  match nan a.1, nan b.1 with
  | true, true => (nan32, min a.2 b.2)
  | true, false => b
  | false, true => a
  | false, false => if (if lo then k b.1 < k a.1 else k a.1 < k b.1) then b else a

/-! ### Sorting (R94) -/

/-- The order key of a pair's key: `v1` is unsigned for INT32. -/
def sortKey (fmt : Nat) (uns : Bool) (x : W32) : Nat := if fmt = 5 then (if uns then x.toNat else keyS x) else orderKey x

/-- Whether key x comes strictly before key y. -/
def before (fmt var : Nat) (x y : W32) : Bool :=
  let k := sortKey fmt (bit var 1)
  if bit var 0 then decide (k y < k x) else decide (k x < k y)

/-- A pair put into a sorted list after the pairs with equal keys. -/
def insertPair (fmt var : Nat) (p : W32 × W32) : List (W32 × W32) → List (W32 × W32)
  | [] => [p]
  | q :: r => if before fmt var p.1 q.1 then p :: q :: r else q :: insertPair fmt var p r

/-- The stable sort of pairs. -/
def sortPairs (fmt var : Nat) (l : List (W32 × W32)) : List (W32 × W32) := l.foldl (fun a p => insertPair fmt var p a) []

/-- The stable merge of two runs as R178 gives it. -/
def mergePairs (fmt var : Nat) : Nat → List (W32 × W32) → List (W32 × W32) → List (W32 × W32)
  | 0, _, _ => []
  | _, [], b => b
  | _, a, [] => a
  | n + 1, p :: a, q :: b =>
    if before fmt var q.1 p.1 then q :: mergePairs fmt var n (p :: a) b else p :: mergePairs fmt var n a (q :: b)

/-- A mask of the lowest n lanes. -/
def lowMask (n : Nat) : Mask := BitVec.ofNat 128 (2 ^ n - 1)

/-- A list of lane values filled up with zeros to 128 lanes. -/
def padVec (l : List W32) : Vec := (l ++ zeroVec).take 128

end Sys2Proof.Machine
end

