-- ==== Sys2Proof/Machine/Block.lean ====
section
/-! DEFINITION. What the load and store streams share: rows of block words, boundary crossing, scratchpad rings (R132, R133,
R147, R319). -/

namespace Sys2Proof.Machine

/-! ### Rows (R132) -/

/-- The pointer of row j of a block operand. -/
def rowPtr (a : AReg) (off : Int) (f j : Nat) : Nat :=
  wrap64 ((a.base.toNat : Int) + off * (fmtBits f : Int) / 8 + (j : Int) * a.stride.toInt)

/-- The alignment rows must have: none satisfies it when the stride is not a multiple of the element size (R125). -/
def rowAlign (a : AReg) (off : Int) (f : Nat) : Nat :=
  if a.stride.toInt % (elemSize f : Int) ≠ 0 then 0 else strAlign off f

/-- A block operand: its address register, its offset, its row length in elements of a format. -/
structure Blk where
  reg : AReg
  off : Int
  fmt : Nat
  cnt : Nat
  deriving DecidableEq, Repr

/-- The block operand a kind 1 descriptor names, with rows of 128 elements. -/
def State.blk (s : State) (t : Strm) (d : Desc) (f : Nat) : Blk :=
  match d with
  | .str n _ o => ⟨s.core.aregOf t n.toNat, o.toInt, f, 128⟩
  | .reg _ _ _ => ⟨.zero, 0, f, 128⟩

/-- Row j of a block operand checked. -/
def State.blkRow (s : State) (b : Blk) (wins : List Nat) (wr : Bool) (kind j : Nat) : Res Tgt :=
  let p := rowPtr b.reg b.off b.fmt j
  atElem (128 * j) p (fmtBits b.fmt) (access s s.cur ⟨wins, none, fmtBytes b.fmt b.cnt, rowAlign b.reg b.off b.fmt, wr, kind⟩ (some b.reg) p)

/-- The dies of a list of checked accesses. -/
def diesOf (ts : List Tgt) : List Nat := ts.flatMap (fun t => t.place.dies)

/-- The rows of a block operand checked in ascending order. -/
def State.blkRows (s : State) (b : Blk) (wins : List Nat) (wr : Bool) (kind : Nat) (l : List Nat) : Res (List Tgt) :=
  l.mapM (fun j => s.blkRow b wins wr kind j)

/-! ### Boundaries (R133) -/

/-- Whether row t crosses when row t0 is the first. -/
def crosses (tab : List Nat) (t0 t : Nat) : Bool := segOf tab t0 == none || segOf tab t != segOf tab t0

/-! ### Scratchpad rings (R147, R319) -/

/-- The tag of a slot of a scratchpad ring. -/
def Ring.tag (r : Ring) (slot : Nat) : Nat := look 3 r.tags slot

/-- A ring with a tag written. -/
def Ring.setTag (r : Ring) (slot v : Nat) : Ring := { r with tags := put 3 r.tags slot v }

/-- The A-buffer pointer of ticket j's slot. -/
def Ring.slotPtr (r : Ring) (j : Nat) : Nat := 2 * 2 ^ 60 + r.base * 64 + j % 2 ^ r.logn * (r.slotsz * 64)

/-- The slot whose first byte a pointer is. -/
def Ring.slotAt (r : Ring) (p : Nat) : Option Nat :=
  let z := r.slotsz * 64
  let b := 2 * 2 ^ 60 + r.base * 64
  if b ≤ p ∧ z ≠ 0 ∧ (p - b) % z = 0 ∧ (p - b) / z < 2 ^ r.logn then some ((p - b) / z) else none

/-- A core with ring n replaced. -/
def CoreSt.setRing (c : CoreSt) (n : Nat) (r : Ring) : CoreSt := { c with rings := setKey c.rings n r }

/-- The ring a word names, in a state the word allows, else cause 0x044. -/
def State.ringFor (s : State) (n : Nat) (drain : Bool) : Res Ring :=
  let r := s.core.ring n
  if r.st = .active ∨ (drain ∧ r.st = .draining) then .ok r else stop 0x044

/-- The address register that names a slot (R147). -/
def Ring.slotReg (r : Ring) (j : Nat) : AReg :=
  ⟨BitVec.ofNat 64 (r.slotPtr j), BitVec.ofNat 32 (r.slotsz * 64), BitVec.ofNat 32 (r.slotsz * 64)⟩

/-- The address register of the B operand of a ring word. -/
def ringReg (d : Desc) : Nat :=
  match d with
  | .str n _ _ => n.toNat
  | .reg _ _ _ => 0

/-- The ticket of the slot at a pointer in a range whose tag passes a test, else cause 0x046. -/
def Ring.held (r : Ring) (p lo hi : Nat) (f : Nat → Nat → Bool) : Res Nat :=
  match (r.slotAt p).bind (fun slot => (ticketOf r.logn lo hi slot).filter (fun j => f j (r.tag slot))) with
  | some j => .ok j
  | none => stop 0x046

/-- DRAINING becomes DISABLED at Q = T (Table 12-8). -/
def Ring.settled (r : Ring) : Ring := if r.st = .draining ∧ r.q = r.t then { r with st := .disabled } else r

/-- A core with ring n replaced; the words that wait there and have no place in its new state end with cause 0x044 (R147, Table 12-8). -/
def CoreSt.moveRing (c : CoreSt) (n : Nat) (r : Ring) : CoreSt :=
  (c.setRing n r).endRing n (match r.st with
    | .active => []
    | .draining => [.L]
    | _ => [.L, .S])

/-- A ring word: one whose wait has ended takes its cause, which it keeps until it can be taken, one that waits takes its place at the ring, and cause
0x046 faults the ring when it is taken (R147, R319, R320). -/
def ringWord (t : Strm) (w : W96) (body : State → Res Eff) (s : State) : Host.Outcome State Fault Refusal :=
  engineWith t (hd96 w) (fun _ => [rg 3 (ringReg w.b)]) (fun s => s.setCore (s.core.waitRing t w.d.imm))
    (fun c s =>
      if !s.raisable t c then s
      else
        let s := s.setCore (s.core.leaveRing t)
        if c = 0x046 then s.setCore (s.core.moveRing w.d.imm { s.core.ring w.d.imm with st := .faulted }) else s)
    (fun _ s => match s.core.ringOver t with
      | some code => stop code
      | none => (body s).map (fun e => { e with s := e.s.setCore (e.s.core.leaveRing t) })) s

end Sys2Proof.Machine
end

