-- ==== Sys2Proof/Decode.lean ====
section
/-! DEFINITION. The decoder of the five streams, total on any bytes, and after it the encoder, both written from the word
layouts and the opcode map (R26 to R35, R51 to R57). A word outside the opcode map gives cause 0x020, one with a nonzero
zero field 0x021 (R58); the causes that depend on the meaning of the fields are those of WellFormed.lean. -/

namespace Sys2Proof

/-! ### C words -/

/-- The fields of a 32-bit C word (Table 2-1): [31:26], [25:21], [20:16], [15:11], [10:5], [4:0]. -/
structure CWord where
  maj : BitVec 6
  x : BitVec 5
  y : BitVec 5
  z : BitVec 5
  fn : BitVec 6
  lo : BitVec 5
  deriving DecidableEq, Repr

/-- imm16 or off16 of a C word. -/
def CWord.imm (w : CWord) : BitVec 16 := w.z ++ (w.fn ++ w.lo)

/-- The fields of a 32-bit word. -/
def splitC (b : BitVec 32) : CWord :=
  ⟨b.extractLsb' 26 6, b.extractLsb' 21 5, b.extractLsb' 16 5, b.extractLsb' 11 5, b.extractLsb' 5 6, b.extractLsb' 0 5⟩

/-- An instruction whose zero fields are zero, or cause 0x021. -/
def zeros (ok : Bool) (i : Instr) : Except Nat Instr := if ok then .ok i else .error 0x021

/-- The sub-operations of major 0x00 by fn (R52, R54). -/
def decodeAlu (w : CWord) : Except Nat Instr :=
  match w.fn with
  | 0x00#6 => zeros (w.lo == 0) (.add w.x w.y w.z)
  | 0x01#6 => zeros (w.lo == 0) (.sub w.x w.y w.z)
  | 0x02#6 => zeros (w.lo == 0) (.mul w.x w.y w.z)
  | 0x03#6 => zeros (w.lo == 0) (.mulh w.x w.y w.z)
  | 0x04#6 => zeros (w.lo == 0) (.mulhu w.x w.y w.z)
  | 0x05#6 => zeros (w.lo == 0) (.div w.x w.y w.z)
  | 0x06#6 => zeros (w.lo == 0) (.divu w.x w.y w.z)
  | 0x07#6 => zeros (w.lo == 0) (.rem w.x w.y w.z)
  | 0x08#6 => zeros (w.lo == 0) (.remu w.x w.y w.z)
  | 0x09#6 => zeros (w.lo == 0) (.and w.x w.y w.z)
  | 0x0a#6 => zeros (w.lo == 0) (.or w.x w.y w.z)
  | 0x0b#6 => zeros (w.lo == 0) (.xor w.x w.y w.z)
  | 0x0c#6 => zeros (w.lo == 0) (.shl w.x w.y w.z)
  | 0x0d#6 => zeros (w.lo == 0) (.shr w.x w.y w.z)
  | 0x0e#6 => zeros (w.lo == 0) (.sra w.x w.y w.z)
  | 0x0f#6 => zeros (w.lo == 0) (.min w.x w.y w.z)
  | 0x10#6 => zeros (w.lo == 0) (.max w.x w.y w.z)
  | 0x11#6 => zeros (w.lo == 0) (.minu w.x w.y w.z)
  | 0x12#6 => zeros (w.lo == 0) (.maxu w.x w.y w.z)
  | 0x13#6 => zeros (w.lo == 0) (.slt w.x w.y w.z)
  | 0x14#6 => zeros (w.lo == 0) (.sltu w.x w.y w.z)
  | 0x15#6 => zeros (w.lo == 0) (.seq w.x w.y w.z)
  | 0x16#6 => zeros (w.z == 0 && w.lo == 0) (.clz w.x w.y)
  | 0x17#6 => zeros (w.z == 0 && w.lo == 0) (.popc w.x w.y)
  | _ => .error 0x020

/-- The sub-operations of major 0x3b by fn (R52, R54). -/
def decodeXfer (w : CWord) : Except Nat Instr :=
  match w.fn with
  | 0x00#6 => zeros (w.lo == 0) (.xcopy w.x w.y w.z)
  | 0x01#6 => zeros (w.lo == 0) (.xcopy2 w.x w.y w.z)
  | 0x02#6 => zeros (w.lo == 0) (.xfill w.x w.y w.z)
  | 0x03#6 => zeros (w.y == 0 && w.lo == 0) (.xstat w.x w.z)
  | _ => .error 0x020

/-- The sub-operations of major 0x3c by fn (R52, R54). -/
def decodeLink (w : CWord) : Except Nat Instr :=
  match w.fn with
  | 0x00#6 => zeros (w.lo == 0) (.lkmcst w.x w.y w.z)
  | 0x01#6 => zeros (w.lo == 0) (.lkldred w.x w.y w.z)
  | 0x02#6 => zeros (w.lo == 0) (.lksend w.x w.y w.z)
  | 0x03#6 => zeros (w.x == 0 && w.z == 0 && w.lo == 0) (.cgjoin w.y)
  | 0x04#6 => zeros (w.x == 0 && w.z == 0 && w.lo == 0) (.cgleave w.y)
  | 0x05#6 => zeros (w.z == 0 && w.lo == 0) (.cgstat w.x w.y)
  | _ => .error 0x020

/-- The sub-operations of major 0x3d by fn (R52, R54). -/
def decodeSys (w : CWord) : Except Nat Instr :=
  match w.fn with
  | 0x00#6 => zeros (w.x == 0 && w.y == 0 && w.z == 0 && w.lo == 0) (.nop)
  | 0x01#6 => zeros (w.x == 0 && w.y == 0 && w.lo == 0) (.trap w.z)
  | 0x02#6 => zeros (w.x == 0 && w.y == 0 && w.z == 0 && w.lo == 0) (.eret)
  | 0x03#6 => zeros (w.lo == 0) (.csrr w.x (w.y ++ w.z))
  | 0x04#6 => zeros (w.lo == 0) (.csrw w.x (w.y ++ w.z))
  | 0x05#6 => zeros (w.x == 0 && w.lo == 0) (.fence w.y w.z)
  | 0x06#6 => zeros (w.x == 0 && w.z == 0 && w.lo == 0) (.sleep w.y)
  | 0x07#6 => zeros (w.x == 0 && w.y == 0 && w.z == 0 && w.lo == 0) (.halt)
  | 0x08#6 => zeros (w.y == 0 && w.z == 0 && w.lo == 0) (.dlogp w.x)
  | 0x09#6 => zeros (w.z == 0 && w.lo == 0) (.scrub w.x w.y)
  | _ => .error 0x020

/-- The ATOM group (R53) by fn = operation × 2 + quiet; an FP atomic has no 64-bit form. -/
def decodeAtom (w : CWord) : Except Nat Instr :=
  match w.fn with
  | 0x00#6 => zeros (w.lo.setWidth 4 == 0) (.aadd w.x w.y w.z (w.lo.getLsbD 4))
  | 0x01#6 => zeros (w.x == 0 && w.lo.setWidth 4 == 0) (.aaddq w.y w.z (w.lo.getLsbD 4))
  | 0x02#6 => zeros (w.lo.setWidth 4 == 0) (.amin w.x w.y w.z (w.lo.getLsbD 4))
  | 0x03#6 => zeros (w.x == 0 && w.lo.setWidth 4 == 0) (.aminq w.y w.z (w.lo.getLsbD 4))
  | 0x04#6 => zeros (w.lo.setWidth 4 == 0) (.amax w.x w.y w.z (w.lo.getLsbD 4))
  | 0x05#6 => zeros (w.x == 0 && w.lo.setWidth 4 == 0) (.amaxq w.y w.z (w.lo.getLsbD 4))
  | 0x06#6 => zeros (w.lo.setWidth 4 == 0) (.aminu w.x w.y w.z (w.lo.getLsbD 4))
  | 0x07#6 => zeros (w.x == 0 && w.lo.setWidth 4 == 0) (.aminuq w.y w.z (w.lo.getLsbD 4))
  | 0x08#6 => zeros (w.lo.setWidth 4 == 0) (.amaxu w.x w.y w.z (w.lo.getLsbD 4))
  | 0x09#6 => zeros (w.x == 0 && w.lo.setWidth 4 == 0) (.amaxuq w.y w.z (w.lo.getLsbD 4))
  | 0x0a#6 => zeros (w.lo.setWidth 4 == 0) (.aand w.x w.y w.z (w.lo.getLsbD 4))
  | 0x0b#6 => zeros (w.x == 0 && w.lo.setWidth 4 == 0) (.aandq w.y w.z (w.lo.getLsbD 4))
  | 0x0c#6 => zeros (w.lo.setWidth 4 == 0) (.aor w.x w.y w.z (w.lo.getLsbD 4))
  | 0x0d#6 => zeros (w.x == 0 && w.lo.setWidth 4 == 0) (.aorq w.y w.z (w.lo.getLsbD 4))
  | 0x0e#6 => zeros (w.lo.setWidth 4 == 0) (.axor w.x w.y w.z (w.lo.getLsbD 4))
  | 0x0f#6 => zeros (w.x == 0 && w.lo.setWidth 4 == 0) (.axorq w.y w.z (w.lo.getLsbD 4))
  | 0x10#6 => zeros (w.lo.setWidth 4 == 0) (.axchg w.x w.y w.z (w.lo.getLsbD 4))
  | 0x11#6 => zeros (w.x == 0 && w.lo.setWidth 4 == 0) (.axchgq w.y w.z (w.lo.getLsbD 4))
  | 0x12#6 => zeros (w.lo.setWidth 4 == 0) (.acas w.x w.y w.z (w.lo.getLsbD 4))
  | 0x13#6 => zeros (w.lo.setWidth 4 == 0) (.acasq w.x w.y w.z (w.lo.getLsbD 4))
  | 0x14#6 => if w.lo.getLsbD 4 then .error 0x020 else zeros (w.lo.setWidth 4 == 0) (.afadd w.x w.y w.z)
  | 0x15#6 => if w.lo.getLsbD 4 then .error 0x020 else zeros (w.x == 0 && w.lo.setWidth 4 == 0) (.afaddq w.y w.z)
  | 0x16#6 => if w.lo.getLsbD 4 then .error 0x020 else zeros (w.lo.setWidth 4 == 0) (.afmin w.x w.y w.z)
  | 0x17#6 => if w.lo.getLsbD 4 then .error 0x020 else zeros (w.x == 0 && w.lo.setWidth 4 == 0) (.afminq w.y w.z)
  | 0x18#6 => if w.lo.getLsbD 4 then .error 0x020 else zeros (w.lo.setWidth 4 == 0) (.afmax w.x w.y w.z)
  | 0x19#6 => if w.lo.getLsbD 4 then .error 0x020 else zeros (w.x == 0 && w.lo.setWidth 4 == 0) (.afmaxq w.y w.z)
  | _ => .error 0x020

/-- A C word by its major opcode (R51). -/
def decodeC (w : CWord) : Except Nat Instr :=
  match w.maj with
  | 0x00#6 => decodeAlu w
  | 0x01#6 => .ok (.addi w.x w.y w.imm)
  | 0x02#6 => .ok (.andi w.x w.y w.imm)
  | 0x03#6 => .ok (.ori w.x w.y w.imm)
  | 0x04#6 => .ok (.xori w.x w.y w.imm)
  | 0x05#6 => zeros (w.imm.extractLsb' 6 10 == 0) (.shli w.x w.y (w.imm.setWidth 6))
  | 0x06#6 => zeros (w.imm.extractLsb' 6 10 == 0) (.shri w.x w.y (w.imm.setWidth 6))
  | 0x07#6 => zeros (w.imm.extractLsb' 6 10 == 0) (.srai w.x w.y (w.imm.setWidth 6))
  | 0x08#6 => .ok (.slti w.x w.y w.imm)
  | 0x09#6 => .ok (.sltiu w.x w.y w.imm)
  | 0x0a#6 => zeros (w.y == 0) (.lui w.x w.imm)
  | 0x0b#6 => .ok (.ldw w.x w.y w.imm)
  | 0x0c#6 => .ok (.ldd w.x w.y w.imm)
  | 0x0d#6 => .ok (.stw w.x w.y w.imm)
  | 0x0e#6 => .ok (.std w.x w.y w.imm)
  | 0x0f#6 => zeros (!w.x.getLsbD 4 && w.fn == 0 && w.lo == 0) (.seta (w.x.setWidth 4) w.y w.z)
  | 0x10#6 => zeros (!w.x.getLsbD 4 && w.z == 0 && w.fn == 0 && w.lo == 0) (.setk (w.x.setWidth 4) w.y)
  | 0x11#6 => zeros (!w.y.getLsbD 4 && w.fn == 0 && w.lo == 0) (.geta w.x (w.y.setWidth 4) w.z)
  | 0x12#6 => .ok (.beq w.x w.y w.imm)
  | 0x13#6 => .ok (.bne w.x w.y w.imm)
  | 0x14#6 => .ok (.blt w.x w.y w.imm)
  | 0x15#6 => .ok (.bge w.x w.y w.imm)
  | 0x16#6 => .ok (.bltu w.x w.y w.imm)
  | 0x17#6 => .ok (.bgeu w.x w.y w.imm)
  | 0x18#6 => .ok (.j (w.x ++ (w.y ++ w.imm)))
  | 0x19#6 => .ok (.jal (w.x ++ (w.y ++ w.imm)))
  | 0x1a#6 => .ok (.jalr w.x w.y w.imm)
  | 0x1b#6 => .ok (.loopc w.x w.y w.imm)
  | 0x1c#6 => zeros (w.x == 0 && w.y == 0 && w.imm.extractLsb' 4 12 == 0) (.fork (w.imm.setWidth 4))
  | 0x1d#6 => zeros (w.x == 0 && w.y == 0 && w.imm.extractLsb' 4 12 == 0) (.rdv (w.imm.setWidth 4))
  | 0x1e#6 => zeros (w.x == 0 && w.y == 0) (.post (w.imm.extractLsb' 10 6) (w.imm.setWidth 10))
  | 0x1f#6 => zeros (w.x == 0 && w.y == 0) (.await (w.imm.extractLsb' 10 6) (w.imm.setWidth 10))
  | 0x20#6 => zeros (w.x == 0 && w.imm.extractLsb' 2 14 == 0) (.boqp w.y (w.imm.setWidth 2))
  | 0x21#6 => zeros (w.x == 0 && w.imm.extractLsb' 2 14 == 0) (.qput w.y (w.imm.setWidth 2))
  | 0x22#6 => zeros (w.fn == 0 && w.lo == 0) (.spawn w.x w.y w.z)
  | 0x23#6 => zeros (w.x == 0 && w.z == 0 && w.fn == 0 && w.lo == 0) (.jdec w.y)
  | 0x24#6 => zeros (w.x == 0 && w.y == 0 && w.imm.extractLsb' 1 15 == 0) (.texit (w.imm.getLsbD 0))
  | 0x25#6 => .ok (.bksel w.x w.y w.imm)
  | 0x26#6 => zeros (w.imm.extractLsb' 1 15 == 0) (.rclaim w.x w.y (w.imm.getLsbD 0))
  | 0x27#6 => zeros (w.z == 0 && w.fn == 0 && w.lo == 0) (.rpubl w.x w.y)
  | 0x28#6 => zeros (w.imm.extractLsb' 1 15 == 0) (.rtake w.x w.y (w.imm.getLsbD 0))
  | 0x29#6 => zeros (w.z == 0 && w.fn == 0 && w.lo == 0) (.rrels w.x w.y)
  | 0x2a#6 => zeros (w.y == 0 && w.imm.extractLsb' 7 8 == 0) (.tlrd w.x (w.imm.getLsbD 15) (w.imm.setWidth 7))
  | 0x2b#6 => if w.x == 0 && w.imm.extractLsb' 7 8 == 0 then (if w.imm.getLsbD 15 then .error 0x022 else .ok (.tlwait w.y (w.imm.setWidth 7))) else .error 0x021
  | 0x2c#6 => zeros (w.x == 0 && w.y == 0 && w.z == 0 && w.fn == 0 && w.lo == 0) (.mark)
  | 0x2d#6 => zeros (w.x == 0 && w.imm.extractLsb' 7 9 == 0) (.phmark w.y (w.imm.setWidth 7))
  | 0x2e#6 => decodeAtom w
  | 0x2f#6 => zeros (w.fn == 0 && w.lo == 0) (.aredo w.x w.y w.z)
  | 0x30#6 => zeros (w.fn == 0 && w.lo == 0) (.waita w.x w.y w.z)
  | 0x31#6 => zeros (w.z == 0 && w.fn == 0 && w.lo == 0) (.wake w.x w.y)
  | 0x32#6 => if w.imm.getLsbD 15 then zeros (w.y == 0 && w.imm.extractLsb' 4 11 == 0) (.baraGroup w.x (w.imm.setWidth 4)) else zeros (w.imm == 0) (.baraDevice w.x w.y)
  | 0x33#6 => if w.imm.getLsbD 15 then zeros (w.y == 0 && w.imm.extractLsb' 4 11 == 0) (.barwGroup w.x (w.imm.setWidth 4)) else zeros (w.imm == 0) (.barwDevice w.x w.y)
  | 0x34#6 => if w.imm.getLsbD 15 then zeros (w.y == 0 && w.imm.extractLsb' 4 11 == 0) (.barawGroup w.x (w.imm.setWidth 4)) else zeros (w.imm == 0) (.barawDevice w.x w.y)
  | 0x35#6 => zeros (w.z == 0 && w.fn == 0 && w.lo == 0) (.talloc w.x w.y)
  | 0x36#6 => zeros (w.fn == 0 && w.lo == 0) (.tseal w.x w.y w.z)
  | 0x37#6 => zeros (w.x == 0 && w.fn == 0 && w.lo == 0) (.tretire w.y w.z)
  | 0x38#6 => zeros (w.fn == 0 && w.lo == 0) (.trepl w.x w.y w.z)
  | 0x39#6 => zeros (w.fn == 0 && w.lo == 0) (.tlook w.x w.y w.z)
  | 0x3a#6 => zeros (w.fn == 0 && w.lo == 0) (.ckpt w.x w.y w.z)
  | 0x3b#6 => decodeXfer w
  | 0x3c#6 => decodeLink w
  | 0x3d#6 => decodeSys w
  | _ => .error 0x020

/-! ### Engine words -/

/-- An operand descriptor (Table 2-3); none when a zero field is nonzero. -/
def decodeDesc (d : BitVec 24) : Option Desc :=
  if d.getLsbD 23 then some (.str (d.extractLsb' 19 4) (d.extractLsb' 17 2) (d.extractLsb' 0 17))
  else if d.extractLsb' 16 7 == 0 && !d.getLsbD 7 && !(d.getLsbD 6 && d.getLsbD 5) then
    some (.reg (d.extractLsb' 8 8) (d.getLsbD 6) (d.extractLsb' 0 6))
  else none

/-- The fields of a 96-bit word (Table 2-2). -/
structure EWord where
  op : BitVec 8
  stall : BitVec 4
  pneg : Bool
  pred : BitVec 3
  fmt : BitVec 4
  rm : BitVec 2
  var : BitVec 2
  d : BitVec 24
  a : BitVec 24
  b : BitVec 24
  deriving DecidableEq, Repr

/-- The fields of 96 bits. -/
def splitE (b : BitVec 96) : EWord :=
  ⟨b.extractLsb' 88 8, b.extractLsb' 84 4, b.getLsbD 83, b.extractLsb' 80 3, b.extractLsb' 76 4, b.extractLsb' 74 2,
   b.extractLsb' 72 2, b.extractLsb' 48 24, b.extractLsb' 24 24, b.extractLsb' 0 24⟩

/-- The engine-control group (R57). -/
def opEngine (op : BitVec 8) (w : W96) : Option Instr :=
  match op with
  | 0xf0#8 => some (.engineNop w)
  | 0xf1#8 => some (.enginePost w)
  | 0xf2#8 => some (.engineAwait w)
  | 0xf3#8 => some (.engineMark w)
  | 0xf4#8 => some (.jmp w)
  | 0xf5#8 => if w.var == 1 then some (.boqbPush w) else if w.var == 2 then some (.boqbPushall w) else some (.boqb w)
  | 0xf6#8 => some (.loop w)
  | 0xf7#8 => some (.iaddi w)
  | 0xf8#8 => some (.iset w)
  | 0xf9#8 => some (.ipop w)
  | 0xfa#8 => some (.engineFence w)
  | 0xfb#8 => some (.trapx w)
  | 0xfc#8 => some (.endStream w)
  | _ => none

/-- The L opcodes (R56). -/
def opL (op : BitVec 8) (w : W96) : Option Instr :=
  match op with
  | 0x00#8 => some (.ldb w)
  | 0x01#8 => if w.var == 1 then some (.ldtTile w) else some (.ldtBuffer w)
  | 0x02#8 => some (.ldg w)
  | 0x03#8 => some (.ldz w)
  | 0x04#8 => some (.ldc w)
  | 0x05#8 => some (.ldsh w)
  | 0x06#8 => some (.lpref w)
  | 0x07#8 => some (.lwfree w)
  | 0x08#8 => some (.lpubl w)
  | _ => none

/-- The S opcodes (R56). -/
def opS (op : BitVec 8) (w : W96) : Option Instr :=
  match op with
  | 0x00#8 => some (.stb w)
  | 0x01#8 => if w.var == 1 then some (.sttTile w) else some (.sttBuffer w)
  | 0x02#8 => some (.stsc w)
  | 0x03#8 => some (.stadd w)
  | 0x04#8 => some (.staxpy w)
  | 0x05#8 => if w.var == 1 then some (.stoptAdam w) else some (.stopt w)
  | 0x06#8 => if w.var == 1 then some (.stcvtTile w) else some (.stcvt w)
  | 0x07#8 => some (.satom w)
  | 0x08#8 => some (.swfill w)
  | 0x09#8 => some (.srels w)
  | _ => none

/-- The V opcodes (R55). -/
noncomputable def opV (op : BitVec 8) (w : W96) : Option Instr :=
  match op with
  | 0x00#8 => some (.vadd w)
  | 0x01#8 => some (.vsub w)
  | 0x02#8 => some (.vmul w)
  | 0x03#8 => some (.vfma w)
  | 0x04#8 => some (.vfms w)
  | 0x05#8 => some (.vmin w)
  | 0x06#8 => some (.vmax w)
  | 0x07#8 => some (.vabs w)
  | 0x08#8 => some (.vneg w)
  | 0x09#8 => some (.vcpys w)
  | 0x0a#8 => some (.vrcp w)
  | 0x0b#8 => some (.vrsq w)
  | 0x0c#8 => some (.vsqrt w)
  | 0x0d#8 => some (.vexp2 w)
  | 0x0e#8 => some (.vlog2 w)
  | 0x0f#8 => some (.vexpd w)
  | 0x10#8 => some (.vtanh w)
  | 0x11#8 => some (.vsigm w)
  | 0x12#8 => some (.vcmpeq w)
  | 0x13#8 => some (.vcmplt w)
  | 0x14#8 => some (.vcmple w)
  | 0x15#8 => some (.vcmpun w)
  | 0x16#8 => some (.vclass w)
  | 0x40#8 => some (.viadd w)
  | 0x41#8 => some (.visub w)
  | 0x42#8 => some (.vimul w)
  | 0x43#8 => some (.vimad w)
  | 0x44#8 => some (.vand w)
  | 0x45#8 => some (.vor w)
  | 0x46#8 => some (.vxor w)
  | 0x47#8 => some (.vandn w)
  | 0x48#8 => some (.vshl w)
  | 0x49#8 => some (.vshr w)
  | 0x4a#8 => some (.vsra w)
  | 0x4b#8 => some (.vimin w)
  | 0x4c#8 => some (.vimax w)
  | 0x4d#8 => some (.viminu w)
  | 0x4e#8 => some (.vimaxu w)
  | 0x4f#8 => some (.vicmpeq w)
  | 0x50#8 => some (.vicmplt w)
  | 0x51#8 => some (.vicmpltu w)
  | 0x52#8 => some (.vpcnt w)
  | 0x53#8 => some (.vclz w)
  | 0x60#8 => some (.vcvt w)
  | 0x61#8 => some (.vqnt w)
  | 0x62#8 => some (.vdqnt w)
  | 0x63#8 => some (.vscale w)
  | 0x64#8 => some (.vpack w)
  | 0x65#8 => some (.vunpk w)
  | 0x70#8 => some (.vrsum w)
  | 0x71#8 => some (.vrmax w)
  | 0x72#8 => some (.vrmin w)
  | 0x73#8 => some (.vrarg w)
  | 0x74#8 => some (.vscan w)
  | 0x75#8 => some (.vscanx w)
  | 0x76#8 => some (.vsort w)
  | 0x77#8 => some (.vtopk w)
  | 0x78#8 => some (.vmrg w)
  | 0x79#8 => some (.vperm w)
  | 0x7a#8 => some (.vbcst w)
  | 0x7b#8 => some (.vrot w)
  | 0x7c#8 => some (.vsel w)
  | 0x7d#8 => some (.vmov w)
  | 0x7e#8 => some (.vldi w)
  | 0x7f#8 => if w.var == 1 then some (.vlaneAddress w) else some (.vlane w)
  | 0x90#8 => some (.vpushc w)
  | 0x91#8 => some (.vpopc w)
  | 0x92#8 => some (.vrebal w)
  | 0x93#8 => some (.vcount w)
  | 0xa0#8 => some (.vsred w)
  | 0xa1#8 => some (.vsscan w)
  | 0xa2#8 => some (.vsnorm w)
  | 0xa3#8 => some (.vsmask w)
  | 0xa4#8 => some (.vslen w)
  | 0xa5#8 => some (.vblz w)
  | 0xb0#8 => some (.vrng w)
  | 0xb1#8 => some (.vrngu w)
  | _ => none

/-- The M opcodes (R56). -/
def opM (op : BitVec 8) (w : W192) : Option Instr :=
  match op with
  | 0x00#8 => some (.mma w)
  | 0x01#8 => some (.mmat w)
  | 0x02#8 => some (.mmas w)
  | 0x03#8 => some (.mzero w)
  | 0x04#8 => some (.minit w)
  | 0x05#8 => if w.acc then some (.mdrainRegister w) else some (.mdrain w)
  | 0x06#8 => some (.mret w)
  | 0x07#8 => some (.mcal w)
  | 0x08#8 => some (.msetk w)
  | 0x09#8 => some (.mwide w)
  | 0x0a#8 => some (.mchk w)
  | 0x0b#8 => some (.mspill w)
  | 0x0c#8 => some (.mfill w)
  | 0x0d#8 => some (.mstat w)
  | _ => none

/-- The instruction of an opcode of an engine stream's 96-bit words. -/
noncomputable def opOf (t : Strm) (op : BitVec 8) (w : W96) : Option Instr :=
  if 0xF0 ≤ op.toNat then opEngine op w
  else match t with
    | .L => opL op w
    | .V => opV op w
    | .S => opS op w
    | _ => none

/-- A 96-bit word of a stream. -/
noncomputable def decodeE (t : Strm) (w : EWord) : Except Nat Instr :=
  match opOf t w.op ⟨w.stall, w.pneg, w.pred, w.fmt, w.rm, w.var, .reg 0 false 0, .reg 0 false 0, .reg 0 false 0⟩ with
  | none => .error 0x020
  | some _ =>
    match decodeDesc w.d, decodeDesc w.a, decodeDesc w.b with
    | some d, some a, some b =>
      match opOf t w.op ⟨w.stall, w.pneg, w.pred, w.fmt, w.rm, w.var, d, a, b⟩ with
      | some i => .ok i
      | none => .error 0x020
    | _, _, _ => .error 0x021

/-- The fields of a 192-bit matrix word (Table 2-4), with its zero field. -/
structure MWord where
  op : BitVec 8
  f : W192
  zero : BitVec 46
  deriving DecidableEq, Repr

/-- The fields of 192 bits. -/
def splitM (b : BitVec 192) : MWord :=
  { op := b.extractLsb' 184 8,
    f := { stall := b.extractLsb' 180 4, pneg := b.getLsbD 179, pred := b.extractLsb' 176 3, tile := b.extractLsb' 172 4,
           afmt := b.extractLsb' 168 4, bfmt := b.extractLsb' 164 4, asrc := b.extractLsb' 162 2, btr := b.getLsbD 161,
           acc := b.getLsbD 160, shape := b.extractLsb' 154 6, gen := b.getLsbD 153, greg := b.extractLsb' 149 4,
           gexp := b.extractLsb' 133 16, reissue := b.extractLsb' 131 2, kth := b.extractLsb' 129 2,
           areg := b.extractLsb' 125 4, aoff := b.extractLsb' 100 25, arsc := b.extractLsb' 96 4,
           breg := b.extractLsb' 92 4, boff := b.extractLsb' 67 25, geom := b.extractLsb' 64 3,
           kcount := b.extractLsb' 48 16, chk := b.getLsbD 47, retry := b.getLsbD 46 },
    zero := b.extractLsb' 0 46 }

/-- A matrix word proper. -/
def decodeM (w : MWord) : Except Nat Instr :=
  match opM w.op w.f with
  | none => .error 0x020
  | some i => if w.zero = 0 then .ok i else .error 0x021

/-- A word of the M stream: an engine-control word in bits [191:96] when the opcode says so, with bits [95:0] zero (R35). -/
noncomputable def decodeM192 (b : BitVec 192) : Except Nat Instr :=
  if 0xF0 ≤ (b.extractLsb' 184 8).toNat then
    match decodeE .M (splitE (b.extractLsb' 96 96)) with
    | .error 0x020 => .error 0x020
    | r => if b.extractLsb' 0 96 = 0 then r else .error 0x021
  else decodeM (splitM b)

/-- The decoder of a stream: the bytes of one word, lowest address first (R26), to its instruction or the decode cause. -/
noncomputable def decode (t : Strm) (bs : List Byte) : Except Nat Instr :=
  match t with
  | .C => decodeC (splitC (BitVec.ofNat 32 (Machine.leNat bs)))
  | .M => decodeM192 (BitVec.ofNat 192 (Machine.leNat bs))
  | t => decodeE t (splitE (BitVec.ofNat 96 (Machine.leNat bs)))

/-! ### The encoder -/

/-- A C.R or C.F word from its fields. -/
def mkR (maj : BitVec 6) (x y z : BitVec 5) (fn : BitVec 6) (lo : BitVec 5) : CWord := ⟨maj, x, y, z, fn, lo⟩

/-- A C.I, C.B or C.J word from its fields. -/
def mkI (maj : BitVec 6) (x y : BitVec 5) (imm : BitVec 16) : CWord :=
  ⟨maj, x, y, imm.extractLsb' 11 5, imm.extractLsb' 5 6, imm.extractLsb' 0 5⟩

/-- The 32 bits of a C word. -/
def joinC (w : CWord) : BitVec 32 := w.maj ++ (w.x ++ (w.y ++ (w.z ++ (w.fn ++ w.lo))))

/-- The fields of a C word's encoding (Tables 2-1, 2-5, 2-8, R53, R54); none for what is no C word. -/
def encodeC (i : Instr) : Option CWord :=
  match i with
  | .add d a b => some (mkR 0x0 d a b 0x0 0)
  | .sub d a b => some (mkR 0x0 d a b 0x1 0)
  | .mul d a b => some (mkR 0x0 d a b 0x2 0)
  | .mulh d a b => some (mkR 0x0 d a b 0x3 0)
  | .mulhu d a b => some (mkR 0x0 d a b 0x4 0)
  | .div d a b => some (mkR 0x0 d a b 0x5 0)
  | .divu d a b => some (mkR 0x0 d a b 0x6 0)
  | .rem d a b => some (mkR 0x0 d a b 0x7 0)
  | .remu d a b => some (mkR 0x0 d a b 0x8 0)
  | .and d a b => some (mkR 0x0 d a b 0x9 0)
  | .or d a b => some (mkR 0x0 d a b 0xa 0)
  | .xor d a b => some (mkR 0x0 d a b 0xb 0)
  | .shl d a b => some (mkR 0x0 d a b 0xc 0)
  | .shr d a b => some (mkR 0x0 d a b 0xd 0)
  | .sra d a b => some (mkR 0x0 d a b 0xe 0)
  | .min d a b => some (mkR 0x0 d a b 0xf 0)
  | .max d a b => some (mkR 0x0 d a b 0x10 0)
  | .minu d a b => some (mkR 0x0 d a b 0x11 0)
  | .maxu d a b => some (mkR 0x0 d a b 0x12 0)
  | .slt d a b => some (mkR 0x0 d a b 0x13 0)
  | .sltu d a b => some (mkR 0x0 d a b 0x14 0)
  | .seq d a b => some (mkR 0x0 d a b 0x15 0)
  | .clz d a => some (mkR 0x0 d a 0 0x16 0)
  | .popc d a => some (mkR 0x0 d a 0 0x17 0)
  | .addi d a i => some (mkI 0x1 d a i)
  | .andi d a i => some (mkI 0x2 d a i)
  | .ori d a i => some (mkI 0x3 d a i)
  | .xori d a i => some (mkI 0x4 d a i)
  | .shli d a i => some (mkI 0x5 d a (i.setWidth 16))
  | .shri d a i => some (mkI 0x6 d a (i.setWidth 16))
  | .srai d a i => some (mkI 0x7 d a (i.setWidth 16))
  | .slti d a i => some (mkI 0x8 d a i)
  | .sltiu d a i => some (mkI 0x9 d a i)
  | .lui d i => some (mkI 0xa d 0 i)
  | .ldw d a i => some (mkI 0xb d a i)
  | .ldd d a i => some (mkI 0xc d a i)
  | .stw d a i => some (mkI 0xd d a i)
  | .std d a i => some (mkI 0xe d a i)
  | .seta n a b => some (mkR 0xf (n.setWidth 5) a b 0 0)
  | .setk n a => some (mkR 0x10 (n.setWidth 5) a 0 0 0)
  | .geta d n s => some (mkR 0x11 d (n.setWidth 5) s 0 0)
  | .beq a b o => some (mkI 0x12 a b o)
  | .bne a b o => some (mkI 0x13 a b o)
  | .blt a b o => some (mkI 0x14 a b o)
  | .bge a b o => some (mkI 0x15 a b o)
  | .bltu a b o => some (mkI 0x16 a b o)
  | .bgeu a b o => some (mkI 0x17 a b o)
  | .j o => some (mkI 0x18 (o.extractLsb' 21 5) (o.extractLsb' 16 5) (o.extractLsb' 0 16))
  | .jal o => some (mkI 0x19 (o.extractLsb' 21 5) (o.extractLsb' 16 5) (o.extractLsb' 0 16))
  | .jalr d a i => some (mkI 0x1a d a i)
  | .loopc a b o => some (mkI 0x1b a b o)
  | .fork m => some (mkI 0x1c 0 0 (m.setWidth 16))
  | .rdv m => some (mkI 0x1d 0 0 (m.setWidth 16))
  | .post e n => some (mkI 0x1e 0 0 (e ++ n))
  | .await e n => some (mkI 0x1f 0 0 (e ++ n))
  | .boqp a x => some (mkI 0x20 0 a (x.setWidth 16))
  | .qput a x => some (mkI 0x21 0 a (x.setWidth 16))
  | .spawn d a b => some (mkR 0x22 d a b 0x0 0)
  | .jdec a => some (mkR 0x23 0 a 0 0x0 0)
  | .texit a => some (mkI 0x24 0 0 ((BitVec.ofBool a).setWidth 16))
  | .bksel d a i => some (mkI 0x25 d a i)
  | .rclaim d a w => some (mkI 0x26 d a ((BitVec.ofBool w).setWidth 16))
  | .rpubl d a => some (mkR 0x27 d a 0 0x0 0)
  | .rtake d a w => some (mkI 0x28 d a ((BitVec.ofBool w).setWidth 16))
  | .rrels d a => some (mkR 0x29 d a 0 0x0 0)
  | .tlrd d s c => some (mkI 0x2a d 0 (BitVec.ofBool s ++ ((0 : BitVec 8) ++ c)))
  | .tlwait a c => some (mkI 0x2b 0 a (c.setWidth 16))
  | .mark => some (mkR 0x2c 0 0 0 0x0 0)
  | .phmark a m => some (mkI 0x2d 0 a (m.setWidth 16))
  | .aadd d a b w => some (mkR 0x2e d a b 0x0 (BitVec.ofBool w ++ (0 : BitVec 4)))
  | .aaddq a b w => some (mkR 0x2e 0 a b 0x1 (BitVec.ofBool w ++ (0 : BitVec 4)))
  | .amin d a b w => some (mkR 0x2e d a b 0x2 (BitVec.ofBool w ++ (0 : BitVec 4)))
  | .aminq a b w => some (mkR 0x2e 0 a b 0x3 (BitVec.ofBool w ++ (0 : BitVec 4)))
  | .amax d a b w => some (mkR 0x2e d a b 0x4 (BitVec.ofBool w ++ (0 : BitVec 4)))
  | .amaxq a b w => some (mkR 0x2e 0 a b 0x5 (BitVec.ofBool w ++ (0 : BitVec 4)))
  | .aminu d a b w => some (mkR 0x2e d a b 0x6 (BitVec.ofBool w ++ (0 : BitVec 4)))
  | .aminuq a b w => some (mkR 0x2e 0 a b 0x7 (BitVec.ofBool w ++ (0 : BitVec 4)))
  | .amaxu d a b w => some (mkR 0x2e d a b 0x8 (BitVec.ofBool w ++ (0 : BitVec 4)))
  | .amaxuq a b w => some (mkR 0x2e 0 a b 0x9 (BitVec.ofBool w ++ (0 : BitVec 4)))
  | .aand d a b w => some (mkR 0x2e d a b 0xa (BitVec.ofBool w ++ (0 : BitVec 4)))
  | .aandq a b w => some (mkR 0x2e 0 a b 0xb (BitVec.ofBool w ++ (0 : BitVec 4)))
  | .aor d a b w => some (mkR 0x2e d a b 0xc (BitVec.ofBool w ++ (0 : BitVec 4)))
  | .aorq a b w => some (mkR 0x2e 0 a b 0xd (BitVec.ofBool w ++ (0 : BitVec 4)))
  | .axor d a b w => some (mkR 0x2e d a b 0xe (BitVec.ofBool w ++ (0 : BitVec 4)))
  | .axorq a b w => some (mkR 0x2e 0 a b 0xf (BitVec.ofBool w ++ (0 : BitVec 4)))
  | .axchg d a b w => some (mkR 0x2e d a b 0x10 (BitVec.ofBool w ++ (0 : BitVec 4)))
  | .axchgq a b w => some (mkR 0x2e 0 a b 0x11 (BitVec.ofBool w ++ (0 : BitVec 4)))
  | .acas d a b w => some (mkR 0x2e d a b 0x12 (BitVec.ofBool w ++ (0 : BitVec 4)))
  | .acasq d a b w => some (mkR 0x2e d a b 0x13 (BitVec.ofBool w ++ (0 : BitVec 4)))
  | .afadd d a b => some (mkR 0x2e d a b 0x14 0)
  | .afaddq a b => some (mkR 0x2e 0 a b 0x15 0)
  | .afmin d a b => some (mkR 0x2e d a b 0x16 0)
  | .afminq a b => some (mkR 0x2e 0 a b 0x17 0)
  | .afmax d a b => some (mkR 0x2e d a b 0x18 0)
  | .afmaxq a b => some (mkR 0x2e 0 a b 0x19 0)
  | .aredo d a b => some (mkR 0x2f d a b 0x0 0)
  | .waita d a b => some (mkR 0x30 d a b 0x0 0)
  | .wake d a => some (mkR 0x31 d a 0 0x0 0)
  | .baraDevice d a => some (mkI 0x32 d a 0)
  | .baraGroup d n => some (mkI 0x32 d 0 ((1 : BitVec 1) ++ ((0 : BitVec 11) ++ n)))
  | .barwDevice d a => some (mkI 0x33 d a 0)
  | .barwGroup d n => some (mkI 0x33 d 0 ((1 : BitVec 1) ++ ((0 : BitVec 11) ++ n)))
  | .barawDevice d a => some (mkI 0x34 d a 0)
  | .barawGroup d n => some (mkI 0x34 d 0 ((1 : BitVec 1) ++ ((0 : BitVec 11) ++ n)))
  | .talloc d a => some (mkR 0x35 d a 0 0x0 0)
  | .tseal d a b => some (mkR 0x36 d a b 0x0 0)
  | .tretire a b => some (mkR 0x37 0 a b 0x0 0)
  | .trepl d a b => some (mkR 0x38 d a b 0x0 0)
  | .tlook d a b => some (mkR 0x39 d a b 0x0 0)
  | .ckpt d a b => some (mkR 0x3a d a b 0x0 0)
  | .xcopy d a b => some (mkR 0x3b d a b 0x0 0)
  | .xcopy2 d a b => some (mkR 0x3b d a b 0x1 0)
  | .xfill d a b => some (mkR 0x3b d a b 0x2 0)
  | .xstat d b => some (mkR 0x3b d 0 b 0x3 0)
  | .lkmcst d a b => some (mkR 0x3c d a b 0x0 0)
  | .lkldred d a b => some (mkR 0x3c d a b 0x1 0)
  | .lksend d a b => some (mkR 0x3c d a b 0x2 0)
  | .cgjoin a => some (mkR 0x3c 0 a 0 0x3 0)
  | .cgleave a => some (mkR 0x3c 0 a 0 0x4 0)
  | .cgstat d a => some (mkR 0x3c d a 0 0x5 0)
  | .nop => some (mkR 0x3d 0 0 0 0x0 0)
  | .trap d => some (mkR 0x3d 0 0 d 0x1 0)
  | .eret => some (mkR 0x3d 0 0 0 0x2 0)
  | .csrr d c => some (mkR 0x3d d (c.extractLsb' 5 5) (c.extractLsb' 0 5) 0x3 0)
  | .csrw d c => some (mkR 0x3d d (c.extractLsb' 5 5) (c.extractLsb' 0 5) 0x4 0)
  | .fence f s => some (mkR 0x3d 0 f s 0x5 0)
  | .sleep a => some (mkR 0x3d 0 a 0 0x6 0)
  | .halt => some (mkR 0x3d 0 0 0 0x7 0)
  | .dlogp d => some (mkR 0x3d d 0 0 0x8 0)
  | .scrub d a => some (mkR 0x3d d a 0 0x9 0)
  | _ => none

/-- Stream, opcode and fields of a 96-bit word of L, V or S. -/
def engineOp (i : Instr) : Option (Strm × BitVec 8 × W96) :=
  match i with
  | .ldb w => some (.L, 0x00, w)
  | .ldtBuffer w => some (.L, 0x01, w)
  | .ldtTile w => some (.L, 0x01, w)
  | .ldg w => some (.L, 0x02, w)
  | .ldz w => some (.L, 0x03, w)
  | .ldc w => some (.L, 0x04, w)
  | .ldsh w => some (.L, 0x05, w)
  | .lpref w => some (.L, 0x06, w)
  | .lwfree w => some (.L, 0x07, w)
  | .lpubl w => some (.L, 0x08, w)
  | .vadd w => some (.V, 0x00, w)
  | .vsub w => some (.V, 0x01, w)
  | .vmul w => some (.V, 0x02, w)
  | .vfma w => some (.V, 0x03, w)
  | .vfms w => some (.V, 0x04, w)
  | .vmin w => some (.V, 0x05, w)
  | .vmax w => some (.V, 0x06, w)
  | .vabs w => some (.V, 0x07, w)
  | .vneg w => some (.V, 0x08, w)
  | .vcpys w => some (.V, 0x09, w)
  | .vrcp w => some (.V, 0x0a, w)
  | .vrsq w => some (.V, 0x0b, w)
  | .vsqrt w => some (.V, 0x0c, w)
  | .vexp2 w => some (.V, 0x0d, w)
  | .vlog2 w => some (.V, 0x0e, w)
  | .vexpd w => some (.V, 0x0f, w)
  | .vtanh w => some (.V, 0x10, w)
  | .vsigm w => some (.V, 0x11, w)
  | .vcmpeq w => some (.V, 0x12, w)
  | .vcmplt w => some (.V, 0x13, w)
  | .vcmple w => some (.V, 0x14, w)
  | .vcmpun w => some (.V, 0x15, w)
  | .vclass w => some (.V, 0x16, w)
  | .viadd w => some (.V, 0x40, w)
  | .visub w => some (.V, 0x41, w)
  | .vimul w => some (.V, 0x42, w)
  | .vimad w => some (.V, 0x43, w)
  | .vand w => some (.V, 0x44, w)
  | .vor w => some (.V, 0x45, w)
  | .vxor w => some (.V, 0x46, w)
  | .vandn w => some (.V, 0x47, w)
  | .vshl w => some (.V, 0x48, w)
  | .vshr w => some (.V, 0x49, w)
  | .vsra w => some (.V, 0x4a, w)
  | .vimin w => some (.V, 0x4b, w)
  | .vimax w => some (.V, 0x4c, w)
  | .viminu w => some (.V, 0x4d, w)
  | .vimaxu w => some (.V, 0x4e, w)
  | .vicmpeq w => some (.V, 0x4f, w)
  | .vicmplt w => some (.V, 0x50, w)
  | .vicmpltu w => some (.V, 0x51, w)
  | .vpcnt w => some (.V, 0x52, w)
  | .vclz w => some (.V, 0x53, w)
  | .vcvt w => some (.V, 0x60, w)
  | .vqnt w => some (.V, 0x61, w)
  | .vdqnt w => some (.V, 0x62, w)
  | .vscale w => some (.V, 0x63, w)
  | .vpack w => some (.V, 0x64, w)
  | .vunpk w => some (.V, 0x65, w)
  | .vrsum w => some (.V, 0x70, w)
  | .vrmax w => some (.V, 0x71, w)
  | .vrmin w => some (.V, 0x72, w)
  | .vrarg w => some (.V, 0x73, w)
  | .vscan w => some (.V, 0x74, w)
  | .vscanx w => some (.V, 0x75, w)
  | .vsort w => some (.V, 0x76, w)
  | .vtopk w => some (.V, 0x77, w)
  | .vmrg w => some (.V, 0x78, w)
  | .vperm w => some (.V, 0x79, w)
  | .vbcst w => some (.V, 0x7a, w)
  | .vrot w => some (.V, 0x7b, w)
  | .vsel w => some (.V, 0x7c, w)
  | .vmov w => some (.V, 0x7d, w)
  | .vldi w => some (.V, 0x7e, w)
  | .vlane w => some (.V, 0x7f, w)
  | .vlaneAddress w => some (.V, 0x7f, w)
  | .vpushc w => some (.V, 0x90, w)
  | .vpopc w => some (.V, 0x91, w)
  | .vrebal w => some (.V, 0x92, w)
  | .vcount w => some (.V, 0x93, w)
  | .vsred w => some (.V, 0xa0, w)
  | .vsscan w => some (.V, 0xa1, w)
  | .vsnorm w => some (.V, 0xa2, w)
  | .vsmask w => some (.V, 0xa3, w)
  | .vslen w => some (.V, 0xa4, w)
  | .vblz w => some (.V, 0xa5, w)
  | .vrng w => some (.V, 0xb0, w)
  | .vrngu w => some (.V, 0xb1, w)
  | .stb w => some (.S, 0x00, w)
  | .sttBuffer w => some (.S, 0x01, w)
  | .sttTile w => some (.S, 0x01, w)
  | .stsc w => some (.S, 0x02, w)
  | .stadd w => some (.S, 0x03, w)
  | .staxpy w => some (.S, 0x04, w)
  | .stopt w => some (.S, 0x05, w)
  | .stoptAdam w => some (.S, 0x05, w)
  | .stcvt w => some (.S, 0x06, w)
  | .stcvtTile w => some (.S, 0x06, w)
  | .satom w => some (.S, 0x07, w)
  | .swfill w => some (.S, 0x08, w)
  | .srels w => some (.S, 0x09, w)
  | _ => none

/-- Opcode and fields of an engine-control word. -/
def controlOp (i : Instr) : Option (BitVec 8 × W96) :=
  match i with
  | .engineNop w => some (0xf0, w)
  | .enginePost w => some (0xf1, w)
  | .engineAwait w => some (0xf2, w)
  | .engineMark w => some (0xf3, w)
  | .jmp w => some (0xf4, w)
  | .boqb w => some (0xf5, w)
  | .boqbPush w => some (0xf5, w)
  | .boqbPushall w => some (0xf5, w)
  | .loop w => some (0xf6, w)
  | .iaddi w => some (0xf7, w)
  | .iset w => some (0xf8, w)
  | .ipop w => some (0xf9, w)
  | .engineFence w => some (0xfa, w)
  | .trapx w => some (0xfb, w)
  | .endStream w => some (0xfc, w)
  | _ => none

/-- Opcode and fields of a matrix word. -/
def matrixOp (i : Instr) : Option (BitVec 8 × W192) :=
  match i with
  | .mma w => some (0x00, w)
  | .mmat w => some (0x01, w)
  | .mmas w => some (0x02, w)
  | .mzero w => some (0x03, w)
  | .minit w => some (0x04, w)
  | .mdrain w => some (0x05, w)
  | .mdrainRegister w => some (0x05, w)
  | .mret w => some (0x06, w)
  | .mcal w => some (0x07, w)
  | .msetk w => some (0x08, w)
  | .mwide w => some (0x09, w)
  | .mchk w => some (0x0a, w)
  | .mspill w => some (0x0b, w)
  | .mfill w => some (0x0c, w)
  | .mstat w => some (0x0d, w)
  | _ => none

/-- The 24 bits of an operand descriptor (Table 2-3). -/
def encodeDesc : Desc → BitVec 24
  | .reg imm8 bc r => (0 : BitVec 8) ++ (imm8 ++ ((0 : BitVec 1) ++ (BitVec.ofBool bc ++ r)))
  | .str areg post off => (1 : BitVec 1) ++ (areg ++ (post ++ off))

/-- The 96 bits of a word from its opcode and fields (Table 2-2). -/
def joinE (op : BitVec 8) (w : W96) : BitVec 96 :=
  op ++ (w.stall ++ (BitVec.ofBool w.pneg ++ (w.pred ++ (w.fmt ++ (w.rm ++ (w.var ++
    (encodeDesc w.d ++ (encodeDesc w.a ++ encodeDesc w.b))))))))

/-- The 192 bits of a matrix word (Table 2-4). -/
def joinM (op : BitVec 8) (w : W192) : BitVec 192 :=
  op ++ (w.stall ++ (BitVec.ofBool w.pneg ++ (w.pred ++ (w.tile ++ (w.afmt ++ (w.bfmt ++ (w.asrc ++ (BitVec.ofBool w.btr ++
    (BitVec.ofBool w.acc ++ (w.shape ++ (BitVec.ofBool w.gen ++ (w.greg ++ (w.gexp ++ (w.reissue ++ (w.kth ++ (w.areg ++
      (w.aoff ++ (w.arsc ++ (w.breg ++ (w.boff ++ (w.geom ++ (w.kcount ++ (BitVec.ofBool w.chk ++ (BitVec.ofBool w.retry ++
        (0 : BitVec 46)))))))))))))))))))))))))

/-- The bytes of an instruction's word in a stream, lowest address first; none where the instruction has no word there. -/
def encode (t : Strm) (i : Instr) : Option (List Byte) :=
  match t with
  | .C => (encodeC i).map (fun w => Machine.toLE 4 (joinC w).toNat)
  | .M =>
    match controlOp i with
    | some (op, w) => some (Machine.toLE 24 (joinE op w ++ (0 : BitVec 96)).toNat)
    | none => (matrixOp i).map (fun w => Machine.toLE 24 (joinM w.1 w.2).toNat)
  | t =>
    match controlOp i with
    | some (op, w) => some (Machine.toLE 12 (joinE op w).toNat)
    | none => (engineOp i).bind (fun w => if w.1 = t then some (Machine.toLE 12 (joinE w.2.1 w.2.2).toNat) else none)

/-- The streams an instruction has a word in. -/
def Instr.inStrm (t : Strm) (i : Instr) : Bool := (encode t i).isSome

/-- The instruction the decoder reads from a word whose bits are `w`: 32 bits are a C word, 192 bits an M word, 96 bits a
word of the vector stream, or of the load or the store stream where the vector stream has none. -/
noncomputable def decodeTableWord (nbits w : Nat) : Option Instr :=
  match nbits with
  | 32 => (decode .C (Machine.toLE 4 w)).toOption
  | 192 => (decode .M (Machine.toLE 24 w)).toOption
  | 96 =>
    match decode .V (Machine.toLE 12 w) with
    | .ok i => some i
    | .error _ =>
      match decode .L (Machine.toLE 12 w) with
      | .ok i => some i
      | .error _ => (decode .S (Machine.toLE 12 w)).toOption
  | _ => none

end Sys2Proof
end

