-- ==== Sys2Proof/Machine/Kernel.lean ====
section
/-! DEFINITION. Kernel images: the header, the checks of R96, R97 and R99, and the checks of a handler table (R416). -/

namespace Sys2Proof.Machine

/-- Offset and number of words of a stream's array in an image (Table 4-1). -/
def imgArray (b : List Byte) (t : Strm) : Nat × Nat := (fieldLE b (0x10 + 16 * strmNo t) 4, fieldLE b (0x14 + 16 * strmNo t) 4)

/-- The arrays of an image as (start, end) in bytes, of the streams present. -/
def imgRanges (b : List Byte) : List (Nat × Nat) :=
  (allStrms.filter (fun t => bit (fieldLE b 6 2) (strmNo t))).map (fun t => ((imgArray b t).1, (imgArray b t).1 + (imgArray b t).2 * wordLen t))

/-- Whether no two of a list of ranges share a byte. -/
def disjoint : List (Nat × Nat) → Bool
  | [] => true
  | a :: r => r.all (fun b => decide (a.2 ≤ b.1) || decide (b.2 ≤ a.1)) && disjoint r

/-- Check 1 of R99: the header under R96 and R97. -/
def headerOkImg (b : List Byte) : Bool :=
  let m := fieldLE b 6 2
  decide (128 ≤ b.length) && fieldLE b 0 4 == 0xCA940C01 && fieldLE b 4 2 == 1 && bits m 15 5 == 0 && bit m 0 &&
    fieldLE b 8 4 == b.length && decide (b.length ≤ 2 ^ 24) && fieldLE b 12 4 == 0 &&
    allStrms.all (fun t =>
      let a := imgArray b t
      fieldLE b (0x18 + 16 * strmNo t) 8 == 0 &&
        (if bit m (strmNo t) then
          a.1 % 64 == 0 && decide (128 ≤ a.1) && decide (1 ≤ a.2) && decide (a.2 ≤ (if t = .C then 1048576 else 65536)) &&
            decide (a.1 + a.2 * wordLen t ≤ b.length)
        else a.1 == 0 && a.2 == 0)) &&
    disjoint (imgRanges b)

/-- Check 2 of R99: the measurement. -/
def measOk (b : List Byte) : Bool := sha256 (splice b 0x60 (List.replicate 32 0)) == (b.drop 0x60).take 32

/-- Word n of a stream's array, decoded. -/
noncomputable def imgWord (b : List Byte) (t : Strm) (n : Nat) : Except Nat Instr :=
  decode t ((b.drop ((imgArray b t).1 + n * wordLen t)).take (wordLen t))

/-- Whether every word of every array passes a test, given its stream and position. -/
noncomputable def imgAll (b : List Byte) (f : Strm → Nat → Except Nat Instr → Bool) : Bool :=
  allStrms.all (fun t => (List.range (imgArray b t).2).all (fun n => f t n (imgWord b t n)))

/-- Check 3 of R99: every word passes the decode checks of R58. -/
noncomputable def wordsOk (b : List Byte) : Bool :=
  imgAll b (fun _ _ w => match w with
    | .ok i => i.cause == none
    | .error _ => false)

/-- The distance a C.B, C.J, JMP or LOOP word transfers by. -/
def Instr.reach? (i : Instr) : Option Int :=
  let off (w : W96) : Option Int := match w.b with
    | .str _ _ o => some o.toInt
    | .reg _ _ _ => none
  match i with
  | .beq _ _ o => some o.toInt
  | .bne _ _ o => some o.toInt
  | .blt _ _ o => some o.toInt
  | .bge _ _ o => some o.toInt
  | .bltu _ _ o => some o.toInt
  | .bgeu _ _ o => some o.toInt
  | .loopc _ _ o => some o.toInt
  | .j o => some o.toInt
  | .jal o => some o.toInt
  | .jmp w => off w
  | .loop w => off w
  | _ => none

/-- Check 4 of R99: every such target lies inside its own array. -/
noncomputable def targetsOk (b : List Byte) : Bool :=
  imgAll b (fun t n w => match w with
    | .ok i => (match Instr.reach? i with
      | some d => decide (0 ≤ (n : Int) + d) && decide ((n : Int) + d < ((imgArray b t).2 : Int))
      | none => true)
    | .error _ => false)

/-- Which of the words that end an array an instruction is: 1 TEXIT, 2 END, 3 ERET or HALT, 0 another. -/
def Instr.ending (i : Instr) : Nat :=
  match i with
  | .texit _ => 1
  | .endStream _ => 2
  | .eret => 3
  | .halt => 3
  | _ => 0

/-- Which ending the last word of an array is. -/
noncomputable def imgEnding (b : List Byte) (t : Strm) : Nat :=
  match imgWord b t ((imgArray b t).2 - 1) with
  | .ok i => Instr.ending i
  | .error _ => 0

/-- Check 5 of R99: the last words. -/
noncomputable def lastOk (b : List Byte) : Bool :=
  allStrms.all (fun t => (imgArray b t).2 == 0 || imgEnding b t == (if t = .C then 1 else 2))

/-- The number of the first check of R99 that an image fails, 0 when it passes. -/
noncomputable def verifyImage (b : List Byte) : Nat :=
  if !headerOkImg b then 1
  else if !measOk b then 2
  else if !wordsOk b then 3
  else if !targetsOk b then 4
  else if !lastOk b then 5
  else 0

/-! ### Handler tables (R416) -/

/-- Whether a range of window 0x4 is in pages that are valid, PINNED and not POISONED. -/
def State.pinned4 (s : State) (x p n : Nat) : Bool := bits p 63 60 == 4 && pinned s x p n

/-- Whether every page of a handler's data area, in window 0x4 or 0x5, is valid, PINNED and not POISONED; an empty area has none (R416). -/
def State.dataPinned (s : State) (x p n : Nat) : Bool := n == 0 || ((bits p 63 60 == 4 || bits p 63 60 == 5) && pinned s x p n)

/-- One entry of a handler table. -/
structure HEnt where
  code : Nat
  save : Nat
  data : Nat
  dlen : Nat
  zero : Nat
  deriving DecidableEq, Repr

/-- The sixteen entries of 512 bytes. -/
def handlerEnts (b : List Byte) : List HEnt :=
  (List.range 16).map (fun c =>
    let o := c * 32
    ⟨fieldLE b o 8, fieldLE b (o + 8) 8, fieldLE b (o + 16) 8, fieldLE b (o + 24) 4, fieldLE b (o + 28) 4⟩)

/-- The image of a handler, as many bytes as its header says. -/
def State.handlerImage (s : State) (x code : Nat) : List Byte :=
  let h := s.readSegs (s.segsAt x (bits code 55 0) 12)
  s.readSegs (s.segsAt x (bits code 55 0) (min (fieldLE h 8 4) (2 ^ 24)))

/-- The index of the first entry that fails a test, in ascending order. -/
def firstBad (l : List HEnt) (f : Nat → HEnt → Bool) : Option Nat :=
  ((List.range l.length).zip l).findSome? (fun e => if f e.1 e.2 then none else some e.1)

/-- The checks of R416 on a table at `base`, in their order: the index of the failing entry, none when the table passes. -/
noncomputable def State.handlerBad (s : State) (x base : Nat) : Option Nat :=
  if !(base % 4096 == 0 && s.pinned4 x base 512) then some 0
  else
    let es := handlerEnts (s.readSegs (s.segsAt x (bits base 55 0) 512))
    let lcores := (s.coresOfCtx x).foldl (fun n c => max n (c.1 + 1)) 0
    let used (f : HEnt → Bool) (_ : Nat) (e : HEnt) : Bool := e.code == 0 || f e
    let c1 := firstBad es (fun c e => e.zero == 0 && (c != 0 || (e.code == 0 && e.save == 0 && e.data == 0 && e.dlen == 0)))
    let c2 := firstBad es (used (fun e =>
      s.pinned4 x e.code 128 && s.pinned4 x e.code (s.handlerImage x e.code).length && e.save % 64 == 0 &&
        s.pinned4 x e.save (256 * lcores) && decide (e.dlen ≤ 2 ^ 24) && s.dataPinned x e.data e.dlen))
    let c3 := firstBad es (used (fun e =>
      let b := s.handlerImage x e.code
      headerOkImg b && fieldLE b 6 2 == 1 && measOk b && wordsOk b && targetsOk b))
    let c4 := firstBad es (used (fun e =>
      imgEnding (s.handlerImage x e.code) .C == 3))
    (c1.orElse (fun _ => c2)).orElse (fun _ => c3.orElse (fun _ => c4))

end Sys2Proof.Machine
end

