-- ==== Sys2Proof/Machine/Graphs.lean ====
section
/-! DEFINITION. Launch requests: the patch list and the acceptance of a launch (R327, R328). -/

namespace Sys2Proof.Machine

/-- The graph in a slot. -/
def State.graphOf (s : State) (g : Nat) : Option Graph := find? s.graphs g

/-- The state with a graph slot replaced. -/
def State.setGraph (s : State) (g : Nat) (x : Graph) : State := { s with graphs := setKey s.graphs g x }

/-- Entry i of a patch list's entries, as (offset, value), with its zero bytes. -/
def patchAt (b : List Byte) (i : Nat) : Nat × Nat × Nat := (fieldLE b (16 * i) 4, fieldLE b (16 * i + 8) 8, fieldLE b (16 * i + 4) 4)

/-- The patch list at a pointer, read through a context's translation (R327, R468): the graph slot and the patches. -/
def State.patchList (s : State) (x p : Nat) : Res (Nat × Graph × List (Nat × Nat)) := do
  checkDesc p 64 0x04D
  let h ← readVirt s x p 16
  let w := fieldLE h 0 4
  let n := fieldLE h 4 4
  need (w < 1024 ∧ n ≤ 4096 ∧ fieldLE h 8 8 = 0) 0x04D
  match s.graphOf w with
  | none => stop 0x04D
  | some g => do
    need (g.ctx = x) 0x04D
    let b ← readVirt s x (p + 16) (16 * n)
    let l := (List.range n).map (patchAt b)
    need (l.all (fun e => e.1 % 8 == 0 && decide (e.1 < g.psize) && e.2.2 == 0)) 0x04D
    .ok (w, g, l.map (fun e => (e.1, e.2.1)))

/-- Acceptance of a launch (R328): its dependency entries are reserved. Its patch list is read by an access of the context (R13). -/
def State.acceptLaunch (s : State) (x p : Nat) : Res State := do
  let (w, g, l) ← s.patchList x p
  match s.freeEntries g.recs.length with
  | none => stop 0x14A
  | some es => do
    need (g.launches.length < 16) 0x149
    let n : Launch := { patches := l, entries := es, started := false }
    let s := s.touch x ((s.segsAt x (bits p 55 0) (16 + 16 * l.length)).filterMap (fun c => homeDie c.pa))
    .ok (s.setGraph w { g with launches := g.launches ++ [n] })

end Sys2Proof.Machine
end

