-- ==== Sys2Proof/Machine/Health.lean ====
section
/-! DEFINITION. The measurement log and the firmware image (R443, R444, R446). -/

namespace Sys2Proof.Machine

/-- The 48 bytes of a log entry. -/
def MEntry.bytes (e : MEntry) : List Byte := toLE 4 e.type ++ toLE 4 e.index ++ toLE 8 e.detail ++ e.digest

/-- An entry of the measurement log: the chain covers it, and the last 65,536 are kept (R446). -/
def State.measure (s : State) (type detail : Nat) (digest : List Byte) : State :=
  let e : MEntry := { type := type, index := s.dev.mcount, detail := detail, digest := digest }
  { s with dev := { s.dev with mlog := (s.dev.mlog ++ [e]).drop (s.dev.mlog.length - 65535), chain := sha256 (s.dev.chain ++ e.bytes),
                               mcount := s.dev.mcount + 1 } }

/-- The images of a handler table measured at its installation. -/
def State.measureHandlers (s : State) (x base : Nat) : State :=
  s.forEach (handlerEnts (s.readSegs (s.segsAt x (bits base 55 0) 512))) (fun e s =>
    if e.code = 0 then s else s.measure 3 x (sha256 (s.handlerImage x e.code)))

/-- The dies from which the checks of HNDB have read a handler table and the images it names (R13, R416). -/
def State.touchHandlers (s : State) (x base : Nat) : State :=
  let es := (handlerEnts (s.readSegs (s.segsAt x (bits base 55 0) 512))).filter (fun e => e.code != 0)
  s.touch x ((s.segsAt x (bits base 55 0) 512 ++ es.flatMap (fun e => s.segsAt x (bits e.code 55 0) (s.handlerImage x e.code).length)).filterMap
    (fun g => homeDie g.pa))

/-- The signed part of a firmware image (Table 20-1). -/
def fwSigned (b : List Byte) : List Byte := b.take (64 + fieldLE b 8 4)

/-- Steps 1 to 3 of R444: header, signature, version. -/
def fwOk (minfw : Nat) (b : List Byte) : Bool :=
  let n := fieldLE b 8 4
  fieldLE b 0 4 == 0xCA94F001 && zeroBytes b 12 52 && decide (64 ≤ n) && decide (n ≤ 64 * 2 ^ 20) && n % 64 == 0 &&
    b.length == 128 + n && ecdsaVerify Config.firmwareKey (sha256 (fwSigned b)) ((b.drop (64 + n)).take 64) && decide (minfw ≤ fieldLE b 4 4)

end Sys2Proof.Machine
end

