-- ==== Sys2Proof/Machine/Csr.lean ====
section
/-! DEFINITION. The control and status registers as the C stream reads and writes them, with the registers whose writes act
(R50, R105, R205, R225, R273, R320, R328, R334, R339 to R342, R365, R383, R392, R411 to R413, R416, R421, R440). -/

namespace Sys2Proof.Machine

/-! ### Reading -/

/-- STRMS (Table 4-5). -/
def CoreSt.strms (c : CoreSt) : Nat :=
  let f (g : StreamSt → Bool) : Nat := (g c.lS).toNat + 2 * (g c.vS).toNat + 4 * (g c.mS).toNat + 8 * (g c.sS).toNat
  f (fun m => m.run) + f (fun m => !m.pq.isEmpty) * 2 ^ 12 + f (fun m => !m.boq.isEmpty) * 2 ^ 16

/-- CPRED (Table 4-4): the predicates of the C stream as single bits. -/
def CoreSt.cpred (c : CoreSt) : Nat := (List.range 8).foldl (fun n k => n + ((c.cS.preg k).getLsbD 0).toNat * 2 ^ k) 0

/-- The number of a ring state. -/
def ringStNo : RingState → Nat
  | .disabled => 0
  | .active => 1
  | .draining => 2
  | .faulted => 3

/-- RINGCF of a ring (Table 12-6). -/
def Ring.cf (r : Ring) : Nat :=
  r.base + r.slotsz * 2 ^ 32 + r.logn * 2 ^ 44 + ringStNo r.st * 2 ^ 48 + diff32 r.t r.q * 2 ^ 55

/-- RINGIX of a ring (Table 12-7). -/
def Ring.ix (r : Ring) : Nat := r.h + r.t * 2 ^ 32

/-- Whether a CSR is one register of the context (Table 18-9). -/
def csrOfCtx (n : Nat) : Bool :=
  (decide (0x300 ≤ n) && decide (n ≤ 0x303)) || n == 0x3DD || n == 0x3E8 || n == 0x3E9 || (decide (0x3F1 ≤ n) && decide (n ≤ 0x3F6))

/-- The value a read of CSR n returns on the current core. -/
def State.csrRead (s : State) (n : Nat) : Word :=
  if n = 0x013 then BitVec.ofNat 64 s.core.strms
  else if n = 0x015 then BitVec.ofNat 64 s.core.cpred
  else if 0x3A0 ≤ n ∧ n ≤ 0x3AF then BitVec.ofNat 64 (s.core.ring (n - 0x3A0)).cf
  else if 0x3B0 ≤ n ∧ n ≤ 0x3BF then BitVec.ofNat 64 (s.core.ring (n - 0x3B0)).ix
  else if n = 0x3EA ∨ n = 0x3F0 then 0
  else if csrOfCtx n then s.ctx.csr n
  else s.core.csr n

/-- CSRR; a read of DLOGW acquires (R340). -/
def execCsrr (d : Reg) (c : BitVec 10) (s : State) : Host.Outcome State Fault Refusal :=
  finish false (do
    need (csrExists c.toNat) 0x024
    let v := s.csrRead c.toNat
    let s := if c.toNat = 0x3F4 then s.setC s.c.acquire else s
    s.wr d v) s

/-! ### Writes that act -/

/-- The state with a CSR of the context set. -/
def State.setCtxCsr (s : State) (n : Nat) (v : Word) : State := s.setCtxOf s.ctxNo (s.ctx.setCsr n v)

/-- A write of RINGCF (R320, Table 12-8). -/
def State.writeRing (s : State) (n : Nat) (v : Word) : Res State :=
  let r := s.core.ring n
  let w := v.toNat
  let k : Ring := { r with logn := bits w 47 44, slotsz := bits w 43 32, base := bits w 14 0 }
  let same := k == r
  let fits := decide (k.base * 64 + 2 ^ k.logn * k.slotsz * 64 ≤ 0x200000) && decide (1 ≤ k.slotsz) && decide (k.logn ≤ 8)
  let out (r : Ring) : Res State := .ok (s.setCore (s.core.moveRing n r))
  match r.st, bits w 49 48 with
  | .disabled, 0 => out k
  | .disabled, 1 => if fits then out { k with st := .active, t := 0, h := 0, q := 0, tags := [] } else stop 0x049
  | .active, 2 => if same then out ({ r with st := .draining } : Ring).settled else stop 0x049
  | .active, 0 => if same ∧ r.t = r.q then out { r with st := .disabled } else stop 0x049
  | .faulted, 0 => if same then out { r with st := .disabled } else stop 0x049
  | _, _ => stop 0x049

/-- A write of TRIGGER (R328): a device-scope release that requests a launch. -/
def State.writeTrigger (s : State) (v : Word) : Res State := do
  await (s.released 3)
  s.acceptLaunch s.ctxNo v.toNat

/-- The range a write of TLBIVA names: window, first byte, size; none for every translation; 0x022 when Table 15-6 is
broken. -/
def tlbivaRangeOf (v : Nat) : Res (Option (Nat × Nat × Nat)) :=
  let w := bits v 63 60
  let pg := bits v 59 16 * 65536
  if bits v 15 2 ≠ 0 then stop 0x022
  else if v % 4 = 3 then .ok none
  else
    let size := if v % 4 = 0 then 2 ^ 16 else if v % 4 = 1 then 2 ^ 21 else 2 ^ 31
    if (w ≠ 4 ∧ w ≠ 5 ∧ w ≠ 7) ∨ (w ≠ 7 ∧ bits v 59 56 ≠ 0) ∨ pg % size ≠ 0 then stop 0x022 else .ok (some (w, pg, size))

/-- Whether a range that TLBIVA names (none: everything) holds one of the `n` bytes at a generic pointer. -/
def inTlbiva (r : Option (Nat × Nat × Nat)) (p n : Nat) : Bool :=
  match r with
  | none => true
  | some (w, b, k) => bits p 63 60 == w && decide (bits p 59 0 < b + k) && decide (b < bits p 59 0 + n)

/-- Whether a place holds a translated address of a range. -/
def Place.holds (r : Option (Nat × Nat × Nat)) : Place → Bool
  | .phys p g => inTlbiva r p ((g.map (fun c => c.len)).sum)
  | _ => false

/-- Whether some word of the context holds a translation in a range: an access in flight (R131). A matrix step in progress translates each
row as it comes to it, and is stopped or done between two moves (R198). -/
def State.holdsAddrs (s : State) (x : Nat) (r : Option (Nat × Nat × Nat)) : Bool :=
  (s.coresOfCtx x).any (fun c => allStrms.any (fun t =>
    let m := (s.coreOf c.2).strm t
    m.stores.any (fun e => e.elems.any (fun y => y.place.holds r)) || m.loads.any (fun e => e.sources.any (fun y => y.1.holds r))))

/-- The waits of a context's WAITA words whose doubleword was translated in a range stop: each word starts again, and translates its address anew
(R104, R306, R365). -/
def State.stopWaits (s : State) (x : Nat) (r : Option (Nat × Nat × Nat)) : State :=
  let hit (w : WaitEnt) : Bool := w.ctx == x && inTlbiva r w.ptr 8
  let ks := (List.range 4).flatMap (fun d => ((s.dieOf d).waits.filter hit).map (fun w => w.core))
  let s := s.forN 4 (fun d s => if (s.dieOf d).waits.any hit then s.setDieOf d { s.dieOf d with waits := (s.dieOf d).waits.filter (fun w => !hit w) } else s)
  s.forEach (s.coresOfCtx x) (fun c s =>
    let k := s.coreOf c.2
    let out : Bool := match k.wait with
      | .table => ks.contains c.2
      | .poll w => hit w
      | _ => false
    if out then s.setCoreOf c.2 { k with wait := .none } else s)

/-- A write of TLBIVA (R365): the context's translations that overlap the range leave every TLB, once no access in flight uses one. -/
def State.writeTlbiva (s : State) (v : Word) : Res State := do
  let r ← tlbivaRangeOf v.toNat
  await (s.released 3)
  await (!s.holdsAddrs s.ctxNo r)
  .ok ((s.stopWaits s.ctxNo r).dropTlb s.ctxNo r)

/-- A write of HNDB (R416): 0 removes every handler, a pointer installs a table once it has passed its checks. -/
noncomputable def State.writeHndb (s : State) (v : Word) : Res State :=
  if (s.coresOfCtx s.ctxNo).any (fun c => (s.coreOf c.2).hand.isSome) then stop 0x043
  else if v = 0 then .ok (s.setCtxCsr 0x301 0)
  else do
    await (s.released 3)
    match s.handlerBad s.ctxNo v.toNat with
    | none => .ok (((s.setCtxCsr 0x301 v).measureHandlers s.ctxNo v.toNat).touchHandlers s.ctxNo v.toNat)
    | some i => .error (.cause 0x043 0 i)

/-- The bound of R339 on DLOGW and DLOGR. -/
def logFits (w r lg : Nat) : Bool := decide (r ≤ w) && decide (w - r ≤ 2 ^ lg)

/-- A write of DLOGB, DLOGC, DLOGW or DLOGR (R339). MODE leaves 00 only with a ring that is aligned and whose pages are PINNED (R361); the
refusal is that of a bad write of these registers. -/
def State.writeDlog (s : State) (n : Nat) (v : Word) : Res State :=
  let c := (s.ctx.csr 0x3F3).toNat
  let w := (s.ctx.csr 0x3F4).toNat
  let r := (s.ctx.csr 0x3F5).toNat
  let lg := bits c 15 8
  match n with
  | 0x3F2 => if c % 4 ≠ 0 ∧ v ≠ s.ctx.csr 0x3F2 then stop 0x022 else .ok (s.setCtxCsr n v)
  | 0x3F3 =>
    let l := bits v.toNat 15 8
    let b := (s.ctx.csr 0x3F2).toNat
    if v.toNat % 4 = 3 ∨ l < 8 ∨ 24 < l ∨ (c % 4 ≠ 0 ∧ l ≠ lg) ∨ !logFits w r l ∨
        (c % 4 = 0 ∧ v.toNat % 4 ≠ 0 ∧ !(bits b 63 60 == 4 && b % 4096 == 0 && pinned s s.ctxNo b (2 ^ l * 32))) then stop 0x022
    else .ok (s.setCtxCsr n (v &&& 0xFF07#64))
  | 0x3F4 => if logFits v.toNat r lg then .ok (s.setCtxCsr n v) else stop 0x022
  | _ => if logFits w v.toNat lg then .ok (s.setCtxCsr n v) else stop 0x022

/-- What a write of KTH stores (R225). -/
def kthStored (v : Word) : Word :=
  let x : W32 := v.setWidth 32
  if x.msb ∨ (bits x.toNat 30 23 = 255 ∧ bits x.toNat 22 0 ≠ 0) then v &&& 0x100000000#64 else v &&& 0x1FFFFFFFF#64

/-- What a write of LKSTAT leaves: VALID and MORE are cleared by ones, and with VALID clear the record of the word reads 0 (R440, R465:
after the program's CSRW, LKSTAT reads 0). -/
def lkstatStored (old v : Word) : Word :=
  let w := old &&& ~~~(v &&& 0xC000000000000000#64)
  if w.getLsbD 63 then w else w &&& 0x4000000000000000#64

/-- What a write of REDLIM stores (R205). -/
def redlimStored (v : Word) : Word :=
  let l := v.toNat % 128
  BitVec.ofNat 64 (if l = 0 then 1 else min l 64)

/-- The bits of a plain CSR that a write stores; the others are read-only or reserved (R6). -/
def csrMask (n : Nat) : Word :=
  if n = 0x014 ∨ n = 0x303 ∨ n = 0x3C0 ∨ n = 0x3D1 ∨ n = 0x3DA then BitVec.allOnes 64
  else if n = 0x300 then 1
  else if n = 0x3C1 ∨ (0x3C8 ≤ n ∧ n ≤ 0x3D0) ∨ n = 0x3DD then 0xFFFFFFFF
  else if n = 0x3DC ∨ n = 0x3F1 then 0xFF
  else 0

/-- The state after a write of CSR n on the current core. -/
noncomputable def State.csrWrite (s : State) (n : Nat) (v : Word) : Res State :=
  if n = 0x015 then
    .ok (s.setC ((List.range' 1 7).foldl (fun m k => m.setPreg k (if v.getLsbD k then 1 else 0)) s.c))
  else if n = 0x301 then s.writeHndb v
  else if n = 0x30C then .ok (if s.core.hand.isSome then s.setCore (s.core.setCsr n v) else s)
  else if 0x3A0 ≤ n ∧ n ≤ 0x3AF then s.writeRing (n - 0x3A0) v
  else if n = 0x3D8 then .ok (s.setCore (s.core.setCsr n (redlimStored v)))
  else if 0x3E0 ≤ n ∧ n ≤ 0x3E3 then .ok (s.setCore (s.core.setCsr n (kthStored v)))
  else if n = 0x3EA then s.writeTlbiva v
  else if n = 0x3F0 then s.writeTrigger v
  else if 0x3F2 ≤ n ∧ n ≤ 0x3F5 then s.writeDlog n v
  else if n = 0x3F8 then .ok (s.setCore (s.core.setCsr n (lkstatStored (s.core.csr n) v)))
  else
    let m := csrMask n
    if m = 0 then .ok s
    else if csrOfCtx n then .ok (s.setCtxCsr n ((s.ctx.csr n &&& ~~~m) ||| (v &&& m)))
    else .ok (s.setCore (s.core.setCsr n ((s.core.csr n &&& ~~~m) ||| (v &&& m))))

/-- A CSRW word. -/
noncomputable def csrw (d : Reg) (n : Nat) (s : State) : Host.Outcome State Fault Refusal :=
  finish false (do
    need (csrExists n) 0x024
    let v ← s.rd d
    s.csrWrite n v) s

/-- CSRW. -/
noncomputable def execCsrw (d : Reg) (c : BitVec 10) (s : State) : Host.Outcome State Fault Refusal := csrw d c.toNat s

/-! ### The forms of CSRW that the opcode table lists apart -/

/-- A CSRW whose register value is of the kind an action names; with another value the action does not happen. -/
noncomputable def csrwWhen (d : Reg) (n : Nat) (f : Nat → Bool) (s : State) : Host.Outcome State Fault Refusal :=
  if f (s.core.sreg d).toNat then csrw d n s else .next s

/-- CSRW TRIGGER. -/
noncomputable def execTrigger (d : Reg) (s : State) : Host.Outcome State Fault Refusal := csrw d 0x3F0 s

/-- CSRW TLBIVA with a range. -/
noncomputable def execTlbivaRange (d : Reg) (s : State) : Host.Outcome State Fault Refusal := csrwWhen d 0x3EA (fun v => v % 4 != 3) s

/-- CSRW TLBIVA with SIZE 11. -/
noncomputable def execTlbivaAll (d : Reg) (s : State) : Host.Outcome State Fault Refusal := csrwWhen d 0x3EA (fun v => v % 4 == 3) s

/-- CSRW HNDB with a table. -/
noncomputable def execHndbInstall (d : Reg) (s : State) : Host.Outcome State Fault Refusal := csrwWhen d 0x301 (fun v => v != 0) s

/-- CSRW HNDB with 0. -/
noncomputable def execHndbRemove (d : Reg) (s : State) : Host.Outcome State Fault Refusal := csrwWhen d 0x301 (fun v => v == 0) s

/-- CSRW RINGCF with STATE 01. -/
noncomputable def execRingcfEnable (r : BitVec 4) (d : Reg) (s : State) : Host.Outcome State Fault Refusal :=
  csrwWhen d (0x3A0 + r.toNat) (fun v => bits v 49 48 == 1) s

/-- CSRW RINGCF with STATE 00 on a DISABLED ring. -/
noncomputable def execRingcfConfigure (r : BitVec 4) (d : Reg) (s : State) : Host.Outcome State Fault Refusal :=
  csrwWhen d (0x3A0 + r.toNat) (fun v => bits v 49 48 == 0 && (s.core.ring r.toNat).st == .disabled) s

/-- CSRW RINGCF with STATE 10. -/
noncomputable def execRingcfDrain (r : BitVec 4) (d : Reg) (s : State) : Host.Outcome State Fault Refusal :=
  csrwWhen d (0x3A0 + r.toNat) (fun v => bits v 49 48 == 2) s

/-- CSRW RINGCF with STATE 00 on a ring that is not DISABLED. -/
noncomputable def execRingcfDisable (r : BitVec 4) (d : Reg) (s : State) : Host.Outcome State Fault Refusal :=
  csrwWhen d (0x3A0 + r.toNat) (fun v => bits v 49 48 == 0 && (s.core.ring r.toNat).st != .disabled) s

/-- CSRW DLOGC with MODE 01. -/
noncomputable def execDlogcRecord (d : Reg) (s : State) : Host.Outcome State Fault Refusal := csrwWhen d 0x3F3 (fun v => v % 4 == 1) s

/-- CSRW DLOGC with MODE 10. -/
noncomputable def execDlogcReplay (d : Reg) (s : State) : Host.Outcome State Fault Refusal := csrwWhen d 0x3F3 (fun v => v % 4 == 2) s

/-- CSRW DLOGC with MODE 00. -/
noncomputable def execDlogcOff (d : Reg) (s : State) : Host.Outcome State Fault Refusal := csrwWhen d 0x3F3 (fun v => v % 4 == 0) s

/-- CSRW KTH. -/
noncomputable def execKthWrite (n : BitVec 2) (d : Reg) (s : State) : Host.Outcome State Fault Refusal := csrw d (0x3E0 + n.toNat) s

/-- CSRW REDLIM. -/
noncomputable def execRedlimWrite (d : Reg) (s : State) : Host.Outcome State Fault Refusal := csrw d 0x3D8 s

/-- CSRW DLOGR. -/
noncomputable def execDlogrWrite (d : Reg) (s : State) : Host.Outcome State Fault Refusal := csrw d 0x3F5 s

/-- CSRW DLOGW. -/
noncomputable def execDlogwWrite (d : Reg) (s : State) : Host.Outcome State Fault Refusal := csrw d 0x3F4 s

/-- DLOGP (R340). -/
def execDlogp (d : Reg) (s : State) : Host.Outcome State Fault Refusal :=
  finish false (s.wr d (match (s.ctx.csr 0x3F3).toNat % 4 with
    | 1 => s.ctx.csr 0x3F4
    | 2 => s.ctx.csr 0x3F5
    | _ => 0)) s

end Sys2Proof.Machine
end

