-- ==== Sys2Proof/Machine/Load.lean ====
section
/-! DEFINITION. The load stream (R132 to R135, R141 to R147, R240 to R246). -/

namespace Sys2Proof.Machine

/-! ### Block words -/

/-- The address registers a word names. -/
def aregReads (ds : List Desc) : Mask → List Rg := fun _ => descRegs ds

/-- The reads of a word whose rows a shape slot bounds: i0 too (R133). -/
def blockReads (w : W96) : Mask → List Rg := fun _ =>
  (if w.b.num = 0 then [] else [rg 2 0]) ++ descRegs [w.d, w.a]

/-- The rows of a word that are read, by tensor row, and those that are padding (R133), with the padding value and the spare
value of the slot. -/
def State.rowPlan (s : State) (src : Blk) (m n : Nat) : Res (List (Option Nat) × W32 × W32) :=
  if m = 0 then .ok ((List.range n).map some, 0, nan32)
  else do
    await (!s.core.shaping m)
    let r ← s.slotRec m
    let t0 := ((s.sm .L).ireg 0).toNat
    let ts := (List.range n).map (fun j => t0 + j)
    if bit r.mode 2 then
      match ts.find? (fun t => crosses r.tab t0 t) with
      | some t => .error (.at 0x0C0 (rowPtr src.reg src.off src.fmt t) 0 (128 * (t - t0)))
      | none => .ok (ts.map some, r.pad, r.spare)
    else .ok (ts.map (fun t => if crosses r.tab t0 t then none else some t), r.pad, r.spare)

/-- The rows of a block load checked in ascending order, source before destination. -/
def State.loadRows (s : State) (src dst : Blk) (wins : List Nat) (l : List (Option Nat)) : Res (List LoadRow) :=
  ((List.range l.length).zip l).mapM (fun e => do
    let a ← match e.2 with
      | some t => (s.blkRow src wins false 0 t).map (fun t => some t.place)
      | none => .ok none
    let d ← s.blkRow dst [1, 2] true 1 e.1
    .ok ⟨a, d.place⟩)

/-- A load of an L word enters the load queue with the next TLL number. -/
def State.enterLoad (s : State) (f : LoadFin) (ds : List Nat) : State :=
  let s := s.touch s.ctxNo ds
  s.setSm .L ((s.sm .L).pushLoad ((s.sm .L).issued + 1) (s.sm .L).pc f)

/-- The dies of the sources of rows. -/
def rowDies (l : List LoadRow) : List Nat := l.flatMap (fun r => match r.src with
  | some p => p.dies
  | none => [])

/-- A row of 128 elements of one code. -/
def codeRow (f code : Nat) : List Byte := packElems f (List.replicate 128 (code % 2 ^ fmtBits f))

/-- LDB (R141). -/
def execLdb (w : W96) (s : State) : Host.Outcome State Fault Refusal :=
  engine .L (hd96 w) (blockReads w) (State.wantSlot .L w.b.num)
    (fun _ s => do
      await (s.sm .L).ldReady
      let f := w.fmt.toNat
      let src := s.blk .L w.a f
      let (l, pad, _) ← s.rowPlan src w.b.num w.b.imm
      let rows ← s.loadRows src (s.blk .L w.d f) [4, 5, 6] l
      .ok { s := s.enterLoad (.rows f .copy (codeRow f pad.toNat) rows) (rowDies rows),
            res := postUpdates s.core .L [w.d, w.a], opened := true }) s

/-- LDC (R141): `rm` rounds; the padding value is an element of the word's format, converted like the others. -/
def execLdc (w : W96) (s : State) : Host.Outcome State Fault Refusal :=
  engine .L (hd96 w) (blockReads w) (State.wantSlot .L w.b.num)
    (fun _ s => do
      await (s.sm .L).ldReady
      let f := w.fmt.toNat
      let g := w.var.toNat
      let src := s.blk .L w.a f
      let (l, pad, spare) ← s.rowPlan src w.b.num w.b.imm
      let rows ← s.loadRows src (s.blk .L w.d g) [4, 5, 6] l
      let p := (convElem f g w.rm.toNat spare (pad.toNat % 2 ^ fmtBits f)).code
      .ok { s := s.enterLoad (.rows g (.conv f g w.rm.toNat spare) (codeRow g p) rows) (rowDies rows),
            res := postUpdates s.core .L [w.d, w.a], opened := true }) s

/-- LDZ (R141). -/
def execLdz (w : W96) (s : State) : Host.Outcome State Fault Refusal :=
  engine .L (hd96 w) (aregReads [w.d]) id
    (fun _ s => do
      let f := w.fmt.toNat
      let ds ← s.blkRows (s.blk .L w.d f) [1, 2] true 1 (List.range w.b.imm)
      let v := (s.core.sreg (BitVec.ofNat 5 w.a.num)).toNat
      .ok { s := s.enterLoad (.fill f (codeRow f v) (ds.map (fun t => t.place))) [],
            res := postUpdates s.core .L [w.d], opened := true }) s

/-- LPREF (R146): nothing visible happens but the post-update. -/
def execLpref (w : W96) (s : State) : Host.Outcome State Fault Refusal :=
  engine .L (hd96 w) (aregReads [w.a]) id (fun _ s => .ok { s := s, res := postUpdates s.core .L [w.a] }) s

/-! ### Gather (R144) -/

/-- The pointer of lane i's element: one element each, scaled by the element size (R144, R152). -/
def lanePtr (a : AReg) (off : Int) (f : Nat) (idx : W32) : Nat :=
  wrap64 ((a.base.toNat : Int) + (off + idx.toInt) * (fmtBits f : Int) / 8)

/-- The lanes of an indexed operand of elements of format `f`, in ascending order, each checked whole before the next: its access, and what `k` adds.
`acc` asks for the access, but for its alignment. -/
def State.laneEach {α : Type} (s : State) (t : Strm) (d : Desc) (f : Nat) (acc : Acc) (m : Mask) (idx : Vec) (k : Nat → Tgt → Res α) :
    Res (List α) :=
  match d with
  | .str n _ o =>
    let a := s.core.aregOf t n.toNat
    (pick m 0 idx).mapM (fun e => do
      let p := lanePtr a o.toInt f e.2
      let g ← atElem e.1 p (8 * elemSize f) (access s s.cur { acc with align := strAlign (o.toInt + e.2.toInt) f } (some a) p)
      k e.1 g)
  | .reg _ _ _ => .ok []

/-- The lanes of an indexed operand checked in ascending order. -/
def State.laneTgts (s : State) (t : Strm) (d : Desc) (f : Nat) (wins : List Nat) (wr : Bool) (m : Mask) (idx : Vec) :
    Res (List (Nat × Tgt)) :=
  s.laneEach t d f ⟨wins, none, elemSize f, 1, wr, 5⟩ m idx (fun i g => .ok (i, g))

/-- Whether a gather in flight still has to write vector register n. -/
def StreamSt.gathers (m : StreamSt) (n : Nat) : Bool := m.loads.any (fun e => match e.fin with
  | .gather _ d _ _ _ => d.toNat == n
  | _ => false)

/-- LDG (R144). Its index register is interlocked with the gathers before it (R43). -/
def execLdg (w : W96) (s : State) : Host.Outcome State Fault Refusal :=
  engine .L (hd96 w) (aregReads [w.a]) (State.wantSlot .L w.b.imm)
    (fun m s => do
      await ((s.sm .L).ldReady && !(s.sm .L).gathers w.b.num && !s.core.shaping w.b.imm)
      let f := w.fmt.toNat
      let sp ← (s.spareOf w.b.imm).map (fun x => if f = 3 then x else nan32)
      let g ← s.laneTgts .L w.a f [4, 5, 6] false m (s.core.vregNew w.b.num)
      .ok { s := s.enterLoad (.gather f (BitVec.ofNat 6 w.d.num) m sp (g.map (fun e => (e.1, e.2.place)))) (diesOf (g.map (fun e => e.2))),
            res := postUpdates s.core .L [w.a], opened := true }) s

/-! ### Tiles (R142, R143) -/

/-- The scalar register a broadcast names. -/
def State.bcReg (s : State) (d : Desc) : Nat := (s.core.sreg (BitVec.ofNat 5 d.num)).toNat

/-- Where the data of the version lie that an LDT reads now, in its elements' format, with the segments of its header unit (R142). -/
def State.tilePlace (s : State) (core h v fmt : Nat) : Res (Place × List Seg) := do
  let x := s.ctxNoOf core
  let (_, n, t, f) ← s.sealedVer x h v fmt
  let a := t.frameAddr n v f
  let d ← xlate s (.core core) x 4 a.1 (fmtBytes fmt 16384) false 0
  let u ← xlate s (.core core) x 4 a.2 256 false 0
  .ok (.phys (4 * 2 ^ 60 + a.1) (d.map (fun c => c.seg)), u.map (fun c => c.seg))

/-- Free bytes over a list of places of the current core's buffers: what a failed check leaves there (R143). Tags and kept
sums stay. -/
def State.scribble (s : State) (n : Nat) (ds : List Place) : State :=
  s.forEach ds (fun p s =>
    let (b, s) := s.freeBytes n
    let c := s.core
    match p with
    | .wbuf o => s.setCore ({ c with wbuf := setBytes c.wbuf o b }.unfreeze true o n)
    | .abuf o => s.setCore ({ c with abuf := setBytes c.abuf o b }.unfreeze false o n)
    | _ => s)

/-- What an LDT leaves whose check fails (R143): its destination unspecified, the version LOST, event 0x001 reported. -/
def State.tileFail (s : State) (fmt h v : Nat) (dsts : List Place) (reg : Option Nat) : State :=
  let s := s.scribble (fmtBytes fmt 128) dsts
  let s := match reg with
    | some k =>
      let rows := (List.range 128).map (fun i => (List.range 128).map (fun j => (Config.freeWord (s.fresh + i * 128 + j)).setWidth 32))
      { s with fresh := s.fresh + 16384 }.setCore (s.core.setTile k ((s.core.tile k).setRows rows).keepSums)
    | none => s
  match s.handleSlot s.ctxNo h with
  | some (p, n, _) => (s.loseVer s.ctxNo p n v).inform s.ctxNo s.cur 1
  | none => s

/-- The destination rows of an LDT to a buffer. -/
def State.ldtRows (s : State) (w : W96) : Res (List Tgt) :=
  s.blkRows (s.blk .L w.d w.fmt.toNat) [1, 2] true 1 (List.range 128)

/-- An LDT enters the load queue (R127, R142); one whose version is LOST or REBUILDING waits first. -/
def State.enterTile (s : State) (w : W96) (dsts : List Place) (reg : Option Nat) : Res State := do
  await (s.sm .L).ldReady
  let h := s.bcReg w.a
  let v := s.bcReg w.b % 2 ^ 32
  let (p, u) ← s.tilePlace s.cur h v w.fmt.toNat
  .ok (s.enterLoad (.tile w.fmt.toNat p h v dsts reg) ((p.segs ++ u).filterMap (fun c => homeDie c.pa)))

/-- LDT with var 00 (R142). Its destination rows are checked before the
handle, the format and the version's state: R142 gives no order, and the model takes that of the operands' addresses first (log entry 24). -/
def execLdtBuffer (w : W96) (s : State) : Host.Outcome State Fault Refusal :=
  engine .L (hd96 w) (aregReads [w.d]) (fun s => s.noteVer .L (s.bcReg w.a) (s.bcReg w.b % 2 ^ 32))
    (fun _ s => do
      let ds ← s.ldtRows w
      let t ← s.enterTile w (ds.map (fun t => t.place)) none
      .ok { s := t, res := postUpdates s.core .L [w.d], opened := true }) s

/-- LDT with var 01 (R142): it waits while the tile's F bit is set. -/
def execLdtTile (w : W96) (s : State) : Host.Outcome State Fault Refusal :=
  engine .L (hd96 w) (fun _ => []) (fun s => if (s.core.tile w.d.imm).f then s else s.noteVer .L (s.bcReg w.a) (s.bcReg w.b % 2 ^ 32))
    (fun _ s => do
      await (!(s.core.tile w.d.imm).f)
      .ok { s := ← s.enterTile w [] (some w.d.imm), opened := true }) s

/-! ### Shape records (R145, R236 to R246) -/

/-- Whether the header of a shape record passes step 3 of R245. -/
def headerOk (b : List Byte) : Bool :=
  let fmt := fieldLE b 5 1
  let geom := fieldLE b 6 1
  let mode := fieldLE b 7 1
  let nb := fieldLE b 12 4
  let blzp := fieldLE b 16 8
  let sclp := fieldLE b 24 8
  let bndp := fieldLE b 32 8
  decide (fieldLE b 0 4 = 0xCA945A01) && decide (fmt < 8) && decide (geom % 4 ≠ 3) && decide (geom < 32) &&
    (decide (geom % 4 = 2) || decide (geom / 4 = 0)) && decide (mode % 4 ≠ 3) && decide (mode < 8) && decide (nb ≤ 4096) &&
    (if nb = 0 then true else decide (bits blzp 63 60 = 4) && decide (blzp % 64 = 0)) &&
    (decide (sclp = 0) || decide (bits sclp 63 60 = 4)) &&
    (decide (bndp = 0) || (decide (bits bndp 63 60 = 4) && decide (bndp % 4 = 0))) && zeroBytes b 0x30 208

/-- Whether a table rises, each entry at least its predecessor. -/
def ascending : List Nat → Bool
  | a :: b :: r => decide (a ≤ b) && ascending (b :: r)
  | _ => true

/-- Where the blaze table of a header lies, with its length; none when it is empty. A fault names the table address. -/
def State.tableOf (s : State) (b : List Byte) : Res (Option (Place × Nat)) :=
  let nb := fieldLE b 12 4
  if nb = 0 then .ok none
  else (access s s.cur ⟨[4], none, 4 * nb, 64, false, 0⟩ none (fieldLE b 16 8)).map (fun t => some (t.place, 4 * nb))

/-- The record a refill for stream `t` reads and the dies it is sent to, or the cause of the word that asked for it (R13, R242). It waits for what the
core's stores have still to bring there (R137). -/
def State.refillRec (s : State) (t : Strm) (a v : Nat) : Res (BlzEnt × List Nat) := do
  let g ← access s s.cur ⟨[4], none, 256, 256, false, 0⟩ none a
  await (!s.core.blockedNow t g.place)
  let b := s.readSegs g.place.segs
  let st := fieldLE b 4 1
  needAt (decide (fieldLE b 8 4 = v) && decide (1 ≤ st) && decide (st ≤ 3) && headerOk b) 0x0C4 a
  let p ← s.tableOf b
  await (p.all (fun p => !s.core.blockedNow t p.1))
  let tab := (p.map (fun p => words4 (s.readSegs p.1.segs))).getD []
  needAt (ascending tab) 0x0C4 a
  .ok (⟨a, v, fieldLE b 7 1, BitVec.ofNat 32 (fieldLE b 0x28 4), BitVec.ofNat 32 (fieldLE b 0x2C 4), tab⟩,
    g.place.dies ++ (p.map (fun p => p.1.dies)).getD [])

/-- An entry of the blaze cache filled on the current core (R246). -/
def State.cacheRec (s : State) (e : BlzEnt × List Nat) : State :=
  (s.touch s.ctxNo e.2).setCore { s.core with blaze := (e.1 :: s.core.blaze).take 16 }

/-- The record of a pair that an M word goes on using, filled now when the cache no longer holds it (R242, R246). -/
def State.fillRec (s : State) (p : Nat × Nat) : Res (BlzEnt × State) :=
  match s.core.blaze.find? (fun b => b.addr == p.1 && b.ver == p.2) with
  | some b => .ok (b, s)
  | none => (s.refillRec .M p.1 p.2).map (fun e => (e.1, s.cacheRec e))

/-- LDSH (R145, R245): its header is checked for access, and it enters the load queue. Its offset counts bytes. -/
def execLdsh (w : W96) (s : State) : Host.Outcome State Fault Refusal :=
  engine .L (hd96 w) (aregReads [w.a]) id
    (fun _ s => do
      match w.a with
      | .reg _ _ _ => stop 0x023
      | .str k _ o => do
        let a := s.core.aregOf .L k.toNat
        let t ← access s s.cur ⟨[4], none, 256, 256, false, 0⟩ (some a) (wrap64 ((a.base.toNat : Int) + o.toInt))
        await (s.sm .L).ldReady
        .ok { s := s.enterLoad (.shape w.d.imm t.place none) t.place.dies, res := postUpdates s.core .L [w.a], opened := true }) s

/-- The checks of a header LDSH has read, and where its table lies (R245 steps 2 to 4); p is the record's address. -/
def State.shapeHeader (s : State) (p : Nat) (b : List Byte) : Res (Option (Place × Nat)) :=
  let st := fieldLE b 4 1
  if st = 0 ∨ st = 3 then stop 0x0C2
  else if 4 ≤ st ∨ ¬headerOk b then .error (.cause 0x0C5 p 0)
  else s.tableOf b

/-- LDSH succeeds: the slot takes the pair, and a PUBLISHED record in a writable page becomes CACHED (R145, R239, R241). -/
def State.cacheShape (s : State) (m p : Nat) (b : List Byte) (src : Place) : State :=
  let s := if s.readSegs (segSlice src.segs 4 1) = [1] then (s.sysWrite s.ctxNo (wrap64 (p + 4)) s.runLid [2]).1 else s
  s.setCore { s.core with slots := setKey s.core.slots m (p, fieldLE b 8 4) }

/-! ### Ring words (R147) -/

/-- LWFREE. -/
def execLwfree (w : W96) (s : State) : Host.Outcome State Fault Refusal :=
  ringWord .L w (fun s => do
    let r ← s.ringFor w.d.imm false
    await (decide (diff32 r.t r.q < 2 ^ r.logn))
    .ok { s := s.setCore (s.core.setRing w.d.imm { r with t := (r.t + 1) % 2 ^ 32 }),
          res := [⟨3, ringReg w.b, BitVec.allOnes 128, .addr (r.slotReg r.t)⟩] }) s

/-- LPUBL: the slot becomes FULL once the earlier loads of the stream have been delivered. -/
def execLpubl (w : W96) (s : State) : Host.Outcome State Fault Refusal :=
  ringWord .L w (fun s => do
    let r ← s.ringFor w.d.imm true
    await ((s.sm .L).stReady && (s.sm .L).loadsDone (s.sm .L).seq)
    let j ← r.held (s.core.aregOf .L (ringReg w.b)).base.toNat r.q r.t (tagClaimed r.logn)
    let k := j % 2 ^ r.logn
    .ok { s := s.setCore (s.core.setRing w.d.imm (r.setTag k (tagPublish r.logn j (r.tag k) false))) }) s

end Sys2Proof.Machine
end

