-- ==== Sys2Proof/Machine/Port.lean ====
section
/-! DEFINITION. The Jecel port: the order, the repetition and the answers of its commands (R441, R442, R444), and the two moves of an MWRITE (R472). -/

namespace Sys2Proof.Machine

/-- What a command does: its status, the bytes of its answer, the state after it; an MWRITE's answer comes later, when it has performed. -/
structure Done where
  status : Status
  data : List Byte
  state : State
  later : Bool
  deriving DecidableEq, Repr

/-- A command carried out. -/
def done (s : State) : Done := ⟨.ok, [], s, false⟩

/-- A command refused: nothing changes. -/
def refuse (s : State) (t : Status) : Done := ⟨t, [], s, false⟩

/-- A check of a command: refused with a status where it fails. -/
def Done.unless (b : Bool) (s : State) (t : Status) (d : Done) : Done := if b then refuse s t else d

/-- An answer sent, and kept for a repetition among the last 256. -/
def State.answer (s : State) (j : Jec) (t : Status) (data : List Byte) : State :=
  let a : Answer := ⟨j.tag, t, data⟩
  { s with out := .answer a :: s.out, dev := { s.dev with answers := ((j.seq, a) :: s.dev.answers).take 256 } }

/-- Whether a command is the next in sequence order; the first after a reset sets the order (R441; log entry 76). -/
def State.inSequence (s : State) (j : Jec) : Bool := s.dev.expect.all (fun n => n == j.seq)

/-- The command after this one is expected next. -/
def State.follow (s : State) (j : Jec) : State := { s with dev := { s.dev with expect := some ((j.seq + 1) % 2 ^ 32) } }

/-- A command in sequence order ends: it is answered, but for an MWRITE that has still to perform. -/
def Done.finish (d : Done) (j : Jec) : State := if d.later then d.state.follow j else (d.state.answer j d.status d.data).follow j

/-- Whether byte i of an MWRITE performs: its version still admits it, and its frame is in service (R472, R383). -/
def State.portLands (s : State) (g : List Seg) (a : Option (Option VerTag)) : Bool :=
  match a with
  | none => false
  | some tag => tag.all s.tagHolds && !s.placeBad (.phys 0 g)

/-- The bytes of an MWRITE performed one by one; dropped ones are counted. -/
def State.portWrite (x : Nat) (g : List Seg) : List (Byte × Option (Option VerTag)) → Nat → State → State
  | [], _, s => s
  | b :: r, i, s =>
    let h := segSlice g i 1
    State.portWrite x g r (i + 1) (if s.portLands h b.2 then s.perform h [b.1] else s.stale x 1)

/-- The MWRITE that has passed its checks performs, and is answered: by an event, or before the next command executes (R441, R472). -/
def State.portDone (s : State) : State :=
  match s.dev.pwrite with
  | none => s
  | some w =>
    (State.portWrite w.ctx w.segs (w.data.zip w.admits) 0 { s with dev := { s.dev with pwrite := none } }).answer ⟨w.seq, w.tag⟩ .ok []

/-- A command of the port: a repeated sequence number returns the recorded answer; one that is not the next waits for those before it; in recovery
mode only FWLOAD, SUMMARY and QUOTE are carried out; a device that is held in reset, without power or lost answers nothing. -/
def command (always : Bool) (j : Jec) (f : State → Done) (s : State) : Host.Outcome State Fault Refusal :=
  let run : State :=
    match find? s.dev.answers j.seq with
    | some a => { s with out := .answer a :: s.out }
    | none =>
      if !s.inSequence j then s
      else if always || s.dev.phase == .running then (f s.portDone).finish j
      else (s.answer j .wrongState []).follow j
  match s.dev.phase with
  | .running => .next run
  | .recovery => .next run
  | _ => .next s

end Sys2Proof.Machine
end

