-- ==== Sys2Proof/Machine/Store.lean ====
section
/-! DEFINITION. The store stream (R147 to R154). -/

namespace Sys2Proof.Machine

/-! ### Elements of a store -/

/-- The part of a checked access from byte o on, n bytes long. -/
def Tgt.slice (t : Tgt) (o n : Nat) : Tgt :=
  match t.place with
  | .phys _ g =>
    let l := g.zip t.leafs
    let r := l.foldl (fun (a : Nat × List (Seg × Nat)) e =>
      let lo := max o a.1
      let hi := min (o + n) (a.1 + e.1.len)
      (a.1 + e.1.len, if lo < hi then a.2 ++ [(⟨e.1.pa + (lo - a.1), hi - lo⟩, e.2)] else a.2)) (0, [])
    ⟨wrap64 (t.ptr + o), .phys (wrap64 (t.ptr + o)) (r.2.map (fun e => e.1)), r.2.map (fun e => e.2)⟩
  | .remote d x => ⟨wrap64 (t.ptr + o), .remote d (x + o), []⟩
  | p => ⟨wrap64 (t.ptr + o), p, []⟩

/-- Whether every page of an access agrees on D and none belongs to a tile pool. -/
def Tgt.uniform (t : Tgt) : Bool := !t.tpage && (!t.dpage || t.leafs.all (fun e => bit e 2))

/-- One element or stretch of a store of the S stream: its store-queue element, or nothing when Table 5-10 drops it. -/
def State.pieceElem (s : State) (num idx : Nat) (t : Tgt) (data : List Byte) : Res (Option StoreElem) := do
  match ← atElem idx t.ptr 64 (s.admitAt t 0x0A0) with
  | none => .ok none
  | some g => do
    let op ← atElem idx t.ptr 64 (s.writeOp t data (s.streamKey .S num idx))
    .ok (some ⟨t.place, op, g, idx⟩)

/-- The elements of a row of bytes stored at a checked access, and how many elements were dropped: the row whole where its
pages agree, else element by element (R151, R383). -/
def State.rowElems (s : State) (num idx f : Nat) (t : Tgt) (data : List Byte) : Res (List StoreElem × Nat) :=
  if t.uniform then (s.pieceElem num idx t data).map (fun e => (e.toList, 0))
  else do
    let z := elemSize f
    let l ← (List.range (data.length / z)).mapM (fun k =>
      s.pieceElem num (idx + k * z * 8 / fmtBits f) (t.slice (k * z) z) ((data.drop (k * z)).take z))
    .ok (l.filterMap id, (l.filter (fun e => e.isNone)).length * (if f = 3 then 2 else 1))

/-- Several rows. -/
def State.rowsElems (s : State) (num f : Nat) (l : List (Nat × Tgt × List Byte)) : Res (List StoreElem × Nat) := do
  let r ← l.mapM (fun e => s.rowElems num e.1 f e.2.1 e.2.2)
  .ok (r.flatMap (fun e => e.1), (r.map (fun e => e.2)).sum)

/-- An S word whose elements are known: they enter the store queue; with none left the number completes at issue (Table 5-3).
Accesses to window 0x6 raise the write-acknowledge count. -/
def State.enterStore (s : State) (kind : StoreKind) (esz : Nat) (ds : List Nat) (es : List StoreElem) (dropped : Nat) (rs : List Wr) : Eff :=
  let s := s.touch s.ctxNo ds
  let s := if dropped = 0 then s else s.stale s.ctxNo dropped
  if es.isEmpty then { s := s, res := rs }
  else
    let s := s.setCore { s.core with wacks := s.core.wacks + (es.filter (fun e => e.place.win == 6)).length }
    { s := s.setSm .S ((s.sm .S).pushWord ((s.sm .S).issued + 1) esz kind es), res := rs, opened := true }

/-- Element size as a store-queue entry keeps it: 0 for half-bytes. -/
def eszOf (f : Nat) : Nat := if f = 3 then 0 else elemSize f

/-- The elements of a word that are decisions (R340): with the log on those of this package perform at issue, once the stream's earlier
stores have and nothing else goes before them, so that each decision is the word's own. -/
def State.enterDecided (s : State) (kind esz : Nat) (ts : List Nat) (es : List StoreElem) (ds : List (Nat × Nat)) (dropped : Nat)
    (rs : List Wr) : Res Eff :=
  if s.logOn s.ctxNo ∧ ¬ds.isEmpty then do
    await (s.sm .S).quiet
    let e := s.enterStore .elems esz ts es dropped rs
    await ((e.s.sm .S).stores.all (fun x => x.win == 6 || e.s.mayPerform s.cur .S x))
    let t ← s.decisions kind .S ((s.sm .S).issued + 1) ds
    let e := t.enterStore .elems esz ts es dropped rs
    .ok { e with s := e.s.forEach ((winsOf es).filter (fun w => w != 6)) (fun w s => s.performSome s.cur .S w 0 (fun _ => true)),
                 opened := es.any (fun e => e.place.win == 6) }
  else .ok (s.enterStore .elems esz ts es dropped rs)

/-- Rows of an S word: source then destination of each row, in ascending order, with the bytes read at issue (R127), the largest tag of the
sources, and the dies the rows are sent towards (R13). -/
def State.storeRows (s : State) (src dst : Blk) (n kind : Nat) : Res (List (Nat × Tgt × List Byte) × W32 × List Nat) := do
  let l ← (List.range n).mapM (fun j => do
    let a ← s.blkRow src [2, 3] false 0 j
    let d ← s.blkRow dst [4, 5, 6] true kind j
    let len := fmtBytes src.fmt 128
    let tag := match a.place with
      | .abuf o => tagRead s.core.atags o len
      | .peer m o => tagRead (s.coreOf m).atags o len
      | _ => 0
    .ok (128 * j, d, s.readPlace s.cur len a.place, tag, a.place.dies ++ d.place.dies))
  .ok (l.map (fun e => (e.1, e.2.1, e.2.2.1)), l.foldl (fun b e => maxBound b e.2.2.2.1) 0, l.flatMap (fun e => e.2.2.2.2))

/-- The number an S word takes. -/
def State.numS (s : State) : Nat := (s.sm .S).issued + 1

/-- STB (R148). -/
def execStb (w : W96) (s : State) : Host.Outcome State Fault Refusal :=
  engine .S (hd96 w) (aregReads [w.d, w.a]) id
    (fun _ s => do
      await (s.sm .S).stReady
      let f := w.fmt.toNat
      let (l, _, ds) ← s.storeRows (s.blk .S w.a f) (s.blk .S w.d f) w.b.imm 1
      let (es, dr) ← s.rowsElems s.numS f l
      .ok (s.enterStore .elems (eszOf f) ds es dr (postUpdates s.core .S [w.d, w.a]))) s

/-- Cause 0x160 at the first element that lies on a deterministic page (R151); each access comes with the index of its first element. -/
def noDPage (z : Nat) (ts : List (Nat × Tgt)) : Res Unit :=
  match ts.find? (fun t => t.2.dpage) with
  | none => .ok ()
  | some (i, t) =>
    let n := (t.place.segs.map (fun g => g.len)).sum
    let o := ((List.range (n / z)).find? (fun k => (t.slice (k * z) z).dpage)).getD 0
    .error (.at 0x160 (wrap64 (t.ptr + o * z)) 0 (i + o))

/-- STADD and STAXPY: one read-modify-write per element (R148, R151). -/
def addWord (w : W96) (alpha : State → W32) (s : State) : Host.Outcome State Fault Refusal :=
  engine .S (hd96 w) (aregReads [w.d, w.a]) id
    (fun _ s => do
      await (s.sm .S).stReady
      let f := w.fmt.toNat
      let z := elemSize f
      let (l, _, dies) ← s.storeRows (s.blk .S w.a f) (s.blk .S w.d f) w.b.imm 2
      noDPage z (l.map (fun e => (e.1, e.2.1)))
      let al := alpha s
      let els ← (l.flatMap (fun r => ((List.range 128).zip (elems f r.2.2)).map (fun e => (r.1 + e.1, r.2.1.slice (e.1 * z) z, e.2)))).mapM
        (fun e => do
          let g ← atElem e.1 e.2.1.ptr 64 (s.admitAt e.2.1 0x0A0)
          .ok (e.1, e.2.1, g.map (fun tag =>
            (⟨e.2.1.place, .fma f w.rm.toNat al (fp32Of f nan32 e.2.2), tag, e.1⟩ : StoreElem))))
      let es := els.filterMap (fun e => e.2.2)
      let ds := (els.filter (fun e => e.2.2.isSome)).map (fun e => (e.2.1.ptr, e.1))
      s.enterDecided 5 z dies es ds (els.length - es.length) (postUpdates s.core .S [w.d, w.a])) s

/-- STADD. -/
def execStadd (w : W96) (s : State) : Host.Outcome State Fault Refusal := addWord w (fun _ => 0x3F800000) s

/-- STAXPY: α is the FP32 in s[X][31:0]. -/
def execStaxpy (w : W96) (s : State) : Host.Outcome State Fault Refusal :=
  addWord w (fun s => (s.core.sreg (BitVec.ofNat 5 w.b.num)).setWidth 32) s

/-! ### Conversion (R149) -/

/-- The conversion error of values, codes' values and saturations: +∞ when an element is a NaN or saturates (R149). -/
def storeError (l : List (XV × XV × Bool)) : W32 :=
  if l.any (fun e => e.1 == .nan) then 0x7F800000 else convError l

/-- Source codes in a format converted to another: codes, counts and pairs for the error. -/
def convAll (src dst rm : Nat) (cs : List Nat) : List Conv := cs.map (fun c => convElem src dst rm nan32 c)

/-- SCVB raised to a bound (R149), by the maximum of R69. -/
def CoreSt.raiseScvb (c : CoreSt) (b : W32) : CoreSt :=
  c.setCsr 0x3C1 (zx64 (fmax ((c.csr 0x3C1).setWidth 32) b))

/-- A row of elements of a tile as codes. -/
def Tile.codes (t : Tile) (i : Nat) : List Nat := (t.row i).map (fun x => x.toNat)

/-- Rows of codes of a source format stored in a destination format, with SCVB and the counts, which `cnt` adds: what STCVT does
to the rows once its sources are known. -/
def State.cvtRows (s : State) (w : W96) (src : Nat) (l : List (Nat × Tgt × List Nat)) (dies : List Nat) (inb : W32) (cnt : Nat → Nat → CoreSt → CoreSt)
    (rs : List Wr) : Res Eff := do
  let g := w.fmt.toNat
  let cv := l.map (fun e => (e.1, e.2.1, e.2.2, convAll src g w.rm.toNat e.2.2))
  let k := countConv (cv.flatMap (fun e => e.2.2.2))
  let err := storeError (cv.flatMap (fun e => (e.2.2.1.zip e.2.2.2).map (fun p => (xvElem src nan32 p.1, xvElem g nan32 p.2.code, p.2.sat))))
  let (es, dr) ← s.rowsElems s.numS g (cv.map (fun e => (e.1, e.2.1, packElems g (e.2.2.2.map (fun c => c.code)))))
  let s := s.setCore ((cnt k.1 k.2 s.core).raiseScvb (addBound inb err))
  .ok (s.enterStore .elems (eszOf g) dies es dr rs)

/-- STCVT with var 00. -/
def execStcvt (w : W96) (s : State) : Host.Outcome State Fault Refusal :=
  engine .S (hd96 w) (aregReads [w.d, w.a]) id
    (fun _ s => do
      await (s.sm .S).stReady
      let (l, inb, dies) ← s.storeRows (s.blk .S w.a 0) (s.blk .S w.d w.fmt.toNat) w.b.imm 1
      s.cvtRows w 0 (l.map (fun e => (e.1, e.2.1, elems 0 e.2.2))) dies inb (fun a b c => c.cvcnt a b)
        (postUpdates s.core .S [w.d, w.a])) s

/-- STCVT with var 01: rows of a tile register, which it waits for while F is set. -/
def execStcvtTile (w : W96) (s : State) : Host.Outcome State Fault Refusal :=
  engine .S (hd96 w) (aregReads [w.d]) id
    (fun _ s => do
      await (s.sm .S).stReady
      let t := (s.core.tile w.a.imm).fold
      await (!t.f)
      need t.v 0x0A4
      let g := w.fmt.toNat
      need (!(t.int && (g == 2 || g == 3))) 0x04B
      t.sumsOk allRows
      let ds ← s.blkRows (s.blk .S w.d g) [4, 5, 6] true 1 (List.range w.b.imm)
      let l := ((List.range w.b.imm).zip ds).map (fun e => (128 * e.1, e.2, t.codes e.1))
      s.cvtRows w (if t.int then 5 else 0) l (diesOf ds) t.cal (fun a b c => c.setTile w.a.imm (t.count a b 0)) (postUpdates s.core .S [w.d])) s

/-! ### Tiles (R150) -/

/-- The version an STT in format `fmt` may write, with its frame and the tag of its writes; none when it is RETIRED (Table 5-10, R398). The
header of a version that has one is checked for its format first (R150; log entry 24). -/
def State.sttVer (s : State) (h v fmt : Nat) : Res (TPool × Nat × Option (Frame × VerTag)) :=
  let x := s.ctxNo
  match s.handleSlot x h with
  | none => stop 0x090
  | some (p, n, t) =>
    match (t.slot n).state v, t.ver n v with
    | some .retired, _ => .ok (t, n, none)
    | some st, some e =>
      let f : Frame := match s.runLid.bind (fun r => find? e.priv r) with
        | some k => .shadow k
        | none => e.frame
      if st = .lost ∧ f = e.frame then stop 0x0A0
      else if s.headerFmt x t n v f ≠ fmt then stop 0x0A3
      else if st = .filling then .ok (t, n, some (f, ⟨x, p, n, v, false, none⟩))
      else if (st = .rebuilding ∧ s.runLid.isSome ∧ e.run = s.runLid) ∨ f ≠ e.frame then
        .ok (t, n, some (f, ⟨x, p, n, v, true, f.shadowNo⟩))
      else stop 0x0A0
    | _, _ => stop 0x0A0

/-- What STT writes: 128 rows of bytes, the 128 scale bytes when it makes them, and the header bound. -/
structure TileImage where
  rows : List (List Byte)
  scales : Option (List Byte)
  bound : W32
  sat : Nat
  nan : Nat

/-- Row codes of a tile converted for STT or MDRAIN (R150, R208): codes, scale, conversions and values for the error. -/
def tileRow (int : Bool) (g rm : Nat) (cs : List Nat) : List Conv × Option Nat × List (XV × XV × Bool) :=
  if g = 2 ∨ g = 3 ∨ g = 4 ∨ g = 7 then
    let xs := cs.map (fun c => xvElem 0 nan32 c)
    let sc := blockScale g xs
    let qs := xs.map (fun x => quantElem g rm sc x)
    (qs, some sc, (xs.zip qs).map (fun e => (e.1, if sc = 255 then .nan else xvScale (xvElem g nan32 e.2.code) ((sc : Int) - 127), e.2.sat)))
  else
    let src := if int then 5 else 0
    let qs := convAll src g rm cs
    (qs, none, (cs.zip qs).map (fun e => (xvElem src nan32 e.1, xvElem g nan32 e.2.code, e.2.sat)))

/-- A tile register converted whole. -/
def Tile.image (t : Tile) (g rm : Nat) : TileImage :=
  let rs := (List.range 128).map (fun i => tileRow t.int g rm (t.codes i))
  let k := countConv (rs.flatMap (fun r => r.1))
  { rows := rs.map (fun r => packElems g (r.1.map (fun c => c.code))),
    scales := if g = 2 ∨ g = 3 ∨ g = 4 ∨ g = 7 then some (rs.map (fun r => BitVec.ofNat 8 (r.2.1.getD 0))) else none,
    bound := addBound t.cal (storeError (rs.flatMap (fun r => r.2.2))), sat := k.1, nan := k.2 }

/-- A stretch of window 0x4 that STT writes, translated. -/
def State.tgtAt (s : State) (va n : Nat) : Res Tgt :=
  (xlate s (.core s.cur) s.ctxNo 4 va n true 1).map (fun l => ⟨4 * 2 ^ 60 + va, .phys (4 * 2 ^ 60 + va) (l.map (fun c => c.seg)), l.map (fun c => c.leaf)⟩)

/-- STT once its image is known: rows, scales, FLAGS, BOUND, and the CRC last; every element carries the version's tag. Where software has
changed the header's format, so that a row is no row of the frame, it is checked as a store to its own bytes (R151). -/
def State.sttWrite (s : State) (fmt : Nat) (t : TPool) (n v : Nat) (fr : Frame) (tag : VerTag) (im : TileImage) (reg : Option Nat)
    (dies : List Nat) (rs : List Wr) : Res Eff := do
  let a := t.frameAddr n v fr
  let len := fmtBytes fmt 128
  let data := im.rows.flatMap id
  let flags : Nat := 2 + im.scales.isSome.toNat
  let parts : List (Nat × List Byte) :=
    ((List.range 128).zip im.rows).map (fun e => (a.1 + e.1 * len, e.2)) ++
      (match im.scales with
       | some b => [(a.2 + 64, b)]
       | none => []) ++
      [(a.2 + 0x0D, toLE 1 flags), (a.2 + 0x14, toLE 4 im.bound.toNat), (a.2 + 0x18, toLE 8 (crc64 data).toNat)]
  let l ← ((List.range parts.length).zip parts).mapM (fun e => do
    let g ← s.tgtAt e.2.1 e.2.2.length
    let own : Bool := decide (e.2.1 + e.2.2.length ≤ a.1 + t.dataLen) || decide (128 ≤ e.1)
    match ← (if own then .ok (some (some tag)) else s.admitAt g 0x0A0) with
    | none => .ok none
    | some g' => do
      let op ← s.writeOp g e.2.2 (s.streamKey .S s.numS (128 * e.1))
      .ok (some (g, (⟨g.place, op, g', 128 * e.1⟩ : StoreElem))))
  let k := l.filterMap id
  .ok (s.enterStore (.tile reg) (eszOf fmt) (dies ++ diesOf (k.map (fun e => e.1))) (k.map (fun e => e.2)) (if k.length = l.length then 0 else 1) rs)

/-- STT with var 00: rows of the A-buffer copied unchanged. -/
def execSttBuffer (w : W96) (s : State) : Host.Outcome State Fault Refusal :=
  engine .S (hd96 w) (aregReads [w.b]) id
    (fun _ s => do
      await (s.sm .S).stReady
      let f := w.fmt.toNat
      let rows ← s.blkRows (s.blk .S w.b f) [2] false 0 (List.range 128)
      let v := s.bcReg w.a % 2 ^ 32
      let (t, n, fr) ← s.sttVer (s.bcReg w.d) v f
      let len := fmtBytes f 128
      let rs := postUpdates s.core .S [w.b]
      match fr with
      | none => .ok { s := s.stale s.ctxNo 1, res := rs }
      | some (fr, tag) =>
        let im : TileImage := { rows := rows.map (fun r => s.readPlace s.cur len r.place), scales := none, sat := 0, nan := 0,
                                bound := rows.foldl (fun b r => maxBound b (tagRead s.core.atags r.place.aoff len)) 0 }
        s.sttWrite f t n v fr tag im none (diesOf rows) rs) s

/-- STT with var 01: a tile register, which it waits for while F is set; when the word completes, a RETIRED tile is LOADED (Table 7-3). -/
def execSttTile (w : W96) (s : State) : Host.Outcome State Fault Refusal :=
  engine .S (hd96 w) (fun _ => []) id
    (fun _ s => do
      await (s.sm .S).stReady
      let g := w.fmt.toNat
      let v := s.bcReg w.a % 2 ^ 32
      let (t, n, fr) ← s.sttVer (s.bcReg w.d) v g
      let k := w.b.imm
      let tl := s.core.tile k
      await (!tl.f)
      need tl.v 0x0A4
      need (if tl.int then g == 5 || g == 0 else g != 5) 0x04B
      tl.sumsOk allRows
      let im := tl.fold.image g w.rm.toNat
      let tl := tl.fold.count im.sat im.nan 0
      match fr with
      | none => .ok { s := (s.setCore (s.core.setTile k (tl.setBit 1 false))).stale s.ctxNo 1 }
      | some (fr, tag) => (s.setCore (s.core.setTile k tl)).sttWrite g t n v fr tag im (some k) [] []) s

/-! ### Scatters (R152, R153) -/

/-- STSC. -/
def execStsc (w : W96) (s : State) : Host.Outcome State Fault Refusal :=
  engine .S (hd96 w) (aregReads [w.d]) id
    (fun m s => do
      await (s.sm .S).stReady
      let g := w.fmt.toNat
      let x := s.core.vregNew w.a.num
      let conv (i : Nat) : Conv := convElem (if isIntFmt g then 5 else 0) g w.rm.toNat nan32 (lane x i).toNat
      let l ← s.laneEach .S w.d g ⟨[4, 5, 6], none, elemSize g, 1, true, 5⟩ m (s.core.vregNew w.b.num)
        (fun i t => (s.pieceElem s.numS i t (packElems g [(conv i).code])).map (fun e => (i, t, e)))
      let k := countConv (l.map (fun e => conv e.1))
      let ts := l.map (fun e => e.2.1)
      let es := l.map (fun e => e.2.2)
      let s := s.setCore (s.core.cvcnt k.1 k.2)
      .ok (s.enterStore .elems (eszOf g) (diesOf ts) (es.filterMap id) (es.filter (fun e => e.isNone)).length
        (postUpdates s.core .S [w.d]))) s

/-- The lanes of a SATOM checked: alignment to 4 bytes, order-dependent updates on D pages, barrier records, versions. -/
def State.atomLane (s : State) (op : Nat) (x : Vec) (e : Nat × Tgt) : Res (Nat × Tgt × Option StoreElem) := do
  let g ← atElem e.1 e.2.ptr 64 (do
    needAt (s.recordOf e.2 == none) 0x148 e.2.ptr
    s.admitAt e.2 0x0A0)
  .ok (e.1, e.2, g.map (fun tag => (⟨e.2.place, .atom op false (zx64 (lane x e.1)) 0 none, tag, e.1⟩ : StoreElem)))

/-- SATOM. -/
def execSatom (w : W96) (s : State) : Host.Outcome State Fault Refusal :=
  engine .S (hd96 w) (aregReads [w.d]) id
    (fun m s => do
      await (s.sm .S).stReady
      match w.d with
      | .reg _ _ _ => stop 0x023
      | .str _ _ _ => do
        let x := s.core.vregNew w.a.num
        let els ← s.laneEach .S w.d 0 ⟨[4, 6, 7], none, 4, 1, true, 3⟩ m (s.core.vregNew w.b.num) (fun i t => do
          if w.b.imm = 10 then noDPage 4 [(i, t)] else .ok ()
          s.atomLane w.b.imm x (i, t))
        let ts := els.map (fun e => e.2.1)
        let es := els.filterMap (fun e => e.2.2)
        let ds := (els.filter (fun e => e.2.2.isSome && !e.2.1.dpage)).map (fun e => (e.2.1.ptr, e.1))
        s.enterDecided 3 4 (diesOf ts) es ds (els.length - es.length) (postUpdates s.core .S [w.d])) s

/-! ### Optimisers (R154) -/

/-- One element of STOPT from its weight, moments and gradient, with the CSRs 0x3C8 to 0x3D0 in order: the new weight and moments. -/
def optElem (par : List W32) (adam : Bool) (w m vv g : W32) : W32 × W32 × W32 :=
  let p (n : Nat) : W32 := par.getD (n - 0x3C8) 0
  let neg (x : W32) : W32 := x ^^^ 0x80000000
  let wd := ffma 0 (neg (p 0x3C9)) w w
  if adam then
    let m := ffma 0 (p 0x3CA) m (fmul 0 (p 0x3CB) g)
    let vv := ffma 0 (p 0x3CC) vv (fmul 0 (p 0x3CD) (fmul 0 g g))
    let mh := fmul 0 m (p 0x3CE)
    let vh := fmul 0 vv (p 0x3CF)
    let dn := fadd 0 (sqrtR vh) (p 0x3D0)
    (ffma 0 (neg (p 0x3C8)) (divR mh dn) wd, m, vv)
  else
    let m := ffma 0 (p 0x3CA) m g
    (ffma 0 (neg (p 0x3C8)) m wd, m, vv)

/-- The new values of a STOPT word from its rows (weight, first moment, and with Adam second moment of each row) and its gradients: three for
each element, in order. -/
def optRowsOut (adam : Bool) (par grad : List W32) (rows : List (List W32)) : List W32 :=
  let z := if adam then 3 else 2
  (List.range (rows.length / z)).flatMap (fun j => (List.range 128).flatMap (fun k =>
    let v (i : Nat) : W32 := lane (rows.getD (z * j + i) []) k
    let o := optElem par adam (v 0) (v 1) (v (z - 1)) (lane grad (128 * j + k))
    [o.1, o.2.1, o.2.2]))

/-- The rows of a STOPT word checked in ascending order: gradient, then weight, first and with Adam second moment (R154). The limit of the D
operand's address register (R126) bounds the weights alone, since the moment rows are no bytes of an operand that a descriptor names (log
entry 33). -/
def State.optRows (s : State) (w : W96) (adam : Bool) : Res (List (Nat × Tgt × List Tgt)) :=
  let so := (s.core.csr 0x3D1).toNat
  (List.range w.b.imm).mapM (fun j => do
    let mom (d : Tgt) (k : Nat) : Res Tgt :=
      let p := (d.ptr + k * so) % 2 ^ 64
      atElem (128 * j) p 32 (access s s.cur ⟨[4, 5, 6], none, 512, 4, true, 2⟩ none p)
    let a ← s.blkRow (s.blk .S w.a 0) [2, 3] false 0 j
    let d ← s.blkRow (s.blk .S w.d 0) [4, 5, 6] true 2 j
    let m ← mom d 1
    if adam then .ok (j, a, [d, m, ← mom d 2]) else .ok (j, a, [d, m]))

/-- A store of STOPT whose value is still to come, number i of its word; none when its version drops it. -/
def State.optStore (s : State) (num idx i : Nat) (t : Tgt) : Res (Option StoreElem) := do
  match ← atElem idx t.ptr 64 (s.admitAt t 0x0A0) with
  | none => .ok none
  | some g => do
    let held ← match ← atElem idx t.ptr 64 (s.writeOp t [] (s.streamKey .S num idx)) with
      | .dwrite _ b k _ => .ok (some (b, k))
      | _ => .ok none
    .ok (some ⟨t.place, .optw i held none, g, idx⟩)

/-- STOPT: it takes its places in both queues of the stream. Its gradients and CSRs are read at issue; the weights and moments come through
the load queue, after the writes of earlier STOPT words, and the writes of one element stand together in the store queue (R127, R154). -/
def optWord (w : W96) (adam : Bool) (s : State) : Host.Outcome State Fault Refusal :=
  engine .S (hd96 w) (aregReads [w.d, w.a]) id
    (fun _ s => do
      await ((s.sm .S).stReady && (s.sm .S).ldReady)
      let l ← s.optRows w adam
      let grad := l.flatMap (fun e => (elems 0 (s.readPlace s.cur 512 e.2.1.place)).map (fun c => BitVec.ofNat 32 c))
      let els ← (l.flatMap (fun e => (List.range 128).flatMap (fun k =>
          ((List.range e.2.2.length).zip e.2.2).map (fun r => (128 * e.1 + k, 3 * (128 * e.1 + k) + r.1, r.2.slice (4 * k) 4))))).mapM
        (fun e => s.optStore s.numS e.1 e.2.1 e.2.2)
      let es := els.filterMap id
      let ts := l.flatMap (fun e => e.2.2)
      let par := (List.range' 0x3C8 9).map (fun n => (s.core.csr n).setWidth 32)
      let s := (s.touch s.ctxNo (diesOf (ts ++ l.map (fun e => e.2.1)))).stale s.ctxNo (els.length - es.length)
      let s := s.setCore { s.core with wacks := s.core.wacks + (es.filter (fun e => e.place.win == 6)).length }
      let m := s.sm .S
      let after := (m.stores.filter (fun e => e.kind == .opt)).map (fun e => e.seq)
      let f := LoadFin.opt adam par grad (ts.map (fun t => t.place)) (m.seq + 1) after
      .ok { s := s.setSm .S ((m.pushLoad s.numS m.pc f).pushWord s.numS 4 .opt es), res := postUpdates s.core .S [w.d, w.a], opened := true }) s

/-- STOPT with var 00. -/
def execStopt (w : W96) (s : State) : Host.Outcome State Fault Refusal := optWord w false s

/-- STOPT with var 01. -/
def execStoptAdam (w : W96) (s : State) : Host.Outcome State Fault Refusal := optWord w true s

/-! ### Ring words (R147) -/

/-- SWFILL. -/
def execSwfill (w : W96) (s : State) : Host.Outcome State Fault Refusal :=
  ringWord .S w (fun s => do
    let r ← s.ringFor w.d.imm true
    await (decide (0 < diff32 r.t r.h) && tagFull r.logn r.h (r.tag (r.h % 2 ^ r.logn)))
    .ok { s := s.setCore (s.core.setRing w.d.imm { r with h := (r.h + 1) % 2 ^ 32 }),
          res := [⟨3, ringReg w.b, BitVec.allOnes 128, .addr (r.slotReg r.h)⟩] }) s

/-- SRELS. -/
def execSrels (w : W96) (s : State) : Host.Outcome State Fault Refusal :=
  ringWord .S w (fun s => do
    let r ← s.ringFor w.d.imm true
    await ((s.sm .S).stReady && (s.sm .S).loadsDone (s.sm .S).seq)
    let j ← r.held (s.core.aregOf .S (ringReg w.b)).base.toNat r.q r.h (tagFull r.logn)
    let k := j % 2 ^ r.logn
    let r := r.setTag k (tagRelease r.logn j (r.tag k))
    .ok { s := s.setCore (s.core.moveRing w.d.imm ({ r with q := advance r.logn r.tag r.h (2 ^ r.logn) r.q } : Ring).settled) }) s

end Sys2Proof.Machine
end

