-- ==== Sys2Proof/Machine/Tasks.lean ====
section
/-! DEFINITION. The task words of the C stream (R102, R116 to R118, R440), and starting a task on its cores (R100, R101, R329
to R336). -/

namespace Sys2Proof.Machine

/-! ### SPAWN and JDEC -/

/-- Whether a continuation record is one (R116, R322): reserved bits, GANG, a kernel slot that is not ABSENT. -/
def State.recordOk (s : State) (b : List Byte) : Bool :=
  let c := fieldLE b 0 4
  bits c 31 23 == 0 && decide (1 ≤ bits c 22 18) && decide (bits c 22 18 ≤ 16) && (s.kernelOf (bits c 11 0)).st != .absent

/-- The task of a record (Table 13-1). -/
def taskOfRecord (x : Nat) (b : List Byte) (o : Origin) : Task :=
  let c := fieldLE b 0 4
  { ctx := x, st := .waiting, kslot := bits c 11 0, prio := bits c 17 12, gang := bits c 22 18, ctrl := c, join := fieldLE b 4 4,
    lid := fieldLE b 8 8, frame := fieldLE b 16 8, succ := .ptr (fieldLE b 24 8),
    tiles := [fieldLE b 32 8, fieldLE b 40 8, fieldLE b 48 8, fieldLE b 56 8], origin := o, die := 0, ticket := 0,
    level := bits c 17 12, cores := [], started := [], ended := [], aband := false, sealed := [], allocs := [], aredos := [],
    group := none }

/-- SPAWN once it is not ended: it claims a slot of the task queue, writes the record there and publishes it in one step (R314). -/
def spawnWord (d a b : Reg) (s : State) : Host.Outcome State Fault Refusal :=
  match (do
    let p ← s.rd a
    let v ← s.rd b
    await (!s.core.busy d)
    await (s.c.storesDone s.c.seq)
    let r ← s.readC p.toNat 64 64 0x050
    let q ← s.ringQueue v false 0
    need (s.recordOk r) 0x050
    match s.freeEntry with
    | none => stop 0x14A
    | some i => .ok (p.toNat, q, r, i) : Res (Nat × Nat × List Byte × Nat)) with
  | .error e => finish false (.error e) s
  | .ok (p, q, r, i) =>
    let s := (s.touchC p 64).touchQueue q
    let k := s.queueOf q
    if k.full ∨ ¬s.myTurn k.waitC then .next (s.parkAt q true)
    else match s.decision 1 q .C 0 0 with
      | .error .wait => .next (s.parkAt q true)
      | .error e => finish false (.error e) s
      | .ok s => finish false (
      let j := k.t
      let s := s.setQueueOf q { k with t := (j + 1) % 2 ^ 32, waitC := k.waitC.filter (fun c => c != s.cur) }
      let s := (s.sysWrite k.ctx (k.slotPtr j) s.runLid r).1.qPublish q j false
      let s := s.newTask i (taskOfRecord s.ctxNo r (.queue q j false))
      let s := if fieldLE r 4 4 = 0 then (s.makeReady i).checkHeads s.ctxNo else s
      s.wr d (BitVec.ofNat 64 (s.handleOf i s.ctxNo))) s

/-- SPAWN. -/
def execSpawn (d a b : Reg) (s : State) : Host.Outcome State Fault Refusal := ringEnded (spawnWord d a b) s

/-- JDEC. -/
def execJdec (a : Reg) (s : State) : Host.Outcome State Fault Refusal :=
  finish false (do
    let h ← s.rd a
    await (s.released 3)
    match s.taskOf s.ctxNo h.toNat with
    | none => stop 0x090
    | some i =>
      match s.decJoin i with
      | (.ok true, s) => .ok ((s.makeReady i).checkHeads s.ctxNo)
      | (.ok false, s) => .ok s
      | (.zero, _) => stop 0x141
      | (.none, _) =>
        if ((find? s.tasks i).map (fun t => t.join)).getD 0 = 0 then stop 0x141 else stop 0x090) s

/-! ### TEXIT -/

/-- The cause of an unchecked LINK status, when LKSTAT is VALID (R440, Table 19-9). -/
def CoreSt.linkCause (c : CoreSt) : Option Nat :=
  let v := (c.csr 0x3F8).toNat
  if bit v 63 then some (match bits v 42 40 with
    | 1 => 0x180
    | 2 => 0x181
    | 3 => 0x184
    | _ => 0x183) else none

/-- Whether nothing of the core's own work is outstanding (R102). -/
def CoreSt.drained (c : CoreSt) : Bool :=
  [Strm.C, .L, .V, .M, .S].all (fun t => (c.strm t).loads.isEmpty && (c.strm t).stores.isEmpty && (c.strm t).posts.isEmpty) &&
    c.links.isEmpty && c.wacks == 0

/-- TEXIT (R102, R118): it waits for idle engines and drained queues; the member has then ended. -/
def execTexit (ab : Bool) (s : State) : Host.Outcome State Fault Refusal :=
  if [Strm.L, .V, .M, .S].any (fun t => (s.sm t).run) ∨ ¬s.core.drained then .next (s.park .C)
  else match s.core.linkCause with
    | some c => finish false (stop c) s
    | none =>
      let s := s.setCore { s.core with ended := true }
      let s := s.setC { s.c with waiting := false }
      .next (match s.core.task.bind (fun i => (find? s.tasks i).map (fun t => (i, t))) with
        | some (i, t) => s.setClosed i { t with ended := t.ended ++ [s.cur], aband := t.aband || ab }
        | none => s)

/-! ### Starting a task (R101) -/

/-- A stream as a task start leaves it: idle, its registers, queues and pending results empty; its counters and store queues
go on. -/
def StreamSt.clear (m : StreamSt) : StreamSt :=
  { m with run := false, pc := 0, sigma := 0, waiting := false, iregs := [], preds := [], pend := [], pq := [], boq := [] }

/-- The results of V still pending from the task before, made visible. -/
def CoreSt.settleAll (c : CoreSt) : CoreSt :=
  [Strm.L, .V, .M, .S].foldl (fun c t =>
    let ps := (c.strm t).pend
    ps.foldl (fun c p => if p.wr = 0 then c else c.writeRes t p.file p.num p.wr p.val) c) c

/-- Core k starts member m of a task with logical core number l (R101). -/
def CoreSt.startTask (c : CoreSt) (i : Nat) (t : Task) (l m : Nat) : CoreSt :=
  let c := c.settleAll
  let c := { c with sregs := [], aregs := [], tiles := [], events := [], evWait := [], journal := [],
                    cS := c.cS.clear, lS := c.lS.clear, vS := c.vS.clear, mS := c.mS.clear, sS := c.sS.clear,
                    cost := 0, within := none, mstop := false, sleep := none, wait := .none, bwait := .none, late := [], rwait := [], hand := none, task := some i, ended := false }
  let c := (((c.setSreg 1 (BitVec.ofNat 64 t.frame)).setSreg 2 (BitVec.ofNat 64 t.lid)).setSreg 3 (BitVec.ofNat 64 l)).setSreg 4
    (BitVec.ofNat 64 (if t.gang = 1 then 0 else m))
  let c := (c.setCsr 0x010 (BitVec.ofNat 64 t.kslot)).setCsr 0x014 0
  (c.setCsr 0x011 (BitVec.ofNat 64 t.lid)).setCsr 0x012 (BitVec.ofNat 64 l)

end Sys2Proof.Machine
end

