-- ==== Sys2Proof/Machine/Landing.lean ====
section
/-! DEFINITION. What happens to the work a core has issued: loads are delivered, stores and atomics perform or land, markers retire,
barriers release, polls and sleeps end, translations and blaze-cache entries are filled. An event whose condition does not hold
changes nothing. -/

namespace Sys2Proof.Machine

/-! ### Loads (R127, R141 to R144) -/

/-- Whether what a source holds is not the package's to say: it is another device's, or was lost with its die. -/
def State.elsewhere (s : State) (p : Place) : Bool :=
  match p with
  | .remote _ _ => true
  | .phys _ g => g.any (fun c => s.homeLost c.pa)
  | _ => false

/-- Bytes that come from elsewhere. -/
def State.otherBytes (s : State) (l : List (Place × Nat)) : Nat := (l.map (fun e => if s.elsewhere e.1 then e.2 else 0)).sum

/-- Bytes [o, o + n) of a place. -/
def Place.slice (p : Place) (o n : Nat) : Place :=
  match p with
  | .wbuf x => .wbuf (x + o)
  | .abuf x => .abuf (x + o)
  | .peer m x => .peer m (x + o)
  | .phys a g => .phys (wrap64 (a + o)) (segSlice g o n)
  | .remote d x => .remote d (x + o)

/-- Bytes [o, o + n) of a list of sources, as places with lengths. -/
def sliceSources : List (Place × Nat) → Nat → Nat → List (Place × Nat)
  | [], _, _ => []
  | (p, k) :: r, o, n =>
    if n = 0 then []
    else if k ≤ o then sliceSources r (o - k) n
    else
      let m := min n (k - o)
      (p.slice o m, m) :: sliceSources r 0 (n - m)

/-- The next bytes a load binds: `k` elements of it, or all that are left for 0 (R259). -/
def LoadEnt.next (e : LoadEnt) (k : Nat) : List (Place × Nat) :=
  let left := (e.sources.map (fun p => p.2)).sum - e.got.length
  sliceSources e.sources e.got.length (if k = 0 then left else min left (k * e.unit))

/-- Whether the oldest load of a stream can bind some of its bytes: nothing it reads is still carried inside the core (R127, R261), no write
of an earlier STOPT word is still to come there (R154), and a tile register it writes is not open. -/
def CoreSt.loadReady (c : CoreSt) (t : Strm) (e : LoadEnt) (l : List (Place × Nat)) : Bool :=
  l.all (fun p => !c.blocked t e.seq p.1) &&
    (match e.fin with
     | .tile _ _ _ _ _ (some k) => !(c.tile k).f
     | .opt _ _ _ _ _ after => (c.strm t).stores.all (fun x => !after.contains x.seq ||
         l.all (fun p => x.elems.all (fun y => !placesMeet y.place p.1)))
     | _ => true)

/-- The bytes of each source in order; `rem` are those from elsewhere still to be used. -/
def State.gatherBytes (s : State) (core : Nat) : List (Place × Nat) → List Byte → List Byte
  | [], _ => []
  | (p, n) :: r, rem =>
    if s.elsewhere p then rem.take n ++ State.gatherBytes s core r (rem.drop n)
    else s.readPlace core n p ++ State.gatherBytes s core r rem

/-- Bytes in stretches of given lengths. -/
def splitLens : List Nat → List Byte → List (List Byte)
  | [], _ => []
  | n :: r, l => l.take n :: splitLens r (l.drop n)

/-- Rows written to buffers of a core, each as (place, bytes, β), with the tags of R134. -/
def CoreSt.putRows (c : CoreSt) (f : Nat) (rows : List (Place × List Byte × W32)) : CoreSt :=
  let c := rows.foldl (fun c r => match r.1 with
    | .wbuf o => c.wWrite o r.2.1 f r.2.2
    | .abuf o => c.aWrite o r.2.1 r.2.2
    | _ => c) c
  let w := rows.filterMap (fun r => match r.1 with
    | .wbuf o => some (o, r.2.1.length, r.2.2)
    | _ => none)
  let a := rows.filterMap (fun r => match r.1 with
    | .abuf o => some (o, r.2.1.length, r.2.2)
    | _ => none)
  { c with wtags := tagCover c.wtags w, atags := tagCover c.atags a }

/-- One row converted (R141): its bytes, its conversions, its original and converted values. -/
def convRow (src dst rm : Nat) (spare : W32) (b : List Byte) : List Byte × List Conv × List (XV × XV × Bool) :=
  let cs := (elems src b).take 128
  let r := cs.map (fun c => convElem src dst rm spare c)
  (packElems dst (r.map (fun k => k.code)), r,
    (cs.zip r).map (fun e => (xvElem src spare e.1, xvElem dst spare e.2.code, e.2.sat)))

/-- The rows of a block load with their data put in, and what LDC counts: the largest error of the word is the β of every row that is
not padding. A row of padding counts no saturation and no NaN, which the spec does not say (log entry 30). -/
def loadedRows (f : Nat) (v : RowConv) (pad : List Byte) : List LoadRow → List (List Byte) →
    List (Place × Option (List Byte × List Conv × List (XV × XV × Bool)))
  | [], _ => []
  | r :: rs, ds =>
    match r.src, ds with
    | some _, d :: ds =>
      (match v with
       | .copy => (r.dst, some (d, [], []))
       | .conv src dst rm sp => (r.dst, some (convRow src dst rm sp d))) :: loadedRows f v pad rs ds
    | _, ds => (r.dst, none) :: loadedRows f v pad rs ds

/-- The stores of a STOPT word take the values its load has brought, in the order of their numbers (R154). -/
def fillOpt (vs : List W32) (e : StoreElem) : StoreElem :=
  match e.op with
  | .optw i held ph =>
    let d := toLE 4 (vs.getD i 0).toNat
    { e with op := match held with
        | none => .write d
        | some (b, k) => .dwrite d b k ph }
  | _ => e

/-- A load's data delivered (Table 5-5, R142, R144, R154); `bound` is the bound in the header of an LDT's version. -/
def CoreSt.deliver (c : CoreSt) (e : LoadEnt) (bound : W32) (ds : List (List Byte)) : CoreSt :=
  match e.fin with
  | .creg d n _ =>
    let v := leNat (ds.headD [])
    c.setSreg d (if n = 4 then sx64 (BitVec.ofNat 32 v) else BitVec.ofNat 64 v)
  | .rows f v pad rs =>
    let l := loadedRows f v pad rs ds
    let got := l.filterMap (fun r => r.2)
    let k := countConv (got.flatMap (fun g => g.2.1))
    let beta : W32 := match v with
      | .copy => 0
      | .conv _ _ _ _ => convError (got.flatMap (fun g => g.2.2))
    (c.putRows f (l.map (fun r => match r.2 with
      | some g => (r.1, g.1, beta)
      | none => (r.1, pad, 0)))).cvcnt k.1 k.2
  | .fill f row dsts => c.putRows f (dsts.map (fun p => (p, row, 0)))
  | .gather f d m sp src =>
    let vs := (src.zip ds).map (fun x => (x.1.1, laneOf f sp (leNat x.2 % 2 ^ fmtBits f)))
    c.putVreg d.toNat m (vecOf (fun i => (find? vs i).getD 0))
  | .tile f _ h v dsts reg =>
    let data := ds.headD []
    match reg with
    | some k => c.setTile k ((c.tile k).loaded (decide (f = 5)) (tileRows f data) bound h v)
    | none =>
      let n := fmtBytes f 128
      c.putRows f (((List.range dsts.length).zip dsts).map (fun r => (r.2, (data.drop (r.1 * n)).take n, bound)))
  | .shape _ _ _ => c
  | .opt adam par grad _ st _ =>
    let vs := optRowsOut adam par grad (ds.map (fun b => (elems 0 b).map (fun c => BitVec.ofNat 32 c)))
    { c with sS := { c.sS with stores := c.sS.stores.map (fun e => if e.seq = st then { e with elems := e.elems.map (fillOpt vs) } else e) } }

/-- The load as it goes on now: an LDT finds its version where it lives at this moment, and starts again from its first element when that has moved
since its first bytes were bound (R142, R397). -/
def State.loadNow (s : State) (core : Nat) (e : LoadEnt) : Res LoadEnt :=
  match e.fin with
  | .tile f p h v dsts reg => (s.tilePlace core h v f).map (fun q => if q.1 = p then e else { e with fin := .tile f q.1 h v dsts reg, got := [] })
  | _ => .ok e

/-- A load that waits for a version: its priority reaches the run that rebuilds it (R336); once its context drains it is set aside, and restarts when
the context goes on (R104, R142). -/
def State.loadWaits (s : State) (core : Nat) (t : Strm) (e : LoadEnt) : State :=
  let x := s.ctxNoOf core
  if (s.ctxOf x).st = .draining then s.setCoreOf core ((s.coreOf core).freeze t e.seq)
  else if (s.ctxOf x).st = .running then (s.raiseRebuilds x).checkHeads x
  else s

/-- A load of the current core meets a cause at byte o of its sources. -/
def State.loadFault (s : State) (t : Strm) (e : LoadEnt) (o code addr detail : Nat) : State :=
  s.accessFault t e.seq e.tl e.pc (e.elemAt o) id code addr detail

/-- Sources translated anew where a frame of them has been poisoned since, up to the first that meets a cause. -/
def State.refreshAll (s : State) (core kind : Nat) : List (Place × Nat) → List (Place × Nat) × Option (Place × Nat × Nat × Nat)
  | [] => ([], none)
  | (p, n) :: r =>
    match s.refresh core false kind p with
    | .ok q => ((q, n) :: (s.refreshAll core kind r).1, (s.refreshAll core kind r).2)
    | .error (.cause c a d) => ([], some (p, c, a, d))
    | .error (.at c a d _) => ([], some (p, c, a, d))
    | .error .wait => ([], none)

/-- KIND of Table 15-8 of a load. -/
def LoadEnt.kind (e : LoadEnt) : Nat :=
  match e.fin with
  | .gather _ _ _ _ _ => 5
  | .opt _ _ _ _ _ _ => 2
  | _ => 0

/-- The oldest load of stream `t` of the current core with its entry replaced. -/
def State.setLoad (s : State) (t : Strm) (e : LoadEnt) : State :=
  s.setSm t { s.sm t with loads := (s.sm t).loads.map (fun l => if l.seq = e.seq then e else l) }

/-- A load leaves its queue. -/
def StreamSt.endLoad (m : StreamSt) (e : LoadEnt) : StreamSt := { m with loads := m.loads.filter (fun l => l.seq != e.seq) }.closeNum e.tl

/-- The oldest load of a stream of the current core has bound every byte of its sources: it is delivered. An LDT whose data fail the check of R143 waits
for its version and reads it again; LDSH goes on from the header to the table (R245). -/
def State.finishLoad (s : State) (t : Strm) (e : LoadEnt) : State :=
  let give (bound : W32) : State :=
    let c := s.core.deliver e bound (splitLens (e.sources.map (fun p => p.2)) e.got)
    s.setCore (c.setStrm t ((c.strm t).endLoad e))
  match e.fin with
  | .tile f _ h v dsts reg =>
    (match s.tilePlace s.cur h v f with
     | .ok q =>
       let hd := s.readSegs q.2
       if (crc64 e.got).toNat = fieldLE hd 0x18 8 then give (asBound (BitVec.ofNat 32 (fieldLE hd 0x14 4)))
       else (s.setLoad t { e with got := [] }).tileFail f h v dsts reg
     | .error _ => s)
  | .shape m src tab =>
    let b := e.got.take 256
    (match s.shapeHeader src.ptr b, tab with
     | .error (.cause c a d), _ => s.loadFault t e 0 c a d
     | .error _, _ => s
     | .ok (some p), none => (s.touch s.ctxNo p.1.dies).setLoad t { e with fin := .shape m src (some p) }
     | .ok _, _ =>
       if ascending (words4 (e.got.drop 256)) then
         let s := s.cacheShape m src.ptr b src
         s.setSm t ((s.sm t).endLoad e)
       else s.loadFault t e 0 0x0C1 0 0)
  | _ => give 0

/-- The oldest load of a stream of the current core binds the bytes of some of its sources, up to the first that meets a cause; when that is the
first of them, its cause is taken (Table 15-5). -/
def State.bindLoad (s : State) (t : Strm) (e : LoadEnt) (l : List (Place × Nat)) (data : List Byte) : State :=
  match s.refreshAll s.cur e.kind l with
  | ([], some (p, c, a, d)) => s.loadFault t e (e.got.length + (if a = 0 then 0 else (a + 2 ^ 64 - p.ptr) % 2 ^ 64)) c a d
  | (l, _) =>
    let e := { e with got := e.got ++ s.gatherBytes s.cur l data }
    let s := s.setLoad t e
    if e.got.length < (e.sources.map (fun p => p.2)).sum then s else s.finishLoad t e

/-- LOAD_DATA_ARRIVAL: the oldest load of a stream binds elements of its sources, and is delivered once it has
bound them all. -/
def execLoadDataArrival (core : Nat) (t : Strm) (a : Arrival) (s : State) : Host.Outcome State Fault Refusal :=
  match ((s.coreOf core).strm t).loads with
  | [] => .next s
  | e :: _ =>
    match s.loadNow core e with
    | .error .wait => .next (s.loadWaits core t e)
    | .error (.cause c p d) => .next (s.onCore core (fun s => s.loadFault t e 0 c p d))
    | .error (.at c p d _) => .next (s.onCore core (fun s => s.loadFault t e 0 c p d))
    | .ok e =>
      let l := e.next a.k
      if !(s.coreOf core).loadReady t e l ∨ a.data.length ≠ s.otherBytes l then .next s
      else .next (s.onCore core (fun s => s.bindLoad t e l a.data))

/-! ### Stores and atomics (R261, R262, R283, R383) -/

/-- Whether an operation writes memory when it performs, without returning a value. -/
def StoreOp.isWrite : StoreOp → Bool
  | .write _ => true
  | .fma _ _ _ _ => true
  | _ => false

/-- Whether an operation is an atomic, WAKE, the arrival of a BARA, or a ring word. -/
def StoreOp.isAtomic : StoreOp → Bool
  | .qtag _ _ _ => true
  | .qclaim _ _ _ _ => true
  | .atom _ _ _ _ _ => true
  | .wake _ => true
  | .arrive _ _ => true
  | _ => false

/-- Whether an operation lands on the ordered-update path. -/
def StoreOp.isHeld : StoreOp → Bool
  | .dwrite _ _ _ _ => true
  | _ => false

/-- Whether an operation is an ordered-reduction contribution. -/
def StoreOp.isAredo : StoreOp → Bool
  | .ared _ _ _ _ _ _ => true
  | _ => false

/-- The oldest store of a window performs, `k` elements of it (0 for all of its first kind), when they are of a kind and nothing goes before
them. -/
def State.performIf (s : State) (core : Nat) (t : Strm) (win k : Nat) (f : StoreOp → Bool) : State :=
  match ((s.coreOf core).strm t).oldest win f with
  | some e => if s.mayPerform core t e then s.onCore core (fun s => s.performSome core t win k f) else s
  | none => s

/-- MEMORY_WRITE_PERFORM; core 256, which is none, stands for the Jecel port and its MWRITE (R472). -/
def execMemoryWritePerform (core : Nat) (t : Strm) (win k : Nat) (s : State) : Host.Outcome State Fault Refusal :=
  .next (if core = 256 then s.portDone else s.performIf core t win k StoreOp.isWrite)

/-- ATOMIC_PERFORM: one lane of a SATOM, or several. -/
def execAtomicPerform (core : Nat) (t : Strm) (p : Portion) (s : State) : Host.Outcome State Fault Refusal :=
  .next (s.performIf core t p.win p.k StoreOp.isAtomic)

/-- D_PAGE_WRITE_LAND. -/
def execDPageWriteLand (core : Nat) (t : Strm) (win k : Nat) (s : State) : Host.Outcome State Fault Refusal :=
  .next (s.performIf core t win k StoreOp.isHeld)

/-- AREDO_LAND. -/
def execAredoLand (core win : Nat) (s : State) : Host.Outcome State Fault Refusal :=
  .next (s.performIf core .C win 0 StoreOp.isAredo)

/-! ### Markers and barriers (R271, R272, R294) -/

/-- Whether every marker of a PHMARK has retired. -/
def State.markerReady (s : State) (core : Nat) (m : MarkEnt) : Bool :=
  let c := s.coreOf core
  let x := s.ctxOf (s.ctxNoOf core)
  (!bit m.mask 0 || c.cS.storesDone m.cSeq) && (!bit m.mask 1 || c.lS.loadsDone m.lSeq) &&
    (!bit m.mask 2 || decide (m.vNum ≤ c.vS.completed)) && (!bit m.mask 3 || decide (m.mNum ≤ c.mS.completed)) &&
    (!bit m.mask 4 || c.sS.storesDone m.sSeq) && (!bit m.mask 5 || m.copies.all (fun q => decide (q.2 ≤ (x.cq q.1).completed))) &&
    (!bit m.mask 6 || (c.links.all (fun o => decide (m.link ≤ o.cmd)) &&
      s.fabric.groups.all (fun g => g.2.pendJoin.all (fun j => j.1 != core || decide (m.link ≤ j.2.1)))))

/-- MARKER_RETIRE: the marker arrival of a PHMARK is delivered and its number completes. -/
def execMarkerRetire (core idx : Nat) (s : State) : Host.Outcome State Fault Refusal :=
  match (s.coreOf core).marks[idx]? with
  | none => .next s
  | some m =>
    if !s.markerReady core m then .next s
    else .next (s.onCore core (fun s =>
      let s := s.markArrive m.bar m.phase
      let c := s.core
      s.setCore { c with marks := c.marks.filter (fun e => e.cmd != m.cmd), cS := c.cS.finishNum m.cmd }))

/-- The context whose map holds a record: it owns the record's flag and bundle pointers. -/
def State.barOwner (s : State) (b : Nat) : Option Nat :=
  (s.ctxs.find? (fun c => c.2.st != .free && c.2.sync.any (fun e => e.barriers.any (fun o => syncBase e.die e.frame + o == b)))).map (fun c => c.1)

/-- Whether the write-acknowledge count of every core that has marked the phase being closed is zero (R272). -/
def State.acksIn (s : State) (b : Nat) : Bool :=
  let ph := (s.bar b).phase
  s.cores.all (fun c => match find? c.2.marked b with
    | some q => decide (2 ^ 31 ≤ (q + 2 ^ 32 - ph) % 2 ^ 32) || c.2.wacks == 0
    | none => true)

/-- BARRIER_PHASE_RELEASE. -/
def execBarrierPhaseRelease (b : Nat) (s : State) : Host.Outcome State Fault Refusal :=
  match s.barOwner b with
  | none => .next s
  | some x =>
    let r := s.bar b
    if r.st ≠ 2 ∨ r.pend ≠ 0 ∨ ¬s.acksIn b then .next s
    else
      let k := (((s.coresOfCtx x).find? (fun c => c.1 == 0)).map (fun c => c.2)).getD 0
      .next ((s.releaseBar x k b).checkHeads x)

/-! ### Waits that time ends (R120, R304) -/

/-- WAITA_POLL; a poll that meets a poisoned frame ends the wait, and the word, which starts again, takes its cause (Table 15-5). -/
def execWaitaPoll (core : Nat) (s : State) : Host.Outcome State Fault Refusal :=
  match (s.coreOf core).wait with
  | .poll w =>
    if s.placeBad (.phys w.ptr [⟨w.pa, 8⟩]) then .next (s.setCoreOf core { s.coreOf core with wait := .none }) else
    let v := BitVec.ofNat 64 (s.readN w.pa 8)
    .next (if waitHolds w v ∧ ¬s.homeLost w.pa ∧ ¬(s.coreOf core).covered .C (.phys 0 [⟨w.pa, 8⟩]) then s.wake core v else s)
  | _ => .next s

/-- SLEEP_EXPIRY. -/
def execSleepExpiry (core : Nat) (s : State) : Host.Outcome State Fault Refusal :=
  match (s.coreOf core).sleep with
  | some _ => .next (s.setCoreOf core { s.coreOf core with sleep := some 0 })
  | none => .next s

/-! ### Translations and the blaze cache (R242, R246, R357, R364) -/

/-- TRANSLATION_WALK: the translation of an address enters the micro-TLB of a core, from the last-level TLB of its die when that holds it, else
from a walk, which enters both; a walk that faults leaves nothing (R364). Full TLBs lose their oldest entry. -/
def execTranslationWalk (who : Filling) (win va : Nat) (s : State) : Host.Outcome State Fault Refusal :=
  let core := who.core
  let x := s.ctxNoOf core
  let d := dieOfCore core
  let out (l : List TlbEnt) : List TlbEnt := l.filter (fun t => !t.covers x win va)
  let c := s.coreOf core
  let s := if who.evict = 0 then s else s.setCoreOf core { c with utlb := out c.utlb }
  let s := if who.evict < 2 then s else s.setDieOf d { s.dieOf d with tlb := out (s.dieOf d).tlb }
  if (win ≠ 4 ∧ win ≠ 5) ∨ (s.coreOf core).utlb.any (fun t => t.covers x win va) then .next s
  else
    let enter (s : State) (e : TlbEnt) : State := s.setCoreOf core { s.coreOf core with utlb := (e :: (s.coreOf core).utlb).take 64 }
    match (s.dieOf d).tlb.find? (fun t => t.covers x win va) with
    | some e => .next (enter s e)
    | none =>
      match walkRoot s x win va false with
      | .ok l =>
        let e : TlbEnt := ⟨x, win, va / l.size * l.size, l.size, l.leaf⟩
        .next (enter (s.setDieOf d { s.dieOf d with tlb := (e :: (s.dieOf d).tlb).take 4096 }) e)
      | .error _ => .next s

/-- BLAZE_CACHE_REFILL: the entry a waiting word of a stream wants is filled, or the word takes its cause. -/
def execBlazeCacheRefill (core : Nat) (t : Strm) (s : State) : Host.Outcome State Fault Refusal :=
  match (s.coreOf core).want.find? (fun w => w.1 == t) with
  | none => .next s
  | some (_, a, v) =>
    let m := (s.coreOf core).strm t
    if ¬m.run ∨ ¬m.waiting ∨ (s.ctxOf (s.ctxNoOf core)).st ≠ .running then .next s
    else
      let s := { s with cur := core }
      let n := s.setCore (s.core.noWant t)
      if s.core.blaze.any (fun b => b.addr == a && b.ver == v) then .next n.flushPosts
      else match s.refillRec t a v with
      | .ok e => .next (n.cacheRec e).flushPosts
      | .error .wait => .next s
      | .error (.cause c p d) => .next (n.raise t (n.siteE t 0) c p d).flushPosts
      | .error (.at c p d _) => .next (n.raise t (n.siteE t 0) c p d).flushPosts

/-! ### Task queues (R314, R330) -/

/-- TASK_QUEUE_TAKE: the scheduler takes the head of a task queue; a READY task becomes dispatchable. The slot
is released in the same step, the model's choice (log entry 55). -/
def execTaskQueueTake (q : Nat) (s : State) : Host.Outcome State Fault Refusal :=
  let k := s.queueOf q
  if k.kind ≠ 0 ∨ (k.st ≠ .active ∧ k.st ≠ .draining) ∨ !s.qReady k then .next s
  else
    let j := k.h
    let s := (s.setQueueOf q { k with h := (j + 1) % 2 ^ 32 }).qRelease q j
    match s.tasks.find? (fun t => t.2.origin == .queue q j false) with
    | none => .next s
    | some (i, t) =>
      let s := s.setTask i { t with origin := .queue q j true }
      .next (if t.st = .ready then (s.enterPool i).checkHeads t.ctx else s)

end Sys2Proof.Machine
end

