-- ==== Sys2Proof/Machine/Link.lean ====
section
/-! DEFINITION. The remote window at its target, and the LINK words with the operations of collective groups (R429 to R440, R461 to
R463). -/

namespace Sys2Proof.Machine

/-! ### The exported window at its target (R429) -/

/-- The segments of n bytes at an offset of the exported window; none outside it, or when its pages do not allow the access. -/
def State.exportSegs (s : State) (off n : Nat) (wr : Bool) : Option (List Seg) :=
  match s.fabric.exported with
  | none => none
  | some e =>
    if e.len < off + n then none
    else match xlate s .tables e.ctx 4 (bits e.base 55 0 + off) n wr 0 with
      | .ok l => some (l.map (fun c => c.seg))
      | .error _ => none

/-- Bytes written by another device, or by a multicast of this one, at an offset of the exported window. -/
def State.exportWrite (s : State) (off : Nat) (data : List Byte) : State :=
  match s.exportSegs off data.length true with
  | some g => s.perform g data
  | none => s

/-! ### Numbers (R437) -/

/-- `comb` of R437: values in ascending rank with their clash flags. -/
def combLink (v : List (W32 × Bool)) : W32 × Bool :=
  match v.find? (fun e => isNaN32 e.1 && !e.2) with
  | some e => (e.1, false)
  | none =>
    if v.any (fun e => e.2) ∨ (v.any (fun e => e.1 == 0x7F800000) ∧ v.any (fun e => e.1 == 0xFF800000)) then (0x7FC00003, true)
    else match v with
      | [] => (0, false)
      | e :: r => (r.foldl (fun a x => fadd 0 a x.1) e.1, false)

/-- An FP32 pattern rounded to BF16 (R68, R78). -/
def bf16Of (x : W32) : BitVec 16 := BitVec.ofNat 16 (toBF16 0 (some x) (xv32 x)).code

/-- The FP32 pattern of a BF16 code. -/
def wideOf (x : BitVec 16) : W32 := x.setWidth 32 <<< 16

/-- Elements of a list of bytes as FP32 patterns: FMT 0 FP32, 1 BF16. -/
def linkElems (fmt n : Nat) (b : List Byte) : List W32 :=
  (List.range n).map (fun i => if fmt = 0 then BitVec.ofNat 32 (fieldLE b (4 * i) 4) else wideOf (BitVec.ofNat 16 (fieldLE b (2 * i) 2)))

/-- The contribution of one package: element by element, its cores' values in logical order combined and rounded. -/
def packContribution (n : Nat) (vs : List (List W32)) : List (BitVec 16 × Bool) :=
  (List.range n).map (fun j =>
    let c := combLink (vs.map (fun v => (v.getD j 0, false)))
    (bf16Of c.1, c.2))

/-- The result of an operation from the contributions in rank order. -/
def linkResult (n : Nat) (cs : List (List (BitVec 16 × Bool))) : List W32 :=
  (List.range n).map (fun j =>
    let c := combLink (cs.map (fun v => let e := v.getD j (0, false); (wideOf e.1, e.2)))
    if c.2 then 0x7FC00003 else wideOf (bf16Of c.1))

/-! ### Groups -/

/-- Collective group n, when its entry is in use. -/
def State.groupAt (s : State) (n : Nat) : Option CGroup := find? s.fabric.groups n

/-- The state with a group record replaced. -/
def State.setGroup (s : State) (n : Nat) (g : CGroup) : State := { s with fabric := { s.fabric with groups := setKey s.fabric.groups n g } }

/-- The group a register names (R434). -/
def State.linkGroup (s : State) (r : Reg) : Res (Nat × CGroup) := do
  let v ← s.rd r
  match (if v.toNat < 1024 then s.groupAt v.toNat else none) with
  | some g => if g.ctx = s.ctxNo then .ok (v.toNat, g) else stop 0x090
  | none => stop 0x090

/-- A BROKEN group (R434), then an unchecked status of an earlier word (R440). -/
def State.linkAllowed (s : State) (g : Option CGroup) : Res Unit := do
  need ((g.map (fun g => g.st)) != some .broken) 0x182
  match s.core.linkCause with
  | some c => stop c
  | none => .ok ()

/-- The data words on group n of a context that are not complete. -/
def State.linkOps (s : State) (x n : Nat) : List (Nat × LinkOp) :=
  (s.coresOfCtx x).flatMap (fun c => ((s.coreOf c.2).links.filter (fun o => match o.kind with
    | .mcst l => l == n
    | .ldred l _ => l == n
    | .send _ => false)).map (fun o => (c.2, o)))

/-! ### Descriptors (R435, Table 19-6) -/

/-- A link descriptor. -/
structure LDesc where
  fmt : Nat
  count : Nat
  srch : Nat
  dsth : Nat
  srco : Nat
  dsto : Nat
  flagp : Nat

/-- The fields of 64 bytes; 0x184 for one outside the table. `red` is LKLDRED. -/
def linkDesc (red : Bool) (b : List Byte) : Res LDesc := do
  let d : LDesc := ⟨fieldLE b 0 4, fieldLE b 4 4, fieldLE b 8 2, fieldLE b 10 2, fieldLE b 16 8, fieldLE b 24 8, fieldLE b 32 8⟩
  let e := if red then (if d.fmt = 0 then 4 else 2) else 64
  need (decide (d.fmt ≤ 1) && decide (d.srch < 4096) && decide (d.dsth < 4096) && zeroBytes b 12 4 && zeroBytes b 40 24) 0x184
  need (if red then decide (1 ≤ d.count) && decide (d.count ≤ 65536)
    else d.count % 64 == 0 && decide (64 ≤ d.count) && decide (d.count ≤ 2 ^ 24) && d.dsth == 0) 0x184
  need (d.srco % e == 0 && d.dsto % e == 0) 0x184
  need (d.flagp == 0 || ((bits d.flagp 63 60 == 4 || bits d.flagp 63 60 == 7) && d.flagp % 4 == 0)) 0x184
  .ok d

/-- Whether a handle is of KIND 0, 1 or 3. -/
def Handle.linkKind (h : Handle) : Bool := h.kind == 0 || h.kind == 1 || h.kind == 3

/-- The offset of the first byte of some segments that lies on a poisoned frame. -/
def State.firstBad (s : State) : List Seg → Option Nat
  | [] => none
  | g :: r =>
    match (List.range ((g.pa % 65536 + g.len + 65535) / 65536)).find? (fun k => s.poisoned ((g.pa / 65536 + k) * 65536)) with
    | some k => some ((g.pa / 65536 + k) * 65536 - g.pa)
    | none => (State.firstBad s r).map (fun o => g.len + o)

/-- The cause of a data word whose side meets a poisoned frame: 0x084 at the first byte there, described as a translation of that byte
would (Tables 15-5 and 15-8). -/
def State.badSide (s : State) (h : Handle) (o : Nat) (wr : Bool) (g : List Seg) : Stop :=
  let p := wrap64 (h.vbase + o + (s.firstBad g).getD 0)
  let win := bits p 63 60
  let lv : Nat := match translate s .tables s.ctxNo win (bits p 55 0) wr with
    | .error (0x084, lv) => lv
    | _ => 0
  .cause 0x084 p (win * 4096 + lv * 256 + wr.toNat)

/-- One side of a data word: n bytes at offset o of a handle, on frames that are not poisoned (Table 15-5). -/
def State.linkSide (s : State) (idx o n : Nat) (wr : Bool) : Res (Handle × Place) := do
  let (h, e) ← s.useHandle idx (fun h => h.linkKind && (!wr || h.w)) n 1 o 0
  let p := e.place o n
  if s.placeBad p then .error (s.badSide h o wr p.segs) else .ok (h, p)

/-! ### LKMCST, LKSEND and LKLDRED -/

/-- What the three data words share after their group or device is known: the descriptor read, the source read, the flag checked;
then the release that comes before the number (R434). The state answered has touched the dies of descriptor and flag (R13). -/
def State.linkPlan (s : State) (red : Bool) (d a : Reg) (lim : LDesc → Res Unit) : Res (LDesc × Place × LinkOp × State) := do
  let p ← s.rd a
  await (!s.core.busy d && decide (s.core.links.length < 64))
  let b ← s.readC p.toNat 64 64 0x184
  let x ← linkDesc red b
  lim x
  let n := if red then fmtBytes (if x.fmt = 0 then 0 else 1) x.count else x.count
  let (_, src) ← s.linkSide x.srch x.srco n false
  let dst ← if !red then .ok (Place.remote 0 x.dsto) else do
    let (h, q) ← s.linkSide x.dsth x.dsto n true
    need (!h.d && !h.t) 0x184
    .ok q
  let (ftag, fd) ← s.checkFlag x.flagp
  await (s.released 3)
  .ok (x, src, { cmd := 0, kind := .send 0, fmt := x.fmt, count := x.count, off := x.dsto, dsth := x.dsth, dst := dst,
                 data := s.readPlace s.cur n src, flag := x.flagp, ftag := ftag, st := none },
       (s.touchC p.toNat 64).touch s.ctxNo fd)

/-- A data word takes its number and stands outstanding; `ack` says that it raises the write-acknowledge count (R430). -/
def State.linkIssue (s : State) (d : Reg) (src : Place) (ack : Bool) (o : LinkOp) : Res State := do
  let s := s.touch s.ctxNo (src.dies ++ o.dst.dies)
  let (n, s) := s.tlc
  let s := s.setCore { s.core with links := s.core.links ++ [{ o with cmd := n }], wacks := s.core.wacks + ack.toNat }
  s.wr d (BitVec.ofNat 64 n)

/-- LKMCST. -/
def execLkmcst (d a b : Reg) (s : State) : Host.Outcome State Fault Refusal :=
  finish true (do
    let (l, g) ← s.linkGroup b
    s.linkAllowed (some g)
    let (x, src, o, s) ← s.linkPlan false d a (fun x => need (decide (x.dsto + x.count ≤ g.minexp)) 0x184)
    (s.send (.linkStore l x.dsto o.data)).linkIssue d src true { o with kind := .mcst l }) s

/-- LKSEND. -/
def execLksend (d a b : Reg) (s : State) : Host.Outcome State Fault Refusal :=
  finish true (do
    let v ← s.rd b
    s.linkAllowed none
    let dev := v.toNat % 2 ^ 20
    let (x, src, o, s) ← s.linkPlan false d a (fun x =>
      match s.fabric.reach.find? (fun e => e.1 == dev) with
      | none => stop 0x183
      | some (_, len, _) => need (decide (x.dsto + x.count ≤ len)) 0x185)
    (s.send (.remoteStore dev x.dsto o.data)).linkIssue d src true { o with kind := .send dev }) s

/-- The words of operation n of a group on this package in logical order, once every contributing core has issued its own (R461). -/
def State.localOps (s : State) (x l n loc : Nat) : Option (List LinkOp) :=
  let os := (s.coresOfCtx x).filterMap (fun c => (s.coreOf c.2).links.find? (fun o => o.kind == .ldred l n))
  if loc ≤ os.length then some os else none

/-- Whether the words of an operation name one result (R461). -/
def sameOps : List LinkOp → Bool
  | [] => true
  | o :: r => r.all (fun q => q.fmt == o.fmt && q.count == o.count && q.dsth == o.dsth && q.off == o.off)

/-- The contribution of this package leaves it when its last core has issued; one whose words differ is empty. -/
def State.contribute (s : State) (x l n loc : Nat) : State :=
  match s.localOps x l n loc with
  | none => s
  | some os =>
    let c := (os.headD ⟨0, .send 0, 0, 0, 0, 0, .remote 0 0, [], 0, none, none⟩).count
    s.send (.contribution l n (os.headD ⟨0, .send 0, 0, 0, 0, 0, .remote 0 0, [], 0, none, none⟩).fmt (if sameOps os then packContribution c (os.map (fun o => linkElems o.fmt o.count o.data)) else []))

/-- The state with the status of data words on a group settled, where none is yet. -/
def State.settleLinks (s : State) (x l : Nat) (f : LinkOp → Option LinkStatus) : State :=
  s.forEach (s.linkOps x l) (fun e s =>
    let c := s.coreOf e.1
    s.setCoreOf e.1 { c with links := c.links.map (fun o => if o.cmd = e.2.cmd ∧ o.st = none then { o with st := f o } else o) })

/-- An operation that has failed completes this package's words on it once all of them have issued (R461, R463). -/
def State.settleFailed (s : State) (l n : Nat) : State :=
  match s.groupAt l with
  | none => s
  | some g =>
    match find? g.failed n, s.localOps g.ctx l n g.loc with
    | some st, some _ => s.settleLinks g.ctx l (fun o => if o.kind = .ldred l n then some st else none)
    | _, _ => s

/-- LKLDRED: operation n of its group, where n counts the core's words on it; one that has failed already completes this package's words too
(R463). -/
def execLkldred (d a b : Reg) (s : State) : Host.Outcome State Fault Refusal :=
  finish true (do
    let (l, g) ← s.linkGroup b
    s.linkAllowed (some g)
    let k := s.lcoreOf s.cur
    let (_, src, o, s) ← s.linkPlan true d a (fun _ => need (decide (k < g.loc)) 0x184)
    let n := (find? g.counts k).getD 0
    let s := s.setGroup l { g with counts := setKey g.counts k (n + 1) }
    let s ← s.linkIssue d src false { o with kind := .ldred l n }
    .ok ((s.contribute s.ctxNo l n g.loc).settleFailed l n)) s

/-! ### CGJOIN, CGLEAVE and CGSTAT (R439) -/

/-- A LINK word that takes a number and stands outstanding until the switch has recorded it. -/
def State.cgPending (s : State) (l : Nat) (g : CGroup) (join : Bool) : State :=
  let (n, s) := s.tlc
  (s.setGroup l { g with pendJoin := g.pendJoin ++ [(s.cur, n, join)] }).send (.cgJoin l join)

/-- CGJOIN: it completes at once when this member is joined and no leave of it is on its way. -/
def execCgjoin (a : Reg) (s : State) : Host.Outcome State Fault Refusal :=
  finish true (do
    let (l, g) ← s.linkGroup a
    s.linkAllowed (some g)
    if g.joined.contains g.rank ∧ g.pendJoin.isEmpty then .ok (s.setC s.c.countNum) else .ok (s.cgPending l g true)) s

/-- CGLEAVE: it waits for the data words of the context on the group. -/
def execCgleave (a : Reg) (s : State) : Host.Outcome State Fault Refusal :=
  finish true (do
    let (l, g) ← s.linkGroup a
    s.linkAllowed (some g)
    await (s.linkOps s.ctxNo l).isEmpty
    .ok (s.cgPending l g false)) s

/-- The number of a group state in Table 19-3. -/
def cgCode : CgState → Nat
  | .forming => 0
  | .active => 1
  | .broken => 2

/-- CGSTAT (Table 19-7). -/
def execCgstat (d a : Reg) (s : State) : Host.Outcome State Fault Refusal :=
  finish true (do
    let (_, g) ← s.linkGroup a
    let s ← s.wr d (BitVec.ofNat 64 (g.rank % 65536 * 2 ^ 32 + (g.joined.contains g.rank).toNat * 8 + cgCode g.st))
    .ok (s.setC s.c.countNum)) s

/-! ### What completes them -/

/-- A LINK data word completes with a status: the flag writes of R438, LKSTAT of R440, its number. -/
def State.linkDone (s : State) (core : Nat) (o : LinkOp) (st : LinkStatus) : State :=
  let x := s.ctxNoOf core
  let s := if st = .ok then s else s.flagUpdate x core o.flag o.ftag (fun v => v ||| 0x80000000)
  let s := s.flagUpdate x core o.flag o.ftag (fun v => v + 1)
  let c := s.coreOf core
  let v := (c.csr 0x3F8).toNat
  let code : Nat := match st with
    | .ok => 0
    | .peerWithdrawn => 1
    | .peerAbsent => 2
    | .mismatch => 3
    | .unreachable => 4
  let v := if st = .ok then v else if bit v 63 then v ||| 2 ^ 62 else bits v 62 62 * 2 ^ 62 + 2 ^ 63 + code * 2 ^ 40 + o.cmd % 2 ^ 40
  let c := c.setCsr 0x3F8 (BitVec.ofNat 64 v)
  let ack : Nat := match o.kind with
    | .ldred _ _ => 0
    | _ => 1
  s.setCoreOf core { c with links := c.links.filter (fun e => e.cmd != o.cmd), wacks := c.wacks - ack, cS := c.cS.finishNum o.cmd }

/-- The statuses a data word can complete with now: one that is settled has that one; a store to a device out of reach is unreachable
(R430); a multicast can meet a member that is not present (R433). -/
def State.linkCan (s : State) (o : LinkOp) (st : LinkStatus) : Bool :=
  match o.st with
  | some t => st == t
  | none =>
    match o.kind with
    | .send dev => if s.fabric.reach.any (fun e => e.1 == dev) then st == .ok else st == .unreachable
    | .mcst l => (match s.groupAt l with
      | some g => (st == .ok && g.st != .broken) || st == .peerAbsent
      | none => st == .peerWithdrawn)
    | .ldred l _ => (s.groupAt l).isNone && st == .peerWithdrawn

/-- A multicast that the switch commits: this device's own exported window is written, and nothing that arrives later changes its status (R433,
R436). -/
def State.commitMcst (s : State) (core : Nat) (o : LinkOp) : State :=
  let s := s.exportWrite o.off o.data
  let c := s.coreOf core
  s.setCoreOf core { c with links := c.links.map (fun e => if e.cmd = o.cmd then { e with st := some .ok } else e) }

/-- Whether a data word is a multicast. -/
def LinkOp.isMcst (o : LinkOp) : Bool :=
  match o.kind with
  | .mcst _ => true
  | _ => false

/-- LINK_DATA_COMPLETION: the first that is OK for a multicast is its commit, the next its completion (R436). -/
def execLinkDataCompletion (core num : Nat) (st : LinkStatus) (s : State) : Host.Outcome State Fault Refusal :=
  match (s.coreOf core).links.find? (fun o => o.cmd == num) with
  | none => .next s
  | some o =>
    if !s.linkCan o st then .next s
    else .next (s.onCore core (fun s => if o.isMcst ∧ o.st = none ∧ st = LinkStatus.ok then s.commitMcst core o else s.linkDone core o st))

/-- Bytes of a result written at a place (R437); the bound of an A-buffer row written so is not stated, so it is free. -/
def State.linkWrite (s : State) (p : Place) (data : List Byte) : State :=
  match p with
  | .phys _ g => if g.any (fun c => s.homeLost c.pa) then s else s.perform g data
  | .peer k o =>
    let (v, s) := s.free
    s.setCoreOf k ((s.coreOf k).aWrite o data (v.setWidth 31 |>.setWidth 32))
  | _ => s

/-- The contributions of every rank in order, when the other ranks' are all there with the FMT and the COUNT of ours. -/
def rankOrder (g : CGroup) (fmt n : Nat) (own : List (BitVec 16 × Bool)) (others : List (Nat × Nat × List (BitVec 16 × Bool))) :
    Option (List (List (BitVec 16 × Bool))) :=
  (List.range g.nmem).mapM (fun r =>
    if r = g.rank then some own else ((find? others r).filter (fun v => v.1 == fmt && v.2.length == n)).map (fun v => v.2))

/-- COLLECTIVE_COMMIT: an operation commits with the whole result written once, at the place logical core 0 names (R461), or completes
without writing anything, PEER_ABSENT or MISMATCH, once this package's words have all issued (R433, R461). -/
def execCollectiveCommit (l op : Nat) (oc : CollOutcome) (s : State) : Host.Outcome State Fault Refusal :=
  match s.groupAt l with
  | none => .next s
  | some g =>
    match oc with
    | .fail st =>
      if (st ≠ LinkStatus.peerAbsent ∧ st ≠ LinkStatus.mismatch) ∨ g.st = CgState.broken ∨ (find? g.failed op).isSome then .next s
      else .next ((s.setGroup l { g with failed := setKey g.failed op st }).settleFailed l op)
    | .commit others =>
      match s.localOps g.ctx l op g.loc with
      | some (o :: os) =>
        if g.st = .broken ∨ !g.joined.contains g.rank ∨ ¬sameOps (o :: os) ∨ (o :: os).any (fun o => o.st.isSome) then .next s
        else
          let own := packContribution o.count ((o :: os).map (fun q => linkElems q.fmt q.count q.data))
          match rankOrder g o.fmt o.count own others with
          | none => .next s
          | some cs =>
            let res := linkResult o.count cs
            let s := s.linkWrite o.dst (res.flatMap (fun v => if o.fmt = 0 then toLE 4 v.toNat else toLE 2 (v.toNat / 65536)))
            let s := s.setGroup l { g with seq := (g.seq + 1) % 2 ^ 32 }
            .next (s.settleLinks g.ctx l (fun (q : LinkOp) => if q.kind = .ldred l op then some LinkStatus.ok else none))
      | _ => .next s

/-- A group goes BROKEN (Table 19-4): every operation still pending completes with PEER_WITHDRAWN (R433). -/
def State.breakGroup (s : State) (l : Nat) : State :=
  match s.groupAt l with
  | none => s
  | some g =>
    if g.st = .broken then s
    else (s.setGroup l { g with st := .broken }).settleLinks g.ctx l (fun o => match o.kind with
      | .mcst _ => some .peerWithdrawn
      | .ldred _ _ => some .peerWithdrawn
      | .send _ => none)

/-- COLLECTIVE_WITHDRAW. -/
def execCollectiveWithdraw (l : Nat) (s : State) : Host.Outcome State Fault Refusal := .next (s.breakGroup l)

/-- COLLECTIVE_JOIN_LEAVE_RECORDED: the record follows the switch, and the word of this member that sent it, the oldest on its way, completes (R432, R439). A leave that
breaks the group comes as COLLECTIVE_WITHDRAW, since the switch alone knows who has contributed. -/
def execCollectiveJoinLeaveRecorded (l rank : Nat) (join : Bool) (s : State) : Host.Outcome State Fault Refusal :=
  match s.groupAt l with
  | none => .next s
  | some g =>
    if g.nmem ≤ rank then .next s
    else
      let mine := if rank = g.rank then g.pendJoin.head?.toList.filter (fun e => e.2.2 == join) else []
      if rank = g.rank ∧ mine.isEmpty then .next s
      else
        let pend := if rank = g.rank then g.pendJoin.drop 1 else g.pendJoin
        let js := if join then rank :: g.joined.filter (fun r => r != rank) else g.joined.filter (fun r => r != rank)
        let all := (List.range g.nmem).all (fun r => js.contains r)
        let st : CgState := if g.st = .broken then .broken else if all then CgState.active else CgState.forming
        let s := s.setGroup l { g with joined := js, pendJoin := pend, st := st }
        .next (s.forEach mine (fun e s => s.setCoreOf e.1 { s.coreOf e.1 with cS := (s.coreOf e.1).cS.finishNum e.2.1 }))

/-! ### Arrivals from outside -/

/-- REMOTE_ACCESS_ARRIVAL: an access of another device, performed in the owning context's pages and answered (R429). A read outside the
window, or of pages that do not allow it, returns what nothing states. -/
def execRemoteAccessArrival (acc : RemoteAcc) (off : Nat) (s : State) : Host.Outcome State Fault Refusal :=
  match acc with
  | .read n =>
    (match s.exportSegs off n false with
     | some g => .next (s.send (.remoteReply (s.readSegs g)))
     | none => let (b, s) := s.freeBytes n; .next (s.send (.remoteReply b)))
  | .write data => .next ((s.exportWrite off data).send .remoteAck)
  | .atom op wide operand compare =>
    let w := if op < 64 then (if wide then 8 else 4) else fmtBytes ((op - 64) / 4) 1
    match s.exportSegs off w true with
    | none => let (b, s) := s.freeBytes w; .next (s.send (.remoteReply b))
    | some g =>
      if op < 64 then
        let r := s.atomAt g op wide operand compare
        .next (r.2.send (.remoteReply (toLE w r.1)))
      else
        let v := fmaElem ((op - 64) / 4) (op % 4) (operand.setWidth 32) (compare.setWidth 32) (leNat (s.readSegs g))
        .next ((s.perform g (toLE w v)).send .remoteAck)

/-- The first access of some entries that has been sent and not acknowledged, and the entries without it. -/
def popSent : List StoreEnt → Option ((Nat × Option (Nat × Bool)) × List StoreEnt)
  | [] => none
  | e :: r =>
    match e.sent with
    | a :: q => some (a, { e with sent := q } :: r)
    | [] => (popSent r).map (fun p => (p.1, e :: p.2))

/-- The oldest access of a core to window 0x6 that has been sent and not acknowledged: what it returns to, and the core without it. -/
def CoreSt.takeAck (c : CoreSt) : List Strm → Option (Option (Nat × Bool) × CoreSt)
  | [] => none
  | t :: r =>
    match popSent (c.strm t).stores with
    | some (a, es) => some (a.2, { c.setStrm t ({ c.strm t with stores := es } : StreamSt).finishSent with wacks := c.wacks - 1 })
    | none => CoreSt.takeAck c r

/-- WRITE_ACKNOWLEDGE (R430): the count falls by one for an access to window 0x6 that has been sent; a word whose accesses are all acknowledged
completes, and the value an atomic returns, which is the other device's, is free. Data words of LINK are acknowledged with their completion. -/
def execWriteAcknowledge (core : Nat) (s : State) : Host.Outcome State Fault Refusal :=
  match (s.coreOf core).takeAck allStrms with
  | none => .next s
  | some (d, c) => .next (s.onCore core (fun s =>
    let s := s.setCoreOf core c
    match d with
    | none => s
    | some (d, wide) => let (v, s) := s.free; s.giveBack core (some d) (if wide then v else sx64 (v.setWidth 32))))

end Sys2Proof.Machine
end

