-- ==== Sys2Proof/Machine/Runs.lean ====
section
/-! DEFINITION. The scheduler's own actions: dispatch, gangs, completion, launches, kernel verification, rebuild runs (R99, R100,
R329 to R336, R345 to R348, R399). -/

namespace Sys2Proof.Machine

/-! ### Free cores -/

/-- Whether a core is free for its partition's running context x: no task, not held by a gang, in service. -/
def State.freeCore (s : State) (x k : Nat) : Bool :=
  (s.coreOf k).task == none && !s.dev.fenced.contains k && !(s.dieOf (dieOfCore k)).lost &&
    s.tasks.all (fun t => t.2.ctx != x || (t.2.st != .claimed && t.2.st != .running) || t.2.cores.all (fun c => c.1 != k))

/-- Whether the kernel of a task is BOUND for its context (R100). -/
def State.kernelBound (s : State) (t : Task) : Bool :=
  (s.kernelOf t.kslot).st == .bound && (s.kernelOf t.kslot).bound.contains t.ctx

/-- The state with the pool of a task's die changed. -/
def State.onPool (s : State) (x die : Nat) (f : RPool → RPool) : State :=
  s.setRpool (s.ctxOf x).part die (f (s.rpool (s.ctxOf x).part die))

/-- A task back in its pool, READY or REBUILD, with its ticket (Table 13-4). -/
def State.backToPool (s : State) (i : Nat) : State :=
  match find? s.tasks i with
  | none => s
  | some t =>
    let s := s.onPool t.ctx t.die (fun p => { p with claimed := p.claimed.filter (fun j => j != i) })
    let die := s.keptDie t
    let s := s.setTask i { t with st := if t.origin = .rebuild then .rebuild else .ready, die := die, cores := [], started := [], group := none }
    (s.onPool t.ctx die (fun p => { p with tasks := p.tasks ++ [(t.level, t.ticket, i)] })).raiseRebuilds t.ctx

/-- The kernel of a task to be started is not BOUND: the task returns and the context takes cause 0x028. -/
def State.unbound (s : State) (i x : Nat) : State := (s.backToPool i).raiseCtx x 0x028 0 0 0

/-- Every member of a task starts (R101, R346): `cores` are (physical, logical) in ascending logical order. -/
def State.startAll (s : State) (i : Nat) (cores : List (Nat × Nat)) : State :=
  match find? s.tasks i with
  | none => s
  | some t =>
    let g : Option Group := if t.gang = 1 then none else
      some { st := .running, members := cores.map (fun c => c.1), bars := (List.range 16).map (fun n => (n, ⟨0, [], [], false⟩)) }
    let t := { t with st := .running, cores := cores, started := cores.map (fun c => c.1), ended := [], aband := false, sealed := [],
                      allocs := [], aredos := [], group := g }
    let s := s.setTask i t
    let s := s.onPool t.ctx t.die (fun p => { p with claimed := p.claimed.filter (fun j => j != i) })
    s.forEach ((List.range cores.length).zip cores) (fun c s => s.setCoreOf c.2.1 ((s.coreOf c.2.1).startTask i t c.2.2 c.1))

/-- A claimed gang forms when enough cores are held (Table 14-2). -/
def State.formGang (s : State) (i : Nat) : State :=
  match find? s.tasks i with
  | none => s
  | some t =>
    if t.cores.length < t.gang then s
    else if !s.kernelBound t then s.unbound i t.ctx
    else s.startAll i ((t.cores.foldl (fun a c => insertLid (c.2, c.1) a) []).map (fun e => (e.2, e.1)))

/-- A gang is CLAIMED: every free core of the partition is held for it in ascending logical number, until enough are (R333). -/
def State.claimGang (s : State) (i : Nat) : State :=
  match find? s.tasks i with
  | none => s
  | some t =>
    if !s.kernelBound t then s.unbound i t.ctx
    else
      let free := ((s.coresOfCtx t.ctx).filter (fun c => s.freeCore t.ctx c.2)).map (fun c => (c.2, c.1))
      let g : Group := { st := .forming, members := [], bars := [] }
      let s := s.setTask i { t with st := .claimed, cores := free.take t.gang, group := some g }
      (s.onPool t.ctx t.die (fun p => { p with claimed := i :: p.claimed })).formGang i

/-- A task taken from a pool for core k. -/
def State.takeTask (s : State) (k i : Nat) : State :=
  match find? s.tasks i with
  | none => s
  | some t =>
    let s := s.onPool t.ctx t.die (fun p => { p with tasks := p.tasks.filter (fun e => e.2.2 != i) })
    if 1 < t.gang then s.claimGang i
    else if !s.kernelBound t then s.unbound i t.ctx
    else s.startAll i [(k, s.lcoreOf k)]

/-! ### Serving a request (R333, R335) -/

/-- The highest level of a pool's tasks that satisfy a test of levels. -/
def RPool.top (p : RPool) (f : Nat → Bool) : Option Nat :=
  (p.tasks.filter (fun e => f e.1)).foldl (fun m e => match m with
    | some l => some (max l e.1)
    | none => some e.1) none

/-- The entry with the lowest ticket among some of a pool's tasks. -/
def lowestTicket : List (Nat × Nat × Nat) → Option (Nat × Nat × Nat)
  | [] => none
  | e :: r => match lowestTicket r with
    | some f => if f.2.1 < e.2.1 then some f else some e
    | none => some e

/-- What the pool gives a request under the gleaning rule: the entry and the new gleaning count. -/
def RPool.serve (p : RPool) : Option ((Nat × Nat × Nat) × Nat) :=
  match p.top (fun _ => true) with
  | none => none
  | some hi =>
    match p.top (fun l => decide (l < hi)) with
    | some lo =>
      if p.gc = 64 then (lowestTicket (p.tasks.filter (fun e => e.1 == lo))).map (fun e => (e, 0))
      else (lowestTicket (p.tasks.filter (fun e => e.1 == hi))).map (fun e => (e, p.gc + 1))
    | none => (lowestTicket (p.tasks.filter (fun e => e.1 == hi))).map (fun e => (e, 0))

/-- The tries of a steal attempt: the attempt count after them and the entry found. -/
def State.steal (s : State) (x k : Nat) : Nat → Nat → Nat × Option (Nat × Nat × Nat)
  | 0, a => (a, none)
  | n + 1, a =>
    let v := (s.lcoreOf k + a) % 4
    let ones := if v ≠ dieOfCore k ∧ (s.candidates x).contains v then
      (s.rpool (s.ctxOf x).part v).tasks.filter (fun e => ((find? s.tasks e.2.2).map (fun t => (t.ctx, t.gang))) == some (x, 1)) else []
    let hi := ones.foldl (fun m e => max m e.1) 0
    match lowestTicket (ones.filter (fun e => e.1 == hi)) with
    | some e => (a + 1, some e)
    | none => State.steal s x k n (a + 1)

/-- The tasks of a pool that belong to a context: only those of the RUNNING one are served (R406). -/
def State.ofCtx (s : State) (x : Nat) (l : List (Nat × Nat × Nat)) : List (Nat × Nat × Nat) :=
  l.filter (fun e => ((find? s.tasks e.2.2).map (fun t => t.ctx)) == some x)

/-- A free core's request served (R333), once no gang at the head of its level is too large (R347). -/
def State.request (s : State) (x k : Nat) : State :=
  let s := s.checkHeads x
  let die := dieOfCore k
  let p0 := s.rpool (s.ctxOf x).part die
  let p := { p0 with tasks := s.ofCtx x p0.tasks }
  let n := (s.coreOf k).dispatches
  let iv := ((s.ctxOf x).csr 0x3F1).toNat % 256
  if (s.ctxOf x).st ≠ .running then s
  else
    let s := s.setCoreOf k { s.coreOf k with dispatches := n + 1 }
    if iv ≠ 0 ∧ n % iv = 0 ∧ p.tasks.isEmpty then
      let r := s.steal x k 4 (s.coreOf k).attempts
      let s := s.setCoreOf k { s.coreOf k with attempts := r.1 }
      match r.2 with
      | some e => (s.takeTask k e.2.2).checkHeads x
      | none => s
    else
      match p.serve with
      | none => s
      | some (e, gc) => ((s.setRpool (s.ctxOf x).part die { p0 with gc := gc }).takeTask k e.2.2).checkHeads x

/-- The gang of a context that lacks cores: one that a pool of its partition has claimed. -/
def State.forming (s : State) (x : Nat) : Option (Nat × Task) :=
  (List.range 4).findSome? (fun d => (s.rpool (s.ctxOf x).part d).claimed.findSome? (fun i =>
    ((find? s.tasks i).filter (fun t => t.ctx == x && decide (t.cores.length < t.gang))).map (fun t => (i, t))))

/-- A core that has become free is held for a gang that lacks cores, on whatever die it lies (R333). -/
def State.holdCore (s : State) (x k : Nat) : State :=
  if (s.ctxOf x).st ≠ .running ∨ ¬s.freeCore x k then s
  else match s.forming x with
    | some (i, t) => (s.setTask i { t with cores := t.cores ++ [(k, s.lcoreOf k)] }).formGang i
    | none => s

/-- Every free core of a context's partition is held for a gang that lacks cores, in ascending logical number (R333). -/
def State.holdFree (s : State) (x : Nat) : State := s.forEach (s.coresOfCtx x) (fun c s => s.holdCore x c.2)

/-- DISPATCH_REQUEST: a free core of a RUNNING context asks its die's pool; while a gang lacks cores, no core is free for another task: those
that have become free are held for it. -/
def execDispatchRequest (k : Nat) (s : State) : Host.Outcome State Fault Refusal :=
  let x := s.ctxNoOf k
  if (s.ctxOf x).st ≠ .running ∨ ¬s.freeCore x k then .next s
  else if (s.forming x).isSome then .next (s.holdFree x)
  else .next (s.request x k)

/-- GANG_CORE_HOLD: the cores that have become free are held for a CLAIMED gang, the lowest logical number first, whichever of them the event
is for (R333). -/
def execGangCoreHold (k : Nat) (s : State) : Host.Outcome State Fault Refusal :=
  .next (if s.freeCore (s.ctxNoOf k) k then s.holdFree (s.ctxNoOf k) else s)

/-! ### Completion (R331, R348) -/

/-- Whether every member of a running task has ended. -/
def Task.finished (t : Task) : Bool := t.st == .running && t.cores.all (fun c => t.ended.contains c.1)

/-- A core left by a task that has ended: its queues are empty and it is free (R102). -/
def CoreSt.release (c : CoreSt) : CoreSt :=
  let f (m : StreamSt) : StreamSt := { m with pq := [], boq := [] }
  { c with task := none, ended := false, cS := f c.cS, lS := f c.lS, vS := f c.vS, mS := f c.mS, sS := f c.sS }

/-- TASK_COMPLETION. -/
def execTaskCompletion (i : Nat) (s : State) : Host.Outcome State Fault Refusal :=
  match find? s.tasks i with
  | none => .next s
  | some t =>
    if !t.finished then .next s
    else
      let s := s.forEach t.cores (fun c s => s.setCoreOf c.1 (s.coreOf c.1).release)
      let s := s.setTask i { t with cores := [], group := none }
      let s := ((s.endTask ((t.cores.headD (0, 0)).1) i).retireKernel t.kslot).checkHeads t.ctx
      .next (s.holdFree t.ctx)

/-! ### Launches (R329) -/

/-- The patches of a launch written in list order; a patch on a poisoned frame stops them with the target's pointer and its detail. In a tile
pool the version decides, as for any other write (R363). -/
def State.patchAll (g : Graph) : List (Nat × Nat) → State → Except (Nat × Nat) State × State
  | [], s => (.ok s, s)
  | (off, v) :: r, s =>
    match xlate s .tables g.ctx 4 (bits g.paramp 55 0 + off) 8 true 1 with
    | .error (.cause 0x084 a d) => (.error (a, d), s)
    | _ => State.patchAll g r (s.sysWrite g.ctx (4 * 2 ^ 60 + bits g.paramp 55 0 + off) none (toLE 8 v)).1

/-- The task of a graph record (R329). -/
def GRec.task (r : GRec) (x slot num : Nat) : Task :=
  { ctx := x, st := .waiting, kslot := bits r.ctrl 11 0, prio := bits r.ctrl 17 12, gang := bits r.ctrl 22 18, ctrl := r.ctrl, join := r.join,
    lid := num * 2 ^ 32 + r.id, frame := r.frame, succ := .list [], tiles := r.tiles, origin := .launch slot num, die := 0, ticket := 0,
    level := bits r.ctrl 17 12, cores := [], started := [], ended := [], aband := false, sealed := [], allocs := [], aredos := [],
    group := none }

/-- The tasks of a launch put into the entries it reserved, with the handles of their successors; those with JOIN 0 are READY. -/
def State.createTasks (s : State) (slot num : Nat) (g : Graph) (es : List Nat) : State :=
  let ps := g.recs.zip es
  let s := s.forEach ps (fun p s => s.newTask p.2 (p.1.task g.ctx slot num))
  let handle (id : Nat) : Option Nat := (ps.find? (fun p => p.1.id == id)).map (fun p => s.handleOf p.2 g.ctx)
  let s := s.forEach ps (fun p s => match find? s.tasks p.2 with
    | some t => s.setTask p.2 { t with succ := .list (p.1.succ.filterMap handle) }
    | none => s)
  s.readyAll ((ps.filter (fun p => p.1.join == 0)).map (fun p => p.2))

/-- LAUNCH_START: the oldest accepted launch of a graph starts, unless its context is on the way to TRAPPED or there (R329). -/
def execLaunchStart (slot : Nat) (s : State) : Host.Outcome State Fault Refusal :=
  match s.graphOf slot with
  | none => .next s
  | some g =>
    let st := (s.ctxOf g.ctx).st
    match g.launches with
    | [] => .next s
    | l :: r =>
      if l.started ∨ st = .free ∨ st = .dead ∨ st = .trapped ∨ (st = .draining ∧ (s.ctxOf g.ctx).stop.isSome) then .next s
      else match State.patchAll g l.patches s with
        | (.error (a, d), s) => .next (s.raiseCtx g.ctx 0x084 a d 0)
        | (.ok s, _) =>
          let num := (s.ctxOf g.ctx).launch
          let s := s.setCtxOf g.ctx { s.ctxOf g.ctx with launch := (num + 1) % 2 ^ 32 }
          let s := s.setGraph slot { g with launches := { l with started := true } :: r }
          .next ((s.createTasks slot num g l.entries).checkHeads g.ctx)

/-! ### Kernels (R99) -/

/-- KERNEL_VERIFICATION. -/
noncomputable def execKernelVerification (n : Nat) (s : State) : Host.Outcome State Fault Refusal :=
  let k := s.kernelOf n
  if k.st ≠ .loaded ∨ k.vstat ≠ 0 then .next s
  else
    let b := getBytes s.mem k.image k.ilen
    match verifyImage b with
    | 0 => .next ((s.setKernelOf n { k with st := .verified }).measure 2 n ((b.drop 0x60).take 32))
    | c => .next (s.setKernelOf n { k with vstat := c })

/-! ### Rebuild runs (R330, R397, R399) -/

/-- REBUILD_ENQUEUE: the rebuild run of a logical id is created and enters REBUILD, once no operand of a version it rebuilds is LOST or
REBUILDING; it waits while no entry of the dependency table is free. -/
def execRebuildEnqueue (x : Nat) (lid : Word) (s : State) : Host.Outcome State Fault Refusal :=
  match s.rebuildRun x lid.toNat, s.runEntry x lid.toNat, s.freeEntry with
  | none, some en, some i =>
    if ¬s.runReady x lid.toNat then .next s
    else
      let t := rebuildTask x en
      .next (((s.newTask i { t with level := s.runLevel x t.lid t.level }).makeReady i).checkHeads x)
  | _, _, _ => .next s

/-- Whether a version of a context is LOST or REBUILDING. -/
def State.verAway (s : State) (x h v : Nat) : Bool :=
  match s.handleSlot x h with
  | some (_, n, t) => (t.slot n).state v == some .lost || (t.slot n).state v == some .rebuilding
  | none => false

/-- RECOVERY_STARVED: every core holds a word that waits on a version that still is LOST or REBUILDING. -/
def execRecoveryStarved (x : Nat) (s : State) : Host.Outcome State Fault Refusal :=
  let waits (k : Nat) : Bool := (s.coreOf k).task.isSome &&
    (s.coreOf k).needs.any (fun w => s.verAway x w.1 w.2)
  if (s.ctxOf x).st = .running ∧ (s.coresOfCtx x).all (fun c => waits c.2) ∧ s.tasks.any (fun t => t.2.ctx == x && t.2.st == .rebuild) then
    .next (s.raiseCtx x 0x1A6 0 0 0)
  else .next s

end Sys2Proof.Machine
end

