-- ==== Sys2Proof/Machine/Swap.lean ====
section
/-! DEFINITION. How a context leaves its partition and another takes it: the stop points of the M stream, the drain, the exchange with
the woodshed, spills and fills, and the return of tasks a resumption has lost (R206, R277, R404 to R410, R414, R420, R422). -/

namespace Sys2Proof.Machine

/-! ### Stop points and the drain -/

/-- Whether an M word is one before which the stream stops (R206 point 3). -/
def Instr.stopsM (i : Instr) : Bool :=
  match i with
  | .engineAwait _ => true
  | .ipop _ => true
  | .boqb _ => true
  | .endStream _ => true
  | _ => false

/-- The M word a core comes to next. -/
noncomputable def State.nextM (s : State) (k : Nat) : Option Instr :=
  match decode .M (s.wordAt k .M (s.coreOf k).mS.pc) with
  | .ok i => some i
  | .error _ => none

/-- Whether the M stream of a core stands at a point where it stops (R206): it does not run, waits, has completed an MRET, stopped at a row
boundary or abandoned a replay since the stop was asked for, has no tile with F = 1, or comes to a word of point 3. -/
noncomputable def State.mStops (s : State) (k : Nat) : Bool :=
  let c := s.coreOf k
  !c.mS.run || c.mS.waiting || c.mstop || c.tiles.all (fun t => !t.2.stat.getLsbD 2) ||
    ((s.nextM k).map Instr.stopsM).getD true

/-- Whether the memory, engine and link work of a core has reached its completion points (R277). -/
def CoreSt.atRest (c : CoreSt) : Bool :=
  allStrms.all (fun t => (c.strm t).loads.isEmpty && (c.strm t).stores.isEmpty) && c.marks.isEmpty && c.links.isEmpty && c.wacks == 0

/-- Whether R277 is met for a context whose state is on its partition's cores. -/
noncomputable def State.drained (s : State) (x : Nat) : Bool :=
  (s.coresOfCtx x).all (fun c => (s.coreOf c.2).atRest && s.mStops c.2) && (s.ctxOf x).copyq.all (fun q => q.2.cmds.isEmpty) &&
    s.fabric.groups.all (fun g => g.2.ctx != x || g.2.pendJoin.isEmpty) && s.tasks.all (fun t => t.2.ctx != x || !t.2.finished)

/-- A context starts draining for a swap: its streams stop at their stop points, and its waiting words give up what they hold (R104, R306,
R408). -/
def State.drainCtx (s : State) (x : Nat) : State :=
  let s := s.forEach (s.coresOfCtx x) (fun c s => s.dropWaits c.2)
  s.setCtxOf x { s.ctxOf x with st := .draining }

/-! ### The woodshed and the spill area (R22, R407) -/

/-- The key of logical core l of context x among saved states. -/
def savedKey (x l : Nat) : Nat := x * 256 + l

/-- The saved states of a context. -/
def savedOf (x : Nat) (m : List (Nat × CoreSt)) : List (Nat × CoreSt) := m.filter (fun e => e.1 / 256 == x)

/-- A list of saved states without those of a context. -/
def withoutSaved (x : Nat) (m : List (Nat × CoreSt)) : List (Nat × CoreSt) := m.filter (fun e => e.1 / 256 != x)

/-- Bytes of a core's spilled state (R405). -/
def spillBytes : Nat := 4784128

/-- A context's spill area written: how its cores' states are laid out in it is not given, so its bytes are free (R22, R407). -/
def State.writeSpill (s : State) (x : Nat) : State :=
  let r := s.freeBytes ((s.coresOfCtx x).length * spillBytes)
  r.2.unitWrite x (s.ctxOf x).spill r.1

/-- A shelved state moves to its spill area, and the shelf is free. -/
def State.spillNow (s : State) (x : Nat) : State :=
  let s := s.writeSpill x
  let c := s.ctxOf x
  let s := { s with spill := (savedOf x s.shelf).foldl (fun m (e : Nat × CoreSt) => setKey m e.1 e.2) (withoutSaved x s.spill), shelf := withoutSaved x s.shelf }
  let s := s.setPartOf c.part { s.partOf c.part with shelf := none }
  (s.setCtxOf x { c with st := if c.st = .shelved then CtxState.spilled else c.st, loc := .spill, moving := none }).send (.spilled x)

/-- The shelf of a partition made free for a swap to context x: another holder is spilled, a fill that has not ended is given up. -/
def State.freeShelf (s : State) (part x : Nat) : State :=
  match (s.partOf part).shelf with
  | none => s
  | some z =>
    if z = x then s
    else if (s.ctxOf z).loc = .shelf then s.spillNow z
    else (s.setCtxOf z { s.ctxOf z with moving := none }).setPartOf part { s.partOf part with shelf := none }

/-- A core's state as it is saved: without what its caches hold (R19, R246, R364). -/
def CoreSt.uncached (c : CoreSt) : CoreSt := { c with blaze := [], want := [], utlb := [] }

/-- SPILL_COMPLETE. -/
def execSpillComplete (x : Nat) (s : State) : Host.Outcome State Fault Refusal :=
  if (s.ctxOf x).moving = some true then
    (if (s.ctxOf x).loc = .shelf then .next (s.spillNow x)
     else if (s.ctxOf x).loc = .spill then .next (s.setCtxOf x { s.ctxOf x with moving := none })
     else if (s.ctxOf x).loc = .zero then
       let s := s.writeSpill x
       .next ((s.setCtxOf x { s.ctxOf x with loc := .spill, moving := none }).send (.spilled x))
     else
       -- a TRAPPED state still on the cores
       let s := s.writeSpill x
       let c := s.ctxOf x
       let s := s.forEach (s.coresOfCtx x) (fun k s =>
         { s.setCoreOf k.2 .zero with spill := setKey s.spill (savedKey x k.1) (s.coreOf k.2).uncached })
       let s := s.setPartOf c.part { s.partOf c.part with live := none }
       .next ((s.setCtxOf x { c with loc := .spill, moving := none }).send (.spilled x)))
  else .next s

/-- Whether a read of a context's spill area meets a poisoned page (R425). -/
def State.spillBad (s : State) (x : Nat) : Bool :=
  match s.areaBad x (s.ctxOf x).spill ((s.coresOfCtx x).length * spillBytes) with
  | some (0x084, _, _) => true
  | _ => false

/-- A background move given up: a fill lets go of the shelf (R406, R407). -/
def State.giveUpMove (s : State) (x : Nat) : State :=
  let c := s.ctxOf x
  let p := s.partOf c.part
  let s := if c.moving = some false ∧ p.shelf = some x ∧ c.loc ≠ .shelf then s.setPartOf c.part { p with shelf := none } else s
  s.setCtxOf x { c with moving := none }

/-- FILL_COMPLETE: a context that became TRAPPED meanwhile stays so; a spill area that cannot be read is cause 0x1A2 (R425). -/
def execFillComplete (x : Nat) (s : State) : Host.Outcome State Fault Refusal :=
  if (s.ctxOf x).moving = some false then
    if s.spillBad x then .next ((s.giveUpMove x).raiseCtx x 0x1A2 0 0 0) else
    let c := s.ctxOf x
    let s := { s with shelf := (savedOf x s.spill).foldl (fun m (e : Nat × CoreSt) => setKey m e.1 e.2) (withoutSaved x s.shelf), spill := withoutSaved x s.spill }
    .next ((s.setCtxOf x { c with st := if c.st = .spilled then CtxState.shelved else c.st, loc := .shelf, moving := none }).send (.filled x))
  else .next s

/-! ### Tasks a context no longer holds cores for (R422) -/

/-- Whether core (physical, logical) still is that core of the context's partition, on a die in service. -/
def State.coreStands (s : State) (x : Nat) (c : Nat × Nat) : Bool :=
  (s.coresOfCtx x).contains (c.2, c.1) && !(s.dieOf (dieOfCore c.1)).lost

/-- Every task with a core that does not stand returns: a RUNNING one as under steps 3 and 4 of R232, a CLAIMED one to its pool. -/
def State.returnLost (s : State) (x : Nat) (stands : Nat × Nat → Bool) : State :=
  s.forEach (s.tasks.filter (fun t => t.2.ctx == x && !t.2.cores.all stands)) (fun t s =>
    match t.2.st with
    | .running => s.returnTask t.1
    | .claimed => s.backToPool t.1
    | _ => s)

/-! ### The exchange (R408, R410) -/

/-- The state of a context on the cores saved to the shelf; the caches of the cores are dropped (R19, R246). -/
def State.shelve (s : State) (x : Nat) : State :=
  let c := s.ctxOf x
  let s := s.forEach (s.coresOfCtx x) (fun k s =>
    { s.setCoreOf k.2 .zero with shelf := setKey s.shelf (savedKey x k.1) (s.coreOf k.2).uncached })
  s.setCtxOf x { c with st := if c.st = .trapped then CtxState.trapped else CtxState.shelved, loc := .shelf, moving := none }

/-- Whether the state of core (physical, logical) of a context can go on: the core stands, and no die loss has taken its saved state
(R15, R422). -/
def State.stateStands (s : State) (x : Nat) (c : Nat × Nat) : Bool := s.coreStands x c && !(s.ctxOf x).gone.contains c.2

/-- The tasks of a context that runs again whose core or saved state is lost return (R422); cores that this leaves free are held for a gang that
lacks cores (R333), and the heads of its pools are checked (R347). -/
def State.resumeTasks (s : State) (x : Nat) : State :=
  let s := s.returnLost x (s.stateStands x)
  ((s.setCtxOf x { s.ctxOf x with gone := [] }).holdFree x).checkHeads x

/-- A core whose context goes on: what its streams had set aside is put back, and its M stream leaves its stop point, unless the core is in a
handler (R415). -/
def CoreSt.unstopped (c : CoreSt) : CoreSt :=
  let c := c.thawMode
  if c.hand.isSome then c else { c with mstop := false }

/-- The state of a context brought onto the cores of its partition, which then runs it. -/
def State.bring (s : State) (x : Nat) : State :=
  let c := s.ctxOf x
  let old (l : Nat) : CoreSt :=
    match c.loc with
    | .shelf => (find? s.shelf (savedKey x l)).getD .zero
    | .spill => (find? s.spill (savedKey x l)).getD .zero
    | .zero => (find? s.spill (savedKey x l)).getD .zero
    | .cores => .zero
  let s := s.forEach (s.coresOfCtx x) (fun k s => s.setCoreOf k.2 (old k.1).unstopped)
  let s := { s with shelf := withoutSaved x s.shelf, spill := withoutSaved x s.spill }
  let s := s.setPartOf c.part { s.partOf c.part with live := some x }
  let s := s.setCtxOf x { c with st := .running, loc := .cores, moving := none, stop := none }
  s.resumeTasks x

/-- The dies of a partition's cores. -/
def Part.dies (p : Part) : List Nat := (p.cores.map (fun c => dieOfCore c.2)).eraseDups

/-- Whether the outgoing side of a partition is ready for an exchange: nothing is live, the live context has drained for a swap, or it is
TRAPPED, by a cause met while it drained or before, and a swap has been asked for (R410). -/
noncomputable def State.outgoing (s : State) (p : Part) : Bool :=
  match p.live with
  | none => p.next.isSome
  | some y =>
    let c := s.ctxOf y
    p.swap && ((c.st == .draining && c.stop.isNone && s.drained y) || (c.st == .trapped && c.moving.isNone))

/-- Whether a context that a RUN or a RESUME has put next may run: one that has become TRAPPED since waits for a RESUME (R406). -/
def Ctx.mayRun (c : Ctx) : Bool := c.st == .ready || c.st == .shelved || (c.st == .trapped && c.stop.isNone)

/-- A context asked onto its partition: the one that is live drains for it, or leaves once it is TRAPPED; none when the partition cannot take
a request now: another is next, or the live one already drains. -/
def State.askRun (s : State) (x : Nat) : Option State :=
  let part := (s.ctxOf x).part
  let p := s.partOf part
  let next (s : State) : State := s.setPartOf part { s.partOf part with next := some x, swap := true }
  if p.next.isSome then none
  else match p.live with
    | none => some (next s)
    | some y =>
      match (s.ctxOf y).st with
      | .running => some (next ((s.freeShelf part x).drainCtx y))
      | .trapped => some (next (s.freeShelf part x))
      | _ => none

/-- A RESUME that must wait for the partition: it is next when no other context is, else it waits behind it (R414). -/
def State.askResume (s : State) (x : Nat) : State :=
  match s.askRun x with
  | some t => t
  | none =>
    let part := (s.ctxOf x).part
    let p := s.partOf part
    if p.next = some x ∨ p.after.contains x then s
    else if p.next.isNone then s.setPartOf part { p with next := some x, swap := true }
    else s.setPartOf part { p with after := p.after ++ [x] }

/-- After an exchange the first context that waits behind it, if it may run, is asked onto the partition. -/
def State.serveAfter (s : State) (part : Nat) : State :=
  match (s.partOf part).after with
  | [] => s
  | x :: r =>
    let s := s.setPartOf part { s.partOf part with after := r }
    if (s.ctxOf x).mayRun then s.askResume x else s

/-- The incoming context brought onto the cores; one whose spill area cannot be read takes cause 0x1A2 where it is (R425). -/
def State.bringIn (s : State) (x : Nat) : State :=
  if (s.ctxOf x).loc = .spill ∧ s.spillBad x then s.raiseCtx x 0x1A2 0 0 0 else s.bring x

/-- SWAP_EXCHANGE_COMPLETE: the outgoing state is exchanged into the shelf and the incoming one onto the cores. -/
noncomputable def execSwapExchangeComplete (part : Nat) (s : State) : Host.Outcome State Fault Refusal :=
  let p := s.partOf part
  if !s.outgoing p then .next s
  else
    let x := p.next.filter (fun x => (s.ctxOf x).mayRun)
    let wasShelf := p.shelf.isSome && p.shelf == x
    let s := match p.live with
      | some y => if wasShelf then s.shelve y else (s.freeShelf part y).shelve y
      | none => s
    let s := s.setPartOf part { s.partOf part with live := none, next := none, swap := false,
                                                   shelf := if p.live.isSome then p.live else if wasShelf then none else p.shelf }
    let s := match x with
      | some x => s.bringIn x
      | none => s
    .next ((s.forEach p.dies (fun d s => s.count 8 d 1)).serveAfter part)

/-- CONTEXT_STOPPED: a context that a cause has stopped is TRAPPED once R277 is met. -/
noncomputable def execContextStopped (x : Nat) (s : State) : Host.Outcome State Fault Refusal :=
  if (s.ctxOf x).st = .draining ∧ (s.ctxOf x).stop.isSome ∧ s.drained x then .next (s.setCtxOf x { s.ctxOf x with st := .trapped }) else .next s

/-- WATCHDOG: a core of a RUNNING context holds a core task that has not ended and has issued nothing for longer than LIM allows; when it
does is the outside's to say. -/
def execWatchdog (x k : Nat) (s : State) : Host.Outcome State Fault Refusal :=
  let c := s.coreOf k
  if (s.ctxOf x).st = .running ∧ s.ctxNoOf k = x ∧ (s.ctxOf x).csr 0x302 ≠ 0 ∧ c.task.isSome ∧ ¬c.ended then
    .next (s.raiseCtx x 0x1C1 0 0 (s.lcoreOf k))
  else .next s

end Sys2Proof.Machine
end

