-- ==== Sys2Proof/Machine/Loss.lean ====
section
/-! DEFINITION. Losses, uncorrectable errors, power and the links' own events (R15 to R17, R360, R362, R425, R426, R428, R443, R444,
R448, R449, R451). -/

namespace Sys2Proof.Machine

/-! ### Links (Table 19-2) -/

/-- The state of a port. -/
def State.port (s : State) (p : Nat) : LinkState := (find? s.fabric.ports p).getD .down

/-- The state with a port set. -/
def State.setPort (s : State) (p : Nat) (l : LinkState) : State := { s with fabric := { s.fabric with ports := setKey s.fabric.ports p l } }

/-- The training attempts of a port that have failed in a row. -/
def State.setAttempts (s : State) (p n : Nat) : State := { s with fabric := { s.fabric with attempts := put 0 s.fabric.attempts p n } }

/-- The die of a port (R426). -/
def portDie (p : Nat) : Nat := p / 6

/-- A port goes FENCED, with the replace request (R448). -/
def State.fencePort (s : State) (p : Nat) : State :=
  ((s.setPort p .fenced).send (.linkLost p)).askReplace.flushAlmanac

/-- A port starts training. -/
def State.startTraining (s : State) (p : Nat) : State := (s.setPort p .training).setAttempts p 0

/-- A retrain of a port, counted in the almanac. -/
def State.retrainPort (s : State) (p : Nat) : State := (s.startTraining p).count 7 p 1

/-- LINK_TRAINING_REQUEST. -/
def execLinkTrainingRequest (p : Nat) (s : State) : Host.Outcome State Fault Refusal :=
  if p < 24 ∧ s.port p = .down ∧ ¬(s.dieOf (portDie p)).lost then .next (s.startTraining p) else .next s

/-- LINK_TRAINING_RESULT: the third failure gives up. -/
def execLinkTrainingResult (p : Nat) (r : TrainResult) (s : State) : Host.Outcome State Fault Refusal :=
  if s.port p ≠ .training then .next s
  else match r with
    | .full => .next ((s.setPort p .up).setAttempts p 0)
    | .half => .next ((s.setPort p .degraded).setAttempts p 0)
    | .failed =>
      let n := look 0 s.fabric.attempts p + 1
      if 3 ≤ n then .next ((s.setPort p .down).setAttempts p 0) else .next (s.setAttempts p n)

/-- LINK_RETRY_EXHAUSTED: a retrain; the third within a second fences the port. -/
def execLinkRetryExhausted (p : Nat) (third : Bool) (s : State) : Host.Outcome State Fault Refusal :=
  if s.port p ≠ .up ∧ s.port p ≠ .degraded then .next s
  else if third then .next ((s.retrainPort p).fencePort p)
  else .next (s.retrainPort p)

/-- LINK_FLIT_CRC_ERROR: the flit is sent again from the retry buffer; nothing else changes (R426). -/
def execLinkFlitCrcError (_p : Nat) (s : State) : Host.Outcome State Fault Refusal := .next s

/-! ### Losing a die (R15) -/

/-- Whether a list of segments has a byte homed on a die. -/
def homedOn (d : Nat) (g : List Seg) : Bool := g.any (fun c => homeDie c.pa == some d)

/-- The keys of saved states that lie on a die: shelved ones of its cores, spilled ones with a byte homed on it, the i-th core of the partition's at i times 4,784,128 of the spill area (the model's choice: the spec gives
no layout; log entry 70). -/
def State.lostSaved (s : State) (d : Nat) : List Nat × List Nat :=
  let cs := s.ctxs.flatMap (fun x => (s.coresOfCtx x.1).zip (List.range (s.coresOfCtx x.1).length) |>.map (fun c => (x.1, x.2.spill, c)))
  ((cs.filter (fun e => dieOfCore e.2.2.1.2 == d)).map (fun e => savedKey e.1 e.2.2.1.1),
   (cs.filter (fun e => homedOn d (s.seatOf e.1 (e.2.1 % 2 ^ 56 + e.2.2.2 * spillBytes) spillBytes))).map (fun e => savedKey e.1 e.2.2.1.1))

/-- The queues kept by the controller of a die (R312). -/
def State.queuesOn (s : State) (d : Nat) : List Nat :=
  (s.queues.filter (fun q => homedOn d (s.seatOf q.2.ctx (bits q.2.base 55 0) 1))).map (fun q => q.1)

/-- Every task waiting in the pools of a die is placed again, in ascending logical id (R332). -/
def State.replacePooled (s : State) (d : Nat) : State :=
  let es := (List.range 16).flatMap (fun p => ((s.rpool p d).tasks.map (fun e => (p, e.2.2))))
  let s := s.forN 16 (fun p s => if (s.rpool p d).tasks.isEmpty then s else s.setRpool p d { s.rpool p d with tasks := [] })
  let ks := es.foldl (fun a e => insertLid (((find? s.tasks e.2).map (fun t => t.lid)).getD 0, e.2) a) []
  s.forEach ks (fun k s => match find? s.tasks k.2 with
    | some t => (s.setTask k.2 { t with die := s.placeDie t.ctx t.lid t.tiles }).enterPool k.2
    | none => s)

/-- The groups with a member or a held core on a die are DISBANDED (Table 14-2). -/
def State.disband (s : State) (d : Nat) : State :=
  s.forEach (s.tasks.filter (fun t => t.2.group.isSome && t.2.cores.any (fun c => dieOfCore c.1 == d))) (fun t s =>
    if t.2.st = .claimed then s.backToPool t.1
    else s.breakTask t.1 (some .disbanded))

/-- The logical cores of a context whose saved state, where it is now, is among the lost ones. -/
def State.goneOf (s : State) (x : Nat) (saved : List Nat × List Nat) : List Nat :=
  let ks := match (s.ctxOf x).loc with
    | .shelf => saved.1
    | .spill => saved.2
    | _ => []
  (ks.filter (fun k => k / 256 == x)).map (fun k => k % 256)

/-- A co-located replica that a die held is gone with it. -/
def Ver.dropCopy (d : Nat) (e : Ver) : Ver := if e.repl = .coloc (.die d) then { e with repl := .coloc .nowhere, rimg := [] } else e

/-- What goes with a die: its memory, cores, saved states, synchronisation engine, shard and mirrors held for others. Entries with an
acknowledged mirror are kept, since they are read from it (R397). -/
def State.dropDie (s : State) (d : Nat) (saved : List Nat × List Nat) : State :=
  let here (pa : Nat) : Bool := homeDie pa == some d
  let die := s.dieOf d
  let s := s.setDieOf d { lost := true, shard := die.shard.filter (fun e => e.mack), mirrors := [], waits := [], tlb := [] }
  let gone (x : Nat) : List Nat := s.goneOf x saved
  { s with
    ctxs := s.ctxs.map (fun c => (c.1, { c.2 with
      gone := c.2.gone ++ gone c.1,
      pools := mapVals (fun _ (t : TPool) => { t with slots := mapVals (fun _ (q : PSlot) => { q with vers := mapVals (fun _ e => e.dropCopy d) q.vers }) t.slots })
        c.2.pools })),
    cores := s.cores.filter (fun c => dieOfCore c.1 != d),
    shelf := s.shelf.filter (fun e => !saved.1.contains e.1),
    spill := s.spill.filter (fun e => !saved.2.contains e.1),
    mem := s.mem.filter (fun c => !here c.1),
    lostMem := (s.mem.filter (fun c => here c.1)).foldl (fun m c => put 0 m c.1 c.2) s.lostMem,
    poison := s.poison.filter (fun f => !here (f * 65536)),
    dheld := s.dheld.filter (fun h => !(here h.bar || homedOn d h.segs)),
    aheld := s.aheld.filter (fun h => !(here h.bar || here h.pa)),
    arrs := s.arrs.filter (fun a => !here a.1) }

/-- DIE_LOSS. -/
def execDieLoss (d : Nat) (s : State) : Host.Outcome State Fault Refusal :=
  if 4 ≤ d ∨ (s.dieOf d).lost then .next s
  else
    let saved := s.lostSaved d
    let qs := s.queuesOn d
    let s := s.loseWhere (homedOn d)
    let s := s.forEach (s.ctxs.map (fun x => x.1)) (fun x s => if (s.ctxOf x).touched.getLsbD d then s.raiseCtx x 0x1A0 0 0 0 else s)
    let s := s.forEach qs (fun q s => s.faultQueue q)
    let s := s.disband d
    let ts := s.ctxs.flatMap (fun x => x.2.copyq.flatMap (fun q =>
      (q.2.cmds.filter (fun t => t.die == d && t.st != .landed)).map (fun t => (x.1, q.1, t))))
    let s := s.dropDie d saved
    let s := s.forEach ts (fun t s => s.faultXfer t.1 t.2.1 false t.2.2)
    let s := s.replacePooled d
    let s := s.forEach (List.range' (6 * d) 6) (fun p s => (s.setPort p .fenced).send (.linkLost p))
    let s := s.forEach ((s.fabric.groups.filter (fun g => portDie g.2.gwp == d)).map (fun g => g.1)) (fun l s => s.breakGroup l)
    let s := s.forEach (s.ctxs.map (fun x => x.1)) (fun x s => s.checkHeads x)
    .next (s.send (.dieLost d)).askReplace.flushAlmanac

/-- IO_DIE_LOSS (R17). -/
def execIoDieLoss (s : State) : Host.Outcome State Fault Refusal :=
  .next { s with ctxs := mapVals (fun _ (x : Ctx) => if x.st = .free then x else { x with st := .dead }) s.ctxs,
                 dev := { s.dev with phase := .lost } }

/-! ### Uncorrectable errors -/

/-- MEMORY_UNCORRECTABLE_ERROR in first-tier memory (R362). -/
def execMemoryUncorrectableError (pa : Nat) (s : State) : Host.Outcome State Fault Refusal :=
  if 2 ^ 39 ≤ pa ∨ s.homeLost pa then .next s else .next (s.poisonFrame (pa / 65536))

/-- SYNC_ENGINE_UNCORRECTABLE_ERROR: every context with a variable in the die's engine takes 0x1A4; the die counts it (R451). -/
def execSyncEngineUncorrectableError (d : Nat) (s : State) : Host.Outcome State Fault Refusal :=
  .next ((s.forEach (s.ctxs.map (fun x => x.1)) (fun x s =>
    if (s.ctxOf x).sync.any (fun e => e.die == d) then s.raiseCtx x 0x1A4 0 0 0 else s)).count 2 d 1)

/-- An uncorrectable error of a saved state counted: by the cores whose shelf held it, or by the home die of the spill area (R451; log entry 104). -/
def State.countSaved (s : State) (x : Nat) : State :=
  match (s.ctxOf x).loc with
  | .shelf => s.forEach (s.coresOfCtx x) (fun c s => s.count 4 c.2 1)
  | .spill => s.forEach ((s.seatOf x (bits (s.ctxOf x).spill 55 0) 1).filterMap (fun g => homeDie g.pa)) (fun d s => s.count 2 d 1)
  | _ => s

/-- SHELVED_STATE_LOST: a context whose state is on the shelf or in its spill area takes 0x1A2. -/
def execShelvedStateLost (x : Nat) (s : State) : Host.Outcome State Fault Refusal :=
  if (s.ctxOf x).loc = .shelf ∨ (s.ctxOf x).loc = .spill then .next ((s.countSaved x).raiseCtx x 0x1A2 0 0 0) else .next s

/-! ### Power and boot (R443, R444, R449, R451) -/

/-- The device as a reset leaves it, with what its flash and fuses keep; `almanac` is what the counters start from. -/
def State.afterReset (s : State) (ph : Phase) (almanac : List (Nat × Nat)) : State :=
  { State.reset with
    dies := s.dies.map (fun d => (d.1, ⟨d.2.lost, [], [], [], []⟩)),
    dev := { Device.zero with phase := ph, flash := s.dev.flash, minfw := s.dev.minfw, fenced := s.dev.fenced, replace := s.dev.replace,
                              almanac := almanac, almFlash := s.dev.almFlash },
    out := s.out, fresh := s.fresh, script := s.script }

/-- The dies that are out of service, as a mask. -/
def State.lostMask (s : State) : Nat := ((List.range 4).map (fun d => (s.dieOf d).lost.toNat * 2 ^ d)).sum

/-- The write of the flash that a FWLOAD has begun ends: the image is there, and MINFW is raised with BURN (R445). -/
def State.flashDone (s : State) : State :=
  match s.dev.writing with
  | none => s
  | some (b, burn) =>
    { s with dev := { s.dev with flash := b, writing := none, minfw := if burn then max s.dev.minfw (fieldLE b 4 4) else s.dev.minfw } }

/-- POWER_ON_RESET: the boot ROM runs the firmware of the flash, once a write of it has ended, or leaves the device in recovery mode; the dies that
have failed are fenced. -/
noncomputable def execPowerOnReset (s : State) : Host.Outcome State Fault Refusal :=
  if s.dev.phase = .lost then .next s
  else
    let s := s.flashDone
    let b := s.dev.flash
    if !fwOk s.dev.minfw b then .next (s.afterReset .recovery s.dev.almanac)
    else
      let s := s.afterReset .running s.dev.almanac
      let s := { s with dev := { s.dev with fwver := fieldLE b 4 4 } }
      let s := s.measure 1 (fieldLE b 4 4) (sha256 b)
      let s := s.forN 4 (fun d s => if Config.failedDies.getLsbD d then
        (s.setDieOf d { s.dieOf d with lost := true }).askReplace.flushAlmanac else s)
      .next (s.send (.booted (fieldLE b 4 4) s.lostMask))

/-- What a power loss makes of a flash that is being written: a header with no payload, which fails step 2 of R444 (R445). -/
def State.flashCut (s : State) : State :=
  match s.dev.writing with
  | none => s
  | some (b, _) => { s with dev := { s.dev with flash := b.take 64, writing := none } }

/-- POWER_LOSS: what is not in flash is gone, and the almanac is what was last written. -/
def execPowerLoss (s : State) : Host.Outcome State Fault Refusal :=
  if s.dev.phase = .lost then .next s else .next (s.flashCut.afterReset .off s.dev.almFlash)

/-- An hour of each die in a bin of TEMPH and of VOLTH; the sensors say which, so the bins are free values (R451; log entry 104). -/
def State.hourPassed (s : State) : State :=
  s.forN 4 (fun d s =>
    let v := (Config.freeWord s.fresh).toNat
    ({ s with fresh := s.fresh + 1 }.count 11 (16 * d + v % 16) 1).count 12 (16 * d + v / 16 % 16) 1)

/-- ALMANAC_FLUSH: the hour since the last one is counted, and the counters are written. -/
def execAlmanacFlush (s : State) : Host.Outcome State Fault Refusal := .next s.hourPassed.flushAlmanac

/-- POWER_THERMAL_LIMIT: M-stream issue is held once as many K-steps more as the event says have issued, or goes on (R449). -/
def execPowerThermalLimit (hold : Option Nat) (s : State) : Host.Outcome State Fault Refusal :=
  .next { s with dev := { s.dev with hold := hold } }

/-- Whether the context live on a partition can be saved, if there is one. -/
noncomputable def State.quietPart (s : State) (p : Part) : Bool :=
  match p.live with
  | none => true
  | some y => (s.ctxOf y).st == .trapped || ((s.ctxOf y).st == .draining && (s.ctxOf y).stop.isNone && s.drained y)

/-- A partition emptied: the live context's state goes to the shelf and the shelf's to the spill area. -/
def State.emptyPart (s : State) (part : Nat) : State :=
  let p := s.partOf part
  let s := s.freeShelf part 256
  match p.live with
  | some y =>
    let s := s.shelve y
    (s.setPartOf part { s.partOf part with live := none, next := none, swap := false, shelf := some y, after := [] }).spillNow y
  | none => s.setPartOf part { s.partOf part with next := none, swap := false, after := [] }

/-- The compute dies without power: what their cores and engines held is gone (R449). -/
def State.powerDown (s : State) : State :=
  { s with cores := [], dies := mapVals (fun _ (d : Die) => ⟨d.lost, [], [], [], []⟩) s.dies, dheld := [], aheld := [], wakes := [] }

/-- THERMAL_SHUTDOWN: every RUNNING context is pre-empted; once all have drained, every context is spilled and the device enters recovery
mode, its compute dies powered down. -/
noncomputable def execThermalShutdown (s : State) : Host.Outcome State Fault Refusal :=
  if s.dev.phase ≠ .running then .next s
  else
    let s := s.forEach (s.ctxs.map (fun x => x.1)) (fun x s => if (s.ctxOf x).st = .running then s.drainCtx x else s)
    if s.parts.all (fun p => s.quietPart p.2) then
      let s := (s.forEach (s.parts.map (fun p => p.1)) (fun p s => s.emptyPart p)).powerDown
      .next { s with dev := { s.dev with phase := .recovery } }
    else .next s

end Sys2Proof.Machine
end

