-- ==== Sys2Proof/Machine/MatNum.lean ====
section
/-! DEFINITION. The arithmetic of the matrix engine on one row of a K-step: products, the inner window, promotion, the
re-issue levels, caliper terms and the checksum column (R85 to R90, R217, R220, R229 to R231). Operand values carry their block
scales, which gives the same bits as scaling at promotion (R85). -/

namespace Sys2Proof.Machine

/-! ### Caliper quantities (R217) -/

/-- Zero as a caliper quantity. -/
def q0 : XV := .num false 0 0

/-- The sum of caliper quantities. -/
def qAdd (a b : XV) : XV := xvAdd 0 a b

/-- The product of caliper quantities: a factor 0 makes it 0. -/
def qMul (a b : XV) : XV := if a.isZero || b.isZero then q0 else xvMul a b

/-- The larger caliper quantity. -/
def qMax (a b : XV) : XV := if xvLt a b then b else a

/-- The largest magnitude of the finite members of a list (R217). -/
def maxAbs (l : List XV) : XV := l.foldl (fun m x => if x.finite then qMax m (xvAbs x) else m) q0

/-- addt of R220: half an ulp of an addition whose result has magnitude y. -/
def addt (y : XV) : XV := qAdd (xvScale y (-24)) (if xvLt y (.num false 1 (-126)) then .num false 1 (-150) else q0)

/-! ### One element (R86 to R88) -/

/-- floor(log2 |x|) of a nonzero finite value. -/
def ilog : XV → Option Int
  | .num _ m e => if m = 0 then none else some ((Nat.log2 m : Int) + e)
  | _ => none

/-- A finite value rounded to an integer multiple of 2^lsb, ties to even: the integer. -/
def toMultiple (x : XV) (lsb : Int) : Int :=
  match x with
  | .num n m e => xvToInt 0 n m (e - lsb)
  | _ => 0

/-- The inner sum of R86 and R87: the sum, the emax it used, whether the window saturated. -/
def innerSum (ps : List XV) : XV × Option Int × Bool :=
  if ps.any (fun p => p == .nan) ∨ (ps.contains (.inf false) ∧ ps.contains (.inf true)) then (.nan, none, false)
  else
    match ps.find? (fun p => !p.finite) with
    | some p => (p, none, false)
    | none =>
      match (ps.filterMap ilog) with
      | [] => (q0, none, false)
      | e :: es =>
        let emax := es.foldl max e
        let lsb := emax - 22
        let n := ps.foldl (fun a p => a + toMultiple p lsb) 0
        let hi : Int := 2 ^ 25 - 1
        let lo : Int := -(2 ^ 25)
        if hi < n then (xvOf false hi lsb, some emax, true)
        else if n < lo then (xvOf false lo lsb, some emax, true)
        else (xvOf false n lsb, some emax, false)

/-! ### One row -/

/-- What a row of a K-step leaves: the elements, the compensation terms, the row term of R220 without the stored bounds, the
counts, and whether the window saturated or sat32 clamped. -/
structure RowOut where
  row : Vec
  comp : Vec
  q : XV
  sat : Nat
  nan : Nat
  bso : Nat
  clip : Bool

/-- The largest |element| clip the unmasked finite elements of a row. -/
def rowMax (u : Mask) (v : Vec) : XV := maxAbs ((pick u 0 v).map (fun e => xv32 e.2))

/-- One column of a row at level 0 with the window: the element, its emax, whether a product is nonzero, the counts. A scale of 0xFF makes
the sum a NaN at promotion, after the window (R85, R87). -/
def winElem (scaleNan : Bool) (acc : W32) (ps : List XV) : W32 × Option Int × Bool × Bool × Bool × Bool :=
  let (sum, emax, sat) := innerSum ps
  let inner := if scaleNan then XV.nan else sum
  let em := if scaleNan then none else emax
  let y := round32 0 (xvAdd 0 (xv32 acc) inner)
  (y, em, ps.any (fun p => !p.isZero), sat, isNaN32 y, isInf32 y && finite32 acc && inner.finite)

/-- A row at level 0 with the inner window (R86 to R88): `cols` are the columns of B. -/
def winRow (u : Mask) (scaleNan : Bool) (acc : Vec) (a : List XV) (cols : List (List XV)) : RowOut :=
  let es := (((List.range 128).zip acc).zip cols).map (fun e =>
    if u.getLsbD e.1.1 then winElem scaleNan e.1.2 (List.zipWith xvMul a e.2) else (e.1.2, none, false, false, false, false))
  let row := es.map (fun e => e.1)
  let q :=
    if es.any (fun e => e.2.2.1) then
      let w : XV := match es.filterMap (fun e => e.2.1) with
        | [] => q0
        | m :: ms => .num false 128 (ms.foldl max m - 23)
      qAdd w (addt (rowMax u row))
    else q0
  { row := row, comp := zeroVec, q := q, sat := (es.filter (fun e => e.2.2.2.1)).length,
    nan := (es.filter (fun e => e.2.2.2.2.1)).length, bso := (es.filter (fun e => e.2.2.2.2.2)).length,
    clip := es.any (fun e => e.2.2.2.1) }

/-- One element in the order of ascending k (R89, R90): the accumulator, the compensation term, and whether it has become ±∞
from finite values in this step. -/
structure SeqEl where
  acc : W32
  c : W32
  bso : Bool

/-- One addition of R89 and R90. -/
def seqAdd (lvl2 : Bool) (x : SeqEl) (p : XV) : SeqEl :=
  let a := xv32 x.acc
  let s := xvAdd 0 a p
  let y := round32 0 s
  let c := if lvl2 && s.finite && finite32 y then round32 0 (xvAdd 0 (xv32 x.c) (xvAdd 0 s (xvNeg (xv32 y)))) else x.c
  ⟨y, c, x.bso || (isInf32 y && a.finite && p.finite)⟩

/-- A row in the order of ascending k, with the terms of R220; `brows` are the rows of B. -/
def seqRow (lvl2 : Bool) (u : Mask) (acc comp : Vec) (a : List XV) (brows : List (List XV)) : RowOut :=
  let start := (acc.zip comp).map (fun e => (⟨e.1, e.2, false⟩ : SeqEl))
  let r := (a.zip brows).foldl (fun (st : List SeqEl × XV) k =>
    let ps := k.2.map (fun b => xvMul k.1 b)
    let es := (((List.range 128).zip st.1).zip ps).map (fun e => if u.getLsbD e.1.1 then seqAdd lvl2 e.1.2 e.2 else e.1.2)
    if ((List.range 128).zip ps).any (fun e => u.getLsbD e.1 && !e.2.isZero) then
      (es, qAdd st.2 (addt (rowMax u (es.map (fun e => if lvl2 then e.c else e.acc)))))
    else (es, st.2)) (start, q0)
  let on := (pick u 0 r.1).map (fun e => e.2)
  { row := r.1.map (fun e => e.acc), comp := r.1.map (fun e => e.c), q := r.2, sat := 0,
    nan := (on.filter (fun e => isNaN32 e.acc)).length, bso := (on.filter (fun e => e.bso)).length, clip := false }

/-- The integer an exact integral value is. -/
def xvInteger : XV → Int
  | .num n m e => xvToInt 0 n m e
  | _ => 0

/-- A row of an INT8 step (R89). -/
def intRow (u : Mask) (acc : Vec) (a : List XV) (cols : List (List XV)) : RowOut :=
  let ai := a.map xvInteger
  let es := (((List.range 128).zip acc).zip cols).map (fun e =>
    if u.getLsbD e.1.1 then
      let inner := (List.zipWith (fun x y => x * xvInteger y) ai e.2).foldl (fun n x => n + x) 0
      clampInt 32 (e.1.2.toInt + inner)
    else ⟨e.1.2.toNat, false, false⟩)
  { row := es.map (fun e => BitVec.ofNat 32 e.code), comp := zeroVec, q := q0, sat := (es.filter (fun e => e.sat)).length, nan := 0,
    bso := 0, clip := es.any (fun e => e.sat) }

/-! ### The checksum column (R229, R230) -/

/-- The sums kept of a row or column of a W-buffer block up to column n: exact for D8, F4 and INT8, rounded to FP32 for BF16 and
FP32, with the error made, which is +∞ for a finite sum kept as an infinity (R217). -/
def keptSum (f : Nat) (l : List XV) (n : Nat) : XV × XV :=
  let x := (l.take n).foldl (fun a y => xvAdd 0 a y) q0
  if f = 0 ∨ f = 1 then
    let r := xv32 (round32 0 x)
    (r, if x.finite then (if r.finite then xvAbs (xvAdd 0 x (xvNeg r)) else xv32 0x7F800000) else q0)
  else (x, q0)

/-- The first unmasked column of a row and the one after its last; (0, 0) when there is none. -/
def maskRange (u : Mask) : Nat × Nat :=
  match (List.range 128).filter (fun j => u.getLsbD j) with
  | [] => (0, 0)
  | a :: r => (a, r.getLastD a + 1)

/-- rs(k) of R229 for the unmasked columns [lo, hi) of a row, and its error (R230). -/
def maskedSum (f : Nat) (lo hi : Nat) (brow : List XV) : XV × XV :=
  let p := keptSum f brow hi
  if lo = 0 then p
  else
    let m := keptSum f brow lo
    (xvAdd 0 p.1 (xvNeg m.1), qAdd p.2 m.2)

/-- The sums rs by k that a row with unmasked columns [lo, hi) uses. -/
def colSums (f : Nat) (r : Nat × Nat) (brows : List (List XV)) : List XV := brows.map (fun b => (maskedSum f r.1 r.2 b).1)

/-- The largest error of those sums. -/
def sumsError (f : Nat) (r : Nat × Nat) (brows : List (List XV)) : XV := brows.foldl (fun m b => qMax m (maskedSum f r.1 r.2 b).2) q0

/-- cs of R229: the exact sum. -/
def rowCs (a rs : List XV) : XV := (List.zipWith xvMul a rs).foldl (fun x y => xvAdd 0 x y) q0

/-- The exact sum of the elements of a row. -/
def rowExact (v : Vec) : XV := v.foldl (fun x y => xvAdd 0 x (xv32 y)) q0

/-- The exact sum of the elements of an integer row. -/
def rowExactInt (v : Vec) : Int := v.foldl (fun n x => n + x.toInt) 0

end Sys2Proof.Machine
end

