-- ==== Sys2Proof/Machine/MatStep.lean ====
section
/-! DEFINITION. K-steps of the matrix engine: operands and their stored bounds, rows, the caliper and checksum of a step, the
restart of an interrupted step, and the replay of a loop (R194 to R201, R204, R218 to R223, R229). -/

namespace Sys2Proof.Machine

/-! ### Tiles and the M stream -/

/-- Tile register k of the current core. -/
def State.tl (s : State) (k : Nat) : Tile := s.core.tile k

/-- The state with a tile register of the current core replaced. -/
def State.setTl (s : State) (k : Nat) (t : Tile) : State := s.setCore (s.core.setTile k t)

/-- What stops the matrix engine inside a word, with the state it leaves. -/
abbrev MRes := State × Option Stop

/-- Whether a pre-emption or a halt waits for the M stream of the current core to stop (R206). -/
def State.stopping (s : State) : Bool :=
  (s.ctxOf s.ctxNo).st == .draining || (match s.core.hand with
    | some h => h.strm != .M
    | none => false)

/-- A word that stands stopped inside its work has been issued: it takes its TLM number, which completes when the word does (R191). -/
def State.standM (s : State) : State :=
  match s.core.within with
  | some h =>
    if h.num.isSome then s
    else
      let m := s.sm .M
      let s := s.setSm .M m.takeNum
      s.setCore { s.core with within := some { h with num := some (m.issued + 1) } }
  | none => s

/-- An M word whose effects may stop half-way: the body gives the state it leaves, with or without a cause (R191, R198). One that meets a
stop point (R206), or that a hold stops (R449), waits for nothing. -/
def matrixWord (w : W192) (reads : State → List Rg) (onWait : State → State) (body : State → MRes) (s0 : State) :
    Host.Outcome State Fault Refusal :=
  let h := hd192 w
  let s := s0.setCore { s0.core.settle .M with mstop := false }
  let act := (s.sm .M).active .M h
  match (s.sm .M).short (rg 1 h.pred :: (if act = 0 then [] else reads s)) with
  | some p => .next (s.raise .M (s.siteE .M 0) 0x120 0 (p.xpc % 2 ^ 32 + p.num * 2 ^ 32 + p.file * 2 ^ 40))
  | none =>
    if act = 0 then .next (State.issueEngine .M h { s := s })
    else match (body s).map State.standM id with
      | (t, none) => .next (State.issueEngine .M h { s := t, taken := s.core.standNum .M })
      | (t, some .wait) => .next (if t.core.mstop || t.dev.hold == some 0 then t else onWait (t.park .M))
      | (t, some (.cause c a d)) => .next (t.raise .M (t.siteE .M (t.tl w.tile.toNat).prog.toNat) c a d)
      | (t, some (.at c a d _)) => .next (t.raise .M (t.siteE .M (t.tl w.tile.toNat).prog.toNat) c a d)

/-- A body that changes nothing when it stops. -/
def mPlain (f : State → Res State) (s : State) : MRes :=
  match f s with
  | .ok t => (t, none)
  | .error e => (s, some e)

/-! ### Operands (R194, R195) -/

/-- Whether a format uses a scale register. -/
def scaled (f : Nat) : Bool := f == 2 || f == 3

/-- The A row stride a word uses. -/
def aStride (a : AReg) (arsc : Nat) : Int := if arsc = 0 then a.stride.toInt else 2 ^ (arsc + 6)

/-- What a word's steps read, as resolved at issue. `op` is 0 MMA, 1 MMAT, 2 MMAS. -/
def State.mEntry (s : State) (w : W192) (op cnt : Nat) (slot : Option (Nat × Nat)) : JEnt :=
  let c := s.core
  let a := c.aregNew w.areg.toNat
  let b := c.aregNew w.breg.toNat
  let fa := w.afmt.toNat
  let fb := w.bfmt.toNat
  { tile := w.tile.toNat, op := op, afmt := fa, bfmt := fb, asrc := w.asrc.toNat, btr := w.btr, cnt := cnt,
    abase := strPtr a w.aoff.toInt fa, ars := aStride a w.arsc.toNat, bbase := strPtr b w.boff.toInt fb,
    ascale := if scaled fa then some (c.aregNew (w.areg.toNat + 1)) else none,
    bscale := if scaled fb then some (c.aregNew (w.breg.toNat + 1)) else none,
    geom := w.geom.toNat, chk := w.chk, retry := w.retry, slot := slot,
    i0 := (s.sm .M).ireg 0, i1 := (s.sm .M).ireg 1, pc := (s.sm .M).pc }

/-- The pointer of A row i of step st. -/
def JEnt.aPtr (e : JEnt) (st i : Nat) : Nat :=
  wrap64 ((e.abase : Int) + (i : Int) * e.ars + ((fmtBytes e.afmt (128 * st) : Nat) : Int))

/-- The pointer of the MMAT A block of step st. -/
def JEnt.atPtr (e : JEnt) (st : Nat) : Nat := wrap64 ((e.abase : Int) + ((fmtBytes e.afmt (16384 * st) : Nat) : Int))

/-- The pointer of the B block of step st. -/
def JEnt.bPtr (e : JEnt) (st : Nat) : Nat := wrap64 ((e.bbase : Int) + ((fmtBytes e.bfmt (16384 * st) : Nat) : Int))

/-- The pointer of scale byte b of step st. -/
def scalePtr (r : AReg) (st b : Nat) : Nat := wrap64 ((r.base.toNat : Int) + (st : Int) * r.stride.toInt + b)

/-- The windows of A rows. -/
def JEnt.aWins (e : JEnt) : List Nat :=
  if e.op = 1 then [1] else match e.asrc with
    | 0 => [2]
    | 1 => [4, 5, 6]
    | _ => [3]

/-- The windows of A scale bytes. -/
def JEnt.scaleWins (e : JEnt) : List Nat := if e.asrc = 1 then [1, 2, 4, 5, 6] else [1, 2]

/-- One read of the matrix engine. -/
def mAcc (wins : List Nat) (size align : Nat) : Acc := ⟨wins, some 0x048, size, align, false, 4⟩

/-- Every check of an access but translation (R196). -/
def State.checkOnly (s : State) (a : Acc) (lim : Option AReg) (p : Nat) : Res Unit := do
  checkPtr s s.cur a p
  if bits p 63 60 = 6 then checkReach s p a.size
  match lim with
  | some r => checkLimit r p a.size
  | none => .ok ()

/-- The check of a scale register (R195). -/
def scaleRegOk (r : AReg) (pattern : Bool) : Res Unit := need (if pattern then decide (r.limit.toNat < 8) else r.limit == 0) 0x04C

/-- The alignment of the A rows of a word. -/
def JEnt.aAlign (e : JEnt) (aoff : Int) : Nat := if e.ars % (elemSize e.afmt : Int) ≠ 0 then 0 else strAlign aoff e.afmt

/-- The alignment of a block that starts at a multiple of 64 bytes. -/
def blkAlign (off : Int) (f : Nat) : Nat := if strAlign off f = 0 then 0 else 64

/-- Every address a word's steps read, checked (R196): A, then B, then scales, steps ascending. -/
def State.checkSteps (s : State) (w : W192) (e : JEnt) : Res Unit := do
  let a := s.core.aregNew w.areg.toNat
  let b := s.core.aregNew w.breg.toNat
  let steps := List.range e.cnt
  if e.op = 1 then
    steps.forM (fun st => s.checkOnly (mAcc [1] (fmtBytes e.afmt 16384) (blkAlign w.aoff.toInt e.afmt)) (some a) (e.atPtr st))
  else
    steps.forM (fun st => (List.range 128).forM (fun i =>
      s.checkOnly (mAcc e.aWins (fmtBytes e.afmt 128) (e.aAlign w.aoff.toInt)) (some a) (e.aPtr st i)))
  steps.forM (fun st => s.checkOnly (mAcc [1] (fmtBytes e.bfmt 16384) (blkAlign w.boff.toInt e.bfmt)) (some b) (e.bPtr st))
  match e.ascale with
  | some r => do
    scaleRegOk r (e.geom == 1)
    steps.forM (fun st => s.checkOnly (mAcc e.scaleWins 128 1) none (scalePtr r st 0))
  | none => .ok ()
  match e.bscale with
  | some r => do
    scaleRegOk r false
    steps.forM (fun st => s.checkOnly (mAcc [1, 2] 1 1) none (scalePtr r st 0))
  | none => .ok ()

/-- Bytes read by the matrix engine, with the checked access; bytes of another device are free. It waits for a store of the core
that covers them and has performed inside the core only. -/
def State.mRead (s : State) (wins : List Nat) (n p : Nat) : Res (List Byte × Tgt × State) := do
  let t ← access s s.cur (mAcc wins n 1) none p
  await (!s.core.blockedNow .M t.place)
  let s := s.touch s.ctxNo t.place.dies
  match t.place with
  | .remote _ _ => let r := s.freeBytes n; .ok (r.1, t, r.2)
  | q => .ok (s.readPlace s.cur n q, t, s)

/-- The version whose frame or header unit holds a byte of window 0x4: pool, slot, version. -/
def State.verAt (s : State) (va : Nat) : Option (Nat × Nat × Nat) :=
  match (s.ctxOf s.ctxNo).pools.findSome? (fun (e : Nat × TPool) => (e.2.byteAt va).map (fun (b : PByte) => (e.1, e.2, b))) with
  | some (p, t, PByte.home n f) => ((t.slot n).holds t.vdep f).map (fun v => (p, n, v))
  | some (p, t, PByte.shadow k) => (t.shadowOf k).map (fun e => (p, e.1, e.2.1))
  | none => none

/-- A row of A on a poisoned frame of a tile-pool page waits for its version as LOST (Tables 5-6 and 15-5): 0x1A5 once that is
unrecoverable. -/
def State.lostRow (s : State) (x : Stop) : Stop :=
  match x with
  | .cause 0x084 a _ =>
    (match (if bits a 63 60 = 4 then s.verAt (winOff 4 a) else none) with
     | some (p, n, v) =>
       (match (s.poolOf s.ctxNo p).bind (fun t => t.ver n v) with
        | some e => if e.unrec then .cause 0x1A5 a 0 else if e.st = .lost ∨ e.st = .rebuilding then .wait else x
        | none => x)
     | none => x)
  | _ => x

/-- Whether a frozen range holds all the bytes [o, o + n) (R201). -/
def frozenIn (r : W32) (o n : Nat) : Bool :=
  let st := bits r.toNat 15 0 * 64
  let ln := bits r.toNat 31 16 * 64
  decide (st ≤ o) && decide (o + n ≤ st + ln)

/-- Whether a read keeps a loop replayable (R201): buffer bytes in a frozen range, memory in tile-pool pages. -/
def Tile.keeps (t : Tile) (g : Tgt) (n : Nat) : Bool :=
  match g.place with
  | .wbuf o => frozenIn t.frw o n
  | .abuf o => frozenIn t.fra o n
  | .phys _ _ => g.leafs.all (fun e => Sys2Proof.Machine.bit e 3)
  | _ => false

/-- RPOK of the tile's loop cleared unless a read keeps it. -/
def State.keepRp (s : State) (k : Nat) (ok : Bool) : State := if ok then s else s.setTl k ((s.tl k).setBit 7 false)

/-- An element times its scale byte (R77, R83). -/
def scaleXV (x : XV) (c : Nat) : XV := if c = 255 then .nan else xvScale x ((c : Int) - 127)

/-- 16,384 values as 128 rows. -/
def chunk128 {α : Type} (l : List α) : List (List α) := (List.range 128).map (fun k => (l.drop (128 * k)).take 128)

/-- The transpose of 128 rows of 128. -/
def transpose128 (l : List (List XV)) : List (List XV) := (List.range 128).map (fun j => l.map (fun r => r.getD j q0))

/-- The header unit of the tile version whose frame holds a virtual offset of window 0x4: its offset, none when the frame holds no version. -/
def State.headerOf (s : State) (va : Nat) : Option Nat :=
  match (s.ctxOf s.ctxNo).pools.findSome? (fun (e : Nat × TPool) => (e.2.byteAt va).map (fun (b : PByte) => (e.2, b))) with
  | some (t, PByte.home n f) => ((t.slot n).holds t.vdep f).map (fun v => (t.frameAddr n v .home).2)
  | some (t, PByte.shadow k) => (t.shadowOf k).map (fun e => (t.frameAddr e.1 e.2.1 (.shadow k)).2)
  | none => none

/-- The header bound of the tile version whose frame holds a virtual offset of window 0x4 (R223). -/
def State.headerBound (s : State) (va : Nat) : W32 :=
  match s.headerOf va with
  | some h => asBound (BitVec.ofNat 32 (fieldLE (s.readSegs (s.segsAt s.ctxNo h 256)) 0x14 4))
  | none => 0

/-- Whether no store that has performed at core scope alone covers the header unit at an offset of window 0x4 (R258, R265). -/
def State.headerClear (s : State) (va : Nat) : Bool :=
  match s.headerOf va with
  | some h => !s.core.blockedNow .M (.phys (4 * 2 ^ 60 + h) (s.segsAt s.ctxNo h 256))
  | none => true

/-- The stored bound of one read of A (Table 8-2). -/
def State.aBound (s : State) (n : Nat) (g : Tgt) : W32 :=
  match g.place with
  | .wbuf o => tagRead s.core.wtags o n
  | .abuf o => tagRead s.core.atags o n
  | .peer m o => tagRead (s.coreOf m).atags o n
  | .phys _ _ =>
    if g.tpage then maxBound (s.headerBound (winOff 4 g.ptr)) (s.headerBound (winOff 4 (g.ptr + n - 1))) else 0
  | .remote _ _ => 0

/-- The stored bound of a row of A as the step reads it at its start (R223): one of a tile pool that does not translate yet counts with the
version that holds its bytes. -/
def State.rowBound (s : State) (e : JEnt) (st i : Nat) : W32 :=
  let n := fmtBytes e.afmt 128
  let p := e.aPtr st i
  match access s s.cur (mAcc e.aWins n 1) none p with
  | .ok g => s.aBound n g
  | .error _ => if e.asrc = 1 ∧ bits p 63 60 = 4 then maxBound (s.headerBound (winOff 4 p)) (s.headerBound (winOff 4 (p + n - 1))) else 0

/-- Whether the headers that a row of A in a tile pool takes its bound from are clear of stores that have performed at core scope alone. -/
def State.headersClear (s : State) (e : JEnt) (st i : Nat) : Bool :=
  let p := e.aPtr st i
  bits p 63 60 != 4 || (s.headerClear (winOff 4 p) && s.headerClear (winOff 4 (p + fmtBytes e.afmt 128 - 1)))

/-- What every row of a step shares: rows and columns of B with its scale applied (but for a scale of 0xFF, which `bnan` says), the rows of
A when it is read by bit lines, the bounds ea and eb, bm, the mask record, the F4 spare value, the bytes the loader's sums were kept of,
and rho. -/
structure StepB where
  brows : List (List XV)
  cols : List (List XV)
  sums : List (List XV)
  amat : Option (List (List XV))
  ea : XV
  eb : XV
  bm : XV
  bnan : Bool
  mrec : Option BlzEnt
  spare : W32

/-- The 64-byte units of W-buffer bytes as the loader's sums know them (R135): units never written hold zeros. -/
def CoreSt.keptBytes (c : CoreSt) (o n : Nat) : List Byte :=
  (List.range (n / 64)).flatMap (fun u => match find? c.wsums (o / 64 + u) with
    | some w => w.bytes
    | none => List.replicate 64 0)

/-- A W-buffer block as 128 rows in the read direction of a step. -/
def blockRows (f : Nat) (spare : W32) (tr : Bool) (bs : List Byte) : List (List XV) :=
  let m := chunk128 ((elems f bs).map (xvElem f spare))
  if tr then transpose128 m else m

/-- The bounds a step in progress has read at its start, or none when it starts now (R223). -/
def State.heldBounds (s : State) (st : Nat) : Option (W32 × W32) :=
  match s.core.within.bind (fun h => h.step) with
  | some (n, ea, eb) => if n = st then some (ea, eb) else none
  | none => none

/-- The step the word in progress holds its bounds for. -/
def State.holdStep (s : State) (x : Option (Nat × W32 × W32)) : State :=
  s.setCore { s.core with within := some { (s.core.within.getD ⟨none, none, none, none, none⟩) with step := x } }

/-- The shape record that the steps of a word use: the one its first step has read, which the word holds until it is done, so that no refill meets it
once it has had an effect (R242, R246). -/
def State.stepRec (s : State) (e : JEnt) : Res (Option BlzEnt × State) :=
  match e.slot, s.core.within.bind (fun h => h.mrec) with
  | some p, none =>
    if e.op = 2 ∨ e.afmt = 3 ∨ e.bfmt = 3 then
      (s.fillRec p).map (fun r =>
        (some r.1, r.2.setCore { r.2.core with within := some { (r.2.core.within.getD ⟨none, none, none, none, none⟩) with mrec := some r.1 } }))
    else .ok (none, s)
  | some _, some r => .ok (some r, s)
  | none, _ => .ok (none, s)

/-- The stored bounds ea and eb of a step that starts now; it waits for stores that have performed at core scope to reach the headers it reads
(R223, R258). `a` is the bound of an A block read by bit lines. -/
def State.startBounds (s : State) (e : JEnt) (st : Nat) (a : W32) : Res (W32 × W32) := do
  let rows := if e.op = 1 then [] else List.range 128
  await (e.asrc ≠ 1 ∨ rows.all (fun i => s.headersClear e st i))
  .ok (rows.foldl (fun b i => maxBound b (s.rowBound e st i)) a,
    tagRead s.core.wtags (winOff 1 (e.bPtr st)) (fmtBytes e.bfmt 16384))

/-- What a step reads before its first row (R194, R195, R223), with the state after it. -/
def State.stepB (s : State) (k : Nat) (e : JEnt) (st : Nat) : Res (StepB × State) := do
  let (rec?, s) ← s.stepRec e
  let spare := (rec?.map (fun r => r.spare)).getD nan32
  let n := fmtBytes e.bfmt 16384
  let (bb, bt, s) ← s.mRead [1] n (e.bPtr st)
  let (sb, s, okb) ← match e.bscale with
    | some r => do
      let (c, g, s) ← s.mRead [1, 2] 1 (scalePtr r st 0)
      .ok (some (leNat c), s, (s.tl k).keeps g 1)
    | none => .ok (none, s, true)
  let sc (x : XV) : XV := match sb with
    | some c => if c = 255 then x else scaleXV x c
    | none => x
  let rows := (blockRows e.bfmt spare e.btr bb).map (fun r => r.map sc)
  let kept := s.core.keptBytes (winOff 1 (e.bPtr st)) n
  let sums := if kept = bb then rows else (blockRows e.bfmt spare e.btr kept).map (fun r => r.map sc)
  let (am, abnd, s, oka) ← if e.op = 1 then do
      let na := fmtBytes e.afmt 16384
      let (ab, g, s) ← s.mRead [1] na (e.atPtr st)
      .ok (some (blockRows e.afmt spare true ab), s.aBound na g, s, (s.tl k).keeps g na)
    else
      .ok (none, 0, s, true)
  let s := s.keepRp k ((s.tl k).keeps bt n && okb && oka)
  let bd ← match s.heldBounds st with
    | some bd => .ok bd
    | none => s.startBounds e st abnd
  let bnan := sb == some 255
  .ok ({ brows := rows, cols := transpose128 rows, sums := sums, amat := am, ea := xv32 bd.1, eb := xv32 bd.2,
         bm := if bnan then q0 else maxAbs (rows.flatMap id), bnan := bnan, mrec := rec?, spare := spare }, s.holdStep (some (st, bd)))

/-- A row of A with its scales applied, but for a row scale of 0xFF, which `anan` says: that one applies at promotion (R85). -/
structure ARow where
  vals : List XV
  anan : Bool

/-- A row i of step st with its scales (R80, R195), and the state after reading it. -/
def State.aRow (s : State) (k : Nat) (e : JEnt) (b : StepB) (st i : Nat) : Res (ARow × State) := do
  let (xs, s) ← match b.amat with
    | some m => .ok (m.getD i [], s)
    | none => do
      let n := fmtBytes e.afmt 128
      let (bs, g, s) ← (s.mRead e.aWins n (e.aPtr st i)).mapError s.lostRow
      .ok ((elems e.afmt bs).map (xvElem e.afmt b.spare), s.keepRp k ((s.tl k).keeps g n))
  match e.ascale with
  | none => .ok (⟨xs, false⟩, s)
  | some r =>
    if e.geom = 1 then do
      let h := 2 ^ (r.limit.toNat % 8)
      let (cs, g, s) ← s.mRead e.scaleWins h (scalePtr r st (i / h * h))
      let s := s.keepRp k ((s.tl k).keeps g h)
      .ok (⟨((List.range 128).zip xs).map (fun x => scaleXV x.2 (cs.getD (x.1 / (128 / h)) 0).toNat), false⟩, s)
    else do
      let (cs, g, s) ← s.mRead e.scaleWins 1 (scalePtr r st i)
      .ok (if leNat cs = 255 then ⟨xs, true⟩ else ⟨xs.map (fun x => scaleXV x (leNat cs)), false⟩, s.keepRp k ((s.tl k).keeps g 1))

/-- The unmasked columns of row i (R199, R248). -/
def JEnt.rowMask (e : JEnt) (b : StepB) (i : Nat) : Mask :=
  match b.mrec with
  | some r => if e.op = 2 then maskOf (fun j => !maskedPair r.tab (r.mode % 4) (e.i0.toNat + i) (e.i1.toNat + j)) else BitVec.allOnes 128
  | none => BitVec.allOnes 128

/-- Whether a format pair uses the inner window (R85). -/
def windowed (fa fb : Nat) : Bool := (scaled fa && scaled fb) || (fa == 1 && fb == 1)

/-! ### The parts of PEND (R219) -/

/-- QMAX and CMAX of PEND. -/
def Tile.qmax (t : Tile) : W32 := t.pend.setWidth 32
def Tile.cmax (t : Tile) : W32 := (t.pend >>> 32).setWidth 32

/-- A tile with QMAX raised to a value, and with CMAX raised. -/
def Tile.raiseQ (t : Tile) (x : W32) : Tile := { t with pend := zx64 (maxBound t.qmax x) ||| (zx64 t.cmax <<< 32) }
def Tile.raiseC (t : Tile) (x : W32) : Tile := { t with pend := zx64 t.qmax ||| (zx64 (maxBound t.cmax x) <<< 32) }

/-- rho of a step (R230): the largest error of the sums that its rows use, rounded upward. -/
def JEnt.rho (e : JEnt) (b : StepB) : XV :=
  let rs := ((List.range 128).map (fun i => maskRange (e.rowMask b i))).eraseDups
  xv32 (roundUp (rs.foldl (fun m r => qMax m (sumsError e.bfmt r b.sums)) q0))

/-- The checksum element of a row advanced (R229); a NaN there adds nothing to CMAX. -/
def Tile.advance (t : Tile) (e : JEnt) (b : StepB) (i : Nat) (u : Mask) (a : List XV) (am : XV) : Tile :=
  let cs := rowCs a (colSums e.bfmt (maskRange u) b.sums)
  if t.int then { t with chk := put 0 t.chk i (look 0 t.chk i + BitVec.ofInt 64 (xvInteger cs)) }
  else
    let x := round32 0 (xvAdd 0 (xv32 ((look 0 t.chk i).setWidth 32)) cs)
    let t := { t with chk := put 0 t.chk i (zx64 x) }
    if isNaN32 x then t
    else t.raiseC (roundUp (qAdd (addt (xvAbs (xv32 x))) (if u = 0 then q0 else qMul (.num false 128 0) (qMul am (e.rho b)))))

/-- Row i of a step promoted (R197, R220): elements, counters, PEND and the checksum element. -/
def Tile.promote (t : Tile) (e : JEnt) (b : StepB) (i : Nat) (r : ARow) : Tile :=
  let u := e.rowMask b i
  let scaleNan := r.anan || b.bnan
  let a := if scaleNan then r.vals.map (fun _ => XV.nan) else r.vals
  let am := if r.anan then q0 else maxAbs r.vals
  let l2 := t.lvl == 2
  let old := t.row i
  let comp := look zeroVec t.comp i
  let r :=
    if t.int then intRow u old a b.cols
    else if t.lvl = 0 ∧ windowed e.afmt e.bfmt then winRow u scaleNan old r.vals b.cols
    else seqRow l2 u old comp a b.brows
  let t := (t.setRow i r.row).count r.sat r.nan r.bso
  let t := if l2 then { t with comp := put zeroVec t.comp i r.comp } else t
  let t := { t with live := put 0 t.live i (look 0 t.live i ||| u) }
  let t := if u = 0 then t else (t.setBit 12 false).setBit 14 false
  let t :=
    if t.int then (if r.clip then { t with clamped := i :: t.clamped.filter (fun j => j != i) } else t)
    else
      let n : XV := if u = 0 then q0 else .num false 128 0
      let q := qAdd r.q (qMul n (qAdd (qAdd (qMul b.ea b.bm) (qMul b.eb am)) (qMul b.ea b.eb)))
      t.raiseQ (if r.clip then 0x7F800000 else roundUp q)
  if e.chk then t.advance e b i u a am else t

/-- The term of a step added once its last row is done (R220, R222, R229). -/
def Tile.endStep (t : Tile) (e : JEnt) : Tile :=
  if t.int then { t with pend := 0 }
  else
    { t with cal := roundUp (qAdd (xv32 t.cal) (xv32 t.qmax)),
             ccol := if e.chk then roundUp (qAdd (xv32 t.ccol) (xv32 t.cmax)) else t.ccol, pend := 0 }

/-- A word stopped at row i of step st (R198). -/
def State.stopAt (s : State) (k st i : Nat) (x : Stop) : MRes :=
  (s.setTl k { s.tl k with prog := BitVec.ofNat 32 (st + i * 65536) }, some x)

/-- A word stopped before row i of step st, for a pre-emption or a halt (R198, R206 point 4), or for a power or thermal hold (R449). -/
def State.pauseAt (s : State) (k st i : Nat) : MRes :=
  let (s, x) := s.stopAt k st i .wait
  (if s.stopping then s.setCore { s.core with mstop := true } else s, x)

/-- The rows of a step that are left; `stop` is the row, counted from the word's first, before which the word stops (R206). -/
def State.mRows (k : Nat) (e : JEnt) (b : StepB) (stop : Option Nat) (st : Nat) : List Nat → State → MRes
  | [], s => (s, none)
  | i :: r, s =>
    if stop = some (128 * st + i) then s.pauseAt k st i
    else match s.aRow k e b st i with
    | .error x => s.stopAt k st i x
    | .ok (a, s) => State.mRows k e b stop st r (s.setTl k ((s.tl k).promote e b i a))

/-- The steps of a word that are left, the first from row rp on. -/
def State.mSteps (k : Nat) (e : JEnt) (stop : Option Nat) : List Nat → Nat → State → MRes
  | [], _, s => (s.setTl k { s.tl k with prog := 0 }, none)
  | st :: r, rp, s =>
    match s.stepB k e st with
    | .error x => s.stopAt k st rp x
    | .ok (b, s) =>
      match State.mRows k e b stop st (List.range' rp (128 - rp)) s with
      | (s, some x) => (s, some x)
      | (s, none) => State.mSteps k e stop r 0 ((s.setTl k ((s.tl k).endStep e)).holdStep none)

/-- The steps of a word from the point PROG names (R197): the tile's bound is folded first (R218). -/
def State.runWord (s : State) (k : Nat) (e : JEnt) (stop : Option Nat) : MRes :=
  let t := (s.tl k).fold
  let p := t.prog.toNat
  State.mSteps k e stop (List.range' (p % 65536) (e.cnt - p % 65536)) (bits p 22 16) (s.setTl k { t with ran := true })

/-! ### The origin of a loop (R200, R202, R229) -/

/-- The checksum column started from the elements a tile holds. -/
def Tile.startCol (t : Tile) (zero : Bool) : Tile :=
  let t := { t with comp := [], clamped := [], live := [], chk := [], ccol := 0 }
  if zero then t
  else if t.int then { t with chk := (t.elems.map (fun e => (e.1, BitVec.ofInt 64 (rowExactInt e.2)))).filter (fun e => e.2 != 0) }
  else
    let os := allRows.map (fun i => (i, rowExact (t.row i)))
    let ck := os.map (fun e => (e.1, round32 0 e.2))
    { t with chk := (ck.map (fun e => (e.1, zx64 e.2))).filter (fun e => e.2 != 0),
             ccol := roundUp (((os.zip ck).filter (fun e => e.1.2.finite)).foldl (fun m e => qMax m (addt (xvAbs (xv32 e.2.2)))) q0) }

/-- Every element +0 as a zero-first opening leaves it (R200). -/
def Tile.zeroFirst (t : Tile) : Tile :=
  { ((t.setBit 12 true).setBit 3 false).setBit 14 false with elems := [], cal := 0, inb := 0, orgh := 0 }

/-- A loop opened on a tile (R200 to R202): `zf` zero-first, `impl` by a tile-step word. PEND starts at 0 too, which R200's list does not give: the
model's choice (log entry 106). -/
def Tile.openLoop (t : Tile) (zf impl : Bool) (pc : Nat) : Tile :=
  let org := zf || t.zt
  let lt := !zf && t.lt
  let t := if zf then t.zeroFirst else t.fold
  let t := if !org && !lt then { t with orgh := 0, orgv := 0 } else t
  let t := ((t.setBit 0 true).setBit 1 true).setBit 2 true
  let t := ((((t.setLvl 0).setBit 5 true).setBit 6 true).setBit 11 false).setBit 10 false
  let t := ((t.setBit 4 impl).setBit 13 org).setBit 7 (!impl && (org || lt))
  ({ t with satc := 0, nanc := 0, bsoc := 0, prog := 0, pend := 0, orgpc := BitVec.ofNat 16 pc, ran := false } : Tile).startCol org

/-- A core whose queued STT words no longer move tile k to LOADED when they complete: another event of Table 7-3 has moved it since. -/
def CoreSt.undrained (c : CoreSt) (k : Nat) : CoreSt :=
  { c with sS := { c.sS with stores := c.sS.stores.map (fun e => if e.kind = .tile (some k) then { e with kind := .tile none } else e) } }

/-- A loop opened on tile k of the current core. -/
def State.openTile (s : State) (k : Nat) (zf impl : Bool) : State :=
  let s := s.setTl k ((s.tl k).openLoop zf impl (s.sm .M).pc)
  let c := s.core.undrained k
  s.setCore { c with journal := c.journal.filter (fun e => e.tile != k) }

/-! ### Replay (R204) -/

/-- The elements of a tile that some step of its loop has left unmasked, row by row. -/
def Tile.liveElems (t : Tile) : List W32 :=
  t.live.flatMap (fun e => ((List.range 128).filter (fun j => e.2.getLsbD j)).map (fun j => (t.row e.1).getD j 0))

/-- The compensation terms folded into their elements, with the term of R221: its maximum is over elements that are not masked (R217). -/
def Tile.foldComp (t : Tile) : Tile :=
  let f (a c : W32) : W32 := if finite32 a then fadd 0 a c else a
  let rows := allRows.map (fun i => (i, t.row i, List.zipWith f (t.row i) (look zeroVec t.comp i)))
  let ch := rows.flatMap (fun e => (e.2.1.zip e.2.2).filter (fun p => p.1 != p.2))
  let t' := rows.foldl (fun (t : Tile) e => t.setRow e.1 e.2.2) t
  let t' := t'.count 0 (ch.filter (fun p => isNaN32 p.2)).length (ch.filter (fun p => isInf32 p.2)).length
  let t' := if ch.isEmpty then t' else (t'.setBit 12 false).setBit 14 false
  { t' with comp := [], cal := roundUp (qAdd (xv32 t'.cal) (addt (maxAbs (t'.liveElems.map xv32)))) }

/-- The sealed origin of a loop reloaded under the rules of LDT var 01; a CRC that differs loses the version (R143). -/
def State.reload (s : State) (k : Nat) : MRes :=
  let t := s.tl k
  let h := t.orgh.toNat
  let v := t.orgv.toNat
  match s.handleSlot s.ctxNo h with
  | none => (s, some (.cause 0x090 0 0))
  | some (_, n, pl) =>
    let fm := ((pl.ver n v).map (fun e => s.headerFmt s.ctxNo pl n v e.frame)).getD pl.fmt
    match s.sealedVer s.ctxNo h v fm with
    | .error x => (s, some x)
    | .ok (p, n, pl, f) =>
      let hd := s.verHeader s.ctxNo pl n v f
      let data := s.readSegs (s.dataSegs s.ctxNo pl n v f fm)
      if (crc64 data).toNat = fieldLE hd 0x18 8 then
        let t := ((t.setRows (tileRows fm data)).setBit 14 true).setBit 12 false
        (s.setTl k { t with inb := asBound (BitVec.ofNat 32 (fieldLE hd 0x14 4)) }, none)
      else ((s.loseVer s.ctxNo p n v).inform s.ctxNo s.cur 1, some .wait)

/-- The record of the word in progress let go: each word of a replay reads its own. -/
def State.dropRec (s : State) : State := s.setCore { s.core with within := s.core.within.map (fun h => { h with mrec := none }) }

/-- The journal entries of a replay, in order. -/
def State.rerun (k : Nat) : List JEnt → State → MRes
  | [], s => (s, none)
  | e :: r, s =>
    let t := s.tl k
    let s := s.setTl k ((t.setBit 5 (t.chkv && e.chk)).setBit 6 (t.rtok && e.retry))
    match ((s.holdStep none).dropRec).runWord k e none with
    | (s, some x) => (s, some x)
    | (s, none) => State.rerun k r s

/-- A replay of the loop of tile k; a fault abandons it with RPEND still 1 and PROG 0. -/
def State.replay (s : State) (k : Nat) : MRes :=
  let t := s.tl k
  let r : MRes :=
    if t.oz then (s.setTl k { (t.setBit 12 false).setBit 14 false with elems := [], inb := 0 }, none) else s.reload k
  match r with
  | (s, some x) => (s, some x)
  | (s, none) =>
    let t := { s.tl k with cal := 0, pend := 0, prog := 0, satc := 0, nanc := 0, bsoc := 0 }
    let s := s.setTl k (((t.startCol t.oz).setBit 5 true).setBit 6 true)
    match State.rerun k (s.core.journal.filter (fun e => e.tile == k)) s with
    | (s, some x) =>
      let t := s.tl k
      ((s.setTl k { t with prog := 0, pend := 0 }), some x)
    | (s, none) =>
      let t := (s.tl k).fold
      let t := if t.lvl = 2 then t.foldComp else t
      (s.setTl k (t.setBit 10 false), none)

end Sys2Proof.Machine
end

