-- ==== Sys2Proof/Machine/Matrix.lean ====
section
/-! DEFINITION. The words of the matrix stream (R188 to R214, R218 to R234). -/

namespace Sys2Proof.Machine

/-! ### The tile-step words (R193 to R205) -/

/-- Nominal cycles of one K-step (Table 7-5). -/
def nominal (fa fb lvl : Nat) : Nat :=
  if fa = 4 then 128
  else if fa = 0 then (if lvl = 2 then 4096 else 2048)
  else
    let l0 := if fa = 1 then 256 else if fa = 3 ∧ fb = 3 then 64 else 128
    if lvl = 0 then l0 else if lvl = 1 then 4 * l0 else 8 * l0

/-- The K-steps of a word; 0 for a guarded no-op (R197). -/
def State.stepCount (s : State) (w : W192) : Nat :=
  if w.gen then
    let gv := ((s.sm .M).ireg w.greg.toNat).toNat
    if bits gv 31 16 = w.gexp.toNat then bits gv 15 0 else 0
  else w.kcount.toNat

/-- The pair of the word's shape slot, whose record must be in the blaze cache before the word issues (R199, R246). -/
def State.stepSlot (s : State) (w : W192) : Res (Option (Nat × Nat)) :=
  if w.shape = 0 then .ok none
  else do
    let p ← s.slotOf w.shape.toNat
    (s.recOf p).map (fun _ => some p)

/-- Table 7-3 and R200 for a tile step on a tile: whether it is the loop's first. -/
def Tile.stepAllowed (t : Tile) (zf int8 : Bool) : Res Bool := do
  need (t.f || t.v || zf) 0x0A4
  need (!(t.f && zf && t.ran)) 0x04B
  let first := !t.f || !t.ran
  need ((if first && int8 then true else if zf then false else t.int) == int8) 0x04B
  .ok first

/-- A journal entry appended, or RPOK cleared when none is free (R201). -/
def State.enterJournal (s : State) (k : Nat) (e : JEnt) : State :=
  if !(s.tl k).rpok then s
  else if s.core.journal.length < 128 then s.setCore { s.core with journal := s.core.journal ++ [e] }
  else s.setTl k ((s.tl k).setBit 7 false)

/-- Opening or joining the loop (R200): the tile as the first step finds it. -/
def State.joinTile (s : State) (k : Nat) (zf first int8 chk retry : Bool) : State :=
  let s :=
    if !(s.tl k).f then s.openTile k zf true
    else if zf then s.setTl k (((s.tl k).zeroFirst.setBit 13 true).startCol true)
    else s
  let t := s.tl k
  let t := if first && int8 then ((t.setBit 3 true).setLvl 0).startCol false else t
  s.setTl k ((t.setBit 5 (t.chkv && chk)).setBit 6 (t.rtok && retry))

/-- Every check of a tile-step word before its first step, then its loop opened or joined, its cost counted (R205) and its journal
entry made. -/
def State.joinLoop (s : State) (w : W192) (op cnt : Nat) : Res (State × JEnt) := do
  let k := w.tile.toNat
  let zf := !w.acc
  let int8 := w.afmt == 4
  let first ← (s.tl k).stepAllowed zf int8
  let slot ← s.stepSlot w
  let e := s.mEntry w op cnt slot
  s.checkSteps w e
  let lvl := if !(s.tl k).f || (first && int8) then 0 else (s.tl k).lvl
  let cost := s.core.cost + cnt * nominal w.afmt.toNat w.bfmt.toNat lvl
  need (decide (cost ≤ (s.core.csr 0x3D8).toNat * 256)) 0x0E4
  let s := s.joinTile k zf first int8 w.chk w.retry
  let s := s.setCore { s.core with cost := cost }
  .ok (s.enterJournal k e, e)

/-- The row, counted from the word's first, before which a word stops: the first of the K-step that a power or thermal hold does not let issue
(R449). -/
def State.holdRow (s : State) (k : Nat) : Option Nat := s.dev.hold.map (fun n => 128 * ((s.tl k).prog.toNat % 65536 + n))

/-- The K-steps that have issued taken from what a hold still allows. -/
def State.issuedSteps (s : State) (n : Nat) : State := { s with dev := { s.dev with hold := s.dev.hold.map (fun h => h - n) } }

/-- The row before which a word stops: when a pre-emption or a halt waits for the stream, one that reads A
from memory or from a peer stops at a row boundary that no rule picks (R206 point 4); else where a hold says. -/
def State.stopRow (s : State) (k : Nat) (e : JEnt) : Option Nat × State :=
  if s.stopping ∧ e.asrc ≠ 0 then
    let p := (s.tl k).prog.toNat
    let cur := 128 * (p % 65536) + bits p 22 16
    (some (cur + (Config.freeWord s.fresh).toNat % (128 * e.cnt - cur + 1)), { s with fresh := s.fresh + 1 })
  else (s.holdRow k, s)

/-- A word's steps run; `within` holds what it goes on with while it stands stopped inside them (R198, R223, R247). -/
def State.runSteps (s : State) (k : Nat) (e : JEnt) : MRes :=
  let (stop, s) := s.stopRow k e
  let first := (s.tl k).prog.toNat % 65536
  let s := s.setCore { s.core with within := some { (s.core.within.getD ⟨none, none, none, none, none⟩) with slot := e.slot, kth := none } }
  match s.runWord k e stop with
  | (s, some x) => (s.issuedSteps ((s.tl k).prog.toNat % 65536 - first), some x)
  | (s, none) => (s.issuedSteps (e.cnt - first) |>.setCore { s.core with within := none }, none)

/-- The body of a tile-step word. -/
def stepBody (op : Nat) (w : W192) (s : State) : MRes :=
  let cnt := s.stepCount w
  if cnt = 0 then (s, none)
  else match s.core.within with
  | some h =>
    let e := s.mEntry w op cnt h.slot
    (match s.checkSteps w e with
    | .error x => (s, some x)
    | .ok _ => s.runSteps w.tile.toNat e)
  | none =>
    match s.joinLoop w op cnt with
    | .error x => (s, some x)
    | .ok (s, e) => s.runSteps w.tile.toNat e

/-- The registers a tile-step word reads. -/
def stepReads (op : Nat) (w : W192) (s : State) : List Rg :=
  (if w.gen then [rg 2 w.greg.toNat] else []) ++ (if op = 2 ∧ s.stepCount w ≠ 0 then [rg 2 0, rg 2 1] else [])

/-- The version a stopped row of A waits for, noted. -/
def State.noteRow (s : State) (w : W192) (op : Nat) : State :=
  if op ≠ 1 ∧ w.asrc = 1 then
    let g := (s.tl w.tile.toNat).prog.toNat
    let p := (s.mEntry w op 0 none).aPtr (g % 65536) (bits g 22 16)
    match (if bits p 63 60 = 4 then s.verAt (winOff 4 p) else none) with
    | some (p, n, v) => s.noteVer .M (p * 2 ^ 48 + n) v
    | none => s
  else s

/-- A tile-step word. -/
def tileStep (op : Nat) (w : W192) (s : State) : Host.Outcome State Fault Refusal :=
  matrixWord w (stepReads op w) (fun s => (if s.core.within.isSome then s else State.wantSlot .M w.shape.toNat s).noteRow w op) (stepBody op w) s

/-- MMA. -/
def execMma (w : W192) (s : State) : Host.Outcome State Fault Refusal := tileStep 0 w s

/-- MMAT. -/
def execMmat (w : W192) (s : State) : Host.Outcome State Fault Refusal := tileStep 1 w s

/-- MMAS. -/
def execMmas (w : W192) (s : State) : Host.Outcome State Fault Refusal := tileStep 2 w s

/-! ### MZERO and MINIT (R202, R207) -/

/-- A matrix word that reads no register besides its predicate and changes nothing when it stops. -/
def plainMatrix (w : W192) (f : State → Res State) (s : State) : Host.Outcome State Fault Refusal :=
  matrixWord w (fun _ => []) id (mPlain f) s

/-- MZERO. -/
def Tile.zeroed (t : Tile) : Tile :=
  { ((((((t.setBit 0 true).setBit 1 false).setBit 2 false).setBit 12 true).setBit 3 false).setBit 14 false) with
    elems := [], cal := 0, inb := 0, prog := 0, satc := 0, nanc := 0, bsoc := 0, orgh := 0, comp := [], rs := [] }

/-- MZERO. -/
def execMzero (w : W192) (s : State) : Host.Outcome State Fault Refusal :=
  plainMatrix w (fun s => do
    let k := w.tile.toNat
    need (!(s.tl k).f) 0x0A5
    .ok (s.setTl k (s.tl k).zeroed)) s

/-- The range an address register freezes, widened to 64-byte units, or cause 0x048 (R202). -/
def frozenOf (r : AReg) (win extent : Nat) : Res W32 :=
  let b := r.base.toNat
  let n := r.limit.toNat
  let o := winOff win b
  if n = 0 then .ok 0
  else if bits b 63 60 = win ∧ inExtent win b ∧ o + n ≤ extent then
    let st := o / 64
    .ok (BitVec.ofNat 32 (st + ((o + n + 63) / 64 - st) * 65536))
  else .error (.cause 0x048 b 0)

/-- MINIT. -/
def execMinit (w : W192) (s : State) : Host.Outcome State Fault Refusal :=
  plainMatrix w (fun s => do
    let k := w.tile.toNat
    let zf := !w.acc
    need (!(s.tl k).f) 0x0A5
    need (zf || (s.tl k).v) 0x0A4
    let fa ← frozenOf (s.core.aregNew w.areg.toNat) 2 0x200000
    let fw ← frozenOf (s.core.aregNew w.breg.toNat) 1 0x180000
    let s := s.openTile k zf false
    .ok (s.setTl k { s.tl k with fra := fa, frw := fw })) s

/-! ### MRET (R203, R204, R226 to R231) -/

/-- The next level under a policy (Table 7-7). -/
def nextLevel (policy lvl : Nat) : Option Nat :=
  match policy, lvl with
  | 1, 0 => some 1
  | 2, 0 => some 2
  | 2, 1 => some 2
  | 3, 0 => some 1
  | 3, 1 => some 2
  | _, _ => none

/-- The bound that a tile's CAL is compared with (R226). -/
def Tile.threshold (t : Tile) (kth : Word) : XV :=
  let v := xv32 (kth.setWidth 32)
  if kth.getLsbD 32 then qMul v (maxAbs (t.elems.flatMap (fun e => e.2.map xv32))) else v

/-- Whether CAL crosses a threshold (R226). -/
def Tile.crossesK (t : Tile) (kth : Word) : Bool := t.cal == 0x7F800000 || xvLt (t.threshold kth) (xv32 t.cal)

/-- What the comparison of a row's checksum finds (R231): d(i) and tol when it fails. -/
def Tile.rowFails (t : Tile) (i : Nat) : Option (XV × XV) :=
  let c := look 0 t.chk i
  if t.int then
    let r := BitVec.ofInt 64 (rowExactInt (t.row i))
    if t.clamped.contains i ∨ r = c then none else some (xvOf false ((r - c).toInt.natAbs : Int) 0, q0)
  else
    let x : W32 := c.setWidth 32
    if t.cal = 0x7F800000 ∨ !finite32 x ∨ (t.row i).any (fun v => !finite32 v) then none
    else
      let d := xvAbs (xvAdd 0 (rowExact (t.row i)) (xvNeg (xv32 x)))
      let tol := qAdd (xvScale (xv32 t.cal) 8) (xv32 t.ccol)
      if xvLt tol d then some (d, tol) else none

/-- The first row whose comparison fails. -/
def Tile.badCheck (t : Tile) : Option (Nat × XV × XV) := allRows.findSome? (fun i => (t.rowFails i).map (fun d => (i, d)))

/-- The check of one pass: done, a replay owed with its tile and whether it is a re-issue, or a cause. -/
inductive Verdict where
  | done
  | again (t : Tile) (reissue : Bool)
  | stop (x : Stop)

/-- One pass of the loop of R203. -/
def Tile.verdict (t : Tile) (policy : Nat) (kth : Word) : Verdict :=
  match (if t.chkv then t.badCheck else none) with
  | some (i, d, tol) =>
    if t.rtok ∧ !t.rtu ∧ t.rpok then .again ((t.setBit 11 true).setBit 10 true) false
    else .stop (.cause 0x100 i ((roundUp d).toNat * 2 ^ 32 + (roundUp tol).toNat))
  | none =>
    if !t.int ∧ t.crossesK kth then
      match (if t.rpok then nextLevel policy t.lvl else none) with
      | some l => .again ((t.setLvl l).setBit 10 true) true
      | none => .stop (.cause 0x0E0 0 ((roundUp (t.threshold kth)).toNat * 2 ^ 32 + t.cal.toNat))
    else .done

/-- A replay that MRET owes: abandoned at once, with RPEND kept, when a pre-emption or a halt waits for the stream (R206). -/
def State.owedReplay (s : State) (k : Nat) : MRes :=
  if !(s.tl k).rpend then (s, none)
  else if s.stopping then (s.setCore { s.core with mstop := true }, some .wait)
  else s.replay k

/-- The checks of MRET, replays included; `fuel` bounds the passes, of which a retry and two levels allow four. -/
def State.mretLoop (k policy : Nat) (kth : Word) : Nat → State → MRes
  | 0, s => (s, none)
  | fuel + 1, s =>
    match s.owedReplay k with
    | (s, some x) => (s, some x)
    | (s, none) =>
      match (s.tl k).verdict policy kth with
      | .done => (s, none)
      | .again t re =>
        let s := s.setTl k t
        State.mretLoop k policy kth fuel (if re then s.count 6 (dieOfCore s.cur) 1 else s)
      | .stop x => (s, some x)

/-- The counters against their limits (R203). -/
def Tile.limitsOk (t : Tile) : Res Unit := do
  need (t.satl = 0 ∨ t.satc.toNat ≤ t.satl.toNat) 0x0E1
  need (t.nanl = 0 ∨ t.nanc.toNat ≤ t.nanl.toNat) 0x0E2
  need (t.bsol = 0 ∨ t.bsoc.toNat ≤ t.bsol.toNat) 0x0E3

/-- A loop closed (R203): RETIRED, its journal entries freed, its register row sums formed (Table 8-5). -/
def State.closeLoop (s : State) (k : Nat) : State :=
  let t := (s.tl k).setBit 2 false
  let s := s.setTl k ({ t with ran := false, chk := [], ccol := 0, clamped := [], live := [] } : Tile).keepSums
  s.setCore { s.core with journal := s.core.journal.filter (fun e => e.tile != k) }

/-- The threshold an MRET compares with: the one it has read when it began, while it waits inside a replay, or KTH as it stands (R226). -/
def State.kthOf (s : State) (w : W192) : Word := (s.core.within.bind (fun h => h.kth)).getD (s.core.csr (0x3E0 + w.kth.toNat))

/-- An MRET that stands: one that waits keeps the threshold it has read; after a cause or an abandoned replay it begins again (R204, R228). -/
def State.mretStand (s : State) (kth : Word) (x : Stop) : MRes :=
  let num := s.core.standNum .M
  let stand : MHold := ⟨none, none, if x = .wait ∧ !s.core.mstop then some kth else none, num, none⟩
  (s.setCore { s.core with within := if stand.kth.isSome ∨ num.isSome then some stand else none }, some x)

/-- The body of MRET. -/
def mretBody (w : W192) (s : State) : MRes :=
  let k := w.tile.toNat
  if !(s.tl k).f then (s, some (.cause 0x0A6 0 0))
  else
    let kth := s.kthOf w
    let t := (s.tl k).fold
    let s := s.setTl k (if t.lvl = 2 then t.foldComp else t)
    match State.mretLoop k w.reissue.toNat kth 6 s with
    | (s, some x) => s.mretStand kth x
    | (s, none) =>
      match (s.tl k).limitsOk with
      | .error x => s.mretStand kth x
      | .ok _ =>
        let s := if w.acc then s else s.closeLoop k
        (s.setCore { s.core with cost := 0, within := none, mstop := s.stopping }, none)

/-- MRET. -/
def execMret (w : W192) (s : State) : Host.Outcome State Fault Refusal := matrixWord w (fun _ => []) (fun s =>
    let t := s.tl w.tile.toNat
    if t.rpend ∧ !t.oz then s.noteVer .M t.orgh.toNat t.orgv.toNat else s) (mretBody w) s

/-! ### Plain A-buffer addresses (R192) -/

/-- The offset of a checked range of the A-buffer. -/
def State.aPlace (s : State) (lim : Option AReg) (n align : Nat) (wr : Bool) (p : Nat) : Res Nat := do
  let g ← access s s.cur ⟨[2], some 0x048, n, align, wr, 0⟩ lim p
  .ok g.place.aoff

/-- The offset of the plain address of a word, n bytes long and aligned to them or to 64. -/
def State.plainAddr (s : State) (w : W192) (n align : Nat) (wr : Bool) : Res Nat :=
  s.aPlace none n align wr (wrap64 (((s.core.aregNew w.areg.toNat).base.toNat : Int) + w.aoff.toInt))

/-- MCAL (R209). -/
def execMcal (w : W192) (s : State) : Host.Outcome State Fault Refusal :=
  plainMatrix w (fun s => do
    let k := w.tile.toNat
    need (s.tl k).v 0x0A4
    need (!(s.tl k).f) 0x0A5
    let o ← s.plainAddr w 4 4 false
    let x : W32 := BitVec.ofNat 32 (leNat (s.core.aRead o 4))
    let t := (s.tl k).fold
    .ok (s.setTl k { t with cal := if isNaN32 x then 0x7F800000 else roundUp (qAdd (xv32 t.cal) (xvAbs (xv32 x))) })) s

/-- MSETK (R210). -/
def execMsetk (w : W192) (s : State) : Host.Outcome State Fault Refusal :=
  plainMatrix w (fun s => do
    let k := w.tile.toNat
    let o ← s.plainAddr w 8 8 false
    let v := leNat (s.core.aRead o 8)
    need (v / 2 ^ 48 == 0) 0x04C
    .ok (s.setTl k { s.tl k with satl := BitVec.ofNat 16 v, nanl := BitVec.ofNat 16 (v / 2 ^ 16), bsol := BitVec.ofNat 16 (v / 2 ^ 32) })) s

/-- MWIDE (R211). -/
def execMwide (w : W192) (s : State) : Host.Outcome State Fault Refusal :=
  plainMatrix w (fun s => do
    let k := w.tile.toNat
    need (s.tl k).f 0x0A6
    need (!(s.tl k).ran) 0x04B
    .ok (s.setTl k ((s.tl k).setLvl w.reissue.toNat))) s

/-- MSPILL (R213). -/
def execMspill (w : W192) (s : State) : Host.Outcome State Fault Refusal :=
  plainMatrix w (fun s => do
    let k := w.tile.toNat
    need (!(s.tl k).f) 0x0A5
    let t := (s.tl k).fold
    t.sumsOk allRows
    let o ← s.plainAddr w 65600 64 true
    let data := if t.v then t.rows.flatMap (fun r => r.flatMap (fun x => toLE 4 x.toNat)) else List.replicate 65536 0
    .ok ((s.setTl k t).setCore ((s.setTl k t).core.aWrite o (t.record ++ data) t.cal))) s

/-- Whether a record may be filled (R213): F = 0, no reserved bit, and D only with V. That LVL is not 3, which Table 7-2 says is never held,
is the model's choice (log entry 106). -/
def recordOk (t : Tile) : Bool := !t.f && t.stat.toNat / 2 ^ 15 == 0 && t.prog.toNat / 2 ^ 23 == 0 && (t.v || !t.d) && t.lvl != 3

/-- MFILL (R213). -/
def execMfill (w : W192) (s : State) : Host.Outcome State Fault Refusal :=
  plainMatrix w (fun s => do
    let k := w.tile.toNat
    need (!(s.tl k).f) 0x0A5
    let o ← s.plainAddr w 65600 64 false
    let t := Tile.ofRecord .zero (s.core.aRead o 64)
    need (recordOk t) 0x04E
    let s := s.setCore (s.core.undrained k)
    .ok (s.setTl k (t.setRows (chunk128 ((words4 (s.core.aRead (o + 64) 65536)).map (fun c => BitVec.ofNat 32 c)))).keepSums)) s

/-- MSTAT (R214). -/
def execMstat (w : W192) (s : State) : Host.Outcome State Fault Refusal :=
  plainMatrix w (fun s => do
    let o ← s.plainAddr w 64 64 true
    .ok (s.setCore (s.core.aWrite o (s.tl w.tile.toNat).record 0))) s

/-! ### Drains (R208) -/

/-- Rows of bytes one word writes to the A-buffer at offsets, in order. -/
def CoreSt.aWrites (c : CoreSt) (beta : W32) (l : List (Nat × List Byte)) : CoreSt :=
  let c := l.foldl (fun c e => c.aWrite e.1 e.2 beta) c
  { c with atags := tagCover c.atags (l.map (fun e => (e.1, e.2.length, beta))) }

/-- MDRAIN in A-buffer form. -/
def execMdrain (w : W192) (s : State) : Host.Outcome State Fault Refusal :=
  plainMatrix w (fun s => do
    let k := w.tile.toNat
    let f := w.afmt.toNat
    need (s.tl k).v 0x0A4
    need (!(s.tl k).f) 0x0A5
    let t := (s.tl k).fold
    need (if t.int then f == 5 || f == 0 else f != 5) 0x04B
    t.sumsOk allRows
    let a := s.core.aregNew w.areg.toNat
    let b := s.core.aregNew w.breg.toNat
    let rs := aStride a w.arsc.toNat
    let al := if rs % (elemSize f : Int) ≠ 0 then 0 else strAlign w.aoff.toInt f
    let os ← allRows.mapM (fun (i : Nat) => s.aPlace (some a) (fmtBytes f 128) al true (wrap64 ((strPtr a w.aoff.toInt f : Int) + (i : Int) * rs)))
    let im := t.image f 0
    let sc ← match im.scales with
      | some b8 => (s.aPlace (some b) 128 1 true (wrap64 ((b.base.toNat : Int) + w.boff.toInt))).map (fun o => [(o, b8)])
      | none => .ok []
    let s := s.setTl k ((t.count im.sat im.nan 0).setBit 1 false)
    .ok (s.setCore (s.core.aWrites im.bound (os.zip im.rows ++ sc)))) s

/-- MDRAIN in register form. -/
def execMdrainRegister (w : W192) (s : State) : Host.Outcome State Fault Refusal :=
  plainMatrix w (fun s => do
    let k := w.tile.toNat
    let x := w.aoff.toNat % 64
    let q := w.aoff.toNat / 64 % 128
    let t := (s.tl k).fold
    need t.v 0x0A4
    need (!t.f) 0x0A5
    need (w.afmt.toNat == (if t.int then 5 else 0)) 0x04B
    t.sumsOk (List.range' q w.kcount.toNat)
    let s := s.setTl k t
    .ok (s.setCore ((List.range w.kcount.toNat).foldl (fun c i => c.putVreg (x + i) (BitVec.allOnes 128) (t.row (q + i))) s.core))) s

/-! ### MCHK (R212) -/

/-- Whether two sums are equal as values. -/
def sameSum (a b : XV) : Bool := a == b || (a.finite && b.finite && !xvLt a b && !xvLt b a)

/-- The row sums, then the column sums, of a block as the loader keeps them. -/
def blockSums (f : Nat) (bs : List Byte) : List XV :=
  let m := blockRows f nan32 false bs
  (m ++ transpose128 m).map (fun l => (keptSum f l 128).1)

/-- The W-buffer block at offset o of a format agrees with the sums the loader kept: they were formed in that format (zeros have the
same sums in every format), from bytes with the same sums. -/
def CoreSt.blockSumsOk (c : CoreSt) (f o : Nat) : Bool :=
  let n := fmtBytes f 16384
  let kept := c.keptBytes o n
  let now := c.wRead o n
  (List.range (n / 64)).all (fun u => match find? c.wsums (o / 64 + u) with
    | some w => w.fmt == f || w.bytes.all (fun x => x == 0)
    | none => true) &&
    (kept == now || ((blockSums f kept).zip (blockSums f now)).all (fun e => sameSum e.1 e.2))

/-- MCHK. -/
def execMchk (w : W192) (s : State) : Host.Outcome State Fault Refusal :=
  plainMatrix w (fun s => do
    let f := w.bfmt.toNat
    let b := s.core.aregNew w.breg.toNat
    let p := strPtr b w.boff.toInt f
    let n := fmtBytes f 16384
    let m := w.kcount.toNat
    need (!(bits p 63 60 == 1 && (bits p 59 21 != 0 || decide (0x180000 < winOff 1 p + m * n)))) 0x022
    s.checkOnly ⟨[1], none, m * n, blkAlign w.boff.toInt f, false, 4⟩ (some b) p
    match (List.range m).find? (fun i => !s.core.blockSumsOk f (winOff 1 p + i * n)) with
    | some i => .error (.cause 0x101 (p + i * n) 0)
    | none => .ok s) s

end Sys2Proof.Machine
end

