-- ==== Sys2Proof/Machine/PortObjects.lean ====
section
/-! DEFINITION. The commands of the Jecel port for kernels, graphs, queues, handles, pools and poisoned frames (R98, R313, R326, R328,
R360, R367, R377). -/

namespace Sys2Proof.Machine

/-- Whether a context number names a context that is neither FREE nor DEAD. -/
def State.alive (s : State) (x : Nat) : Bool := decide (x < 256) && (s.ctxOf x).st != .free && (s.ctxOf x).st != .dead

/-! ### Kernels (Table 4-2) -/

/-- KLOAD: the image is copied to first-tier memory, and the slot is LOADED. No page of another slot's image, no poisoned frame and no page
that a context maps without P is written (R100, R361, Table 15-5; log entry 105). -/
def execKload (j : Jec) (slot addr : Nat) (image : List Byte) (s : State) : Host.Outcome State Fault Refusal :=
  command false j (fun s =>
    Done.unless (decide (4096 ≤ slot)) s .badRange (
    Done.unless ((s.kernelOf slot).st != .absent) s .wrongState (
    Done.unless (addr % 65536 != 0 || decide (2 ^ 39 < addr + image.length) || s.homeLost addr || s.meetsImage addr image.length || s.unpinnedAt addr image.length ||
        s.placeBad (.phys 0 [⟨addr, image.length⟩])) s .badRange (
    done ((s.perform [⟨addr, image.length⟩] image).setKernelOf slot ⟨.loaded, addr, image.length, [], 0⟩))))) s

/-- KUNLOAD. -/
def execKunload (j : Jec) (slot : Nat) (s : State) : Host.Outcome State Fault Refusal :=
  command false j (fun s =>
    let k := s.kernelOf slot
    Done.unless (k.st != .loaded && k.st != .verified) s .wrongState (done (s.setKernelOf slot ⟨.absent, 0, 0, [], 0⟩))) s

/-- KBIND. -/
def execKbind (j : Jec) (slot x : Nat) (s : State) : Host.Outcome State Fault Refusal :=
  command false j (fun s =>
    let k := s.kernelOf slot
    Done.unless (decide (256 ≤ x)) s .badRange (
    Done.unless (k.st != .verified && k.st != .bound) s .wrongState (
    done (s.setKernelOf slot { k with st := .bound, bound := if k.bound.contains x then k.bound else k.bound ++ [x] })))) s

/-- KUNBIND. -/
def execKunbind (j : Jec) (slot x : Nat) (s : State) : Host.Outcome State Fault Refusal :=
  command false j (fun s =>
    let k := s.kernelOf slot
    let b := k.bound.filter (fun y => y != x)
    Done.unless (k.st != .bound || !k.bound.contains x) s .wrongState (
    done (s.setKernelOf slot { k with st := if b.isEmpty then .verified else .bound, bound := b }))) s

/-- KRETIRE. -/
def execKretire (j : Jec) (slot : Nat) (s : State) : Host.Outcome State Fault Refusal :=
  command false j (fun s =>
    let k := s.kernelOf slot
    Done.unless (k.st != .bound) s .wrongState (done ((s.setKernelOf slot { k with st := .retired }).retireKernel slot))) s

/-! ### Graphs (R325, R326) -/

/-- The task ids of the list at an offset of an image; none when it does not lie in the image. -/
def imageList (b : List Byte) (first o : Nat) : Option (List Nat) :=
  if o = 0 then some []
  else
    let n := fieldLE b o 8
    if o % 8 = 0 ∧ first ≤ o ∧ n ≤ 4096 ∧ o + 8 + 8 * n ≤ b.length then some ((List.range n).map (fun i => fieldLE b (o + 8 + 8 * i) 8)) else none

/-- A record of a graph image; none when a field lies outside Table 13-1. -/
def State.imageRec (s : State) (b : List Byte) (first i : Nat) : Option GRec :=
  let r := (b.drop (64 + 64 * i)).take 64
  if !s.recordOk r ∨ fieldLE r 12 4 ≠ 0 then none
  else (imageList b first (fieldLE r 24 8)).map (fun l =>
    { ctrl := fieldLE r 0 4, join := fieldLE r 4 4, id := fieldLE r 8 4, frame := fieldLE r 16 8, succ := l,
      tiles := [fieldLE r 32 8, fieldLE r 40 8, fieldLE r 48 8, fieldLE r 56 8] })

/-- The graph of an image, when it passes the checks of R326. -/
def State.imageGraph (s : State) (x : Nat) (b : List Byte) : Option Graph :=
  let n := fieldLE b 4 4
  let p := fieldLE b 8 8
  let z := fieldLE b 16 4
  let first := 64 + 64 * n
  if fieldLE b 0 4 ≠ 0xCA946A01 ∨ n = 0 ∨ 65536 < n ∨ b.length < first ∨ !zeroBytes b 20 44 ∨ z % 8 ≠ 0 ∨ 65536 < z ∨ p % 64 ≠ 0 ∨ !s.pinned4 x p z
  then none
  else
    match (List.range n).mapM (fun i => s.imageRec b first i) with
    | none => none
    | some rs =>
      let ids := rs.map (fun r => r.id)
      if decide ids.Nodup && rs.all (fun r => r.succ.all (fun h => ids.contains h)) then
        some { ctx := x, paramp := p, psize := z, recs := rs, launches := [] } else none

/-- Bytes of scheduler memory a graph takes. -/
def Graph.bytes (g : Graph) : Nat := 64 + (g.recs.map (fun r => 72 + 8 * r.succ.length)).sum

/-- GLOAD. -/
def execGload (j : Jec) (slot x : Nat) (image : List Byte) (s : State) : Host.Outcome State Fault Refusal :=
  command false j (fun s =>
    Done.unless (decide (256 ≤ x) || decide (1024 ≤ slot)) s .badImage (
    Done.unless ((s.graphOf slot).isSome || !s.alive x) s .wrongState (
    match s.imageGraph x image with
    | none => refuse s .badImage
    | some g =>
      Done.unless (decide (Config.schedBytes < (s.graphs.map (fun e => e.2.bytes)).sum + g.bytes)) s .noSpace (done (s.setGraph slot g))))) s

/-- GUNLOAD. -/
def execGunload (j : Jec) (slot : Nat) (s : State) : Host.Outcome State Fault Refusal :=
  command false j (fun s =>
    match s.graphOf slot with
    | none => refuse s .wrongState
    | some g => Done.unless (!g.launches.isEmpty) s .wrongState (done { s with graphs := dropKey s.graphs slot })) s

/-- TRIG (R328). -/
def execTrig (j : Jec) (x : Nat) (ptr : Word) (s : State) : Host.Outcome State Fault Refusal :=
  command false j (fun s =>
    Done.unless (!s.alive x) s .badList (
    match s.acceptLaunch x ptr.toNat with
    | .ok t => done t
    | .error (.cause c _ _) => refuse s (if c = 0x14A then .noEntries else if c = 0x149 then .queueFull else .badList)
    | .error _ => refuse s .badList)) s

/-! ### Queues (Table 12-4) -/

/-- The queue of a descriptor (Table 12-3), ACTIVE under R308; none when a field lies outside the table. -/
def queueOfDesc (b : List Byte) : Option Queue :=
  let kind := fieldLE b 1 1
  let n := fieldLE b 2 1
  let z := fieldLE b 4 2
  let x := fieldLE b 6 2
  let base := fieldLE b 8 8
  let tagp := fieldLE b 16 8
  if b.length = 64 ∧ fieldLE b 0 1 ≤ 3 ∧ kind ≤ 1 ∧ 1 ≤ n ∧ n ≤ 16 ∧ fieldLE b 3 1 = 0 ∧ 1 ≤ z ∧ z ≤ 64 ∧ (kind = 1 ∨ z = 1) ∧ x < 256 ∧
      bits base 63 60 = 4 ∧ base % 64 = 0 ∧ bits tagp 63 60 = 4 ∧ tagp % 64 = 0 ∧ zeroBytes b 36 28 then
    some { st := .active, kind := kind, logn := n, slotsz := z, ctx := x, base := base, tagp := tagp, t := 0, h := 0, q := 0, claims := [],
           takes := [], waitC := [], waitT := [] }
  else none

/-- QSET: the queue is ACTIVE with fresh counters and tags. -/
def execQset (j : Jec) (q : Nat) (desc : List Byte) (s : State) : Host.Outcome State Fault Refusal :=
  command false j (fun s =>
    Done.unless (decide (4096 ≤ q)) s .badRange (
    Done.unless ((s.queueOf q).st != .disabled) s .wrongState (
    match queueOfDesc desc with
    | none => refuse s .badImage
    | some k =>
      Done.unless (!s.alive k.ctx) s .wrongState (
      Done.unless (!(s.pinned4 k.ctx k.base (2 ^ k.logn * (k.slotsz * 64)) && s.pinned4 k.ctx k.tagp (2 ^ k.logn))) s .badRange (
      done ((s.setQueueOf q k).unitWrite k.ctx k.tagp (List.replicate (2 ^ k.logn) 3))))))) s

/-- QDRAIN. -/
def execQdrain (j : Jec) (q : Nat) (s : State) : Host.Outcome State Fault Refusal :=
  command false j (fun s =>
    let k := s.queueOf q
    Done.unless (k.st != .active) s .wrongState (
    done (((s.setQueueOf q { k with st := .draining, waitC := [] }).endQueueWaits q true k.waitC).settleQueue q))) s

/-- The tasks in slots of a queue that is switched off are discarded: no taker of a later queue finds them (R313, R314). -/
def State.dropOrigins (s : State) (q : Nat) : State :=
  { s with tasks := mapVals (fun _ (t : Task) => match t.origin with
      | .queue k _ false => if k = q then { t with origin := .discarded } else t
      | _ => t) s.tasks }

/-- QOFF. -/
def execQoff (j : Jec) (q : Nat) (s : State) : Host.Outcome State Fault Refusal :=
  command false j (fun s =>
    Done.unless ((s.queueOf q).st == .disabled) s .wrongState (
    let s := (s.closeQueue q .disabled).dropOrigins q
    done { s with queues := dropKey s.queues q })) s

/-! ### Copy handles (R367) -/

/-- The handle entry of a request, or the status that refuses it; the bits of DEV that Table 16-1 has as zero are zero fields. -/
def State.handleOfReq (s : State) (x : Nat) (h : HandleReq) : Except Status Handle :=
  if 4 < h.kind ∨ h.reserved ≠ 0 ∨ (h.kind < 4 ∧ h.dev ≠ 0) ∨ 2 ^ 20 ≤ h.dev then .error .badImage
  else if h.kind ≤ 1 then
    let win := 4 + h.kind
    if bits h.base 63 60 ≠ win ∨ bits h.base 59 56 ≠ 0 ∨ 2 ^ 56 < bits h.base 55 0 + h.len then .error .badRange
    else
      match xlate s .tables x win (bits h.base 55 0) h.len false 0 with
      | .error _ => .error .badRange
      | .ok l =>
        let same (n : Nat) : Bool := l.all (fun c => bit c.leaf n) || l.all (fun c => !bit c.leaf n)
        let f (n : Nat) : Bool := !l.isEmpty && l.all (fun c => bit c.leaf n)
        if l.all (fun c => bit c.leaf 4) && same 1 && same 2 && same 3 then
          .ok { kind := h.kind, v := true, w := f 1 && !l.any (fun c => s.imageAt c.seg.pa), d := f 2, t := f 3, member := 0, dev := 0, base := (l.head?.map (fun c => c.seg.pa)).getD 0,
                len := h.len, vbase := h.base, segs := l.map (fun c => c.seg) }
        else .error .badRange
  else
    let e : Handle := { kind := h.kind, v := true, w := h.w, d := false, t := false, member := h.member, dev := h.dev, base := h.base, len := h.len,
                        vbase := h.base, segs := [] }
    let ok : Bool := match h.kind with
      | 2 => decide (h.base + h.len ≤ 0x180000) && decide (h.member ≤ 15) && h.w
      | 3 => decide (h.base + h.len ≤ 0x200000) && decide (h.member ≤ 15)
      | _ => (match s.fabric.reach.find? (fun r => r.1 == h.dev) with
        | some (_, len, _) => decide (h.base + h.len ≤ len)
        | none => false)
    if ok then .ok e else .error .badRange

/-- HSET. -/
def execHset (j : Jec) (x idx : Nat) (h : HandleReq) (s : State) : Host.Outcome State Fault Refusal :=
  command false j (fun s =>
    Done.unless (decide (4096 ≤ idx) || decide (256 ≤ x)) s .badRange (
    Done.unless (!s.alive x) s .wrongState (
    match s.handleOfReq x h with
    | .error t => refuse s t
    | .ok e => done (s.setCtxOf x { s.ctxOf x with handles := setKey (s.ctxOf x).handles idx e })))) s

/-- HCLR. -/
def execHclr (j : Jec) (x idx : Nat) (s : State) : Host.Outcome State Fault Refusal :=
  command false j (fun s =>
    Done.unless ((s.ctxOf x).copyq.any (fun q => q.2.cmds.any (fun t => t.st != .landed && t.handles.contains idx))) s .wrongState (
    if (find? (s.ctxOf x).handles idx).isSome then done (s.setCtxOf x { s.ctxOf x with handles := dropKey (s.ctxOf x).handles idx }) else done s)) s

/-! ### Tile pools (R377) and poisoned frames -/

/-- The pool of a descriptor (Table 17-1) with its number; none when a field lies outside the table. -/
def poolOfDesc (b : List Byte) : Option (Nat × TPool) :=
  let fmt := fieldLE b 2 1
  let pol := fieldLE b 3 1
  let ns := fieldLE b 4 4
  let n := fieldLE b 8 8
  let a (o : Nat) : Nat := fieldLE b o 8
  if b.length = 64 ∧ fieldLE b 0 2 ≠ 0 ∧ (fmt ≤ 5 ∨ fmt = 7) ∧ pol / 16 = 0 ∧ ns ≤ 65536 ∧ 1 ≤ n ∧ n ≤ 2 ^ 32 ∧ a 16 % 4096 = 0 ∧ a 24 % 4096 = 0 ∧
      (if ns = 0 then a 32 = 0 ∧ a 40 = 0 else a 32 % 4096 = 0 ∧ a 40 % 4096 = 0) ∧ zeroBytes b 48 16 then
    some (fieldLE b 0 2, { fmt := fmt, layer := pol % 2, vdep := bits pol 3 1 + 1, nshadow := ns, nslot := n, dbase := a 16, hbase := a 24,
                           sdbase := a 32, shbase := a 40, slots := [] })
  else none

/-- Whether a region lies in window 0x4 in pages with T = 1 and P = 1. -/
def State.poolPages (s : State) (x p n : Nat) : Bool := bits p 63 60 == 4 && allPages s x p n (fun e => bit e 3 && bit e 4)

/-- POOLSET. -/
def execPoolset (j : Jec) (x : Nat) (desc : List Byte) (s : State) : Host.Outcome State Fault Refusal :=
  command false j (fun s =>
    Done.unless (!s.alive x) s .wrongState (
    match poolOfDesc desc with
    | none => refuse s .badImage
    | some (p, t) =>
      let n := t.nslot * t.vdep
      Done.unless ((s.poolOf x p).isSome) s .badImage (
      Done.unless (decide (256 ≤ (s.ctxOf x).pools.length)) s .noSpace (
      Done.unless (!(s.poolPages x t.dbase (n * t.dataLen) && s.poolPages x t.hbase (n * 256) &&
          (t.nshadow == 0 || (s.poolPages x t.sdbase (t.nshadow * t.dataLen) && s.poolPages x t.shbase (t.nshadow * 256))))) s .badRange (
      done (s.setPool x p t)))))) s

/-- PCLEAR. -/
def execPclear (j : Jec) (frame : Nat) (s : State) : Host.Outcome State Fault Refusal :=
  command false j (fun s => done { s with poison := s.poison.filter (fun f => f != frame) }) s

end Sys2Proof.Machine
end

