-- ==== Sys2Proof/Machine/PortContexts.lean ====
section
/-! DEFINITION. The commands of the Jecel port for partitions and contexts (R404 to R407, R414, R422 to R424), RESTORE (R402), MREAD and
MWRITE (R442, R472). -/

namespace Sys2Proof.Machine

/-! ### Partitions (R404) -/

/-- Insertion of a pair into a list that rises by its first member. -/
def insertNum (k : Nat × Nat) : List (Nat × Nat) → List (Nat × Nat)
  | [] => [k]
  | e :: r => if k.1 < e.1 then k :: e :: r else e :: insertNum k r

/-- A list of numbers in rising order. -/
def sortNat (l : List Nat) : List Nat := ((l.foldl (fun a k => insertNum (k, k) a) []).map (fun e => e.1))

/-- The contexts of a partition that are not FREE. -/
def State.boundTo (s : State) (p : Nat) : List Nat := (s.ctxs.filter (fun x => x.2.st != .free && x.2.part == p)).map (fun x => x.1)

/-- A core taken from a partition: a task that still ran on it returns when its die is in service (R422 says when the others do), and
what the contexts held on it is gone. -/
def State.removeCore (s : State) (p k : Nat) : State :=
  match (s.partOf p).cores.find? (fun c => c.2 == k) with
  | none => s
  | some c =>
    let xs := s.boundTo p
    let s := if (s.dieOf (dieOfCore k)).lost then s else
      s.forEach xs (fun x s => s.returnLost x (fun d => d.1 != k))
    let s := { s with cores := dropKey s.cores k, shelf := s.shelf.filter (fun e => !xs.any (fun x => savedKey x c.1 == e.1)),
                      spill := s.spill.filter (fun e => !xs.any (fun x => savedKey x c.1 == e.1)) }
    s.setPartOf p { s.partOf p with cores := (s.partOf p).cores.filter (fun e => e.2 != k) }

/-- A core added to a partition under the lowest free number. -/
def State.addCore (s : State) (p k : Nat) : State :=
  let cs := (s.partOf p).cores
  let l := (freeFrom (cs.map (fun c => c.1)) 0 (cs.length + 1)).getD 0
  ({ s with cores := dropKey s.cores k }).setPartOf p { s.partOf p with cores := insertNum (l, k) cs }

/-- Whether a core is out of service. -/
def State.outOfService (s : State) (k : Nat) : Bool := s.dev.fenced.contains k || (s.dieOf (dieOfCore k)).lost

/-- PARTSET. -/
def execPartset (j : Jec) (p : Nat) (add remove : List Nat) (s : State) : Host.Outcome State Fault Refusal :=
  command false j (fun s =>
    let mine := (s.partOf p).cores.map (fun c => c.2)
    Done.unless (decide (16 ≤ p) || (add ++ remove).any (fun k => decide (256 ≤ k)) || !decide (add.Nodup) || !remove.all (fun k => mine.contains k))
      s .badRange (
    Done.unless ((s.boundTo p).any (fun x => (s.ctxOf x).st == .running || (s.ctxOf x).st == .draining) &&
        !(add.isEmpty && remove.all s.outOfService)) s .wrongState (
    Done.unless (add.any (fun k => s.parts.any (fun q => q.2.cores.any (fun c => c.2 == k)))) s .wrongState (
    let s := s.forEach remove (fun k s => s.removeCore p k)
    let s := s.forEach (sortNat add) (fun k s => s.addCore p k)
    let busy := (s.boundTo p).any (fun x => (s.ctxOf x).st == .running || (s.ctxOf x).st == .draining)
    let s := if busy then s else s.forN 4 (fun d s => s.setRpool p d { s.rpool p d with gc := 0 })
    if (s.boundTo p).all (fun x => (s.ctxOf x).st == .dead) then
      let ks := sortNat ((s.partOf p).cores.map (fun c => c.2))
      done (s.setPartOf p { s.partOf p with cores := (List.range ks.length).zip ks })
    else done s)))) s

/-! ### Creating and freeing a context (R405, R424) -/

/-- Whether a sync map is one (R290, R359): pages of the offset, dies, frames of the model's numbering, records on 64-byte steps. -/
def syncOk (l : List SyncEnt) : Bool :=
  decide ((l.map (fun e => e.page)).Nodup) && l.all (fun e => decide (e.page < 2 ^ 20) && decide (e.die < 4) && decide (e.frame < 2 ^ 24) &&
    e.barriers.all (fun o => o % 64 == 0 && decide (o < 65536)))

/-- The READY context a CTXNEW asks for. -/
def newCtx (r : CtxReq) : Ctx :=
  { Ctx.zero with
    st := .ready, part := r.part, sync := r.sync, spill := r.spill,
    csrs := [(0x301, r.hndb), (0x302, BitVec.ofNat 64 (r.wdog % 2 ^ 32)), (0x3E8, r.ptbdev &&& 0xFFFFFFFFF0000#64),
             (0x3E9, r.ptbsec &&& 0xFFFFFFFFF0000#64)] }

/-- CTXNEW: the checks are made through the new context's own translation. -/
noncomputable def execCtxnew (j : Jec) (x : Nat) (r : CtxReq) (s : State) : Host.Outcome State Fault Refusal :=
  command false j (fun s =>
    Done.unless (decide (256 ≤ x) || decide (16 ≤ r.part) || decide (2 ^ 32 ≤ r.wdog) || !syncOk r.sync) s .badRange (
    Done.unless ((s.ctxOf x).st != .free) s .wrongState (
    let t := s.setCtxOf x (newCtx r)
    Done.unless (r.spill % 65536 != 0 || !t.pinned4 x r.spill (spillBytes * (t.coresOfCtx x).length)) s .badRange (
    if r.hndb = 0 then done t
    else match t.handlerBad x r.hndb.toNat with
      | some _ => refuse s .badImage
      | none => done (t.measureHandlers x r.hndb.toNat))))) s

/-- CTXFREE. -/
def execCtxfree (j : Jec) (x : Nat) (s : State) : Host.Outcome State Fault Refusal :=
  command false j (fun s =>
    Done.unless ((s.ctxOf x).st != .dead || (s.ctxOf x).copyq.any (fun q => !q.2.cmds.isEmpty)) s .wrongState (
    let s := s.forEach (s.allVers x) (fun v s => s.retireVer x v.1 v.2.1 v.2.2)
    let s := (s.dropTlb x none).setCtxOf x .zero
    done { s with
      graphs := s.graphs.filter (fun g => g.2.ctx != x), queues := s.queues.filter (fun q => q.2.ctx != x),
      tasks := s.tasks.filter (fun t => t.2.ctx != x),
      shelf := withoutSaved x s.shelf, spill := withoutSaved x s.spill, arrs := s.arrs.filter (fun a => a.2.1 != x),
      dies := mapVals (fun _ (d : Die) => { d with shard := d.shard.filter (fun e => e.ctx != x), waits := d.waits.filter (fun w => w.ctx != x) })
        s.dies })) s

/-! ### Running and stopping (Table 18-1) -/

/-- RUN; a SPILL under way is given up (log entry 103). -/
def execRun (j : Jec) (x : Nat) (s : State) : Host.Outcome State Fault Refusal :=
  command false j (fun s =>
    Done.unless ((s.ctxOf x).st != .ready && (s.ctxOf x).st != .shelved) s .wrongState (
    match (s.giveUpMove x).askRun x with
    | some t => done t
    | none => refuse s .wrongState)) s

/-- PREEMPT. -/
def execPreempt (j : Jec) (x : Nat) (s : State) : Host.Outcome State Fault Refusal :=
  command false j (fun s =>
    Done.unless ((s.ctxOf x).st != .running) s .wrongState (
    let part := (s.ctxOf x).part
    let s := (s.freeShelf part x).drainCtx x
    done (s.setPartOf part { s.partOf part with swap := true }))) s

/-- SPILL: it goes on in the background; a TRAPPED state that already is in its spill area stays there. -/
def execSpill (j : Jec) (x : Nat) (s : State) : Host.Outcome State Fault Refusal :=
  command false j (fun s =>
    let c := s.ctxOf x
    Done.unless (!(c.st == .shelved || c.st == .trapped) || c.moving.isSome || (s.partOf c.part).next == some x ||
      (s.partOf c.part).after.contains x) s .wrongState (
    if c.loc = .spill then done (s.send (.spilled x)) else done (s.setCtxOf x { c with moving := some true }))) s

/-- FILL: the shelf is taken for it. -/
def execFill (j : Jec) (x : Nat) (s : State) : Host.Outcome State Fault Refusal :=
  command false j (fun s =>
    let c := s.ctxOf x
    Done.unless (c.st != .spilled || (s.partOf c.part).shelf.isSome || c.moving.isSome) s .wrongState (
    done ((s.setCtxOf x { c with moving := some false }).setPartOf c.part { s.partOf c.part with shelf := some x }))) s

/-- Whether RESUME must wait for the cores of a lost die to leave the partition (R414, R422). -/
def State.heldByLoss (s : State) (x : Nat) : Bool :=
  let c := s.ctxOf x
  let gone := (s.coresOfCtx x).any (fun k => (s.dieOf (dieOfCore k.2)).lost)
  gone && (c.stop == some 0x1A0 || c.stop == some 0x1A1 || (List.range 4).any (fun d => (s.dieOf d).lost && c.touched.getLsbD d))

/-- RESUME of a TRAPPED context; a SPILL or FILL under way is given up (log entry 103). One whose state is on the cores goes on at once, unless
another context is to be exchanged onto them first. -/
def execResume (j : Jec) (x : Nat) (s : State) : Host.Outcome State Fault Refusal :=
  command false j (fun s =>
    Done.unless ((s.ctxOf x).st != .trapped || (s.ctxOf x).stop == some 0x1A2 || s.heldByLoss x) s .wrongState (
    let s := s.giveUpMove x
    let c := s.ctxOf x
    if c.loc = .cores ∧ (s.partOf c.part).next.isNone then
      let s := s.forEach (s.coresOfCtx x) (fun k s => s.setCoreOf k.2 (s.coreOf k.2).unstopped)
      done ((s.setCtxOf x { c with st := .running, stop := none }).resumeTasks x)
    else
      let t := s.askResume x
      done (t.setCtxOf x { t.ctxOf x with stop := none }))) s

/-- KILL. -/
def execKill (j : Jec) (x : Nat) (s : State) : Host.Outcome State Fault Refusal :=
  command false j (fun s => Done.unless (!s.alive x) s .wrongState (done (s.killCtx x 0x1C0))) s

/-! ### RESTORE (R401, R402) -/

/-- The records of an image as (type, body), and the offset of the closing CRC; `fuel` bounds them. -/
def imageRecords (b : List Byte) : Nat → Nat → Option (List (Nat × List Byte) × Nat)
  | 0, _ => none
  | fuel + 1, o =>
    let ty := fieldLE b o 4
    let n := fieldLE b (o + 4) 4
    if b.length < o + 8 + n then none
    else if ty = 0xFFFFFFFF then (if n = 8 then some ([], o + 8) else none)
    else match imageRecords b fuel (o + 8 + (n + 63) / 64 * 64) with
      | some (l, c) => some ((ty, (b.drop (o + 8)).take n) :: l, c)
      | none => none

/-- Whether the pools an image names are defined as it says: pool and slot exist, FMT and the length of a version agree. -/
def State.recordFits (s : State) (x : Nat) (r : Nat × List Byte) : Bool :=
  match r.1 with
  | 0 => fieldLE r.2 0 4 == 0xCA94C701
  | 1 => (match s.handleSlot x (fieldLE r.2 0 8) with
    | some (_, _, t) => t.fmt == fieldLE r.2 0x0C 1 && r.2.length == 256 + t.dataLen && fieldLE r.2 8 4 != 0
    | none => false)
  | 4 => (match s.poolOf x (fieldLE r.2 0 2) with
    | some t => decide (fieldLE r.2 8 8 < t.nslot)
    | none => false)
  | n => n == 2 || n == 3 || n == 5

/-- A version's record written into its frame: SEALED, external, depth 0, without an entry. -/
def State.restoreVer (s : State) (x : Nat) (b : List Byte) : State :=
  match s.handleSlot x (fieldLE b 0 8) with
  | none => s
  | some (p, n, t) =>
    let v := fieldLE b 8 4
    let g := s.verSegs x t n v .home
    let hd := t.headerIn n v .home (b.take 256)
    let hd := splice (splice (splice hd 0x0D (toLE 1 (fieldLE hd 0x0D 1 % 4 + 4))) 0x0E [0]) 0x28 (List.replicate 8 0)
    let e : Ver := { st := .sealed, frame := .home, unrec := false, ext := true, depth := 0, lid := 0, ord := 0, repl := .none, run := none,
                     priv := [], kept := 0, rimg := [], relost := false }
    (((s.perform g.1 (b.drop 256)).perform g.2 hd)).setVer x p n v e

/-- NEXT of a slot set, with nothing listed at or above it. -/
def State.setNext (s : State) (x p n k : Nat) : State :=
  match s.poolOf x p with
  | some t => s.setPool x p (t.setSlot n { next := k % 2 ^ 32, vers := (t.slot n).vers.filter (fun e => decide (e.1 < k)) })
  | none => s

/-- The slots an image restores, each with the NEXT it takes. -/
def State.restoredNext (s : State) (x : Nat) (rs : List (Nat × List Byte)) : List (Nat × Nat × Nat) :=
  let one (r : Nat × List Byte) : Option (Nat × Nat × Nat) :=
    if r.1 = 1 then (s.handleSlot x (fieldLE r.2 0 8)).map (fun h => (h.1, h.2.1, fieldLE r.2 8 4 + 1))
    else if r.1 = 4 then some (fieldLE r.2 0 2, fieldLE r.2 8 8, fieldLE r.2 16 4) else none
  let all := rs.filterMap one
  let slots := (all.map (fun e => (e.1, e.2.1))).eraseDups
  slots.map (fun q => (q.1, q.2, (all.filter (fun e => e.1 == q.1 && e.2.1 == q.2)).foldl (fun m e => max m e.2.2) 0))

/-- The queue of the context that a recorded descriptor describes takes its counters and tags. -/
def State.restoreQueue (s : State) (x : Nat) (b : List Byte) : State :=
  match s.queues.find? (fun q => q.2.ctx == x && q.2.st != .disabled && q.2.base == fieldLE b 8 8 && q.2.tagp == fieldLE b 16 8 &&
      q.2.logn == fieldLE b 2 1 && q.2.slotsz == fieldLE b 4 2) with
  | none => s
  | some (q, k) =>
    (s.setQueueOf q { k with t := fieldLE b 0x18 4, h := fieldLE b 0x1C 4, q := fieldLE b 0x20 4, claims := [], takes := [] }).unitWrite
      k.ctx k.tagp ((b.drop 64).take (2 ^ k.logn))

/-- A collective group record (Table 19-3) read: its entry and the group, FORMING with no member joined. -/
def groupOfRecord (b : List Byte) : Nat × CGroup :=
  let n := fieldLE b 8 4
  (fieldLE b 4 2, { gid := fieldLE b 0 4, st := .forming, loc := fieldLE b 7 1, nmem := n, rank := fieldLE b 12 4, gwp := fieldLE b 16 1,
                    ctx := fieldLE b 17 1, minexp := fieldLE b 24 8, seq := fieldLE b 32 4,
                    members := (List.range n).map (fun i => fieldLE b (64 + 4 * i) 4), joined := [], counts := [], pendJoin := [], failed := [] })

/-- A group of the context brought back; an entry of another context is left. -/
def State.restoreGroup (s : State) (x : Nat) (b : List Byte) : State :=
  let g := groupOfRecord b
  if ((s.groupAt g.1).map (fun h => h.ctx != x)).getD false then s else s.setGroup g.1 { g.2 with ctx := x }

/-- The records of an image that RESTORE accepts. -/
def State.restorable (s : State) (x : Nat) (b : List Byte) : Option (List (Nat × List Byte)) :=
  match imageRecords b (b.length / 8 + 1) 0 with
  | none => none
  | some (rs, c) =>
    if fieldLE b c 8 = (crc64 (b.take c)).toNat ∧ rs.all (s.recordFits x) ∧ rs.head?.map (fun r => r.1) = some 0 then some rs else none

/-- RESTORE. -/
def execRestore (j : Jec) (x : Nat) (image : List Byte) (s : State) : Host.Outcome State Fault Refusal :=
  command false j (fun s =>
    Done.unless (!s.alive x || s.tasks.any (fun t => t.2.ctx == x && !t.2.over)) s .wrongState (
    match s.restorable x image with
    | none => refuse s .badImage
    | some rs =>
      let of (n : Nat) : List (List Byte) := (rs.filter (fun r => r.1 == n)).map (fun r => r.2)
      let s := s.forEach (s.allVers x) (fun v s => s.retireVer x v.1 v.2.1 v.2.2)
      let s := s.forEach (of 1) (fun b s => s.restoreVer x b)
      let s := s.forEach (s.restoredNext x rs) (fun e s => s.setNext x e.1 e.2.1 e.2.2)
      let s := s.forEach (of 2) (fun b s => s.restoreQueue x b)
      let s := s.forEach (of 3) (fun b s => s.setCtxOf x { s.ctxOf x with launch := fieldLE b 0 4 })
      done (s.forEach (of 5) (fun b s => s.restoreGroup x b)))) s

/-! ### MREAD and MWRITE (R442, R472) -/

/-- The pages of a range the control node names; none when it cannot be reached. -/
def State.portRange (s : State) (sp : MemSpace) (a n : Nat) (wr : Bool) : Option (List Chunk) :=
  match sp with
  | .phys =>
    if (a + n ≤ 2 ^ 39 ∨ (2 ^ 41 ≤ a ∧ a + n ≤ 2 ^ 42)) ∧ ¬s.placeBad (.phys 0 [⟨a, n⟩]) ∧ ¬(wr ∧ s.meetsImage a n) ∧
        (n = 0 ∨ ((List.range' (a / 2 ^ 37) ((a + n - 1) / 2 ^ 37 + 1 - a / 2 ^ 37)).all (fun d => !s.homeLost (d * 2 ^ 37)))) then
      some [⟨⟨a, n⟩, 0⟩] else none
  | .ctx x =>
    if (bits a 63 60 ≠ 4 ∧ bits a 63 60 ≠ 5) ∨ bits a 59 56 ≠ 0 ∨ 2 ^ 56 < bits a 55 0 + n ∨ 256 ≤ x then none
    else match xlate s .tables x (bits a 63 60) (bits a 55 0) n wr (if wr then 1 else 0) with
      | .ok l => some l
      | .error _ => none

/-- MREAD. -/
def execMread (j : Jec) (sp : MemSpace) (a n : Nat) (s : State) : Host.Outcome State Fault Refusal :=
  command false j (fun s =>
    match s.portRange sp a n false with
    | some l => ⟨.ok, s.readSegs (l.map (fun c => c.seg)), s, false⟩
    | none => refuse s .badRange) s

/-- What Table 5-10 decides for each byte of a stretch of an MWRITE; the control node runs no task, so it is no rebuild run's. -/
def State.portAdmit (s : State) (x va : Nat) (c : Chunk) : List Admit :=
  if bit c.leaf 3 then (List.range c.seg.len).map (fun i => s.lineAdmit x (va + i) none) else List.replicate c.seg.len (.ok none)

/-- The decisions for every byte of an MWRITE. -/
def State.portAdmits (s : State) (x : Nat) : Nat → List Chunk → List Admit
  | _, [] => []
  | va, c :: r => s.portAdmit x va c ++ State.portAdmits s x (va + c.seg.len) r

/-- What a decision of Table 5-10 lets through: the tag it carries, or nothing. -/
def Admit.pass : Admit → Option (Option VerTag)
  | .ok g => some g
  | _ => none

/-- An MWRITE that has passed its checks: it performs afterwards, and is answered then (R472). -/
def State.startWrite (s : State) (j : Jec) (x : Nat) (l : List Chunk) (data : List Byte) (as : List (Option (Option VerTag))) : Done :=
  ⟨.ok, [], { s with dev := { s.dev with pwrite := some ⟨j.seq, j.tag, x, l.map (fun c => c.seg), data, as⟩ } }, true⟩

/-- MWRITE: its checks. -/
def execMwrite (j : Jec) (sp : MemSpace) (a : Nat) (data : List Byte) (s : State) : Host.Outcome State Fault Refusal :=
  command false j (fun s =>
    match s.portRange sp a data.length true with
    | none => refuse s .badRange
    | some l =>
      match sp with
      | .phys => s.startWrite j 256 l data (data.map (fun _ => some none))
      | .ctx x =>
        Done.unless (l.any (fun c => bit c.leaf 2)) s .badRange (
        let as := s.portAdmits x (bits a 55 0) l
        Done.unless (as.any (fun r => r == .refuse)) s .wrongState (s.startWrite j x l data (as.map Admit.pass)))) s

end Sys2Proof.Machine
end

