-- ==== Sys2Proof/Machine/PortFabric.lean ====
section
/-! DEFINITION. The commands of the Jecel port for the fabric and for the device itself (R394, R426 to R432, R443 to R450). -/

namespace Sys2Proof.Machine

/-! ### The exported window and the reach table (R429, R430) -/

/-- EXPORT. -/
def execExportWin (j : Jec) (x : Nat) (ptr : Word) (len : Nat) (s : State) : Host.Outcome State Fault Refusal :=
  command false j (fun s =>
    let p := ptr.toNat
    Done.unless (decide (256 ≤ x) || decide (2 ^ 40 < len) || len % 65536 != 0 || bits p 63 60 != 4 ||
        !allPages s x p len (fun e => bit e 4 && !bit e 2 && !bit e 3)) s .badRange (
    done { s with fabric := { s.fabric with exported := some ⟨x, p, len⟩ } })) s

/-- A source that reads as 0: what a discarded access returns (R430). The segment lies beyond every address that is ever written. -/
def discarded (dev n : Nat) (p : Place) : Place :=
  match p with
  | .remote d o => if d = dev then .phys 0 [⟨2 ^ 60, n⟩] else .remote d o
  | p => p

/-- What a load still reads of a device that has left the reach table is 0. -/
def LoadFin.discard (dev : Nat) (f : LoadFin) : LoadFin :=
  match f with
  | .creg d n p => .creg d n (discarded dev n p)
  | .rows fm v pad rs =>
    let n := fmtBytes (match v with
      | .copy => fm
      | .conv src _ _ _ => src) 128
    .rows fm v pad (rs.map (fun r => { r with src := r.src.map (discarded dev n) }))
  | .gather fm d m sp src => .gather fm d m sp (src.map (fun e => (e.1, discarded dev (elemSize fm) e.2)))
  | f => f

/-- Whether an element goes to a device. -/
def StoreElem.to (dev : Nat) (e : StoreElem) : Bool :=
  match e.place with
  | .remote d _ => d == dev
  | _ => false

/-- A core whose outstanding accesses to a device, sent or not, are acknowledged as discarded; a LINK word to it completes with UNREACHABLE. -/
def CoreSt.discard (dev : Nat) (c : CoreSt) : CoreSt :=
  let out := allStrms.flatMap (fun t => (c.strm t).stores.flatMap (fun e =>
    (e.elems.filter (StoreElem.to dev)).flatMap StoreElem.sent ++ e.sent.filter (fun x => x.1 == dev)))
  let f (m : StreamSt) : StreamSt :=
    { m with loads := m.loads.map (fun e => { e with fin := e.fin.discard dev }),
             stores := m.stores.map (fun e => { e with elems := e.elems.filter (fun x => !StoreElem.to dev x), sent := e.sent.filter (fun x => x.1 != dev) }) }
  let c := out.foldl (fun (c : CoreSt) e => match e.2 with
    | some d => c.setSreg (BitVec.ofNat 5 d.1) 0
    | none => c) c
  let links := c.links.map (fun o => if o.kind = .send dev ∧ o.st = none then { o with st := some .unreachable } else o)
  { c with cS := (f c.cS).finishSent, lS := (f c.lS).finishSent, vS := (f c.vS).finishSent, mS := (f c.mS).finishSent, sS := (f c.sS).finishSent,
           links := links, wacks := c.wacks - out.length,
           frozen := c.frozen.map (fun e => { e with
             loads := e.loads.map (fun l => { l with fin := l.fin.discard dev }),
             stores := e.stores.map (fun x => { x with elems := x.elems.filter (fun y => !StoreElem.to dev y) }) }) }

/-- A transfer that has not landed, once a device has left the reach table. -/
def Xfer.discard (dev : Nat) (t : Xfer) : Xfer :=
  if t.st = .landed then t
  else
    let t := match t.kind with
      | .copy (.remote d _) => if d = dev then { t with kind := .fill 0 } else t
      | _ => t
    match t.dst with
    | .remote d _ => if d = dev then { t with rows := [] } else t
    | _ => t

/-- Copies of versions sent to a device and not acknowledged are discarded, and their replication starts again (R395). -/
def State.resend (s : State) (dev : Nat) : State :=
  s.forEach (s.ctxs.map (fun c => c.1)) (fun x s => s.forEach (s.allVers x) (fun v s =>
    match (s.poolOf x v.1).bind (fun t => t.ver v.2.1 v.2.2) with
    | some e => if e.st = .sealed ∧ e.repl = .sent dev then s.startRepl x (s.firstCore x) v.1 v.2.1 v.2.2 else s
    | none => s))

/-- The state after a device has left the reach table. -/
def State.unreach (s : State) (dev : Nat) : State :=
  let s := { s with fabric := { s.fabric with reach := s.fabric.reach.filter (fun e => e.1 != dev) } }
  let s := { s with ctxs := mapVals (fun _ (x : Ctx) =>
    { x with copyq := mapVals (fun _ (q : CopyQ) => { q with cmds := q.cmds.map (Xfer.discard dev) }) x.copyq }) s.ctxs }
  let s := s.forEach (s.cores.map (fun c => c.1)) (fun k s => s.onCore k (fun s => s.setCoreOf k ((s.coreOf k).discard dev)))
  s.resend dev

/-- REACH. -/
def execReach (j : Jec) (dev : Nat) (r : ReachReq) (s : State) : Host.Outcome State Fault Refusal :=
  command false j (fun s =>
    Done.unless (decide (2 ^ 20 ≤ dev)) s .badRange (
    match r with
    | .set len path =>
      Done.unless (decide (2 ^ 40 < len)) s .badRange (
      done { s with fabric := { s.fabric with reach := s.fabric.reach.filter (fun e => e.1 != dev) ++ [(dev, len, path)] } })
    | .remove => done (s.unreach dev))) s

/-- MEMB (R394). -/
def execMemb (j : Jec) (domain : Nat) (replicas : List ReplicaDev) (s : State) : Host.Outcome State Fault Refusal :=
  command false j (fun s =>
    Done.unless (replicas.isEmpty || decide (4 < replicas.length) || replicas.any (fun r => decide (2 ^ 20 ≤ r.dev))) s .badRange (
    done { s with fabric := { s.fabric with domain := domain, replicas := replicas } })) s

/-! ### Collective groups (R431, R432) -/

/-- Whether a record lies in Table 19-3 and its member list names this device at RANK. -/
def groupOk (b : List Byte) (members : List Nat) : Bool :=
  let n := fieldLE b 8 4
  b.length == 64 && decide (fieldLE b 4 2 < 1024) && decide (fieldLE b 6 1 ≤ 3) && decide (1 ≤ fieldLE b 7 1) && decide (fieldLE b 7 1 ≤ 64) &&
    decide (1 ≤ n) && decide (n ≤ 65536) && decide (fieldLE b 12 4 < n) && decide (fieldLE b 16 1 < 24) && zeroBytes b 18 6 && zeroBytes b 36 28 &&
    members.length == n && members[fieldLE b 12 4]? == some Config.deviceNumber.toNat && members.all (fun m => decide (m < 2 ^ 20))

/-- CGDEF: the group is FORMING with no member joined. -/
def execCgdef (j : Jec) (b : List Byte) (members : List Nat) (s : State) : Host.Outcome State Fault Refusal :=
  command false j (fun s =>
    Done.unless (!groupOk b members) s .badImage (
    let g := groupOfRecord b
    Done.unless (decide (1024 ≤ s.fabric.groups.length)) s .noSpace (
    Done.unless ((s.groupAt g.1).isSome) s .wrongState (
    done (s.setGroup g.1 { g.2 with members := members }))))) s

/-- CGDEL: the group is DISSOLVED, and its entry is free. -/
def execCgdel (j : Jec) (l : Nat) (s : State) : Host.Outcome State Fault Refusal :=
  command false j (fun s =>
    match s.groupAt l with
    | none => refuse s .wrongState
    | some g =>
      let s := s.breakGroup l
      let s := s.forEach g.pendJoin (fun e s => s.setCoreOf e.1 { s.coreOf e.1 with cS := (s.coreOf e.1).cS.finishNum e.2.1 })
      done { s with fabric := { s.fabric with groups := dropKey s.fabric.groups l } }) s

/-! ### Ports (Table 19-2) -/

/-- LINKUP. -/
def execLinkup (j : Jec) (p : Nat) (s : State) : Host.Outcome State Fault Refusal :=
  command false j (fun s =>
    Done.unless (decide (24 ≤ p)) s .badRange (
    Done.unless (s.port p != .down || (s.dieOf (portDie p)).lost) s .wrongState (done (s.startTraining p)))) s

/-- Whether a retrain now would be the third of a port within 1 s: there is no clock, so a free value says, once two have been counted (R428; log
entry 75). -/
def State.thirdRetrain (s : State) (p : Nat) : Bool := decide (2 ≤ look 0 s.dev.almanac (7 * 65536 + p)) && (Config.freeWord s.fresh).getLsbD 0

/-- RETRAIN: the third within a second fences the port. -/
def execRetrain (j : Jec) (p : Nat) (s : State) : Host.Outcome State Fault Refusal :=
  command false j (fun s =>
    Done.unless (decide (24 ≤ p)) s .badRange (
    Done.unless (s.port p != .up && s.port p != .degraded) s .wrongState (
    let t := { s with fresh := s.fresh + 1 }.retrainPort p
    done (if s.thirdRetrain p then t.fencePort p else t)))) s

/-- LINKFENCE. -/
def execLinkfence (j : Jec) (p : Nat) (s : State) : Host.Outcome State Fault Refusal :=
  command false j (fun s => Done.unless (decide (24 ≤ p)) s .badRange (done (s.fencePort p))) s

/-- LINKRESET. -/
def execLinkreset (j : Jec) (p : Nat) (s : State) : Host.Outcome State Fault Refusal :=
  command false j (fun s =>
    Done.unless (decide (24 ≤ p)) s .badRange (
    Done.unless (s.port p != .fenced || (s.dieOf (portDie p)).lost) s .wrongState (done (s.setPort p .down)))) s

/-! ### The summary (R448, R450, R451) -/

/-- A section: type, length, contents, padding to 64 bytes. -/
def sumPart (ty : Nat) (b : List Byte) : List Byte :=
  toLE 4 ty ++ toLE 4 b.length ++ b ++ List.replicate ((64 - (8 + b.length) % 64) % 64) 0

/-- A set of cores as 256 bits. -/
def coreMask (l : List Nat) : List Byte := toLE 32 ((sortNat l).eraseDups.map (fun k => 2 ^ k)).sum

/-- The number of a context state in the order of Table 0-2. -/
def ctxStNo : CtxState → Nat
  | .free => 0
  | .ready => 1
  | .running => 2
  | .draining => 3
  | .shelved => 4
  | .spilled => 5
  | .trapped => 6
  | .dead => 7

/-- The number of a link state in the order of Table 0-2. -/
def linkStNo : LinkState → Nat
  | .down => 0
  | .training => 1
  | .up => 2
  | .degraded => 3
  | .fenced => 4

/-- Whether a RUN or a RESUME of a context has been accepted that the exchange will carry out: SUMMARY shows it RUNNING (R450). -/
def State.accepted (s : State) (x : Nat) (c : Ctx) : Bool :=
  c.mayRun && ((s.partOf c.part).next == some x || (s.partOf c.part).after.contains x)

/-- Section 2: a context that is not FREE, with the trap record of each core. -/
def State.ctxSummary (s : State) (x : Nat) (c : Ctx) : List Byte :=
  toLE 2 x ++ toLE 1 (if s.accepted x c then ctxStNo .running else ctxStNo c.st) ++ toLE 1 c.part ++ toLE 1 c.touched.toNat ++ toLE 1 (s.coresOfCtx x).length ++ toLE 2 (c.stop.getD 0) ++
    (s.coresOfCtx x).flatMap (fun k => (List.range 8).flatMap (fun i => toLE 8 ((s.savedCore x k).csr (0x308 + i)).toNat))

/-- Section 4: checkpoint transfers that are not ACKED. -/
def State.ckptSummary (s : State) : List Byte :=
  s.ctxs.flatMap (fun x => x.2.copyq.flatMap (fun q => q.2.cmds.flatMap (fun t => match t.kind with
    | .ckpt _ _ ckid _ _ => toLE 2 x.1 ++ toLE 2 q.1 ++ toLE 4 0 ++ toLE 8 t.num ++ toLE 8 ckid
    | _ => [])))

/-- The counters of the almanac of one kind for `n` units, `k` bytes each. -/
def State.counters (s : State) (kind n k : Nat) : List Byte := (List.range n).flatMap (fun i => toLE k (look 0 s.dev.almanac (kind * 65536 + i)))

/-- Section 6: the almanac (Table 20-3). -/
def State.almanacBytes (s : State) : List Byte :=
  s.counters 11 64 4 ++ s.counters 12 64 4 ++ s.counters 1 4 8 ++ s.counters 3 256 8 ++ s.counters 2 4 8 ++ s.counters 4 256 8 ++ s.counters 5 256 8 ++ s.counters 6 4 8 ++
    s.counters 7 24 4 ++ s.counters 8 4 8 ++ s.counters 9 4 8 ++ s.counters 10 1 8 ++ s.counters 13 256 4 ++ toLE 1 s.dev.replace.toNat

/-- The record of a SUMMARY (Table 20-2); its section 5 also lists the poisoned frames, whose die cache line sets are fenced (R448). -/
def State.summary (s : State) (seq : Nat) : List Byte :=
  let health := s.lostMask + s.dev.replace.toNat * 16 + (s.dev.phase == .recovery).toNat * 32
  let head := toLE 4 0xCA945301 ++ toLE 4 seq ++ toLE 8 s.dev.evseq ++ toLE 4 s.dev.fwver ++ toLE 4 health ++ List.replicate 40 0
  let parts := s.parts.flatMap (fun p => toLE 4 p.1 ++ coreMask (p.2.cores.map (fun c => c.2)))
  let ctxs := (s.ctxs.filter (fun x => x.2.st != .free)).flatMap (fun x => s.ctxSummary x.1 x.2)
  let queues := s.queues.flatMap (fun q => (s.queueRecord q.2).take 64)
  let fenced := coreMask s.dev.fenced ++ (List.range 24).flatMap (fun p => toLE 1 (linkStNo (s.port p))) ++
    s.fabric.groups.flatMap (fun g => toLE 2 g.1 ++ toLE 2 (cgCode g.2.st)) ++ s.poison.flatMap (toLE 8)
  head ++ sumPart 1 parts ++ sumPart 2 ctxs ++ sumPart 3 queues ++ sumPart 4 s.ckptSummary ++ sumPart 5 fenced ++ sumPart 6 s.almanacBytes

/-- SUMMARY: the cores it returns are in service before the record is taken. -/
def execSummary (j : Jec) (mask flags : Nat) (s : State) : Host.Outcome State Fault Refusal :=
  command true j (fun s =>
    Done.unless (flags != 0 || decide (2 ^ 256 ≤ mask)) s .badImage (
    let back := s.dev.fenced.filter (fun k => bit mask k && !(s.dieOf (dieOfCore k)).lost)
    let s := { s with dev := { s.dev with fenced := s.dev.fenced.filter (fun k => !back.contains k) } }
    let s := s.forEach back (fun k s => s.count 13 k 1)
    ⟨.ok, s.summary j.seq, s, false⟩)) s

/-! ### Firmware and attestation (R445, R447) -/

/-- FWLOAD: the write of an image that passes begins, and the device resets; the reset ends once the flash is written (R445). -/
noncomputable def execFwload (j : Jec) (image : List Byte) (burn : Bool) (s : State) : Host.Outcome State Fault Refusal :=
  command true j (fun s =>
    Done.unless (s.ctxs.any (fun x => x.2.st != .free && x.2.st != .dead)) s .wrongState (
    Done.unless (!fwOk s.dev.minfw image) s .badImage (
    let t := s.afterReset .reset s.dev.almanac
    done { t with dev := { t.dev with writing := some (image, burn) } }))) s

/-- QUOTE: the certificate chain, the retained entries, the chain value, their count, and the signature. -/
noncomputable def execQuote (j : Jec) (nonce : List Byte) (s : State) : Host.Outcome State Fault Refusal :=
  command true j (fun s =>
    Done.unless (nonce.length != 32) s .badRange (
    let count := toLE 4 s.dev.mlog.length
    ⟨.ok, Config.certChain ++ s.dev.mlog.flatMap MEntry.bytes ++ s.dev.chain ++ count ++
      Config.identitySign (sha256 (nonce ++ count ++ s.dev.chain)), s, false⟩)) s

end Sys2Proof.Machine
end

