-- ==== Sys2Proof/Machine/VecMove.lean ====
section
/-! DEFINITION. Conversion and block quantisation, reductions and scans, sorting, moves and permutes, conditional streams and
random numbers of the vector stream (R167 to R185). -/

namespace Sys2Proof.Machine

/-! ### Conversion (R167 to R172) -/

/-- The bits of one element of format f in a lane. -/
def codeOf (f : Nat) (x : W32) : Nat := x.toNat % 2 ^ fmtBits f

/-- VCVT (R167): an element saturated or lost to a NaN makes the row's bound +∞ (R172). -/
def execVcvt (w : W96) (s : State) : Host.Outcome State Fault Refusal :=
  vword w w.b.imm (fun m => srcRegs m w.a ++ dstRegs m w.d false) id
    (fun m s => do
      let src := w.b.imm
      let dst := w.fmt.toNat
      let a ← vread s w.a src [2, 3]
      let o ← vdst s w.d dst
      let cs := a.1.map (fun x => convElem src dst w.rm.toNat nan32 (codeOf src x))
      let pairs := pick m 0 (a.1.zip cs)
      let k := countConv (pairs.map (fun e => e.2.2))
      let err := convError (pairs.map (fun e => (xvElem src nan32 (codeOf src e.2.1), xvElem dst nan32 e.2.2.code, e.2.2.sat)))
      let v : Vec := if w.d.isStr then cs.map (fun c => BitVec.ofNat 32 c.code) else cs.map (fun c => laneOf dst nan32 c.code)
      let r := vput s w.d dst o m v (addBound a.2.2 err)
      .ok { s := r.1.setCore (r.1.core.cvcnt k.1 k.2), res := r.2 ++ postUpdates s.core .V [w.a, w.d],
            lat := vlat 4 [a.2.1] }) s

/-- The low byte of a broadcast. -/
def bcastByte (s : State) (d : Desc) : Nat := (s.core.sreg ((BitVec.ofNat 5 d.num))).toNat % 256

/-- A one-byte operand of the A-buffer (R168, R169): its offset, which counts bytes (log entry 30). -/
def byteOp (s : State) (d : Desc) (wr : Bool) : Res Nat :=
  match d with
  | .str n _ o => (rowV s n o.toInt 2 1 [2] wr).map (fun t => t.place.aoff)
  | .reg _ _ _ => stop 0x023

/-- VQNT (R168). The row is written first and the scale byte after it, which shows when the byte lies in the row: this model's choice (log
entry 87). -/
def execVqnt (w : W96) (s : State) : Host.Outcome State Fault Refusal :=
  vword w 0 (fun m => srcRegs m w.a ++ dstRegs m w.d false ++ (if w.b.isStr then srcRegs m w.b else [])) id
    (fun m s => do
      let g := w.fmt.toNat
      let given := w.var == 1
      let a ← vsrc s w.a
      let bo ← if given then .ok 0 else byteOp s w.b true
      let o ← vdst s w.d g
      let xs := a.1.map xv32
      let sc := if given then bcastByte s w.b else blockScale g ((pick m 0 xs).map (fun e => e.2))
      let cs := xs.map (fun x => if given then quantGiven g w.rm.toNat sc x else quantElem g w.rm.toNat sc x)
      let pairs := pick m 0 (xs.zip cs)
      let k := countConv (pairs.map (fun e => e.2.2))
      let back (c : Nat) : XV := if sc = 255 then .nan else xvScale (xvElem g nan32 c) ((sc : Int) - 127)
      let beta := convError (pairs.map (fun e => (e.2.1, back e.2.2.code, e.2.2.sat)))
      let r := vput s w.d g o m (cs.map (fun c => BitVec.ofNat 32 c.code)) beta
      let c := if given then r.1.core else r.1.core.aWrite bo [BitVec.ofNat 8 sc] beta
      .ok { s := r.1.setCore (c.cvcnt k.1 k.2), res := r.2 ++ postUpdates s.core .V [w.a, w.b, w.d], lat := some 8 }) s

/-- VDQNT (R169). -/
def execVdqnt (w : W96) (s : State) : Host.Outcome State Fault Refusal :=
  vword w w.fmt.toNat (fun m => srcRegs m w.a ++ (if w.b.isStr then srcRegs m w.b else [])) (State.wantSlot .V w.d.imm)
    (fun m s => do
      let g := w.fmt.toNat
      let a ← vread s w.a g [2, 3]
      let sc ← if w.var = 1 then .ok (bcastByte s w.b)
        else (byteOp s w.b false).map (fun o => leNat (s.core.aRead o 1))
      let spare ← if g = 3 then s.spareOf w.d.imm else (if w.d.imm = 0 then .ok nan32 else (s.slotRec w.d.imm).map (fun _ => nan32))
      let v := a.1.map (fun x => dequant g sc spare x.toNat)
      let pairs := pick m 0 (a.1.zip v)
      let nan := (pairs.filter (fun e => isNaN32 e.2.2)).length
      let sat := (pairs.filter (fun e => isInf32 e.2.2 && (xvElem g spare e.2.1.toNat).finite)).length
      .ok { s := s.setCore (s.core.cvcnt sat nan), res := ⟨0, w.d.num, m, .vec v⟩ :: postUpdates s.core .V [w.a, w.b],
            lat := vlat 8 [a.2.1, if w.b.isStr then 2 else 0] }) s

/-- VSCALE (R170). -/
def execVscale (w : W96) (s : State) : Host.Outcome State Fault Refusal :=
  vword w 0 (fun m => srcRegs m w.a ++ srcRegs m w.b ++ dstRegs m w.d false) id
    (fun m s => do
      let a ← vsrc s w.a
      let b ← vread s w.b 6 [2]
      let o ← vdst s w.d 0
      let f (x e : W32) : W32 :=
        let sc := e.toNat % 256
        if sc = 255 then nan32 else round32 w.rm.toNat (xvScale (xv32 x) ((sc : Int) - 127))
      let r := vput s w.d 0 o m (List.zipWith f a.1 b.1) 0
      .ok { s := r.1, res := r.2 ++ postUpdates s.core .V [w.a, w.b, w.d], lat := vlat 4 [a.2, b.2.1] }) s

/-- A lane with field j of width b replaced (R171). -/
def putField (x : W32) (b j code : Nat) : W32 :=
  (x &&& ~~~(BitVec.ofNat 32 ((2 ^ b - 1) * 2 ^ (b * j)))) ||| BitVec.ofNat 32 (code % 2 ^ b * 2 ^ (b * j))

/-- VPACK (R171). -/
def execVpack (w : W96) (s : State) : Host.Outcome State Fault Refusal :=
  vword w 0 (fun m => srcRegs m w.a ++ srcRegs m w.b ++ dstRegs m w.d true) id
    (fun m s => do
      let g := w.fmt.toNat
      let b := fmtBits g
      let q := w.d.imm
      let x ← vsrc s w.a
      let y ← vsrc s w.b
      let conv (z : W32) : Conv := convElem (if isIntFmt g then 5 else 0) g w.rm.toNat nan32 z.toNat
      let cx := x.1.map conv
      let cy := y.1.map conv
      let k := countConv ((pick m 0 cx).map (fun e => e.2))
      let l := countConv ((pick m 0 cy).map (fun e => e.2))
      let v := List.zipWith (fun d (e : Conv × Conv) => putField (putField d b (2 * q) e.1.code) b (2 * q + 1) e.2.code)
        (s.core.vreg w.d.num) (cx.zip cy)
      .ok { s := s.setCore (s.core.cvcnt (k.1 + l.1) (k.2 + l.2)),
            res := ⟨0, w.d.num, m, .vec v⟩ :: postUpdates s.core .V [w.a, w.b], lat := vlat 4 [x.2, y.2] }) s

/-- VUNPK (R171). -/
def execVunpk (w : W96) (s : State) : Host.Outcome State Fault Refusal :=
  vword w 0 (fun m => srcRegs m w.a) id
    (fun m s => do
      let g := w.fmt.toNat
      let b := fmtBits g
      let a ← vsrc s w.a
      let v := a.1.map (fun x => laneOf g nan32 (x.toNat / 2 ^ (b * w.d.imm) % 2 ^ b))
      .ok { s := s, res := [⟨0, w.d.num, m, .vec v⟩], lat := some 4 }) s

/-! ### Reductions and scans (R173 to R175) -/

/-- A word that writes one value to every true lane, or a vector, from its source. -/
def reducing (w : W96) (f : Mask → Vec → Vec) (s : State) : Host.Outcome State Fault Refusal :=
  vword w 0 (fun m => srcRegs m w.a) id
    (fun m s => do
      let a ← vsrc s w.a
      .ok { s := s, res := ⟨0, w.d.num, m, .vec (f m a.1)⟩ :: postUpdates s.core .V [w.a], lat := vlat 10 [a.2] }) s

/-- One value in every lane. -/
def splat (x : W32) : Vec := List.replicate 128 x

/-- VRSUM. -/
def execVrsum (w : W96) (s : State) : Host.Outcome State Fault Refusal :=
  reducing w (fun m a => splat (reduce 0 w.fmt.toNat w.rm.toNat m a)) s

/-- VRMAX. -/
def execVrmax (w : W96) (s : State) : Host.Outcome State Fault Refusal :=
  reducing w (fun m a => splat (reduce 1 w.fmt.toNat 0 m a)) s

/-- VRMIN. -/
def execVrmin (w : W96) (s : State) : Host.Outcome State Fault Refusal :=
  reducing w (fun m a => splat (reduce 2 w.fmt.toNat 0 m a)) s

/-- Lane values with their lane numbers. -/
def numbered : Nat → List (Option W32) → List (Option (W32 × Nat))
  | _, [] => []
  | i, x :: r => x.map (fun v => (v, i)) :: numbered (i + 1) r

/-- VRARG (R174). -/
def execVrarg (w : W96) (s : State) : Host.Outcome State Fault Refusal :=
  reducing w (fun m a =>
    match tree (argWin w.fmt.toNat (w.var == 1)) 7 (numbered 0 (included m 0 a)) with
    | some p => splat (BitVec.ofNat 32 p.2)
    | none => splat 0xFFFFFFFF) s

/-- VSCAN. -/
def execVscan (w : W96) (s : State) : Host.Outcome State Fault Refusal :=
  reducing w (fun m a => scan w.fmt.toNat w.rm.toNat false m a) s

/-- VSCANX. -/
def execVscanx (w : W96) (s : State) : Host.Outcome State Fault Refusal :=
  reducing w (fun m a => scan w.fmt.toNat w.rm.toNat true m a) s

/-! ### Sort, top-k and merge (R176 to R178) -/

/-- The true pairs of two registers, in lane order. -/
def truePairs (m : Mask) (k i : Vec) : List (W32 × W32) := (pick m 0 (k.zip i)).map (fun e => e.2)

/-- Pairs written to lanes from 0 of registers d and d + 1. -/
def pairRes (d : Nat) (m : Mask) (l : List (W32 × W32)) : List Wr :=
  [⟨0, d, m, .vec (padVec (l.map (fun p => p.1)))⟩, ⟨0, d + 1, m, .vec (padVec (l.map (fun p => p.2)))⟩]

/-- VSORT. -/
def execVsort (w : W96) (s : State) : Host.Outcome State Fault Refusal :=
  engine .V (hd96 w) (fun m => srcRegs m w.a ++ srcRegs m w.b) id
    (fun m s =>
      let l := sortPairs w.fmt.toNat w.var.toNat (truePairs m (s.core.vreg w.a.num) (s.core.vreg w.b.num))
      .ok { s := s, res := pairRes w.d.num (lowMask l.length) l, lat := some 24 }) s

/-- VTOPK: the first min(k, c) pairs of the sorted order; the other lanes receive all ones. -/
def execVtopk (w : W96) (s : State) : Host.Outcome State Fault Refusal :=
  engine .V (hd96 w) (fun m => srcRegs m w.a ++ srcRegs m w.b) id
    (fun m s =>
      let l := (sortPairs w.fmt.toNat w.var.toNat (truePairs m (s.core.vreg w.a.num) (s.core.vreg w.b.num))).take w.d.imm
      .ok { s := s, res := pairRes w.d.num (BitVec.allOnes 128) (l ++ List.replicate (128 - l.length) (0xFFFFFFFF, 0xFFFFFFFF)),
            lat := some 24 }) s

/-- VMRG. -/
def execVmrg (w : W96) (s : State) : Host.Outcome State Fault Refusal :=
  engine .V (hd96 w) (fun m => [⟨0, w.a.num, m⟩, ⟨0, w.a.num + 1, m⟩, ⟨0, w.b.num, m⟩, ⟨0, w.b.num + 1, m⟩]) id
    (fun m s =>
      let c := s.core
      let l := mergePairs w.fmt.toNat w.var.toNat 256 (truePairs m (c.vreg w.a.num) (c.vreg (w.a.num + 1)))
        (truePairs m (c.vreg w.b.num) (c.vreg (w.b.num + 1)))
      .ok { s := s, res := pairRes w.d.num (lowMask (min l.length 128)) (l.take 128) ++
              pairRes (w.d.num + 2) (lowMask (l.length - 128)) (l.drop 128), lat := some 16 }) s

/-! ### Moves and permutes (R179, R180) -/

/-- A gathering word: every lane of the register sources is readable. -/
def gathering (w : W96) (useB : Bool) (f : Vec → Vec → Nat → W32) (s : State) : Host.Outcome State Fault Refusal :=
  engine .V (hd96 w) (fun _ => [rg 0 w.a.num] ++ (if useB then [rg 0 w.b.num] else [])) id
    (fun m s => .ok { s := s, lat := some 2,
                      res := [⟨0, w.d.num, m, .vec (vgen (fun i => if m.getLsbD i then f (s.core.vreg w.a.num) (s.core.vreg w.b.num) i else 0) 0 128)⟩] }) s

/-- VPERM. -/
def execVperm (w : W96) (s : State) : Host.Outcome State Fault Refusal :=
  gathering w true (fun a b i =>
    let x := (lane b i).toNat
    if w.var = 0 then lane a (x % 128) else if x < 128 then lane a x else 0) s

/-- VBCST. -/
def execVbcst (w : W96) (s : State) : Host.Outcome State Fault Refusal := gathering w false (fun a _ _ => lane a w.b.imm) s

/-- VROT: by a constant, or by s[X][6:0]. -/
def execVrot (w : W96) (s : State) : Host.Outcome State Fault Refusal :=
  let n := if w.var = 1 then bcastByte s w.b % 128 else w.b.imm
  gathering w false (fun a _ i => lane a ((i + 128 - n) % 128)) s

/-- VSEL. -/
def execVsel (w : W96) (s : State) : Host.Outcome State Fault Refusal :=
  vword w 0 (fun m => srcRegs m w.a ++ srcRegs m w.b ++ [⟨1, w.d.imm, m⟩]) id
    (fun m s => do
      let a ← vsrc s w.a
      let b ← vsrc s w.b
      let p := (s.sm .V).preg w.d.imm
      .ok { s := s, res := ⟨0, w.d.num, m, .vec (blendFrom p 0 a.1 b.1)⟩ :: postUpdates s.core .V [w.a, w.b],
            lat := vlat 2 [a.2, b.2] }) s

/-- VMOV. -/
def execVmov (w : W96) (s : State) : Host.Outcome State Fault Refusal := lanewise w 2 false false (fun _ a _ _ => a) s

/-- VLDI (R180): the immediate's low byte stands in A, its high byte in B. -/
def execVldi (w : W96) (s : State) : Host.Outcome State Fault Refusal :=
  let imm : BitVec 16 := BitVec.ofNat 16 (w.a.imm + 256 * w.b.imm)
  let v : W32 := if w.fmt = 5 then imm.signExtend 32 else imm ++ (0 : BitVec 16)
  engine .V (hd96 w) (fun _ => []) id
    (fun m s => .ok { s := s, res := [⟨0, w.d.num, m, .vec (splat v)⟩], lat := some 2 }) s

/-- VLANE var 00. -/
def execVlane (w : W96) (s : State) : Host.Outcome State Fault Refusal :=
  engine .V (hd96 w) (fun _ => []) id
    (fun m s => .ok { s := s, res := [⟨0, w.d.num, m, .vec (vgen (fun i => BitVec.ofNat 32 i) 0 128)⟩], lat := some 2 }) s

/-- VLANE var 01: an address register from lanes 0 to 3, whatever their predicate. -/
def execVlaneAddress (w : W96) (s : State) : Host.Outcome State Fault Refusal :=
  engine .V (hd96 w) (fun _ => [⟨0, w.a.num, 0xF⟩]) id
    (fun _ s =>
      let v := s.core.vreg w.a.num
      .ok { s := s, res := [⟨3, w.d.imm, BitVec.allOnes 128, .addr ⟨lane v 1 ++ lane v 0, lane v 2, lane v 3⟩⟩], lat := some 2 }) s

/-! ### Conditional streams and the routing switch (R181 to R184) -/

/-- VPUSHC. The registers of the window are not sources of the word for the scoreboard: the rule's steps read none, though its worked example says that
the second push reads the window; the model's choice (log entry 107). -/
def execVpushc (w : W96) (s : State) : Host.Outcome State Fault Refusal :=
  engine .V (hd96 w) (fun m => [⟨0, w.a.num, m⟩, rg 2 w.b.imm]) id
    (fun m s => do
      let c := ((s.sm .V).ireg w.b.imm).toNat
      need (c ≤ 128) 0x047
      let xs := (pick m 0 (s.core.vreg w.a.num)).map (fun e => e.2)
      let all := List.replicate c 0 ++ xs
      let e := c + xs.length
      let lo : Mask := lowMask (min e 128) &&& ~~~(lowMask c)
      let hi : Mask := lowMask (e - 128) &&& ~~~(lowMask (c - 128))
      .ok { s := s, lat := some 6,
            res := [⟨0, w.d.num, lo, .vec (padVec (all.take 128))⟩, ⟨0, w.d.num + 1, hi, .vec (padVec (all.drop 128))⟩] ++
              idxRes w.b.imm (BitVec.ofNat 32 e) }) s

/-- VPOPC: acts on the whole word, whatever the lanes. -/
def execVpopc (w : W96) (s : State) : Host.Outcome State Fault Refusal :=
  engine .V (hd96 w) (fun _ => [rg 0 w.a.num, rg 0 (w.a.num + 1), rg 2 w.a.imm]) id
    (fun _ s => do
      let c := ((s.sm .V).ireg w.a.imm).toNat
      need (c ≤ 256) 0x047
      let m := if w.var = 1 ∧ c < 128 then 0 else min c 128
      let win := s.core.vreg w.a.num ++ s.core.vreg (w.a.num + 1)
      let rest := ((win.take c).drop m ++ zeroVec ++ zeroVec).take 256
      let all := BitVec.allOnes 128
      let p : List Wr := [⟨1, w.d.imm, all, .pred (lowMask m)⟩]
      .ok { s := s, lat := some 6,
            res := (if w.var = 0 ∨ m = 128 then
              [⟨0, w.d.num, all, .vec (padVec (win.take m))⟩, ⟨0, w.a.num, all, .vec (rest.take 128)⟩,
               ⟨0, w.a.num + 1, all, .vec (rest.drop 128)⟩] ++ idxRes w.a.imm (BitVec.ofNat 32 (c - m)) else []) ++ p }) s

/-- VREBAL: true lanes in order of their 4-bit routes. -/
def execVrebal (w : W96) (s : State) : Host.Outcome State Fault Refusal :=
  engine .V (hd96 w) (fun m => srcRegs m w.a ++ srcRegs m w.b) id
    (fun m s =>
      let l := truePairs m (s.core.vreg w.a.num) (s.core.vreg w.b.num)
      let r := (List.range 16).flatMap (fun k => (l.filter (fun p => p.2.toNat % 16 == k)).map (fun p => p.1))
      .ok { s := s, res := [⟨0, w.d.num, lowMask r.length, .vec (padVec r)⟩], lat := some 6 }) s

/-- Counts of the lanes below i that a predicate holds. -/
def prefixCounts (p : Mask) : Nat → Nat → Nat → Vec
  | 0, _, _ => []
  | n + 1, i, c => BitVec.ofNat 32 c :: prefixCounts p n (i + 1) (c + (p.getLsbD i).toNat)

/-- VCOUNT. -/
def execVcount (w : W96) (s : State) : Host.Outcome State Fault Refusal :=
  engine .V (hd96 w) (fun _ => rg 1 w.a.imm :: (if w.var = 2 then [rg 0 w.a.num] else [])) id
    (fun m s =>
      let p := (s.sm .V).preg w.a.imm
      let v : Vec := if w.var = 0 then prefixCounts p 128 0 0
        else if w.var = 1 then splat (BitVec.ofNat 32 (laneList p).length)
        else
          let l := (pick p 0 (s.core.vreg w.a.num)).map (fun e => e.2.toNat % 16)
          padVec ((List.range 16).map (fun i => BitVec.ofNat 32 (l.filter (fun x => x == i)).length))
      .ok { s := s, res := [⟨0, w.d.num, m, .vec v⟩], lat := some 6 }) s

/-! ### Random numbers (R185) -/

/-- The hash of one lane. -/
def rngHash (sd ct : W32) (i : Nat) : W32 :=
  let x := sd ^^^ ((ct + BitVec.ofNat 32 i) * 0x9E3779B9)
  let x := x ^^^ (x >>> 16)
  let x := x * 0x7FEB352D
  let x := x ^^^ (x >>> 15)
  let x := x * 0x846CA68B
  x ^^^ (x >>> 16)

/-- The FP32 value of x × 2^−24 for a 24-bit integer. -/
def unit24 (x : W32) : W32 := round32 0 (.num false (x >>> 8).toNat (-24))

/-- A random word with a function of the hash. -/
def random (w : W96) (f : W32 → W32) (s : State) : Host.Outcome State Fault Refusal :=
  vword w 0 (fun m => srcRegs m w.a ++ srcRegs m w.b) id
    (fun m s => do
      let a ← vsrc s w.a
      let b ← vsrc s w.b
      .ok { s := s, res := [⟨0, w.d.num, m, .vec (vmap3 (fun i x y _ => f (rngHash x y i)) 0 a.1 b.1 a.1)⟩], lat := some 6 }) s

/-- VRNG. -/
def execVrng (w : W96) (s : State) : Host.Outcome State Fault Refusal := random w (fun x => x) s

/-- VRNGU. -/
def execVrngu (w : W96) (s : State) : Host.Outcome State Fault Refusal := random w unit24 s

end Sys2Proof.Machine
end

