-- ==== Sys2Proof/Machine/Segment.lean ====
section
/-! DEFINITION. The segment words of the vector stream (R250 to R256). -/

namespace Sys2Proof.Machine

/-- The position of lane i (R250): the V stream's i1 plus the lane. -/
def State.segPos (s : State) (i : Nat) : Nat := ((s.sm .V).ireg 1).toNat + i

/-- A segment word: its slot's record, the segment of every lane, and what it does. -/
def segword (w : W96) (slot : Nat) (reads : Mask → List Rg) (body : Mask → BlzEnt → List (Option Nat) → State → Res Eff)
    (s : State) : Host.Outcome State Fault Refusal :=
  vword w 0 reads (State.wantSlot .V slot)
    (fun m s => do
      let r ← s.slotRec slot
      body m r ((List.range 128).map (fun i => segOf r.tab (s.segPos i))) s) s

/-- The lanes of a mask whose segment is g. -/
def segLanes (m : Mask) (segs : List (Option Nat)) (g : Nat) : Mask :=
  BitVec.ofNat 128 (segs.foldr (fun x n => 2 * n + (x == some g).toNat) 0) &&& m

/-- The segments that true lanes lie in. -/
def segsOf (m : Mask) (segs : List (Option Nat)) : List Nat := ((pick m 0 segs).filterMap (fun e => e.2)).eraseDups

/-- The lanes of a mask that lie in a segment. -/
def inSegs (m : Mask) (segs : List (Option Nat)) : Mask :=
  BitVec.ofNat 128 (segs.foldr (fun x n => 2 * n + x.isSome.toNat) 0) &&& m

/-- A vector put together from one per segment. -/
def perSegment (m : Mask) (segs : List (Option Nat)) (f : Mask → Vec) : Vec :=
  (segsOf m segs).foldl (fun v g => let l := segLanes m segs g; blendFrom l 0 (f l) v) zeroVec

/-- The value of VSRED over a set of lanes: op 3 counts them. -/
def segRed (op fmt rm : Nat) (l : Mask) (a : Vec) : W32 :=
  if op = 3 then BitVec.ofNat 32 (laneList l).length else reduce op fmt rm l a

/-- VSRED (R251). -/
def execVsred (w : W96) (s : State) : Host.Outcome State Fault Refusal :=
  segword w w.d.imm (fun m => srcRegs m w.a ++ [rg 2 1]) (fun m r segs s => do
    let a ← vsrc s w.a
    let op := w.b.imm
    let red (l : Mask) : W32 := segRed op w.fmt.toNat w.rm.toNat l a.1
    let out : Mask × Vec :=
      if w.var = 0 then (inSegs m segs, perSegment m segs (fun l => splat (red l)))
      else
        let g0 := segOf r.tab (s.segPos 0)
        let at_ (q : Nat) : W32 := match g0 with
          | some g => if g + q < r.tab.length then red (segLanes m segs (g + q)) else red 0
          | none => red 0
        (m, vgen at_ 0 128)
    .ok { s := s, res := ⟨0, w.d.num, out.1, .vec out.2⟩ :: postUpdates s.core .V [w.a], lat := vlat 12 [a.2] }) s

/-- VSSCAN (R252). -/
def execVsscan (w : W96) (s : State) : Host.Outcome State Fault Refusal :=
  segword w w.d.imm (fun m => srcRegs m w.a ++ [rg 2 1]) (fun m _ segs s => do
    let a ← vsrc s w.a
    let v := perSegment m segs (fun l => scan w.fmt.toNat w.rm.toNat (w.var == 1) l a.1)
    .ok { s := s, res := ⟨0, w.d.num, inSegs m segs, .vec v⟩ :: postUpdates s.core .V [w.a], lat := vlat 12 [a.2] }) s

/-- The softmax of the lanes of one segment (R253). -/
def softmax (l : Mask) (a : Vec) : Vec :=
  let xs := (pick l 0 a).map (fun e => e.2)
  if xs.any isNaN32 then splat nan32
  else if xs.any (fun x => x == 0x7F800000) then
    let c := (xs.filter (fun x => x == 0x7F800000)).length
    let v := round32 0 (xvDiv (.num false 1 0) (.num false c 0))
    a.map (fun x => if x = 0x7F800000 then v else 0)
  else if xs.all (fun x => x == 0xFF800000) then zeroVec
  else
    let mx := reduce 1 0 0 l a
    let ex := blendFrom l 0 (a.map (fun x => expR (xvAdd 0 (xv32 x) (xvNeg (xv32 mx))))) zeroVec
    let sm := reduce 0 0 0 l ex
    ex.map (fun x => divR x sm)

/-- VSNORM (R253). -/
def execVsnorm (w : W96) (s : State) : Host.Outcome State Fault Refusal :=
  segword w w.d.imm (fun m => srcRegs m w.a ++ [rg 2 1]) (fun m _ segs s => do
    let a ← vsrc s w.a
    let v := perSegment m segs (fun l => softmax l a.1)
    .ok { s := s, res := ⟨0, w.d.num, inSegs m segs, .vec v⟩ :: postUpdates s.core .V [w.a], lat := vlat 30 [a.2] }) s

/-- VSMASK (R254): under the record's mode, or pair, or causal. -/
def execVsmask (w : W96) (s : State) : Host.Outcome State Fault Refusal :=
  segword w w.a.imm (fun _ => [rg 2 0, rg 2 1]) (fun m r _ s =>
    let mode := if w.var = 0 then r.mode % 4 else if w.var = 1 then 2 else 1
    let t := ((s.sm .V).ireg 0).toNat
    let p := maskOf (fun j => !maskedPair r.tab mode t (s.segPos j))
    .ok { s := s, res := [⟨1, w.d.imm, m, .pred p⟩], lat := some 6 }) s

/-- VSLEN (R255). -/
def execVslen (w : W96) (s : State) : Host.Outcome State Fault Refusal :=
  segword w w.d.imm (fun _ => [rg 2 1]) (fun m r segs s =>
    let f (i : Nat) : W32 := match segs.getD i none with
      | none => 0xFFFFFFFF
      | some g =>
        let st := if g = 0 then 0 else r.tab.getD (g - 1) 0
        BitVec.ofNat 32 (if w.var = 0 then r.tab.getD g 0 - st else if w.var = 1 then s.segPos i - st else g)
    .ok { s := s, res := [⟨0, w.d.num, m, .vec (vgen f 0 128)⟩], lat := some 6 }) s

/-- VBLZ (R256). -/
def execVblz (w : W96) (s : State) : Host.Outcome State Fault Refusal :=
  segword w w.d.imm (fun _ => [rg 2 w.a.imm]) (fun m r _ s =>
    let n := ((s.sm .V).ireg w.a.imm).toNat
    let f (i : Nat) : W32 := match r.tab[n + i]? with
      | some b => BitVec.ofNat 32 b
      | none => 0xFFFFFFFF
    .ok { s := s, res := [⟨0, w.d.num, m, .vec (vgen f 0 128)⟩], lat := some 6 }) s

end Sys2Proof.Machine
end

