-- ==== Sys2Proof/Machine/Vector.lean ====
section
/-! DEFINITION. Floating-point arithmetic and functions, comparisons, classification, and integer words of the vector stream
(R162 to R166). -/

namespace Sys2Proof.Machine

/-- VADD (Table 6-4). -/
def execVadd (w : W96) (s : State) : Host.Outcome State Fault Refusal :=
  lanewise w 4 true false (fun _ a b _ => fadd w.rm.toNat a b) s

/-- VSUB (Table 6-4). -/
def execVsub (w : W96) (s : State) : Host.Outcome State Fault Refusal :=
  lanewise w 4 true false (fun _ a b _ => fsub w.rm.toNat a b) s

/-- VMUL (Table 6-4). -/
def execVmul (w : W96) (s : State) : Host.Outcome State Fault Refusal :=
  lanewise w 4 true false (fun _ a b _ => fmul w.rm.toNat a b) s

/-- VFMA (Table 6-4). -/
def execVfma (w : W96) (s : State) : Host.Outcome State Fault Refusal :=
  lanewise w 4 true true (fun _ a b d => ffma w.rm.toNat a b d) s

/-- VFMS (Table 6-4: round(d − a × b)). -/
def execVfms (w : W96) (s : State) : Host.Outcome State Fault Refusal :=
  lanewise w 4 true true (fun _ a b d => ffma w.rm.toNat (a ^^^ 0x80000000) b d) s

/-- VMIN (Table 6-4). -/
def execVmin (w : W96) (s : State) : Host.Outcome State Fault Refusal :=
  lanewise w 4 true false (fun _ a b _ => fmin a b) s

/-- VMAX (Table 6-4). -/
def execVmax (w : W96) (s : State) : Host.Outcome State Fault Refusal :=
  lanewise w 4 true false (fun _ a b _ => fmax a b) s

/-- VABS (Table 6-4). -/
def execVabs (w : W96) (s : State) : Host.Outcome State Fault Refusal :=
  lanewise w 4 false false (fun _ a _ _ => a &&& 0x7FFFFFFF) s

/-- VNEG (Table 6-4). -/
def execVneg (w : W96) (s : State) : Host.Outcome State Fault Refusal :=
  lanewise w 4 false false (fun _ a _ _ => a ^^^ 0x80000000) s

/-- VCPYS (Table 6-4). -/
def execVcpys (w : W96) (s : State) : Host.Outcome State Fault Refusal :=
  lanewise w 4 true false (fun _ a b _ => (a &&& 0x7FFFFFFF) ||| (b &&& 0x80000000)) s

/-- VRCP (Table 6-5). -/
def execVrcp (w : W96) (s : State) : Host.Outcome State Fault Refusal :=
  lanewise w 12 false false (fun _ a _ _ => rcpR a) s

/-- VRSQ (Table 6-5). -/
def execVrsq (w : W96) (s : State) : Host.Outcome State Fault Refusal :=
  lanewise w 12 false false (fun _ a _ _ => rsqR a) s

/-- VSQRT (Table 6-5). -/
def execVsqrt (w : W96) (s : State) : Host.Outcome State Fault Refusal :=
  lanewise w 12 false false (fun _ a _ _ => sqrtR a) s

/-- VEXP2 (Table 6-5). -/
def execVexp2 (w : W96) (s : State) : Host.Outcome State Fault Refusal :=
  lanewise w 12 false false (fun _ a _ _ => exp2R (xv32 a)) s

/-- VLOG2 (Table 6-5). -/
def execVlog2 (w : W96) (s : State) : Host.Outcome State Fault Refusal :=
  lanewise w 12 false false (fun _ a _ _ => log2R (xv32 a)) s

/-- VEXPD (Table 6-5: e^(a − b) with the difference taken exactly). -/
def execVexpd (w : W96) (s : State) : Host.Outcome State Fault Refusal :=
  lanewise w 12 true false (fun _ a b _ => expR (xvAdd 0 (xv32 a) (xvNeg (xv32 b)))) s

/-- VTANH (Table 6-5). -/
def execVtanh (w : W96) (s : State) : Host.Outcome State Fault Refusal :=
  lanewise w 12 false false (fun _ a _ _ => tanhR a) s

/-- VSIGM (Table 6-5). -/
def execVsigm (w : W96) (s : State) : Host.Outcome State Fault Refusal :=
  lanewise w 12 false false (fun _ a _ _ => sigmR a) s

/-- The class bit of an FP32 pattern (R165). -/
def classBit (a : W32) : W32 :=
  let n := a.msb
  let e := bits a.toNat 30 23
  let m := bits a.toNat 22 0
  if e = 255 then (if m = 0 then (if n then 0x1 else 0x80) else if m / 2 ^ 22 = 1 then 0x200 else 0x100)
  else if e = 0 then (if m = 0 then (if n then 0x8 else 0x10) else if n then 0x4 else 0x20)
  else if n then 0x2 else 0x40

/-- VCLASS (R165). -/
def execVclass (w : W96) (s : State) : Host.Outcome State Fault Refusal :=
  lanewise w 4 false false (fun _ a _ _ => classBit a) s

/-- A compare word (R164): p[k] takes the comparison, or its conjunction or disjunction with the old bit, in true lanes. -/
def compare (w : W96) (lat : Nat) (c : W32 → W32 → Bool) (s : State) : Host.Outcome State Fault Refusal :=
  vword w 0
    (fun m => srcRegs m w.a ++ srcRegs m w.b ++ (if w.var = 0 then [] else [⟨1, w.d.imm, m⟩])) id
    (fun m s => do
      let a ← vsrc s w.a
      let b ← vsrc s w.b
      let r := BitVec.ofNat 128 ((List.zipWith c a.1 b.1).foldr (fun x n => 2 * n + x.toNat) 0)
      let old := (s.sm .V).preg w.d.imm
      let v := if w.var = 0 then r else if w.var = 1 then old &&& r else old ||| r
      .ok { s := s, res := ⟨1, w.d.imm, m, .pred v⟩ :: postUpdates s.core .V [w.a, w.b], lat := vlat lat [a.2, b.2] }) s

/-- VCMPEQ (Table 6-6). -/
def execVcmpeq (w : W96) (s : State) : Host.Outcome State Fault Refusal :=
  compare w 4 (fun a b => xvEq (xv32 a) (xv32 b)) s

/-- VCMPLT (Table 6-6). -/
def execVcmplt (w : W96) (s : State) : Host.Outcome State Fault Refusal :=
  compare w 4 (fun a b => xvLt (xv32 a) (xv32 b)) s

/-- VCMPLE (Table 6-6). -/
def execVcmple (w : W96) (s : State) : Host.Outcome State Fault Refusal :=
  compare w 4 (fun a b => xvLt (xv32 a) (xv32 b) || xvEq (xv32 a) (xv32 b)) s

/-- VCMPUN (Table 6-6). -/
def execVcmpun (w : W96) (s : State) : Host.Outcome State Fault Refusal :=
  compare w 4 (fun a b => isNaN32 a || isNaN32 b) s

/-- VICMPEQ (Table 6-6). -/
def execVicmpeq (w : W96) (s : State) : Host.Outcome State Fault Refusal :=
  compare w 2 (fun a b => a == b) s

/-- VICMPLT (Table 6-6). -/
def execVicmplt (w : W96) (s : State) : Host.Outcome State Fault Refusal :=
  compare w 2 (fun a b => a.slt b) s

/-- VICMPLTU (Table 6-6). -/
def execVicmpltu (w : W96) (s : State) : Host.Outcome State Fault Refusal :=
  compare w 2 (fun a b => a.ult b) s

/-- VIADD (Table 6-7). -/
def execViadd (w : W96) (s : State) : Host.Outcome State Fault Refusal :=
  lanewise w 2 true false (fun _ a b _ => a + b) s

/-- VISUB (Table 6-7). -/
def execVisub (w : W96) (s : State) : Host.Outcome State Fault Refusal :=
  lanewise w 2 true false (fun _ a b _ => a - b) s

/-- VIMUL (Table 6-7). -/
def execVimul (w : W96) (s : State) : Host.Outcome State Fault Refusal :=
  lanewise w 4 true false (fun _ a b _ => a * b) s

/-- VIMAD (Table 6-7). -/
def execVimad (w : W96) (s : State) : Host.Outcome State Fault Refusal :=
  lanewise w 4 true true (fun _ a b d => a * b + d) s

/-- VAND (Table 6-7). -/
def execVand (w : W96) (s : State) : Host.Outcome State Fault Refusal :=
  lanewise w 2 true false (fun _ a b _ => a &&& b) s

/-- VOR (Table 6-7). -/
def execVor (w : W96) (s : State) : Host.Outcome State Fault Refusal :=
  lanewise w 2 true false (fun _ a b _ => a ||| b) s

/-- VXOR (Table 6-7). -/
def execVxor (w : W96) (s : State) : Host.Outcome State Fault Refusal :=
  lanewise w 2 true false (fun _ a b _ => a ^^^ b) s

/-- VANDN (Table 6-7). -/
def execVandn (w : W96) (s : State) : Host.Outcome State Fault Refusal :=
  lanewise w 2 true false (fun _ a b _ => a &&& ~~~b) s

/-- VSHL (Table 6-7). -/
def execVshl (w : W96) (s : State) : Host.Outcome State Fault Refusal :=
  lanewise w 2 true false (fun _ a b _ => a <<< (b.toNat % 32)) s

/-- VSHR (Table 6-7). -/
def execVshr (w : W96) (s : State) : Host.Outcome State Fault Refusal :=
  lanewise w 2 true false (fun _ a b _ => a >>> (b.toNat % 32)) s

/-- VSRA (Table 6-7). -/
def execVsra (w : W96) (s : State) : Host.Outcome State Fault Refusal :=
  lanewise w 2 true false (fun _ a b _ => a.sshiftRight (b.toNat % 32)) s

/-- VIMIN (Table 6-7). -/
def execVimin (w : W96) (s : State) : Host.Outcome State Fault Refusal :=
  lanewise w 2 true false (fun _ a b _ => if b.slt a then b else a) s

/-- VIMAX (Table 6-7). -/
def execVimax (w : W96) (s : State) : Host.Outcome State Fault Refusal :=
  lanewise w 2 true false (fun _ a b _ => if a.slt b then b else a) s

/-- VIMINU (Table 6-7). -/
def execViminu (w : W96) (s : State) : Host.Outcome State Fault Refusal :=
  lanewise w 2 true false (fun _ a b _ => if b.ult a then b else a) s

/-- VIMAXU (Table 6-7). -/
def execVimaxu (w : W96) (s : State) : Host.Outcome State Fault Refusal :=
  lanewise w 2 true false (fun _ a b _ => if a.ult b then b else a) s

/-- The number of one bits of a lane. -/
def popc32 (a : W32) : W32 := BitVec.ofNat 32 ((List.range 32).filter (fun i => a.getLsbD i)).length

/-- The leading zero bits of a lane, 32 for 0. -/
def clz32 (a : W32) : W32 := if a = 0 then 32 else BitVec.ofNat 32 (31 - Nat.log2 a.toNat)

/-- VPCNT (Table 6-7). -/
def execVpcnt (w : W96) (s : State) : Host.Outcome State Fault Refusal :=
  lanewise w 2 false false (fun _ a _ _ => popc32 a) s

/-- VCLZ (Table 6-7). -/
def execVclz (w : W96) (s : State) : Host.Outcome State Fault Refusal :=
  lanewise w 2 false false (fun _ a _ _ => clz32 a) s

end Sys2Proof.Machine
end

