-- ==== Sys2Proof/Machine/Dispatch.lean ====
section
/-! DEFINITION. The one dispatch from the actions of the package to their meanings. -/

namespace Sys2Proof.Machine

open Host in noncomputable
def exec (i : Instr) (s : State) : Host.Outcome State Fault Refusal :=
  match i with
  | .add d a b => Sys2Proof.Machine.execAdd d a b s
  | .sub d a b => Sys2Proof.Machine.execSub d a b s
  | .mul d a b => Sys2Proof.Machine.execMul d a b s
  | .mulh d a b => Sys2Proof.Machine.execMulh d a b s
  | .mulhu d a b => Sys2Proof.Machine.execMulhu d a b s
  | .div d a b => Sys2Proof.Machine.execDiv d a b s
  | .divu d a b => Sys2Proof.Machine.execDivu d a b s
  | .rem d a b => Sys2Proof.Machine.execRem d a b s
  | .remu d a b => Sys2Proof.Machine.execRemu d a b s
  | .and d a b => Sys2Proof.Machine.execAnd d a b s
  | .or d a b => Sys2Proof.Machine.execOr d a b s
  | .xor d a b => Sys2Proof.Machine.execXor d a b s
  | .shl d a b => Sys2Proof.Machine.execShl d a b s
  | .shr d a b => Sys2Proof.Machine.execShr d a b s
  | .sra d a b => Sys2Proof.Machine.execSra d a b s
  | .min d a b => Sys2Proof.Machine.execMin d a b s
  | .max d a b => Sys2Proof.Machine.execMax d a b s
  | .minu d a b => Sys2Proof.Machine.execMinu d a b s
  | .maxu d a b => Sys2Proof.Machine.execMaxu d a b s
  | .slt d a b => Sys2Proof.Machine.execSlt d a b s
  | .sltu d a b => Sys2Proof.Machine.execSltu d a b s
  | .seq d a b => Sys2Proof.Machine.execSeq d a b s
  | .clz d a => Sys2Proof.Machine.execClz d a s
  | .popc d a => Sys2Proof.Machine.execPopc d a s
  | .addi d a im => Sys2Proof.Machine.execAddi d a im s
  | .andi d a im => Sys2Proof.Machine.execAndi d a im s
  | .ori d a im => Sys2Proof.Machine.execOri d a im s
  | .xori d a im => Sys2Proof.Machine.execXori d a im s
  | .shli d a im => Sys2Proof.Machine.execShli d a im s
  | .shri d a im => Sys2Proof.Machine.execShri d a im s
  | .srai d a im => Sys2Proof.Machine.execSrai d a im s
  | .slti d a im => Sys2Proof.Machine.execSlti d a im s
  | .sltiu d a im => Sys2Proof.Machine.execSltiu d a im s
  | .lui d im => Sys2Proof.Machine.execLui d im s
  | .ldw d a im => Sys2Proof.Machine.execLdw d a im s
  | .ldd d a im => Sys2Proof.Machine.execLdd d a im s
  | .stw d a im => Sys2Proof.Machine.execStw d a im s
  | .std d a im => Sys2Proof.Machine.execStd d a im s
  | .seta n a b => Sys2Proof.Machine.execSeta n a b s
  | .setk n a => Sys2Proof.Machine.execSetk n a s
  | .geta d n y => Sys2Proof.Machine.execGeta d n y s
  | .beq a b o => Sys2Proof.Machine.execBeq a b o s
  | .bne a b o => Sys2Proof.Machine.execBne a b o s
  | .blt a b o => Sys2Proof.Machine.execBlt a b o s
  | .bge a b o => Sys2Proof.Machine.execBge a b o s
  | .bltu a b o => Sys2Proof.Machine.execBltu a b o s
  | .bgeu a b o => Sys2Proof.Machine.execBgeu a b o s
  | .j o => Sys2Proof.Machine.execJ o s
  | .jal o => Sys2Proof.Machine.execJal o s
  | .jalr d a im => Sys2Proof.Machine.execJalr d a im s
  | .loopc a b o => Sys2Proof.Machine.execLoopc a b o s
  | .fork m => Sys2Proof.Machine.execFork m s
  | .rdv m => Sys2Proof.Machine.execRdv m s
  | .post e n => Sys2Proof.Machine.execPost e n s
  | .await e n => Sys2Proof.Machine.execAwait e n s
  | .boqp a x => Sys2Proof.Machine.execBoqp a x s
  | .qput a x => Sys2Proof.Machine.execQput a x s
  | .spawn d a b => Sys2Proof.Machine.execSpawn d a b s
  | .jdec a => Sys2Proof.Machine.execJdec a s
  | .texit a => Sys2Proof.Machine.execTexit a s
  | .bksel d a im => Sys2Proof.Machine.execBksel d a im s
  | .rclaim d a w => Sys2Proof.Machine.execRclaim d a w s
  | .rpubl d a => Sys2Proof.Machine.execRpubl d a s
  | .rtake d a w => Sys2Proof.Machine.execRtake d a w s
  | .rrels d a => Sys2Proof.Machine.execRrels d a s
  | .tlrd d y c => Sys2Proof.Machine.execTlrd d y c s
  | .tlwait a c => Sys2Proof.Machine.execTlwait a c s
  | .mark => Sys2Proof.Machine.execMark s
  | .phmark a m => Sys2Proof.Machine.execPhmark a m s
  | .aadd d a b w => Sys2Proof.Machine.execAadd d a b w s
  | .aaddq a b w => Sys2Proof.Machine.execAaddq a b w s
  | .amin d a b w => Sys2Proof.Machine.execAmin d a b w s
  | .aminq a b w => Sys2Proof.Machine.execAminq a b w s
  | .amax d a b w => Sys2Proof.Machine.execAmax d a b w s
  | .amaxq a b w => Sys2Proof.Machine.execAmaxq a b w s
  | .aminu d a b w => Sys2Proof.Machine.execAminu d a b w s
  | .aminuq a b w => Sys2Proof.Machine.execAminuq a b w s
  | .amaxu d a b w => Sys2Proof.Machine.execAmaxu d a b w s
  | .amaxuq a b w => Sys2Proof.Machine.execAmaxuq a b w s
  | .aand d a b w => Sys2Proof.Machine.execAand d a b w s
  | .aandq a b w => Sys2Proof.Machine.execAandq a b w s
  | .aor d a b w => Sys2Proof.Machine.execAor d a b w s
  | .aorq a b w => Sys2Proof.Machine.execAorq a b w s
  | .axor d a b w => Sys2Proof.Machine.execAxor d a b w s
  | .axorq a b w => Sys2Proof.Machine.execAxorq a b w s
  | .axchg d a b w => Sys2Proof.Machine.execAxchg d a b w s
  | .axchgq a b w => Sys2Proof.Machine.execAxchgq a b w s
  | .acas d a b w => Sys2Proof.Machine.execAcas d a b w s
  | .acasq d a b w => Sys2Proof.Machine.execAcasq d a b w s
  | .afadd d a b => Sys2Proof.Machine.execAfadd d a b s
  | .afaddq a b => Sys2Proof.Machine.execAfaddq a b s
  | .afmin d a b => Sys2Proof.Machine.execAfmin d a b s
  | .afminq a b => Sys2Proof.Machine.execAfminq a b s
  | .afmax d a b => Sys2Proof.Machine.execAfmax d a b s
  | .afmaxq a b => Sys2Proof.Machine.execAfmaxq a b s
  | .aredo d a b => Sys2Proof.Machine.execAredo d a b s
  | .waita d a b => Sys2Proof.Machine.execWaita d a b s
  | .wake d a => Sys2Proof.Machine.execWake d a s
  | .baraDevice d a => Sys2Proof.Machine.execBaraDevice d a s
  | .baraGroup d n => Sys2Proof.Machine.execBaraGroup d n s
  | .barwDevice d a => Sys2Proof.Machine.execBarwDevice d a s
  | .barwGroup d n => Sys2Proof.Machine.execBarwGroup d n s
  | .barawDevice d a => Sys2Proof.Machine.execBarawDevice d a s
  | .barawGroup d n => Sys2Proof.Machine.execBarawGroup d n s
  | .talloc d a => Sys2Proof.Machine.execTalloc d a s
  | .tseal d a b => Sys2Proof.Machine.execTseal d a b s
  | .tretire a b => Sys2Proof.Machine.execTretire a b s
  | .trepl d a b => Sys2Proof.Machine.execTrepl d a b s
  | .tlook d a b => Sys2Proof.Machine.execTlook d a b s
  | .ckpt d a b => Sys2Proof.Machine.execCkpt d a b s
  | .xcopy d a b => Sys2Proof.Machine.execXcopy d a b s
  | .xcopy2 d a b => Sys2Proof.Machine.execXcopy2 d a b s
  | .xfill d a b => Sys2Proof.Machine.execXfill d a b s
  | .xstat d b => Sys2Proof.Machine.execXstat d b s
  | .lkmcst d a b => Sys2Proof.Machine.execLkmcst d a b s
  | .lkldred d a b => Sys2Proof.Machine.execLkldred d a b s
  | .lksend d a b => Sys2Proof.Machine.execLksend d a b s
  | .cgjoin a => Sys2Proof.Machine.execCgjoin a s
  | .cgleave a => Sys2Proof.Machine.execCgleave a s
  | .cgstat d a => Sys2Proof.Machine.execCgstat d a s
  | .nop => Sys2Proof.Machine.execNop s
  | .trap d => Sys2Proof.Machine.execTrap d s
  | .eret => Sys2Proof.Machine.execEret s
  | .csrr d c => Sys2Proof.Machine.execCsrr d c s
  | .csrw d c => Sys2Proof.Machine.execCsrw d c s
  | .fence f y => Sys2Proof.Machine.execFence f y s
  | .sleep a => Sys2Proof.Machine.execSleep a s
  | .halt => Sys2Proof.Machine.execHalt s
  | .dlogp d => Sys2Proof.Machine.execDlogp d s
  | .scrub d a => Sys2Proof.Machine.execScrub d a s
  | .ldb w => Sys2Proof.Machine.execLdb w s
  | .ldtBuffer w => Sys2Proof.Machine.execLdtBuffer w s
  | .ldtTile w => Sys2Proof.Machine.execLdtTile w s
  | .ldg w => Sys2Proof.Machine.execLdg w s
  | .ldz w => Sys2Proof.Machine.execLdz w s
  | .ldc w => Sys2Proof.Machine.execLdc w s
  | .ldsh w => Sys2Proof.Machine.execLdsh w s
  | .lpref w => Sys2Proof.Machine.execLpref w s
  | .lwfree w => Sys2Proof.Machine.execLwfree w s
  | .lpubl w => Sys2Proof.Machine.execLpubl w s
  | .stb w => Sys2Proof.Machine.execStb w s
  | .sttBuffer w => Sys2Proof.Machine.execSttBuffer w s
  | .sttTile w => Sys2Proof.Machine.execSttTile w s
  | .stsc w => Sys2Proof.Machine.execStsc w s
  | .stadd w => Sys2Proof.Machine.execStadd w s
  | .staxpy w => Sys2Proof.Machine.execStaxpy w s
  | .stopt w => Sys2Proof.Machine.execStopt w s
  | .stoptAdam w => Sys2Proof.Machine.execStoptAdam w s
  | .stcvt w => Sys2Proof.Machine.execStcvt w s
  | .stcvtTile w => Sys2Proof.Machine.execStcvtTile w s
  | .satom w => Sys2Proof.Machine.execSatom w s
  | .swfill w => Sys2Proof.Machine.execSwfill w s
  | .srels w => Sys2Proof.Machine.execSrels w s
  | .mma w => Sys2Proof.Machine.execMma w s
  | .mmat w => Sys2Proof.Machine.execMmat w s
  | .mmas w => Sys2Proof.Machine.execMmas w s
  | .mzero w => Sys2Proof.Machine.execMzero w s
  | .minit w => Sys2Proof.Machine.execMinit w s
  | .mdrain w => Sys2Proof.Machine.execMdrain w s
  | .mdrainRegister w => Sys2Proof.Machine.execMdrainRegister w s
  | .mret w => Sys2Proof.Machine.execMret w s
  | .mcal w => Sys2Proof.Machine.execMcal w s
  | .msetk w => Sys2Proof.Machine.execMsetk w s
  | .mwide w => Sys2Proof.Machine.execMwide w s
  | .mchk w => Sys2Proof.Machine.execMchk w s
  | .mspill w => Sys2Proof.Machine.execMspill w s
  | .mfill w => Sys2Proof.Machine.execMfill w s
  | .mstat w => Sys2Proof.Machine.execMstat w s
  | .engineNop w => Sys2Proof.Machine.execEngineNop w s
  | .enginePost w => Sys2Proof.Machine.execEnginePost w s
  | .engineAwait w => Sys2Proof.Machine.execEngineAwait w s
  | .engineMark w => Sys2Proof.Machine.execEngineMark w s
  | .jmp w => Sys2Proof.Machine.execJmp w s
  | .boqb w => Sys2Proof.Machine.execBoqb w s
  | .boqbPush w => Sys2Proof.Machine.execBoqbPush w s
  | .boqbPushall w => Sys2Proof.Machine.execBoqbPushall w s
  | .loop w => Sys2Proof.Machine.execLoop w s
  | .iaddi w => Sys2Proof.Machine.execIaddi w s
  | .iset w => Sys2Proof.Machine.execIset w s
  | .ipop w => Sys2Proof.Machine.execIpop w s
  | .engineFence w => Sys2Proof.Machine.execEngineFence w s
  | .trapx w => Sys2Proof.Machine.execTrapx w s
  | .endStream w => Sys2Proof.Machine.execEndStream w s
  | .vadd w => Sys2Proof.Machine.execVadd w s
  | .vsub w => Sys2Proof.Machine.execVsub w s
  | .vmul w => Sys2Proof.Machine.execVmul w s
  | .vfma w => Sys2Proof.Machine.execVfma w s
  | .vfms w => Sys2Proof.Machine.execVfms w s
  | .vmin w => Sys2Proof.Machine.execVmin w s
  | .vmax w => Sys2Proof.Machine.execVmax w s
  | .vabs w => Sys2Proof.Machine.execVabs w s
  | .vneg w => Sys2Proof.Machine.execVneg w s
  | .vcpys w => Sys2Proof.Machine.execVcpys w s
  | .vrcp w => Sys2Proof.Machine.execVrcp w s
  | .vrsq w => Sys2Proof.Machine.execVrsq w s
  | .vsqrt w => Sys2Proof.Machine.execVsqrt w s
  | .vexp2 w => Sys2Proof.Machine.execVexp2 w s
  | .vlog2 w => Sys2Proof.Machine.execVlog2 w s
  | .vexpd w => Sys2Proof.Machine.execVexpd w s
  | .vtanh w => Sys2Proof.Machine.execVtanh w s
  | .vsigm w => Sys2Proof.Machine.execVsigm w s
  | .vcmpeq w => Sys2Proof.Machine.execVcmpeq w s
  | .vcmplt w => Sys2Proof.Machine.execVcmplt w s
  | .vcmple w => Sys2Proof.Machine.execVcmple w s
  | .vcmpun w => Sys2Proof.Machine.execVcmpun w s
  | .vclass w => Sys2Proof.Machine.execVclass w s
  | .viadd w => Sys2Proof.Machine.execViadd w s
  | .visub w => Sys2Proof.Machine.execVisub w s
  | .vimul w => Sys2Proof.Machine.execVimul w s
  | .vimad w => Sys2Proof.Machine.execVimad w s
  | .vand w => Sys2Proof.Machine.execVand w s
  | .vor w => Sys2Proof.Machine.execVor w s
  | .vxor w => Sys2Proof.Machine.execVxor w s
  | .vandn w => Sys2Proof.Machine.execVandn w s
  | .vshl w => Sys2Proof.Machine.execVshl w s
  | .vshr w => Sys2Proof.Machine.execVshr w s
  | .vsra w => Sys2Proof.Machine.execVsra w s
  | .vimin w => Sys2Proof.Machine.execVimin w s
  | .vimax w => Sys2Proof.Machine.execVimax w s
  | .viminu w => Sys2Proof.Machine.execViminu w s
  | .vimaxu w => Sys2Proof.Machine.execVimaxu w s
  | .vicmpeq w => Sys2Proof.Machine.execVicmpeq w s
  | .vicmplt w => Sys2Proof.Machine.execVicmplt w s
  | .vicmpltu w => Sys2Proof.Machine.execVicmpltu w s
  | .vpcnt w => Sys2Proof.Machine.execVpcnt w s
  | .vclz w => Sys2Proof.Machine.execVclz w s
  | .vcvt w => Sys2Proof.Machine.execVcvt w s
  | .vqnt w => Sys2Proof.Machine.execVqnt w s
  | .vdqnt w => Sys2Proof.Machine.execVdqnt w s
  | .vscale w => Sys2Proof.Machine.execVscale w s
  | .vpack w => Sys2Proof.Machine.execVpack w s
  | .vunpk w => Sys2Proof.Machine.execVunpk w s
  | .vrsum w => Sys2Proof.Machine.execVrsum w s
  | .vrmax w => Sys2Proof.Machine.execVrmax w s
  | .vrmin w => Sys2Proof.Machine.execVrmin w s
  | .vrarg w => Sys2Proof.Machine.execVrarg w s
  | .vscan w => Sys2Proof.Machine.execVscan w s
  | .vscanx w => Sys2Proof.Machine.execVscanx w s
  | .vsort w => Sys2Proof.Machine.execVsort w s
  | .vtopk w => Sys2Proof.Machine.execVtopk w s
  | .vmrg w => Sys2Proof.Machine.execVmrg w s
  | .vperm w => Sys2Proof.Machine.execVperm w s
  | .vbcst w => Sys2Proof.Machine.execVbcst w s
  | .vrot w => Sys2Proof.Machine.execVrot w s
  | .vsel w => Sys2Proof.Machine.execVsel w s
  | .vmov w => Sys2Proof.Machine.execVmov w s
  | .vldi w => Sys2Proof.Machine.execVldi w s
  | .vlane w => Sys2Proof.Machine.execVlane w s
  | .vlaneAddress w => Sys2Proof.Machine.execVlaneAddress w s
  | .vpushc w => Sys2Proof.Machine.execVpushc w s
  | .vpopc w => Sys2Proof.Machine.execVpopc w s
  | .vrebal w => Sys2Proof.Machine.execVrebal w s
  | .vcount w => Sys2Proof.Machine.execVcount w s
  | .vsred w => Sys2Proof.Machine.execVsred w s
  | .vsscan w => Sys2Proof.Machine.execVsscan w s
  | .vsnorm w => Sys2Proof.Machine.execVsnorm w s
  | .vsmask w => Sys2Proof.Machine.execVsmask w s
  | .vslen w => Sys2Proof.Machine.execVslen w s
  | .vblz w => Sys2Proof.Machine.execVblz w s
  | .vrng w => Sys2Proof.Machine.execVrng w s
  | .vrngu w => Sys2Proof.Machine.execVrngu w s
  | .dispatchRequest core => Sys2Proof.Machine.execDispatchRequest core s
  | .gangCoreHold core => Sys2Proof.Machine.execGangCoreHold core s
  | .taskCompletion task => Sys2Proof.Machine.execTaskCompletion task s
  | .launchStart slot => Sys2Proof.Machine.execLaunchStart slot s
  | .kernelVerification slot => Sys2Proof.Machine.execKernelVerification slot s
  | .memoryWritePerform core st win k => Sys2Proof.Machine.execMemoryWritePerform core st win k s
  | .atomicPerform core st part => Sys2Proof.Machine.execAtomicPerform core st part s
  | .dPageWriteLand core st win k => Sys2Proof.Machine.execDPageWriteLand core st win k s
  | .aredoLand core win => Sys2Proof.Machine.execAredoLand core win s
  | .markerRetire core idx => Sys2Proof.Machine.execMarkerRetire core idx s
  | .barrierPhaseRelease bar => Sys2Proof.Machine.execBarrierPhaseRelease bar s
  | .waitaPoll core => Sys2Proof.Machine.execWaitaPoll core s
  | .sleepExpiry core => Sys2Proof.Machine.execSleepExpiry core s
  | .translationWalk who win va => Sys2Proof.Machine.execTranslationWalk who win va s
  | .blazeCacheRefill core st => Sys2Proof.Machine.execBlazeCacheRefill core st s
  | .copyStart ctx q die => Sys2Proof.Machine.execCopyStart ctx q die s
  | .copyLanded ctx q n => Sys2Proof.Machine.execCopyLanded ctx q n s
  | .copyAcked ctx q n => Sys2Proof.Machine.execCopyAcked ctx q n s
  | .copyFaulted ctx q n => Sys2Proof.Machine.execCopyFaulted ctx q n s
  | .remoteAccessArrival acc off => Sys2Proof.Machine.execRemoteAccessArrival acc off s
  | .writeAcknowledge core => Sys2Proof.Machine.execWriteAcknowledge core s
  | .linkDataCompletion core num st => Sys2Proof.Machine.execLinkDataCompletion core num st s
  | .collectiveCommit lnum op oc => Sys2Proof.Machine.execCollectiveCommit lnum op oc s
  | .collectiveWithdraw lnum => Sys2Proof.Machine.execCollectiveWithdraw lnum s
  | .replicaCounted ctx handle ver => Sys2Proof.Machine.execReplicaCounted ctx handle ver s
  | .replicaLost ctx handle ver => Sys2Proof.Machine.execReplicaLost ctx handle ver s
  | .lineageMirrorRetry die => Sys2Proof.Machine.execLineageMirrorRetry die s
  | .recoveryWalk ctx handle ver => Sys2Proof.Machine.execRecoveryWalk ctx handle ver s
  | .copyBackVerified ctx handle ver => Sys2Proof.Machine.execCopyBackVerified ctx handle ver s
  | .rebuildEnqueue ctx lid => Sys2Proof.Machine.execRebuildEnqueue ctx lid s
  | .recoveryStarved ctx => Sys2Proof.Machine.execRecoveryStarved ctx s
  | .contextStopped ctx => Sys2Proof.Machine.execContextStopped ctx s
  | .swapExchangeComplete part => Sys2Proof.Machine.execSwapExchangeComplete part s
  | .spillComplete ctx => Sys2Proof.Machine.execSpillComplete ctx s
  | .fillComplete ctx => Sys2Proof.Machine.execFillComplete ctx s
  | .watchdog ctx core => Sys2Proof.Machine.execWatchdog ctx core s
  | .dieLoss die => Sys2Proof.Machine.execDieLoss die s
  | .ioDieLoss => Sys2Proof.Machine.execIoDieLoss s
  | .memoryUncorrectableError pa => Sys2Proof.Machine.execMemoryUncorrectableError pa s
  | .syncEngineUncorrectableError die => Sys2Proof.Machine.execSyncEngineUncorrectableError die s
  | .shelvedStateLost ctx => Sys2Proof.Machine.execShelvedStateLost ctx s
  | .powerOnReset => Sys2Proof.Machine.execPowerOnReset s
  | .linkTrainingRequest port => Sys2Proof.Machine.execLinkTrainingRequest port s
  | .linkTrainingResult port res => Sys2Proof.Machine.execLinkTrainingResult port res s
  | .linkRetryExhausted port third => Sys2Proof.Machine.execLinkRetryExhausted port third s
  | .linkFlitCrcError port => Sys2Proof.Machine.execLinkFlitCrcError port s
  | .powerThermalLimit hold => Sys2Proof.Machine.execPowerThermalLimit hold s
  | .thermalShutdown => Sys2Proof.Machine.execThermalShutdown s
  | .almanacFlush => Sys2Proof.Machine.execAlmanacFlush s
  | .trigger d => Sys2Proof.Machine.execTrigger d s
  | .tlbivaRange d => Sys2Proof.Machine.execTlbivaRange d s
  | .tlbivaAll d => Sys2Proof.Machine.execTlbivaAll d s
  | .hndbInstall d => Sys2Proof.Machine.execHndbInstall d s
  | .hndbRemove d => Sys2Proof.Machine.execHndbRemove d s
  | .ringcfEnable ring d => Sys2Proof.Machine.execRingcfEnable ring d s
  | .ringcfConfigure ring d => Sys2Proof.Machine.execRingcfConfigure ring d s
  | .ringcfDrain ring d => Sys2Proof.Machine.execRingcfDrain ring d s
  | .ringcfDisable ring d => Sys2Proof.Machine.execRingcfDisable ring d s
  | .dlogcRecord d => Sys2Proof.Machine.execDlogcRecord d s
  | .dlogcReplay d => Sys2Proof.Machine.execDlogcReplay d s
  | .dlogcOff d => Sys2Proof.Machine.execDlogcOff d s
  | .kthWrite n d => Sys2Proof.Machine.execKthWrite n d s
  | .redlimWrite d => Sys2Proof.Machine.execRedlimWrite d s
  | .kload j slot addr image => Sys2Proof.Machine.execKload j slot addr image s
  | .kunload j slot => Sys2Proof.Machine.execKunload j slot s
  | .kbind j slot ctx => Sys2Proof.Machine.execKbind j slot ctx s
  | .kunbind j slot ctx => Sys2Proof.Machine.execKunbind j slot ctx s
  | .kretire j slot => Sys2Proof.Machine.execKretire j slot s
  | .gload j slot ctx image => Sys2Proof.Machine.execGload j slot ctx image s
  | .gunload j slot => Sys2Proof.Machine.execGunload j slot s
  | .trig j ctx ptr => Sys2Proof.Machine.execTrig j ctx ptr s
  | .qset j q desc => Sys2Proof.Machine.execQset j q desc s
  | .qdrain j q => Sys2Proof.Machine.execQdrain j q s
  | .qoff j q => Sys2Proof.Machine.execQoff j q s
  | .hset j ctx idx h => Sys2Proof.Machine.execHset j ctx idx h s
  | .hclr j ctx idx => Sys2Proof.Machine.execHclr j ctx idx s
  | .poolset j ctx desc => Sys2Proof.Machine.execPoolset j ctx desc s
  | .pclear j frame => Sys2Proof.Machine.execPclear j frame s
  | .partset j part add remove => Sys2Proof.Machine.execPartset j part add remove s
  | .ctxnew j ctx req => Sys2Proof.Machine.execCtxnew j ctx req s
  | .run j ctx => Sys2Proof.Machine.execRun j ctx s
  | .preempt j ctx => Sys2Proof.Machine.execPreempt j ctx s
  | .spill j ctx => Sys2Proof.Machine.execSpill j ctx s
  | .fill j ctx => Sys2Proof.Machine.execFill j ctx s
  | .resume j ctx => Sys2Proof.Machine.execResume j ctx s
  | .kill j ctx => Sys2Proof.Machine.execKill j ctx s
  | .ctxfree j ctx => Sys2Proof.Machine.execCtxfree j ctx s
  | .restore j ctx image => Sys2Proof.Machine.execRestore j ctx image s
  | .mread j sp addr count => Sys2Proof.Machine.execMread j sp addr count s
  | .mwrite j sp addr data => Sys2Proof.Machine.execMwrite j sp addr data s
  | .exportWin j ctx ptr len => Sys2Proof.Machine.execExportWin j ctx ptr len s
  | .reach j dev entry => Sys2Proof.Machine.execReach j dev entry s
  | .memb j domain replicas => Sys2Proof.Machine.execMemb j domain replicas s
  | .cgdef j rec members => Sys2Proof.Machine.execCgdef j rec members s
  | .cgdel j lnum => Sys2Proof.Machine.execCgdel j lnum s
  | .linkup j port => Sys2Proof.Machine.execLinkup j port s
  | .retrain j port => Sys2Proof.Machine.execRetrain j port s
  | .linkfence j port => Sys2Proof.Machine.execLinkfence j port s
  | .linkreset j port => Sys2Proof.Machine.execLinkreset j port s
  | .summary j mask flags => Sys2Proof.Machine.execSummary j mask flags s
  | .fwload j image burn => Sys2Proof.Machine.execFwload j image burn s
  | .quote j nonce => Sys2Proof.Machine.execQuote j nonce s
  | .powerLoss => Sys2Proof.Machine.execPowerLoss s
  | .collectiveJoinLeaveRecorded lnum rank join => Sys2Proof.Machine.execCollectiveJoinLeaveRecorded lnum rank join s
  | .taskQueueTake q => Sys2Proof.Machine.execTaskQueueTake q s
  | .loadDataArrival core st a => Sys2Proof.Machine.execLoadDataArrival core st a s
  | .dlogrWrite d => Sys2Proof.Machine.execDlogrWrite d s
  | .dlogwWrite d => Sys2Proof.Machine.execDlogwWrite d s
  | .lineageMirrorArrival die en => Sys2Proof.Machine.execLineageMirrorArrival die en s
  | .replicaTargetLost ctx handle ver => Sys2Proof.Machine.execReplicaTargetLost ctx handle ver s
  | .checkpointDeliveryAcknowledged ctx q n => Sys2Proof.Machine.execCheckpointDeliveryAcknowledged ctx q n s

end Sys2Proof.Machine
end

