-- ==== Sys2Proof/Machine/Schedule.lean ====
section
/-! DEFINITION. Which move the package makes next: a stream issues a word, something outside the streams happens, or, when no script
says, a policy chooses (R103, R198, R206, R415, R417, R444, R449). -/

namespace Sys2Proof.Machine

/-- Whether a row of the table is an event or a command of the Jecel port, and no word of a stream. -/
def Instr.outside (i : Instr) : Bool :=
  match i with
  | .dispatchRequest _ => true
  | .gangCoreHold _ => true
  | .taskCompletion _ => true
  | .launchStart _ => true
  | .kernelVerification _ => true
  | .memoryWritePerform _ _ _ _ => true
  | .atomicPerform _ _ _ => true
  | .dPageWriteLand _ _ _ _ => true
  | .aredoLand _ _ => true
  | .markerRetire _ _ => true
  | .barrierPhaseRelease _ => true
  | .waitaPoll _ => true
  | .sleepExpiry _ => true
  | .translationWalk _ _ _ => true
  | .blazeCacheRefill _ _ => true
  | .copyStart _ _ _ => true
  | .copyLanded _ _ _ => true
  | .copyAcked _ _ _ => true
  | .copyFaulted _ _ _ => true
  | .remoteAccessArrival _ _ => true
  | .writeAcknowledge _ => true
  | .linkDataCompletion _ _ _ => true
  | .collectiveCommit _ _ _ => true
  | .collectiveWithdraw _ => true
  | .replicaCounted _ _ _ => true
  | .replicaLost _ _ _ => true
  | .lineageMirrorRetry _ => true
  | .recoveryWalk _ _ _ => true
  | .copyBackVerified _ _ _ => true
  | .rebuildEnqueue _ _ => true
  | .recoveryStarved _ => true
  | .contextStopped _ => true
  | .swapExchangeComplete _ => true
  | .spillComplete _ => true
  | .fillComplete _ => true
  | .watchdog _ _ => true
  | .dieLoss _ => true
  | .ioDieLoss => true
  | .memoryUncorrectableError _ => true
  | .syncEngineUncorrectableError _ => true
  | .shelvedStateLost _ => true
  | .powerOnReset => true
  | .linkTrainingRequest _ => true
  | .linkTrainingResult _ _ => true
  | .linkRetryExhausted _ _ => true
  | .linkFlitCrcError _ => true
  | .powerThermalLimit _ => true
  | .thermalShutdown => true
  | .almanacFlush => true
  | .kload _ _ _ _ => true
  | .kunload _ _ => true
  | .kbind _ _ _ => true
  | .kunbind _ _ _ => true
  | .kretire _ _ => true
  | .gload _ _ _ _ => true
  | .gunload _ _ => true
  | .trig _ _ _ => true
  | .qset _ _ _ => true
  | .qdrain _ _ => true
  | .qoff _ _ => true
  | .hset _ _ _ _ => true
  | .hclr _ _ _ => true
  | .poolset _ _ _ => true
  | .pclear _ _ => true
  | .partset _ _ _ _ => true
  | .ctxnew _ _ _ => true
  | .run _ _ => true
  | .preempt _ _ => true
  | .spill _ _ => true
  | .fill _ _ => true
  | .resume _ _ => true
  | .kill _ _ => true
  | .ctxfree _ _ => true
  | .restore _ _ _ => true
  | .mread _ _ _ _ => true
  | .mwrite _ _ _ _ => true
  | .exportWin _ _ _ _ => true
  | .reach _ _ _ => true
  | .memb _ _ _ => true
  | .cgdef _ _ _ => true
  | .cgdel _ _ => true
  | .linkup _ _ => true
  | .retrain _ _ => true
  | .linkfence _ _ => true
  | .linkreset _ _ => true
  | .summary _ _ _ => true
  | .fwload _ _ _ => true
  | .quote _ _ => true
  | .powerLoss => true
  | .collectiveJoinLeaveRecorded _ _ _ => true
  | .taskQueueTake _ => true
  | .loadDataArrival _ _ _ => true
  | .lineageMirrorArrival _ _ => true
  | .replicaTargetLost _ _ _ => true
  | .checkpointDeliveryAcknowledged _ _ _ => true
  | _ => false

/-! ### Words -/

/-- Whether a stream of a core may issue its next word: its context runs, its core is not in a handler (whose C stream runs alone) and the
stream is running; the M stream of a context that drains, or of a core whose handler has been entered, goes on to its stop point. -/
noncomputable def State.mayIssue (s : State) (k : Nat) (t : Strm) : Bool :=
  let c := s.coreOf k
  s.dev.phase == .running && c.running t && !(t == .M && s.dev.hold == some 0) &&
    (match (s.ctxOf (s.ctxNoOf k)).st, c.hand with
     | .running, none => true
     | .running, some h => t == .C || (t == .M && h.strm != .M && !s.mStops k)
     | .draining, none => t == .M && !s.mStops k
     | .draining, some h => t == .M && h.strm != .M && !s.mStops k
     | _, _ => false)

/-- Where the image of a stream's code lies: its kernel's physical range, or what its handler's pointer translates to. -/
def State.codeSegs (s : State) (k : Nat) (t : Strm) (o n : Nat) : List Seg :=
  match (s.coreOf k).hand, t with
  | some h, .C => s.segsAt (s.ctxNoOf k) (bits h.code 55 0 + o) n
  | _, _ => [⟨(s.kernelOf ((s.coreOf k).csr 0x010).toNat).image + o, n⟩]

/-- What a stream fetches: its word, or the cause of a fetch that fails. A macro-PC outside the array takes 0x025 (R419), a word on a lost
die 0x1A1, one in a poisoned frame 0x084, and one that breaks the decode checks the lowest cause of those (R59). -/
noncomputable def State.fetch (s : State) (k : Nat) (t : Strm) : Except Nat Instr :=
  let n := ((s.coreOf k).strm t).pc
  let a := s.codeArray k t
  if a.2 ≤ n then .error 0x025
  else
    let g := s.codeSegs k t (a.1 + n * wordLen t) (wordLen t)
    if g.any (fun c => s.homeLost c.pa) then .error 0x1A1
    else if s.placeBad (.phys 0 g) then .error 0x084
    else match decode t (s.wordAt k t n) with
      | .error c => .error c
      | .ok i => match i.cause with
        | some c => .error c
        | none => .ok i

/-- The state in which a stream of a core issues: that word is the current one, and the context touches the core's die (R13). -/
def State.issuing (s : State) (k : Nat) (t : Strm) : State :=
  ({ s with cur := k, cst := t }).touch (s.ctxNoOf k) [dieOfCore k]

/-- The site of a word that could not be fetched. -/
def State.siteOf (s : State) (t : Strm) : Site := if t = .C then s.siteC false else s.siteE t 0

/-- Whether a core owes a cause that can be taken now. -/
def State.lateNow (s : State) (k : Nat) : Bool := (s.coreOf k).late.any (fun l => ({ s with cur := k } : State).raisable l.strm l.code)

/-- A stream issues its next word; a cause that the core owes and can take comes first (R114, R415). -/
noncomputable def State.word (s : State) (k : Nat) (t : Strm) : Host.Outcome State Fault Refusal :=
  if !s.mayIssue k t then .next s
  else if s.lateNow k then .next ({ s with cur := k } : State).raiseLate
  else
    match s.fetch k t with
    | .ok i => exec i (s.issuing k t)
    | .error c => .next ((s.issuing k t).raise t ((s.issuing k t).siteOf t) c 0 0)

/-! ### Moves -/

/-- Whether an event or command can happen in the phase the device is in: a device held in reset, without power or lost can only be
powered on, or lose its power. -/
def State.awake (s : State) (i : Instr) : Bool :=
  s.dev.phase == .running || s.dev.phase == .recovery || i == .powerOnReset || i == .powerLoss

/-- A move of the script: a word, or an event or command; a row that is a word happens only when its stream issues it. -/
noncomputable def State.move (s : State) : Move → Host.Outcome State Fault Refusal
  | .word k t => s.word k t
  | .act i => if Instr.outside i && s.awake i then exec i s else .next s

/-! ### The policy without a script -/

/-- The events of a core's own work that could happen. -/
noncomputable def State.coreEvents (s : State) (k : Nat) : List Instr :=
  let c := s.coreOf k
  let x := s.ctxNoOf k
  let part := (s.ctxOf x).part
  allStrms.filterMap (fun t => (c.strm t).loads.head?.map (fun e =>
      Instr.loadDataArrival k t ⟨0, (List.range (s.otherBytes (e.next 0))).map (fun i => Config.freeByte (s.fresh + i))⟩)) ++
    allStrms.flatMap (fun t => ((c.strm t).stores.map (fun e => e.win)).eraseDups.flatMap (fun w =>
      [Instr.memoryWritePerform k t w 0, .atomicPerform k t ⟨w, 0⟩, .dPageWriteLand k t w 0] ++ (if t = .C then [Instr.aredoLand k w] else []))) ++
    (if c.wacks = 0 then [] else [Instr.writeAcknowledge k]) ++
    (List.range c.marks.length).map (fun i => Instr.markerRetire k i) ++
    c.links.filterMap (fun o => o.st.map (fun st => Instr.linkDataCompletion k o.cmd st)) ++
    c.want.map (fun w => Instr.blazeCacheRefill k w.1) ++
    [Instr.waitaPoll k, .sleepExpiry k] ++
    (if c.task.isNone ∧ (List.range 4).any (fun d => !(s.ofCtx x (s.rpool part d).tasks).isEmpty) then [Instr.dispatchRequest k] else []) ++
    (if c.task.isNone then [Instr.gangCoreHold k] else [])

/-- The events of a context that could happen. -/
noncomputable def State.ctxEvents (s : State) (x : Nat) : List Instr :=
  let c := s.ctxOf x
  c.copyq.flatMap (fun q => [Instr.copyStart x q.1 0, .copyStart x q.1 1, .copyStart x q.1 2, .copyStart x q.1 3] ++
      q.2.cmds.flatMap (fun t => [Instr.copyAcked x q.1 t.num, .copyFaulted x q.1 t.num, .copyLanded x q.1 t.num])) ++
    (c.sync.flatMap (fun e => e.barriers.map (fun o => Instr.barrierPhaseRelease (syncBase e.die e.frame + o)))) ++
    ((s.allVers x).flatMap (fun v =>
      let h := BitVec.ofNat 64 (handleFor v.1 v.2.1)
      [Instr.copyBackVerified x h v.2.2, .recoveryWalk x h v.2.2])) ++
    ((s.allVers x).filterMap (fun v => ((s.poolOf x v.1).bind (fun t => (t.ver v.2.1 v.2.2).bind (fun e => e.run))).map (fun lid =>
      Instr.rebuildEnqueue x (BitVec.ofNat 64 lid)))) ++
    [Instr.contextStopped x, .spillComplete x, .fillComplete x, .recoveryStarved x]

/-- The events that could happen without the outside world. -/
noncomputable def State.events (s : State) : List Instr :=
  s.cores.flatMap (fun c => s.coreEvents c.1) ++
    (s.parts.flatMap (fun p => p.2.cores.filterMap (fun c => if (find? s.cores c.2).isNone then some c.2 else none))).flatMap (fun k => s.coreEvents k) ++
    s.ctxs.flatMap (fun x => s.ctxEvents x.1) ++
    s.tasks.map (fun t => Instr.taskCompletion t.1) ++ s.queues.map (fun q => Instr.taskQueueTake q.1) ++
    (if s.dev.pwrite.isSome then [Instr.memoryWritePerform 256 .C 0 0] else []) ++
    s.graphs.map (fun g => Instr.launchStart g.1) ++ s.kernels.map (fun k => Instr.kernelVerification k.1) ++
    s.parts.map (fun p => Instr.swapExchangeComplete p.1) ++ [Instr.lineageMirrorRetry 0, .lineageMirrorRetry 1, .lineageMirrorRetry 2, .lineageMirrorRetry 3]

/-- Whether an outcome is another state. -/
def changes (s : State) (o : Host.Outcome State Fault Refusal) : Bool :=
  match o with
  | .next t => t != s
  | _ => true

/-- The streams that may issue, in the order in which they take turns. -/
noncomputable def State.turns (s : State) : List (Nat × Strm) :=
  let all := (s.cores.flatMap (fun c => allStrms.map (fun t => (c.1, t)))).filter (fun e => s.mayIssue e.1 e.2)
  let after := all.filter (fun e => decide (s.cur < e.1) || (e.1 == s.cur && decide (strmNo s.cst < strmNo e.2)))
  after ++ all

/-- The move when the script is empty: boot, an event that changes something, the word of the next stream in turn; none when nothing
can happen. -/
noncomputable def State.policy (s : State) : Option Move :=
  if s.dev.phase = .reset then some (.act .powerOnReset)
  else match s.events.find? (fun i => changes s (exec i s)) with
    | some i => some (.act i)
    | none => s.turns.head?.map (fun e => .word e.1 e.2)

end Sys2Proof.Machine
end

