-- ==== Sys2Proof/Machine/Step.lean ====
section
/-! DEFINITION. One step of the package, and how a word is put where the next step fetches it. -/

namespace Sys2Proof.Machine

/-- One step: the first move of the script, or the policy's when there is none; with no move to make the state stays. -/
noncomputable def step (s : State) : Host.Outcome State Fault Refusal :=
  match s.script with
  | m :: r => ({ s with script := r }).move m
  | [] =>
    match s.policy with
    | some m => s.move m
    | none => .next s

/-- The stream whose array holds a word of a length, as `decodeTableWord` chooses it. -/
noncomputable def streamFor (nbits w : Nat) : Strm :=
  match nbits with
  | 32 => .C
  | 192 => .M
  | _ =>
    match decode .V (toLE 12 w) with
    | .ok _ => .V
    | .error _ =>
      match decode .L (toLE 12 w) with
      | .ok _ => .L
      | .error _ => .S

/-- A state whose next step fetches and runs a word: a kernel image at physical address 0 whose one array of that stream holds the word
alone, in slot 0; context 0 RUNNING on partition 0, whose logical core 0 is core 0, which runs a task of that kernel; and a script that
lets the stream issue. -/
noncomputable def State.withFetchWord (s : State) (nbits w : Nat) : State :=
  let t := streamFor nbits w
  let n := wordLen t
  let mem := setBytes (setBytes s.mem (0x10 + 16 * strmNo t) (toLE 4 128 ++ toLE 4 1)) 128 (toLE n w)
  let c := s.coreOf 0
  let m := { c.strm t with run := true, pc := 0, waiting := false }
  let c := ({ c with task := some 0, ended := false, hand := none, late := [], within := none, csrs := setKey c.csrs 0x010 0 } : CoreSt).setStrm t m
  { s with
    mem := mem, cores := setKey s.cores 0 c, ctxs := setKey s.ctxs 0 { s.ctxOf 0 with st := .running, part := 0, loc := .cores },
    parts := setKey s.parts 0 ⟨[(0, 0)], some 0, none, none, false, []⟩, kernels := setKey s.kernels 0 ⟨.bound, 0, 128 + n, [0], 0⟩,
    dies := setKey s.dies 0 { s.dieOf 0 with lost := false }, poison := s.poison.filter (fun f => f != 0),
    dev := { s.dev with phase := .running, hold := none, fenced := s.dev.fenced.filter (fun k => k != 0) },
    script := .word 0 t :: s.script }

end Sys2Proof.Machine
end

