-- ==== Sys2Proof/Certificates/Slice0/Obligations.lean ====
section
/-! DEFINITION. The statements for the provers. Each completion statement says, for every state and all operands that meet conditions on the
state and the operands alone, which next state the action gives; the statements of frames say what stays. The words used in several statements
stand first; a statement with several parts is the conjunction of named ones. -/

namespace Sys2Proof.Claims

open Machine

/-- The outcomes of `exec`. -/
abbrev Out1 := Host.Outcome State Fault Refusal

/-- Memory in its canonical form: addresses rise strictly and no entry lists the value an unlisted byte reads as. -/
def canonical (s : State) : Prop := Memory.wf s.mem = true

/-- Every byte of memory reads in t as it reads in s. -/
def sameMem (s t : State) : Prop := ∀ a, look 0 t.mem a = look 0 s.mem a

/-- t differs from s in the cores alone, and there in no core but the current one. -/
def coreOnly (s t : State) : Prop := t = { s with cores := t.cores } ∧ ∀ k, k ≠ s.cur → t.coreOf k = s.coreOf k

/-- The current core of t differs from that of s in its scalar registers, in the macro-PC of its C stream and the note of its waiting
alone, and among the registers at most in number d. -/
def scalarOnly (s t : State) (d : Reg) : Prop :=
  t.core = { s.core with sregs := t.core.sregs, wver := t.core.wver,
                         cS := { s.core.cS with pc := t.core.cS.pc, waiting := t.core.cS.waiting } } ∧
  ∀ r, r ≠ d → t.core.sreg r = s.core.sreg r

/-- A C word that writes v to register d and is done. -/
def wrote (s : State) (d : Reg) (v : Word) : Out1 := .next (s.setCore (s.core.setSreg d v)).retire

/-- No load or atomic in flight owes a register its value (R109). -/
def ready (s : State) (r : Reg) : Prop := s.core.busy r = false

/-- The state in which an engine word of stream t issues: its due results are visible. -/
def due (s : State) (t : Strm) : State := s.setCore (s.core.settle t)

/-- The state in which a word of the matrix group issues: its due results are visible, and a stop of the stream is over. -/
def dueM (s : State) : State := s.setCore { s.core.settle .M with mstop := false }

/-- An engine word of stream t with head h that reads the registers `reads` is enabled in the lanes m, and every register it reads is
visible; s' is the state in which it issues. -/
def enabled (s : State) (t : Strm) (h : Hd) (reads : Mask → List Rg) (m : Mask) (s' : State) : Prop :=
  s' = due s t ∧ (s'.sm t).active t h = m ∧ m ≠ 0 ∧ (s'.sm t).short (rg 1 h.pred :: reads m) = none

/-- A word of the matrix group with head h that reads the registers `reads` is enabled, and every register it reads is visible; s' is the state
in which it issues. -/
def enabledM (s : State) (h : Hd) (reads : State → List Rg) (m : Mask) (s' : State) : Prop :=
  s' = dueM s ∧ (s'.sm .M).active .M h = m ∧ m ≠ 0 ∧ (s'.sm .M).short (rg 1 h.pred :: reads s') = none

/-- The outcome of an engine word of stream t that is done with an effect. -/
def issued (t : Strm) (h : Hd) (e : Eff) : Out1 := .next (State.issueEngine t h e)

/-- The outcome of a matrix word whose work is done, from s' to v: a word that stood stopped inside it completes the number it took then
(R191). -/
def issuedM (s' : State) (h : Hd) (v : State) : Out1 := .next (State.issueEngine .M h { s := v.standM, taken := s'.core.standNum .M })

/-- The outcome of a word on tile k that takes a cause in v, with the row it had reached. -/
def raisedM (v : State) (k : Nat) (c a d : Nat) : Out1 :=
  .next (v.standM.raise .M (v.standM.siteE .M (v.standM.tl k).prog.toNat) c a d)

/-- The sequence number of a command is new and the next one, and no MWRITE before it has still to perform. -/
def comesNext (s : State) (j : Jec) : Prop := find? s.dev.answers j.seq = none ∧ s.inSequence j = true ∧ s.dev.pwrite = none

/-- The Jecel port takes a command: firmware runs, and the command is the next. -/
def accepts (s : State) (j : Jec) : Prop := s.dev.phase = .running ∧ comesNext s j

/-- The outcome of a command carried out: the state it leaves, with the answer OK. -/
def answered (j : Jec) (t : State) : Out1 := .next ((t.answer j .ok []).follow j)

end Sys2Proof.Claims

open Sys2Proof Sys2Proof.Machine Sys2Proof.Claims

/-! ### Steps -/

/-- A step whose move lets stream t of core k issue runs the instruction its bytes decode to: when the stream may issue, its core owes no
cause that can be taken now, its macro-PC lies in its array, no byte of the word is on a lost die or in a poisoned frame, and the bytes decode to
a well-formed instruction, the step is `exec` of that instruction, in the state in which the move is taken off the script, the core and the stream are the current ones, and the
core's die is touched (R13, R26, R59). -/
def Obligations.StepRunsDecodedWord : Prop :=
  ∀ (s u : State) (k : Nat) (t : Strm) (r : List Move) (i : Instr),
    s.script = .word k t :: r → u = { s with script := r } →
    u.mayIssue k t = true → u.lateNow k = false → ((u.coreOf k).strm t).pc < (u.codeArray k t).2 →
    (∀ g, g = u.codeSegs k t ((u.codeArray k t).1 + ((u.coreOf k).strm t).pc * wordLen t) (wordLen t) →
      g.any (fun c => u.homeLost c.pa) = false ∧ u.placeBad (.phys 0 g) = false) →
    decode t (u.wordAt k t ((u.coreOf k).strm t).pc) = .ok i → i.wf = true →
    step s = exec i (({ u with cur := k, cst := t }).touch (u.ctxNoOf k) [dieOfCore k])

/-- A stream that may issue and cannot fetch a word takes a cause instead: 0x025 outside its array (R419), and for a word in its array
whose bytes lie on no lost die and in no poisoned frame the lowest decode cause (R59). The record then names the macro-PC past the end of the array,
and a cause that its core owes and can take now comes before any word: both are how the model reads R419, R114 and R415 (log entries 22 and 46). -/
def Obligations.StepBadWordTakesCause : Prop :=
  ∀ (s u v : State) (k : Nat) (t : Strm) (r : List Move) (c : Nat),
    s.script = .word k t :: r → u = { s with script := r } → v = ({ u with cur := k, cst := t }).touch (u.ctxNoOf k) [dieOfCore k] →
    u.mayIssue k t = true →
    (u.lateNow k = true → step s = .next ({ u with cur := k } : State).raiseLate) ∧
    (u.lateNow k = false → (u.codeArray k t).2 ≤ ((u.coreOf k).strm t).pc → step s = .next (v.raise t (v.siteOf t) 0x025 0 0)) ∧
    (u.lateNow k = false → ((u.coreOf k).strm t).pc < (u.codeArray k t).2 →
      (∀ g, g = u.codeSegs k t ((u.codeArray k t).1 + ((u.coreOf k).strm t).pc * wordLen t) (wordLen t) →
        g.any (fun c => u.homeLost c.pa) = false ∧ u.placeBad (.phys 0 g) = false) →
      (decode t (u.wordAt k t ((u.coreOf k).strm t).pc) = .error c ∨
        ∃ i : Instr, decode t (u.wordAt k t ((u.coreOf k).strm t).pc) = .ok i ∧ i.cause = some c) →
      step s = .next (v.raise t (v.siteOf t) c 0 0))

/-- A step whose move is an event or a command runs it; a device that is held in reset, without power or lost does nothing but be powered
on or lose its power; a move that names a word of a stream changes nothing. The script of moves, and what a move that cannot happen does, are the
model's own (log entry 5). -/
def Obligations.StepRunsEvents : Prop :=
  ∀ (s : State) (r : List Move) (i : Instr), s.script = .act i :: r →
    (Instr.outside i = true → (s.dev.phase = .running ∨ s.dev.phase = .recovery ∨ i = .powerOnReset ∨ i = .powerLoss) →
      step s = exec i { s with script := r }) ∧
    (s.dev.phase ≠ .running → s.dev.phase ≠ .recovery → i ≠ .powerOnReset → i ≠ .powerLoss → step s = .next { s with script := r }) ∧
    (Instr.outside i = false → step s = .next { s with script := r })

/-- No step stops: from every state a step answers a next state, since every cause the manual describes is one. -/
def Obligations.NoStepStops : Prop := ∀ s : State, ∃ t, step s = .next t

/-- Every step keeps memory in its canonical form. -/
def Obligations.StepKeepsMemoryCanonical : Prop := ∀ s t : State, canonical s → step s = .next t → canonical t

/-- The machine right after reset, before the boot ROM runs: the device is held in reset, no context, kernel, graph, task or queue exists,
memory lists nothing and is canonical, every scalar register of every core reads 0 and every stream is idle. The values are the model's
choice where no rule states one (log entry 1). -/
def Obligations.ResetState : Prop :=
  canonical State.reset ∧ State.reset.dev.phase = .reset ∧ State.reset.mem = [] ∧
  (∀ x, (State.reset.ctxOf x).st = .free) ∧ (∀ n, (State.reset.kernelOf n).st = .absent) ∧ (∀ q, (State.reset.queueOf q).st = .disabled) ∧
  State.reset.graphs = [] ∧ State.reset.tasks = [] ∧ State.reset.dev.chain = List.replicate 32 0 ∧ State.reset.dev.mcount = 0 ∧
  (∀ k r, (State.reset.coreOf k).sreg r = 0) ∧ (∀ k t, ((State.reset.coreOf k).strm t).run = false)

/-- Decoding gives back what was encoded: for every well-formed instruction and every stream it has a word in, the decoder reads the
instruction, with all its operands, from the bytes of its word. -/
def Obligations.DecodeEncode : Prop :=
  ∀ (t : Strm) (i : Instr) (bs : List Byte), i.wf = true → encode t i = some bs → decode t bs = .ok i

/-- Words written out from the encoding tables decode to the instructions they stand for: ADD s1, s2, s3; ADDI s5, s6, −12; LDW s10, [s7+0];
STD s8, [s1+64]; BEQ s5, s0, +5; LOOPC s9, s5, −3; TEXIT 0; AFMAXQ of s2 and s3; ERET; (!p2) VADD.F32 v3, v4, [a4+32]+ with stall 3; END of the L
stream; and (p1) MMA.D8.D8 t2, [a1+0], [a2+0] k=8 shape=3 check. -/
def Obligations.DecodesTableWords : Prop :=
  decode .C (toLE 4 0x00221800) = .ok (.add 1 2 3) ∧
  decode .C (toLE 4 0x04A6FFF4) = .ok (.addi 5 6 0xFFF4) ∧
  decode .C (toLE 4 0x2D470000) = .ok (.ldw 10 7 0) ∧
  decode .C (toLE 4 0x39010040) = .ok (.std 8 1 64) ∧
  decode .C (toLE 4 0x48A00005) = .ok (.beq 5 0 5) ∧
  decode .C (toLE 4 0x6D25FFFD) = .ok (.loopc 9 5 0xFFFD) ∧
  decode .C (toLE 4 0x90000000) = .ok (.texit false) ∧
  decode .C (toLE 4 0xB8021B20) = .ok (.afmaxq 2 3) ∧
  decode .C (toLE 4 0xF4000040) = .ok .eret ∧
  decode .V (toLE 12 0x003A00000003000004A20020) = .ok (.vadd ⟨3, true, 2, 0, 0, 0, .reg 0 false 3, .reg 0 false 4, .str 4 1 32⟩) ∧
  decode .L (toLE 12 0xFC0000000000000000000000) = .ok (.endStream ⟨0, false, 0, 0, 0, 0, .reg 0 false 0, .reg 0 false 0, .reg 0 false 0⟩) ∧
  decode .M (toLE 24 0x000122210C00000020000000200000000008800000000000) =
    .ok (.mma ⟨0, false, 1, 2, 2, 2, 0, false, true, 3, false, 0, 0, 0, 0, 1, 0, 0, 2, 0, 0, 8, true, false⟩)

/-- The scalar register s0 and the predicate p0 are hard-wired: s0 reads 0 whatever the core holds and a write of it changes nothing; p0
reads all-true and a write of it changes nothing (R49); every other scalar or predicate register reads as it was written. -/
def Obligations.HardwiredRegisters : Prop :=
  (∀ c : CoreSt, c.sreg 0 = 0) ∧ (∀ (c : CoreSt) (v : Word), c.setSreg 0 v = c) ∧
  (∀ m : StreamSt, m.preg 0 = BitVec.allOnes 128) ∧ (∀ (m : StreamSt) (v : Mask), m.setPreg 0 v = m) ∧
  (∀ (c : CoreSt) (r : Reg) (v : Word), r ≠ 0 → (c.setSreg r v).sreg r = v) ∧
  (∀ (m : StreamSt) (k : Nat) (v : Mask), k ≠ 0 → (m.setPreg k v).preg k = v)

namespace Sys2Proof.Claims
open Machine

/-- A C word that is done leaving t. -/
def retired (t : State) : Out1 := .next t.retire

/-- A C word that is done with a transfer to word n. -/
def jumped (t : State) (n : Nat) : Out1 := .next (t.jump n)

/-- A C word that takes cause c with an address. -/
def caused (s : State) (num : Bool) (c a : Nat) : Out1 := .next (s.raise .C (s.siteC num) c a 0)

/-- Word n lies in the C array of the code the current core runs. -/
def inCode (s : State) (n : Int) : Prop := 0 ≤ n ∧ n < ((s.codeArray s.cur .C).2 : Int)

/-- The target of a transfer by a signed offset from the word itself. -/
def pcOff (s : State) (o : Int) : Int := (s.c.pc : Int) + o

/-- The state in which a C load of n bytes from a checked address waits in the load queue for its data. -/
def loadQueued (s : State) (d : Reg) (n : Nat) (t : Tgt) : State :=
  let u := s.touch s.ctxNo t.place.dies
  u.setC (u.c.pushLoad 0 u.c.pc (.creg d n t.place))

/-- The state in which a C store of n bytes to a checked address stands in the store queue with its timeline number. -/
def storeQueued (s : State) (n : Nat) (t : Tgt) (op : StoreOp) (g : Option VerTag) : State :=
  let u := s.touch s.ctxNo t.place.dies
  let u := u.setCore (u.core.sent t)
  u.setC (u.c.takeNum.pushStore (s.c.issued + 1) (bits t.ptr 63 60) n [⟨t.place, op, g, 0⟩])

/-- The state in which a checked atomic stands in the store queue. -/
def atomQueued (s : State) (t : Tgt) (e : StoreElem) : State :=
  let u := s.touch s.ctxNo t.place.dies
  let u := u.setCore (u.core.sent t)
  u.setC (u.c.takeNum.pushStore (s.c.issued + 1) (bits t.ptr 63 60) 8 [e])

/-- The words of the ALU register group and of the immediate arithmetic group with destination d (Tables 4-6 and 4-7). -/
def aluWords (d a b : Reg) (im : BitVec 16) (sh : BitVec 6) : List Instr :=
  [.add d a b, .sub d a b, .mul d a b, .mulh d a b, .mulhu d a b, .div d a b, .divu d a b, .rem d a b, .remu d a b, .and d a b, .or d a b,
    .xor d a b, .shl d a b, .shr d a b, .sra d a b, .min d a b, .max d a b, .minu d a b, .maxu d a b, .slt d a b, .sltu d a b, .seq d a b,
    .clz d a, .popc d a] ++
  [.addi d a im, .andi d a im, .ori d a im, .xori d a im, .shli d a sh, .shri d a sh, .srai d a sh, .slti d a im, .sltiu d a im, .lui d im]

end Sys2Proof.Claims

/-! ### Arithmetic of the C stream -/

/-- Each word of the ALU register group writes its destination with the value Table 4-6 gives it, from its source registers, and goes on at
the next word, whenever no load or atomic in flight owes one of these registers its value (R106, R109). A write of s0 leaves it 0. -/
def Sys2Proof.Claims.aluRegisterWords : Prop :=
  ∀ (s : State) (d a b : Reg) (x y : Word), ready s d → ready s a → ready s b → x = s.core.sreg a → y = s.core.sreg b →
    exec (.add d a b) s = wrote s d (x + y) ∧ exec (.sub d a b) s = wrote s d (x - y) ∧
    exec (.mul d a b) s = wrote s d (x * y) ∧
    exec (.mulh d a b) s = wrote s d (BitVec.ofInt 64 (x.toInt * y.toInt / 2 ^ 64)) ∧
    exec (.mulhu d a b) s = wrote s d (BitVec.ofNat 64 (x.toNat * y.toNat / 2 ^ 64)) ∧
    exec (.div d a b) s = wrote s d (if y = 0 then BitVec.allOnes 64 else x.sdiv y) ∧
    exec (.divu d a b) s = wrote s d (if y = 0 then BitVec.allOnes 64 else x / y) ∧
    exec (.rem d a b) s = wrote s d (if y = 0 then x else x.srem y) ∧
    exec (.remu d a b) s = wrote s d (if y = 0 then x else x % y) ∧
    exec (.and d a b) s = wrote s d (x &&& y) ∧ exec (.or d a b) s = wrote s d (x ||| y) ∧ exec (.xor d a b) s = wrote s d (x ^^^ y) ∧
    exec (.shl d a b) s = wrote s d (x <<< (y.toNat % 64)) ∧ exec (.shr d a b) s = wrote s d (x >>> (y.toNat % 64)) ∧
    exec (.sra d a b) s = wrote s d (x.sshiftRight (y.toNat % 64)) ∧
    exec (.min d a b) s = wrote s d (if x.toInt ≤ y.toInt then x else y) ∧
    exec (.max d a b) s = wrote s d (if y.toInt ≤ x.toInt then x else y) ∧
    exec (.minu d a b) s = wrote s d (if x.toNat ≤ y.toNat then x else y) ∧
    exec (.maxu d a b) s = wrote s d (if y.toNat ≤ x.toNat then x else y) ∧
    exec (.slt d a b) s = wrote s d (if x.toInt < y.toInt then 1 else 0) ∧
    exec (.sltu d a b) s = wrote s d (if x.toNat < y.toNat then 1 else 0) ∧
    exec (.seq d a b) s = wrote s d (if x = y then 1 else 0) ∧
    exec (.clz d a) s = wrote s d (clz64 x) ∧ exec (.popc d a) s = wrote s d (popc64 x)

/-- Each word of the immediate arithmetic group writes its destination with the value Table 4-7 gives it: the immediate sign-extended, or
zero-extended for ANDI, ORI and XORI (R107). -/
def Sys2Proof.Claims.immediateWords : Prop :=
  ∀ (s : State) (d a : Reg) (im : BitVec 16) (sh : BitVec 6) (x : Word), ready s d → ready s a → x = s.core.sreg a →
    exec (.addi d a im) s = wrote s d (x + im.signExtend 64) ∧ exec (.andi d a im) s = wrote s d (x &&& im.zeroExtend 64) ∧
    exec (.ori d a im) s = wrote s d (x ||| im.zeroExtend 64) ∧ exec (.xori d a im) s = wrote s d (x ^^^ im.zeroExtend 64) ∧
    exec (.shli d a sh) s = wrote s d (x <<< sh.toNat) ∧ exec (.shri d a sh) s = wrote s d (x >>> sh.toNat) ∧
    exec (.srai d a sh) s = wrote s d (x.sshiftRight sh.toNat) ∧
    exec (.slti d a im) s = wrote s d (if x.toInt < (im.signExtend 64).toInt then 1 else 0) ∧
    exec (.sltiu d a im) s = wrote s d (if x.toNat < (im.signExtend 64).toNat then 1 else 0) ∧
    exec (.lui d im) s = wrote s d ((im ++ (0 : BitVec 16)).signExtend 64)

/-- Every ALU and immediate word completes with the value of Tables 4-6 and 4-7. -/
def Obligations.ArithmeticWords : Prop := Claims.aluRegisterWords ∧ Claims.immediateWords

/-- No ALU word and no immediate word traps: whatever the operands and the state, it changes nothing but its destination register, the
macro-PC of the C stream and the note that the stream waits; every other register, CSR and core, the context's state and every byte of
memory stay (R106, R107). -/
def Obligations.AluWordsFrame : Prop :=
  ∀ (s t : State) (i : Instr) (d a b : Reg) (im : BitVec 16) (sh : BitVec 6), i ∈ aluWords d a b im sh → exec i s = .next t →
    coreOnly s t ∧ scalarOnly s t d ∧ sameMem s t ∧ (∀ n, t.core.csr n = s.core.csr n) ∧ (t.ctxOf s.ctxNo).st = (s.ctxOf s.ctxNo).st

/-! ### Memory words, address registers and control transfer of the C stream -/

/-- LDW and LDD from an address that passes its checks enter the load queue, to be delivered to their register when the data arrive; the
address is the register plus the sign-extended immediate modulo 2^64 (R108, R109). -/
def Sys2Proof.Claims.loadWordsIssue : Prop :=
  ∀ (s : State) (d a : Reg) (im : BitVec 16) (t : Tgt), ready s d → ready s a → s.c.ldReady = true →
    (access s s.cur ⟨[4, 5, 6, 7], none, 4, 4, false, 0⟩ none (s.core.sreg a + im.signExtend 64).toNat = .ok t →
      exec (.ldw d a im) s = retired (loadQueued s d 4 t)) ∧
    (access s s.cur ⟨[4, 5, 6, 7], none, 8, 8, false, 0⟩ none (s.core.sreg a + im.signExtend 64).toNat = .ok t →
      exec (.ldd d a im) s = retired (loadQueued s d 8 t))

/-- STW and STD to an address that passes its checks take the next timeline number and enter the store queue with the low bytes of their
register; a store to a tile page whose write is to be dropped counts only, and one to a device barrier record acts at the record once the
earlier stores of its window have performed (R108, R109, R291, R363). -/
def Sys2Proof.Claims.storeWordsIssue : Prop :=
  ∀ (s : State) (d a : Reg) (im : BitVec 16) (n : Nat) (i : Instr) (t : Tgt), ready s d → ready s a → s.c.stReady = true →
    (n = 4 ∧ i = .stw d a im ∨ n = 8 ∧ i = .std d a im) →
    access s s.cur ⟨[4, 5, 6, 7], none, n, n, true, 1⟩ none (s.core.sreg a + im.signExtend 64).toNat = .ok t →
    (∀ g op, s.recordOf t = none → s.admitAt t 0x0A0 = .ok (some g) →
      s.writeOp t (toLE n (s.core.sreg d).toNat) (s.streamKey .C (s.c.issued + 1) 0) = .ok op →
      exec i s = retired (storeQueued s n t op g)) ∧
    (s.recordOf t = none → s.admitAt t 0x0A0 = .ok none → exec i s = retired ((s.setC s.c.countNum).stale s.ctxNo 1)) ∧
    (∀ r u v, s.recordOf t = some r → s.c.stores.all (fun e => e.win != 7) = true →
      s.storeBar r (segAddr t.place.segs 0 - r) (toLE n (s.core.sreg d).toNat) = some u → v = u.touch u.ctxNo t.place.dies →
      exec i s = retired (v.setC v.c.countNum))

/-- LDW, LDD, STW and STD issue into their queues. -/
def Obligations.LoadAndStoreWords : Prop := Claims.loadWordsIssue ∧ Claims.storeWordsIssue

/-- An address register word of the C stream that makes v the value of register n: no other address register, no scalar register, CSR or
queue changes, and no memory. -/
def Sys2Proof.Claims.aregWrote (s : State) (n : Nat) (v : AReg) (o : Out1) : Prop :=
  ∃ c, o = retired (s.setCore c) ∧ c.aregNew n = v ∧ (∀ k, k ≠ n → c.aregNew k = s.core.aregNew k) ∧
    (∀ r, c.sreg r = s.core.sreg r) ∧ (∀ k, c.csr k = s.core.csr k) ∧ c.cS = s.core.cS

/-- SETA writes the base and the stride of an address register from s[sa] and s[sb][31:0] and keeps its limit, SETK writes its limit and keeps
the others; GETA reads the base, the sign-extended stride and the zero-extended limit (Table 4-8, R110). The value that these words keep and read is
the newest one: R48 leaves open which value a reader that is not ordered with the writer sees, and the model takes the newest (log entry 17). -/
def Obligations.AddressRegisterWords : Prop :=
  ∀ (s : State) (n : BitVec 4) (d a b : Reg), ready s d → ready s a → ready s b →
    aregWrote s n.toNat { s.core.aregNew n.toNat with base := s.core.sreg a, stride := (s.core.sreg b).truncate 32 } (exec (.seta n a b) s) ∧
    aregWrote s n.toNat { s.core.aregNew n.toNat with limit := (s.core.sreg a).truncate 32 } (exec (.setk n a) s) ∧
    exec (.geta d n 0) s = wrote s d (s.core.aregNew n.toNat).base ∧
    exec (.geta d n 1) s = wrote s d ((s.core.aregNew n.toNat).stride.signExtend 64) ∧
    exec (.geta d n 2) s = wrote s d ((s.core.aregNew n.toNat).limit.zeroExtend 64)

/-- A conditional branch whose condition holds goes to the word at the signed offset from itself, another one to the next word, for the
condition Table 4-9 gives it; a branch that is not taken raises nothing (R111). -/
def Sys2Proof.Claims.conditionalBranches : Prop :=
  ∀ (s : State) (a b : Reg) (o : BitVec 16) (i : Instr) (p : Bool) (x y : Word), ready s a → ready s b →
    x = s.core.sreg a → y = s.core.sreg b →
    (i = .beq a b o ∧ p = decide (x = y) ∨ i = .bne a b o ∧ p = decide (x ≠ y) ∨ i = .blt a b o ∧ p = decide (x.toInt < y.toInt) ∨
      i = .bge a b o ∧ p = decide (y.toInt ≤ x.toInt) ∨ i = .bltu a b o ∧ p = decide (x.toNat < y.toNat) ∨
      i = .bgeu a b o ∧ p = decide (y.toNat ≤ x.toNat)) →
    (p = true → inCode s (pcOff s o.toInt) → exec i s = jumped s (pcOff s o.toInt).toNat) ∧
    (p = false → exec i s = jumped s (s.c.pc + 1))

/-- J, JAL and JALR go to their targets inside the array, JAL and JALR after writing the index of the next word to their link register, the
target of JALR being computed from s[sa] before s[sd] is written; LOOPC adds 1 to s[sa] and goes to its target while the new value
differs from s[sb] (R111). With sa = sb = 0 it compares 0 + 1 with s0 and is taken: the model follows the pseudocode there, and not the sentence that
calls such a LOOPC never taken (log entry 11). -/
def Sys2Proof.Claims.jumpWords : Prop :=
  ∀ (s : State) (d a b : Reg) (o : BitVec 26) (im : BitVec 16) (link : Word), link = BitVec.ofNat 64 (s.c.pc + 1) →
    (inCode s (pcOff s o.toInt) → exec (.j o) s = jumped s (pcOff s o.toInt).toNat) ∧
    (inCode s (pcOff s o.toInt) → ready s 31 → exec (.jal o) s = jumped (s.setCore (s.core.setSreg 31 link)) (pcOff s o.toInt).toNat) ∧
    (∀ n : Nat, n = (s.core.sreg a + im.signExtend 64).toNat → inCode s n → ready s a → ready s d →
      exec (.jalr d a im) s = jumped (s.setCore (s.core.setSreg d link)) n) ∧
    (ready s a → ready s b → ∀ u, u = s.setCore (s.core.setSreg a (s.core.sreg a + 1)) →
      (s.core.sreg a + 1 ≠ u.core.sreg b → inCode s (pcOff s im.toInt) → exec (.loopc a b im) s = jumped u (pcOff s im.toInt).toNat) ∧
      (s.core.sreg a + 1 = u.core.sreg b → exec (.loopc a b im) s = jumped u (s.c.pc + 1)))

/-- Branches, J, JAL, JALR and LOOPC go where Table 4-9 says. -/
def Obligations.ControlTransferWords : Prop := Claims.conditionalBranches ∧ Claims.jumpWords

/-- A transfer to a word outside the C array takes cause 0x025, and the word writes no register and has no other effect: the cause is taken in
the state before the word (R111, R119). It holds for J, JAL, JALR, for each conditional branch that is taken, for LOOPC, where with sa = sb = 0 the
model's reading of log entry 11 stands, and for BKSEL with the target of the bucket it finds. -/
def Obligations.TransferOutsideCode : Prop :=
  ∀ (s : State) (d a b : Reg) (o : BitVec 16) (w : BitVec 26) (x y : Word), ready s a → ready s b → x = s.core.sreg a → y = s.core.sreg b →
    (¬inCode s (pcOff s w.toInt) → exec (.j w) s = caused s false 0x025 0 ∧ exec (.jal w) s = caused s false 0x025 0) ∧
    (¬inCode s ((x + o.signExtend 64).toNat : Int) → exec (.jalr d a o) s = caused s false 0x025 0) ∧
    (¬inCode s (pcOff s o.toInt) →
      (x = y → exec (.beq a b o) s = caused s false 0x025 0) ∧ (x ≠ y → exec (.bne a b o) s = caused s false 0x025 0) ∧
      (x.toInt < y.toInt → exec (.blt a b o) s = caused s false 0x025 0) ∧ (y.toInt ≤ x.toInt → exec (.bge a b o) s = caused s false 0x025 0) ∧
      (x.toNat < y.toNat → exec (.bltu a b o) s = caused s false 0x025 0) ∧ (y.toNat ≤ x.toNat → exec (.bgeu a b o) s = caused s false 0x025 0) ∧
      (x + 1 ≠ (s.core.setSreg a (x + 1)).sreg b → exec (.loopc a b o) s = caused s false 0x025 0)) ∧
    (∀ ta h bs cnt e, ready s d → ta = (s.core.sreg d + o.signExtend 64).toNat → s.readC ta 8 8 0x04A = .ok h → cnt = fieldLE h 0 4 →
      1 ≤ cnt → cnt ≤ 64 → fieldLE h 4 4 = 0 → s.readC (wrap64 (ta + 8)) (8 * cnt) 8 0x04A = .ok bs → rising (buckets bs cnt) = true →
      (buckets bs cnt).find? (fun e => decide (x.toNat ≤ e.1)) = some e → ¬inCode s (e.2 : Int) →
      exec (.bksel d a o) s = caused s false 0x025 0)

/-! ### Forking, events, queues and the system words -/

/-- FORK of present, idle engine streams starts them at word 0 once the C stream's loads and atomics have returned and its release is satisfied; the
earlier stores of the C stream have then performed at core scope. RDV is done when none of the streams it names runs and their stores can count as
performed at core scope, which they do from then on: the last is the model's reading of R338, which counts RDV among what orders two writers (R112, R113,
R129, R266; log entry 101). -/
def Sys2Proof.Claims.forkAndRdv : Prop :=
  ∀ (s : State) (m : BitVec 4), (∀ t, t ∈ maskStrms m → (s.sm t).run = false) →
    ((∀ t, t ∈ maskStrms m → (s.sm t).postReady (s.sm t).seq = true) →
      ∃ u, exec (.rdv m) s = retired u ∧ u.mem = s.mem ∧ (∀ r, u.core.sreg r = s.core.sreg r) ∧ u.core.cS = s.core.cS ∧
        (∀ t, t ∈ maskStrms m → u.core.strm t = { s.core.strm t with stores := (u.core.strm t).stores } ∧
          (u.core.strm t).stores.map (fun e => e.elems) = (s.core.strm t).stores.map (fun e => e.elems) ∧
          ∀ e ∈ (u.core.strm t).stores, e.seq < (s.core.strm t).seq → 2 ≤ e.level) ∧
        (∀ t, t ∉ maskStrms m → u.core.strm t = s.core.strm t)) ∧
    ((∀ t, t ∈ maskStrms m → s.present t = true) → s.core.owes = false → s.c.postReady s.c.seq = true →
      ∃ u, exec (.fork m) s = retired u ∧ u.mem = s.mem ∧ (∀ r, u.core.sreg r = s.core.sreg r) ∧
        (∀ t, t ∈ maskStrms m → (u.core.strm t).run = true ∧ (u.core.strm t).pc = 0 ∧ (u.core.strm t).sigma = 0) ∧
        (∀ t, t ∉ maskStrms m → t ≠ .C → u.core.strm t = s.core.strm t) ∧
        u.core.cS = { s.core.cS with stores := u.core.cS.stores } ∧ (∀ e ∈ u.core.cS.stores, e.seq < s.c.seq → 2 ≤ e.level))

/-- POST puts its count on the way to the event and goes on; AWAIT of a count the event holds takes it and goes on; BOQP pushes whether s[sa]
is nonzero onto a branch-outcome queue of fewer than 32 entries, QPUT the low word of s[sa] onto a parameter queue of fewer than 16
(R114, R115). -/
def Sys2Proof.Claims.eventAndQueueWords : Prop :=
  ∀ (s : State) (e : BitVec 6) (n : BitVec 10) (a : Reg) (x : BitVec 2), n ≠ 0 →
    exec (.post e n) s = .next (s.pushPost .C e.toNat n.toNat 0).retire.flushPosts ∧
    (∀ c, s.core.doAwait .C e.toNat n.toNat = some c → exec (.await e n) s = retired (s.setCore c)) ∧
    (s.core.doAwait .C e.toNat n.toNat = none → exec (.await e n) s = .next ((s.setCore (s.core.queueAwait .C e.toNat)).park .C)) ∧
    (∀ t m, t = engineOf x.toNat → m = s.sm t → ready s a →
      (m.boq.length < 32 → exec (.boqp a x) s = retired (s.setSm t { m with boq := m.boq ++ [s.core.sreg a != 0] })) ∧
      (m.pq.length < 16 → exec (.qput a x) s = retired (s.setSm t { m with pq := m.pq ++ [(s.core.sreg a).truncate 32] })))

/-- FORK, RDV, POST, AWAIT, BOQP and QPUT complete. -/
def Obligations.ForkEventAndQueueWords : Prop := Claims.forkAndRdv ∧ Claims.eventAndQueueWords

/-- NOP changes the macro-PC alone; TRAP d takes cause 0x1E0 + d; HALT is done first and then takes 0x1C3; ERET outside a handler takes 0x027,
and in a handler, once the loads have returned, its release is satisfied and its own stores to the save area have performed there, it restores
the core, and causes that were held back while the handler ran may be taken, unless the save area lies on a lost die or in a poisoned frame (log entry
99); SLEEP of 0 cycles is done
at once, of more it waits with its count, and is done when none is left (R104, R120, R419). -/
def Obligations.SystemWords : Prop :=
  ∀ (s : State), exec .nop s = retired s ∧
    (∀ d : BitVec 5, exec (.trap d) s = caused s false (0x1E0 + d.toNat) 0) ∧
    exec .halt s = .next (s.retire.raise .C (s.siteC false) 0x1C3 0 0) ∧
    (s.core.hand = none → exec .eret s = caused s false 0x027 0) ∧
    (∀ h u, s.core.hand = some h → s.core.owes = false → s.c.postReady s.c.seq = true → u = s.setCore (s.core.markCore .C s.c.seq) →
      (∀ c e k, u.areaBad u.ctxNo h.save 256 = some (c, e, k) → exec .eret s = .next (u.raise .C (u.siteC false) c e k)) ∧
      (u.areaBad u.ctxNo h.save 256 = none → u.core.blockedNow .C (.phys 0 (u.segsAt u.ctxNo (bits h.save 55 0) 256)) = false →
        exec .eret s = .next (u.eret h).flushPosts)) ∧
    (∀ a, ready s a → s.core.sleep = none → s.core.sreg a = 0 → exec (.sleep a) s = retired s) ∧
    (∀ a, ready s a → s.core.sleep = none → s.core.sreg a ≠ 0 →
      exec (.sleep a) s = .next ((s.setCore { s.core with sleep := some (s.core.sreg a) }).park .C)) ∧
    (∀ a, s.core.sleep = some 0 → exec (.sleep a) s = retired (s.setCore { s.core with sleep := none }))

/-- ERET restores s1 to s31 and the macro-PC from the save area of the handler, leaves handler mode, and leaves memory as it is: the state t from
which POSTs and causes that were held back go on. The C stream goes on at the macro-PC saved there, which the handler may have changed. A failing engine
stream goes on at TRAPW4 when the handler has changed it (R419). When the macro-PC is the saved one, a SLEEP and the waits of a WAITA, BARW or BARAW
stand as they did, and otherwise they are given up; a stream whose cause was one of work it issued before goes on where it stopped, when the handler has
not moved it: both are the model's reading of R104, R301 and R366 (log entry 46). -/
def Obligations.EretRestores : Prop :=
  ∀ (s u : State) (h : HandlerSt) (img : List Byte) (pc : Nat), s.core.hand = some h → s.core.owes = false → s.c.postReady s.c.seq = true →
    u = s.setCore (s.core.markCore .C s.c.seq) → u.areaBad u.ctxNo h.save 256 = none →
    u.core.blockedNow .C (.phys 0 (u.segsAt u.ctxNo (bits h.save 55 0) 256)) = false →
    img = u.readSegs (u.segsAt u.ctxNo (bits h.save 55 0) 256) → pc = fieldLE img 0 8 →
    ∃ t : State, exec .eret s = .next t.flushPosts ∧ t.core.hand = none ∧ t.mem = s.mem ∧
      (h.strm ≠ .C ∨ pc ≠ h.cpc → t.core.cS.pc = pc) ∧ (h.strm = .C → pc = h.cpc → t.core.cS.pc = h.cont.getD pc) ∧
      (∀ r : Reg, r ≠ 0 → t.core.sreg r = BitVec.ofNat 64 (fieldLE img (8 * r.toNat) 8)) ∧
      (∀ n, t.core.csr n = s.core.csr n) ∧ (∀ e, t.core.event e = s.core.event e) ∧
      (pc = h.cpc → t.core.sleep = h.sleep ∧ t.core.bwait = h.bwait ∧ t.core.wait = h.wait) ∧
      (pc ≠ h.cpc → t.core.sleep = none ∧ t.core.bwait = .none ∧ t.core.wait = .none) ∧
      (h.strm ≠ .C → (s.core.csr 0x30C).toNat ≠ h.mpc → (t.core.strm h.strm).pc = (s.core.csr 0x30C).toNat) ∧
      (h.strm ≠ .C → (s.core.csr 0x30C).toNat = h.mpc → (t.core.strm h.strm).pc = h.cont.getD h.mpc)

namespace Sys2Proof.Claims
open Machine

/-- The atomic of a word: its return form takes the old value into d, its quiet form is without. -/
def atomForms (op : Nat) (d a b : Reg) (w : Bool) : Option (Instr × Instr) :=
  match op with
  | 0 => some (.aadd d a b w, .aaddq a b w)
  | 1 => some (.amin d a b w, .aminq a b w)
  | 2 => some (.amax d a b w, .amaxq a b w)
  | 3 => some (.aminu d a b w, .aminuq a b w)
  | 4 => some (.amaxu d a b w, .amaxuq a b w)
  | 5 => some (.aand d a b w, .aandq a b w)
  | 6 => some (.aor d a b w, .aorq a b w)
  | 7 => some (.axor d a b w, .axorq a b w)
  | 8 => some (.axchg d a b w, .axchgq a b w)
  | 9 => some (.acas d a b w, .acasq d a b w)
  | 10 => some (.afadd d a b, .afaddq a b)
  | 11 => some (.afmin d a b, .afminq a b)
  | 12 => some (.afmax d a b, .afmaxq a b)
  | _ => none

/-- The state with register d of the current core written. -/
def withReg (s : State) (d : Reg) (v : Word) : State := s.setCore (s.core.setSreg d v)

/-- The task of the current core with its number. -/
def taskHere (s : State) (i : Nat) (t : Task) : Prop := s.core.task = some i ∧ find? s.tasks i = some t

/-- A link data word that has taken its number: outstanding in its core, counted for write acknowledgement when `ack`. -/
def linkStands (s t : State) (ack : Bool) (o : LinkOp) : Prop :=
  t.core.links = s.core.links ++ [{ o with cmd := s.c.issued + 1 }] ∧ t.core.wacks = s.core.wacks + ack.toNat ∧
  t.c.issued = s.c.issued + 1 ∧ t.c.out = s.c.out ++ [s.c.issued + 1] ∧ t.mem = s.mem

/-- The state with scratchpad ring n of the current core replaced, in which the words of the streams `ts` that wait there end with cause 0x044. -/
def ringMoved (s : State) (n : Nat) (r : Ring) (ts : List Strm) : State := s.setCore ((s.core.setRing n r).endRing n ts)

/-- t differs from s, in the translations that cores and dies hold, in that those that `cut` names are gone. -/
def flushed (s t : State) (cut : TlbEnt → Prop) : Prop :=
  (∀ k e, e ∈ (t.coreOf k).utlb ↔ e ∈ (s.coreOf k).utlb ∧ ¬cut e) ∧ (∀ d e, e ∈ (t.dieOf d).tlb ↔ e ∈ (s.dieOf d).tlb ∧ ¬cut e) ∧ t.mem = s.mem

/-- The number of a LINK word in its destination register. -/
def gaveNumber (s t : State) (d : Reg) : Prop := d ≠ 0 → t.core.sreg d = BitVec.ofNat 64 (s.c.issued + 1)

end Sys2Proof.Claims

/-! ### Registers of control and status -/

/-- CSRR writes the value a read of the CSR returns and, for DLOGW, acquires; CSRW of an existing CSR has the effect of its write; both take
0x024 for a number that does not exist; the read-only registers 0x010 to 0x013 ignore writes (R6, R105, R120, R121, R340); DLOGP gives
the position of the log (R340). -/
def Sys2Proof.Claims.csrWords : Prop :=
  ∀ (s : State) (d : Reg) (c : BitVec 10), ready s d →
    (csrExists c.toNat = true → c.toNat ≠ 0x3F4 → exec (.csrr d c) s = wrote s d (s.csrRead c.toNat)) ∧
    (exec (.csrr d 0x3F4) s = retired (withReg (s.setC s.c.acquire) d (s.ctx.csr 0x3F4))) ∧
    (∀ t, csrExists c.toNat = true → s.csrWrite c.toNat (s.core.sreg d) = .ok t → exec (.csrw d c) s = retired t) ∧
    (c ∈ [0x010#10, 0x011#10, 0x012#10, 0x013#10] → exec (.csrw d c) s = retired s) ∧
    (csrExists c.toNat = false → exec (.csrr d c) s = caused s false 0x024 0 ∧ exec (.csrw d c) s = caused s false 0x024 0) ∧
    (∀ m, m = (s.ctx.csr 0x3F3).toNat % 4 →
      exec (.dlogp d) s = wrote s d (if m = 1 then s.ctx.csr 0x3F4 else if m = 2 then s.ctx.csr 0x3F5 else 0))

/-- The writes of context and kernel-threshold registers that act: TRIGGER requests a launch; TLBIVA drops from every TLB the
translations of the context that its range overlaps, or all, once no word in flight holds one; HNDB installs a handler table that passes its checks, measures the handlers and touches the dies it has read, or removes it; a write of KTH or REDLIM
stores what its rule says, KTH +0 also for a value with its sign bit set (R13, R205, R225, R328, R365, R416; log entry 81 for the last). -/
def Sys2Proof.Claims.actingCsrWrites : Prop :=
  ∀ (s : State) (d : Reg) (v : Word), ready s d → v = s.core.sreg d →
    (∀ t, s.released 3 = true → s.acceptLaunch s.ctxNo v.toNat = .ok t → exec (.trigger d) s = retired t) ∧
    (∀ w b n, v.toNat % 4 ≠ 3 → tlbivaRangeOf v.toNat = .ok (some (w, b, n)) → s.released 3 = true → s.holdsAddrs s.ctxNo (some (w, b, n)) = false →
      ∃ t, exec (.tlbivaRange d) s = retired t ∧
        flushed s t (fun e => e.ctx = s.ctxNo ∧ e.win = w ∧ e.base < b + n ∧ b < e.base + e.size)) ∧
    (v.toNat % 4 = 3 → bits v.toNat 15 2 = 0 → s.released 3 = true → s.holdsAddrs s.ctxNo none = false →
      ∃ t, exec (.tlbivaAll d) s = retired t ∧ flushed s t (fun e => e.ctx = s.ctxNo)) ∧
    ((s.coresOfCtx s.ctxNo).all (fun c => (s.coreOf c.2).hand.isNone) = true →
      (v ≠ 0 → s.released 3 = true → s.handlerBad s.ctxNo v.toNat = none →
        exec (.hndbInstall d) s = retired (((s.setCtxCsr 0x301 v).measureHandlers s.ctxNo v.toNat).touchHandlers s.ctxNo v.toNat)) ∧
      (v = 0 → exec (.hndbRemove d) s = retired (s.setCtxCsr 0x301 0))) ∧
    (∀ n : BitVec 2, exec (.kthWrite n d) s = retired (s.setCore (s.core.setCsr (0x3E0 + n.toNat)
      (if v.getLsbD 31 ∨ (bits v.toNat 30 23 = 255 ∧ bits v.toNat 22 0 ≠ 0) then v &&& 0x100000000#64 else v &&& 0x1FFFFFFFF#64)))) ∧
    exec (.redlimWrite d) s = retired (s.setCore (s.core.setCsr 0x3D8
      (BitVec.ofNat 64 (if v.toNat % 128 = 0 then 1 else min (v.toNat % 128) 64))))

/-- The transitions of a scratchpad ring by a write of RINGCF, which end the words that wait there and have no place in its new state with cause
0x044 (R320, Table 12-8), and what the writes of DLOGC, DLOGW and DLOGR store when the log's bounds allow them. A write that takes MODE away
from 00 is refused with 0x022 unless the ring is aligned, in window 0x4, on PINNED pages: R339 and R361 ask this of the pages, and that it is refused so
is the model's reading (log entries 46 and 52). -/
def Sys2Proof.Claims.ringAndLogWrites : Prop :=
  ∀ (s : State) (d : Reg) (n : BitVec 4) (v : Nat) (r k : Ring), ready s d → v = (s.core.sreg d).toNat → r = s.core.ring n.toNat →
    k = { r with logn := bits v 47 44, slotsz := bits v 43 32, base := bits v 14 0 } →
    (r.st = .disabled → bits v 49 48 = 1 → 1 ≤ k.slotsz → k.logn ≤ 8 → k.base * 64 + 2 ^ k.logn * k.slotsz * 64 ≤ 0x200000 →
      exec (.ringcfEnable n d) s = retired (ringMoved s n.toNat { k with st := .active, t := 0, h := 0, q := 0, tags := [] } [])) ∧
    (r.st = .disabled → bits v 49 48 = 0 → exec (.ringcfConfigure n d) s = retired (ringMoved s n.toNat k [.L, .S])) ∧
    (r.st = .active → bits v 49 48 = 2 → k = r → r.q ≠ r.t →
      exec (.ringcfDrain n d) s = retired (ringMoved s n.toNat { r with st := .draining } [.L])) ∧
    (r.st = .active → bits v 49 48 = 2 → k = r → r.q = r.t →
      exec (.ringcfDrain n d) s = retired (ringMoved s n.toNat { r with st := .disabled } [.L, .S])) ∧
    ((r.st = .active ∧ r.t = r.q ∨ r.st = .faulted) → bits v 49 48 = 0 → k = r →
      exec (.ringcfDisable n d) s = retired (ringMoved s n.toNat { r with st := .disabled } [.L, .S])) ∧
    (∀ c w q lg, c = (s.ctx.csr 0x3F3).toNat → w = (s.ctx.csr 0x3F4).toNat → q = (s.ctx.csr 0x3F5).toNat → lg = bits v 15 8 →
      (8 ≤ lg → lg ≤ 24 → (c % 4 = 0 ∨ lg = bits c 15 8) → q ≤ w → w - q ≤ 2 ^ lg →
        (c % 4 = 0 → v % 4 ≠ 0 → ∃ o, o = (s.ctx.csr 0x3F2).toNat ∧ bits o 63 60 = 4 ∧ o % 4096 = 0 ∧ pinned s s.ctxNo o (2 ^ lg * 32) = true) →
        ∀ t, t = retired (s.setCtxCsr 0x3F3 (s.core.sreg d &&& 0xFF07#64)) →
          (v % 4 = 0 → exec (.dlogcOff d) s = t) ∧ (v % 4 = 1 → exec (.dlogcRecord d) s = t) ∧ (v % 4 = 2 → exec (.dlogcReplay d) s = t)) ∧
      (∀ o, o = (s.ctx.csr 0x3F2).toNat → c % 4 = 0 → ¬(bits o 63 60 = 4 ∧ o % 4096 = 0 ∧ pinned s s.ctxNo o (2 ^ lg * 32) = true) →
        (v % 4 = 1 → exec (.dlogcRecord d) s = caused s false 0x022 0) ∧ (v % 4 = 2 → exec (.dlogcReplay d) s = caused s false 0x022 0)) ∧
      (q ≤ v → v - q ≤ 2 ^ bits c 15 8 → exec (.dlogwWrite d) s = retired (s.setCtxCsr 0x3F4 (s.core.sreg d))) ∧
      (v ≤ w → w - v ≤ 2 ^ bits c 15 8 → exec (.dlogrWrite d) s = retired (s.setCtxCsr 0x3F5 (s.core.sreg d))))

/-- CSRR, CSRW and the CSR writes that act. -/
def Obligations.CsrWordsAndWrites : Prop := Claims.csrWords ∧ Claims.actingCsrWrites ∧ Claims.ringAndLogWrites

/-! ### Ordering words -/

/-- TLRD reads the issued or the completed value of a timeline counter; TLWAIT of a value not beyond the issued one is done when the counter
has completed it, and acquires; MARK and FENCE set what later accesses wait for (R263, R264, R268, R269). -/
def Sys2Proof.Claims.orderingWords : Prop :=
  ∀ (s : State) (d a : Reg) (sel : Bool) (c : BitVec 7) (f sc : BitVec 5), ready s d → ready s a →
    exec .mark s = retired (s.setC s.c.doMark) ∧
    (1 ≤ f.toNat → f.toNat ≤ 3 → sc.toNat ≤ 4 → (f = 1 ∨ s.core.releaseReady .C sc.toNat = true) →
      exec (.fence f sc) s = .next (s.setC (s.c.fence sc.toNat f.toNat)).retire.flushPosts) ∧
    (tlExists c.toNat = true →
      exec (.tlrd d sel c) s = wrote s d (BitVec.ofNat 64 (if sel then (s.timeline c.toNat).1 else (s.timeline c.toNat).2)) ∧
      (s.core.sreg a = 0 → exec (.tlwait a c) s = retired s) ∧
      (s.core.sreg a ≠ 0 → (64 ≤ c.toNat ∨ (s.core.sreg a).toNat ≤ (s.timeline c.toNat).1) →
        (s.core.sreg a).toNat ≤ (s.timeline c.toNat).2 → exec (.tlwait a c) s = retired (s.setC s.c.acquire)))

/-- PHMARK on an OPEN barrier whose marker mask its own covers takes a timeline number and leaves a marker for the phase it closes, with how
far every queue of the core had come; memory and registers stay. It closes the barrier's phase, or the next one when an earlier PHMARK of the core is still
to arrive (R293); it closes the next one also when an earlier PHMARK that has arrived closed the current one, which is the model's reading of R271 (log
entry 47). -/
def Sys2Proof.Claims.phmarkWord : Prop :=
  ∀ (s : State) (a : Reg) (m : BitVec 7) (b cur phase : Nat), m ≠ 0 → ready s a → s.c.stReady = true →
    s.barPtr (s.core.sreg a).toNat 0x142 = .ok b → s.barOpen b = true → cur = (s.bar b).phase →
    (s.core.marks.all (fun e => e.bar != b) = true ∧ (∀ q, find? s.core.marked b = some q → 2 ^ 31 ≤ (q + 2 ^ 32 - cur) % 2 ^ 32) ∧ phase = cur ∨
      (s.core.marks.filter (fun e => e.bar == b)).length ≤ 1 ∧ find? s.core.marked b = some cur ∧ phase = (cur + 1) % 2 ^ 32) →
    (s.bar b).mmask &&& m.toNat = (s.bar b).mmask →
    ∃ t e, exec (.phmark a m) s = retired t ∧ t.core.marks = s.core.marks ++ [e] ∧ e.bar = b ∧ e.phase = phase ∧
      find? t.core.marked b = some phase ∧
      e.cmd = s.c.issued + 1 ∧ e.mask = m.toNat ∧ e.cSeq = s.c.seq ∧ e.lSeq = (s.sm .L).seq ∧ e.sSeq = (s.sm .S).seq ∧
      e.vNum = (s.sm .V).issued ∧ e.mNum = (s.sm .M).issued ∧ t.c.issued = s.c.issued + 1 ∧ t.mem = s.mem ∧
      (∀ r, t.core.sreg r = s.core.sreg r)

/-- TLRD, TLWAIT, MARK, FENCE and PHMARK. -/
def Obligations.OrderingWordsAndMarkers : Prop := Claims.orderingWords ∧ Claims.phmarkWord

/-! ### Atomics, waits on addresses and barriers -/

/-- Every atomic, in its return form and its quiet form, to an address that passes its checks takes the next timeline number and stands in
the store queue with its operation, its operand, its expected value and the register that takes the old value, when the decision log is
off; ACAS and ACASQ take the expected value from s[sd] (R282 to R286, R109). -/
def Obligations.AtomicWords : Prop :=
  ∀ (s : State) (op : Nat) (d a b : Reg) (w : Bool) (t : Tgt) (i q : Instr) (g : Option (Option VerTag)) (e : Word),
    atomForms op d a b w = some (i, q) → ready s d → ready s a → ready s b → s.c.stReady = true →
    access s s.cur ⟨[4, 6, 7], none, if w && decide (op < 10) then 8 else 4, if w && decide (op < 10) then 8 else 4, true, 3⟩ none
      (s.core.sreg a).toNat = .ok t →
    s.recordOf t = none → s.admitAt t 0x0A0 = .ok g → s.logOn s.ctxNo = false → e = (if op = 9 then s.core.sreg d else 0) →
    (t.dpage = false → exec i s = retired (atomQueued s t
      ⟨t.place, .atom op (w && decide (op < 10)) (s.core.sreg b) e (some d.toNat), g.getD (some (noVersion s.ctxNo)), 0⟩)) ∧
    (t.dpage = false ∨ op < 8 ∨ 10 < op → exec q s = retired (atomQueued s t
      ⟨t.place, .atom op (w && decide (op < 10)) (s.core.sreg b) e none, g.getD (some (noVersion s.ctxNo)), 0⟩))

/-- AREDO to an address that passes its checks, on a page whose writes the barrier that DPHB names holds, takes the next timeline number and
puts its contribution into the store queue with its key, the task's logical id and the position in its issue order, which for the members of a gang, that
issue without order among them, is the position in the member's own order and then its index, by the model's choice (R287, R288; log entry 48); WAKE puts
a wake message there (R305). -/
def Sys2Proof.Claims.contributionAndWake : Prop :=
  ∀ (s : State) (d a b : Reg) (t : Tgt) (u : State), ready s d → ready s a → ready s b → s.c.stReady = true → u = s.touch s.ctxNo t.place.dies →
    (access s s.cur ⟨[4, 7], none, 8, 8, false, 0⟩ none (s.core.sreg a).toNat = .ok t →
      exec (.wake d a) s = retired (u.setC (u.c.takeNum.pushStore (s.c.issued + 1) (bits t.ptr 63 60) 8 [⟨t.place, .wake d.toNat, none, 0⟩]))) ∧
    (∀ bar tag i k, access s s.cur ⟨[4, 7], none, 4, 4, true, 3⟩ none (s.core.sreg a).toNat = .ok t → s.recordOf t = none →
      s.dphb s.cur = some bar → s.admitAt t 0x0A0 = .ok (some tag) → s.aredoUse (engineDie (segAddr t.place.segs 0)) < 32768 →
      taskHere s i k →
      ∀ m n, m = s.memberNo s.cur → n = look 0 k.aredos m →
      ∃ v, exec (.aredo d a b) s = retired v ∧ v.mem = s.mem ∧ v.c = u.c.takeNum.pushStore (s.c.issued + 1) (bits t.ptr 63 60) 4
        [⟨t.place, .ared (s.core.sreg d).toNat (s.lidOf s.cur) (16 * n + m) ((s.core.sreg b).truncate 32) bar none, tag, 0⟩] ∧
        find? v.tasks i = some { k with aredos := put 0 k.aredos m (n + 1) })

/-- WAITA of a doubleword whose condition holds is done with its value; otherwise the word waits with an entry of the table of its home die,
or in its own poll register when the table holds 4,096; once woken it is done with the value it was woken with, with the decision log on once its wake
message has taken its place in the log (R302 to R304, Table 13-11). -/
def Sys2Proof.Claims.waitaWord : Prop :=
  ∀ (s : State) (d a b : Reg),
    (∀ v, s.core.wait = .woken v → ready s d →
      exec (.waita d a b) s = retired (withReg (s.setCore { s.core with wait := .none }) d v)) ∧
    (∀ v t u, s.core.wait = .sending v → s.mySend s.ctxNo s.cur = true → s.decision 4 ((s.core.sreg a).toNat / 8 * 8) .C 0 0 = .ok t →
      u = (t.dropSend t.cur).setCore { t.core with wait := .none } → ready u d → exec (.waita d a b) s = retired (withReg u d v)) ∧
    (∀ p ea t u pa v w, s.core.wait = .none → ready s d → ready s a → ready s b → p = (s.core.sreg a).toNat → p % 8 < 6 → ea = p / 8 * 8 →
      access s s.cur ⟨[4, 7], none, 8, 8, false, 0⟩ none ea = .ok t → s.c.stReady = true → s.c.loadsDone s.c.seq = true →
      s.c.stores.all (fun x => x.win != bits ea 63 60) = true → s.core.covered .C t.place = false → u = s.touch s.ctxNo t.place.dies → pa = segAddr t.place.segs 0 →
      v = BitVec.ofNat 64 (s.readN pa 8) → w = ⟨s.ctxNo, s.cur, ea, pa, s.core.sreg d, p % 8, s.core.sreg b⟩ →
      (waitHolds w v = true → exec (.waita d a b) s = retired (withReg u d v)) ∧
      (waitHolds w v = false → (s.dieOf (engineDie pa)).waits.length < 4096 →
        ∃ t', exec (.waita d a b) s = .next t' ∧ t'.core.wait = .table ∧ t'.c.waiting = true ∧
          (t'.dieOf (engineDie pa)).waits = (s.dieOf (engineDie pa)).waits ++ [w]) ∧
      (waitHolds w v = false → 4096 ≤ (s.dieOf (engineDie pa)).waits.length →
        ∃ t', exec (.waita d a b) s = .next t' ∧ t'.core.wait = .poll w ∧ t'.c.waiting = true))

/-- AREDO, WAKE and WAITA. -/
def Obligations.ContributionAndWaitWords : Prop := Claims.contributionAndWake ∧ Claims.waitaWord

/-- The outcome o of a barrier word whose wait is over with v: register d takes v, the word acquires, and nothing waits any more. -/
def Sys2Proof.Claims.waitDone (s : State) (d : Reg) (v : Word) (o : Out1) : Prop :=
  ∃ t, o = retired t ∧ t.core.bwait = .none ∧ (d ≠ 0 → t.core.sreg d = v) ∧ t.c = s.c.acquire ∧ t.mem = s.mem

/-- The outcome o of a barrier word that stands waiting at barrier b on phase p; `arr` says that its arrival has been counted. -/
def Sys2Proof.Claims.waitStands (s : State) (b : BarId) (p : Nat) (arr : Bool) (o : Out1) : Prop :=
  ∃ t, o = .next t ∧ t.core.bwait = .wait b p arr ∧ t.c.waiting = true ∧ t.c.pc = s.c.pc ∧ (∀ r, t.core.sreg r = s.core.sreg r) ∧ t.mem = s.mem

/-- BARA on a device barrier takes its place in the store queue and goes on; BARW waits until the phase it names is past, and acquires; BARAW arrives once
its release is satisfied and waits for the phase it arrived in. GANG is checked at issue (R297 to R299, R301, Table 11-3). That BARA stands in the C
store queue until it arrives is the model's form of R298 (log entry 50), and that a task of GANG 1 may wait at a barrier whose GANG is its logical id is
its reading of R299 beside Table 14-1 (log entry 100). -/
def Sys2Proof.Claims.deviceBarrierWords : Prop :=
  ∀ (s u : State) (d a : Reg) (b p : Nat), ready s d → s.barOf a = .ok b → u = s.touch s.ctxNo [engineDie b] → p = (s.core.sreg d).toNat % 2 ^ 32 →
    (s.c.stReady = true → s.core.releaseReady .C 3 = true → exec (.baraDevice d a) s = retired (u.setC ((u.c.release 3).pushStore 0 7 8
      [⟨.phys (s.core.sreg a).toNat [⟨b, 64⟩], .arrive none d.toNat, none, 0⟩]))) ∧
    (s.core.bwait = .none → (s.bar b).gang ≠ 0 → (s.bar b).gang = s.lidOf s.cur →
      (∀ v, s.barWait b p = some v → waitDone s d v (exec (.barwDevice d a) s)) ∧
      (s.barWait b p = none → s.homeLost b = false → waitStands s (.dev b) p false (exec (.barwDevice d a) s)) ∧
      (s.c.stReady = true → s.released 3 = true →
        (∀ ph, u.arrive b s.ctxNo = .broken ph → waitDone s d (brokenRes ph) (exec (.barawDevice d a) s)) ∧
        (∀ ph x, u.arrive b s.ctxNo = .ok ph x → ready x d → x.c = s.c →
          (∀ v, x.barWait b ph = some v → waitDone x d v (exec (.barawDevice d a) s)) ∧
          (x.barWait b ph = none → x.homeLost b = false → waitStands x (.dev b) ph true (exec (.barawDevice d a) s))) ∧
        (u.arrive b s.ctxNo = .refused → exec (.barawDevice d a) s = caused s false 0x147 0)))

/-- The same of a group barrier, with the members of the gang in place of the participants: an arrival is counted at most once for the current
phase and once for the next, and the barrier passes on when every live member has arrived (R300, R301, R348). -/
def Sys2Proof.Claims.groupBarrierWords : Prop :=
  ∀ (s : State) (d : Reg) (n : BitVec 4) (i m p : Nat) (b : GBar), ready s d → s.groupBar n.toNat = .ok (i, b, m) →
    p = (s.core.sreg d).toNat % 2 ^ 32 →
    (s.c.stReady = true → s.core.releaseReady .C 2 = true →
      exec (.baraGroup d n) s = retired (s.setC ((s.c.release 2).pushStore 0 7 8 [⟨.phys 0 [], .arrive (some n.toNat) d.toNat, none, 0⟩]))) ∧
    (s.core.bwait = .none →
      (∀ v, b.waitRes p = some v → waitDone s d v (exec (.barwGroup d n) s)) ∧
      (b.waitRes p = none → waitStands s (.grp i n.toNat) p false (exec (.barwGroup d n) s)) ∧
      (s.c.stReady = true → s.released 2 = true →
        (∀ t g r ph b' x, find? s.tasks i = some t → t.group = some g → s.cur ∈ g.members → b.arrive m = some (r, b') → ph = r.toNat % 2 ^ 32 →
          x = b'.close t.live 2 →
          (∀ v, x.waitRes ph = some v → waitDone s d v (exec (.barawGroup d n) s)) ∧
          (x.waitRes ph = none → waitStands s (.grp i n.toNat) ph true (exec (.barawGroup d n) s))) ∧
        (b.arrive m = none → exec (.barawGroup d n) s = caused s false 0x147 0)))

/-- A waiting word is completed by its barrier's engine as soon as the barrier is past its phase or BROKEN, and is then done with what the engine gave it; one
that was stopped after its arrival had been counted does not arrive again when it goes on (R294, R295, R301). That a wait is completed at the release
itself, and keeps what it was given however the barrier goes on, is the model's reading (log entry 49). -/
def Sys2Proof.Claims.barrierWaitsEnd : Prop :=
  ∀ (s : State) (d a : Reg) (n : BitVec 4) (i : Instr), ready s d → i ∈ [Instr.barwDevice d a, .barawDevice d a, .barwGroup d n, .barawGroup d n] →
    (∀ v, s.core.bwait = .done v → waitDone s d v (exec i s)) ∧
    (∀ b p, s.core.bwait = .stopped (.dev b) p →
      (∀ v, s.barWait b p = some v → waitDone s d v (exec i s)) ∧
      (s.barWait b p = none → s.homeLost b = false → waitStands s (.dev b) p true (exec i s))) ∧
    (∀ h k p j g m, s.core.bwait = .stopped (.grp h k) p → s.groupBarOf s.cur k = some (j, g, m) →
      (∀ v, g.waitRes p = some v → waitDone s d v (exec i s)) ∧ (g.waitRes p = none → waitStands s (.grp h k) p true (exec i s))) ∧
    (∀ k b p arr, (s.coreOf k).bwait = .wait (.dev b) p arr →
      ((s.endBarWaits b).coreOf k).bwait = (match s.barWait b p with
        | some v => .done v
        | none => .wait (.dev b) p arr))

/-- BARA, BARW and BARAW on device and group barriers. -/
def Obligations.BarrierWords : Prop := Claims.deviceBarrierWords ∧ Claims.groupBarrierWords ∧ Claims.barrierWaitsEnd

/-! ### Rings in memory, tasks, tables -/

/-- RCLAIM of an ACTIVE data queue enters the C store queue, to claim the next ticket there; RTAKE of a queue whose head slot is full, at its turn, takes
the head ticket and gives the slot's pointer, after VOID slots at the head have been taken and released; it gives 0 in the form that does not wait and takes
its place among those that wait in the other; it takes cause 0x090 on a queue that this leaves DISABLED. RPUBL and RRELS of a held slot enter the store
queue, to publish or release its ticket there (R310, R313 to R318). What the words in the store queue do there is stated in
`AtomicsAndOrderedUpdatesLand`; that RCLAIM waits for its turn there is the model's form of R317 and R318 (log entry 50). -/
def Sys2Proof.Claims.ringWords : Prop :=
  ∀ (s : State) (d a : Reg) (nw : Bool) (q : Nat) (k : Queue), ready s d → ready s a → k = s.queueOf q →
    (s.c.stReady = true → s.ringQueue (s.core.sreg a) false 1 = .ok q →
      exec (.rclaim d a nw) s = retired ((s.touchQueue q).setC (s.c.pushStore 0 4 1
        [⟨.phys k.tagp (s.qSegs k k.tagp 1), .qclaim q nw d.toNat false, none, 0⟩]))) ∧
    (∀ u h l, s.core.ringOver .C = none → s.c.ldReady = true → s.c.loadsDone s.c.seq = true → s.ringQueue (s.core.sreg a) true 1 = .ok q →
      u = State.qSkipVoid q (2 ^ k.logn) s → h = u.queueOf q → l = h.waitT.filter (fun c => c != u.cur) →
      (h.st ≠ .active → h.st ≠ .draining → exec (.rtake d a nw) s = caused u false 0x090 0) ∧
      (h.st = .active ∨ h.st = .draining →
        (∀ v, u.qReady h = true → u.myTurn h.waitT = true → u.decision 2 q .C 0 0 = .ok v → ready v d →
          ∃ t, exec (.rtake d a nw) s = retired t ∧ (d ≠ 0 → t.core.sreg d = BitVec.ofNat 64 (h.slotPtr h.h)) ∧ t.mem = v.mem ∧
            t.queueOf q = { h with h := (h.h + 1) % 2 ^ 32, takes := (h.h, v.taskNo) :: h.takes, waitT := l }) ∧
        (u.qReady h = false → ready u d → exec (.rtake d a true) s = wrote ((u.setQueueOf q { h with waitT := l }).touchQueue q) d 0) ∧
        (u.qReady h = false ∧ nw = false ∨ u.qReady h = true ∧ u.myTurn h.waitT = false →
          ∃ t, exec (.rtake d a nw) s = .next t ∧ u.cur ∈ (t.queueOf q).waitT ∧ t.c.waiting = true ∧ t.c.pc = u.c.pc))) ∧
    (∀ j tag, s.c.stReady = true → s.ringQueue (s.core.sreg a) true 1 = .ok q → tag = k.tagp + j % 2 ^ k.logn →
      (s.heldTicket k (s.core.sreg d).toNat k.q k.t (tagClaimed k.logn) = some j → s.c.hasRing q j false = false →
        exec (.rpubl d a) s = retired ((s.touchQueue q).setC (s.c.pushStore 0 4 1 [⟨.phys tag (s.qSegs k tag 1), .qtag q j false, none, 0⟩]))) ∧
      (s.heldTicket k (s.core.sreg d).toNat k.q k.h (tagFull k.logn) = some j → s.c.hasRing q j true = false →
        exec (.rrels d a) s = retired ((s.touchQueue q).setC (s.c.pushStore 0 4 1 [⟨.phys tag (s.qSegs k tag 1), .qtag q j true, none, 0⟩]))))

/-- An RTAKE or SPAWN that waits at a queue and whose wait has ended takes the cause it ended with, 0x090 when the queue left ACTIVE, and keeps it until it
can be taken (R313). -/
def Sys2Proof.Claims.queueWaitsEnd : Prop :=
  ∀ (s : State) (d a b : Reg) (nw : Bool) (i : Instr) (code : Nat), i ∈ [Instr.rtake d a nw, .spawn d a b] → s.core.ringOver .C = some code →
    exec i s = caused (if s.raisable .C code then s.setCore (s.core.leaveRing .C) else s) false code 0

/-- SPAWN of a valid record into a task queue that is not full claims the next ticket, stores the record's bytes in its slot, publishes the ticket, puts
a WAITING task into a free entry of the dependency table, READY when its join count is 0, and gives its handle; JDEC of a join count above 0 takes 1 from
it, and makes the task READY at 0; TEXIT of a core whose engines are idle and whose work is done ends the member; BKSEL goes to the target of the first
bucket that is large enough, or to the next word when there is none (R102, R116 to R119, R314). -/
def Sys2Proof.Claims.taskAndTableWords : Prop :=
  ∀ (s : State) (d a b : Reg) (q i : Nat) (im : BitVec 16) (ab : Bool) (r : List Byte) (k : Queue), ready s d → ready s a → ready s b →
    (∀ w v p n o, s.core.ringOver .C = none → s.c.storesDone s.c.seq = true → s.readC (s.core.sreg a).toNat 64 64 0x050 = .ok r →
      s.ringQueue (s.core.sreg b) false 0 = .ok q → k = s.queueOf q → s.recordOk r = true → s.freeEntry = some i → k.full = false →
      s.myTurn k.waitC = true → s.logOn s.ctxNo = false →
      w = ((s.touchC (s.core.sreg a).toNat 64).touchQueue q).setQueueOf q
        { k with t := (k.t + 1) % 2 ^ 32, waitC := k.waitC.filter (fun c => c != s.cur) } →
      v = (w.sysWrite k.ctx (k.slotPtr k.t) w.runLid r).1 → p = v.qPublish q k.t false →
      n = p.newTask i (taskOfRecord p.ctxNo r (.queue q k.t false)) → o = (n.makeReady i).checkHeads n.ctxNo →
      (fieldLE r 4 4 ≠ 0 → ready n d → exec (.spawn d a b) s = wrote n d (BitVec.ofNat 64 (n.handleOf i n.ctxNo))) ∧
      (fieldLE r 4 4 = 0 → ready o d → exec (.spawn d a b) s = wrote o d (BitVec.ofNat 64 (o.handleOf i o.ctxNo))) ∧
      (∀ g, w.sysPlan k.ctx (k.slotPtr k.t) r.length w.runLid = (g, .done) → v.mem = storeAround s.mem s.imageSegs g r) ∧
      find? n.tasks i = some (taskOfRecord p.ctxNo r (.queue q k.t false)) ∧ (n.queueOf q).t = (k.t + 1) % 2 ^ 32 ∧
      (∃ m, find? (n.makeReady i).tasks i = some m ∧ m.st = .ready ∧ m.lid = fieldLE r 8 8)) ∧
    (∀ j u, s.released 3 = true → s.taskOf s.ctxNo (s.core.sreg a).toNat = some j →
      (s.decJoin j = (.ok true, u) → exec (.jdec a) s = retired ((u.makeReady j).checkHeads u.ctxNo)) ∧
      (s.decJoin j = (.ok false, u) → exec (.jdec a) s = retired u)) ∧
    (∀ j t t', (∀ x, x ∈ [Strm.L, .V, .M, .S] → (s.sm x).run = false) → s.core.drained = true → s.core.linkCause = none → taskHere s j t →
      t' = { t with ended := t.ended ++ [s.cur], aband := t.aband || ab } →
      ∃ u, exec (.texit ab) s = .next u ∧ u.core.ended = true ∧ u.mem = s.mem ∧
        find? u.tasks j = some { t' with group := t'.group.map (fun g => { g with bars := mapVals (fun _ b => b.close t'.live 2) g.bars }) }) ∧
    (∀ ta h bs cnt l, ta = (s.core.sreg d + im.signExtend 64).toNat → s.readC ta 8 8 0x04A = .ok h → cnt = fieldLE h 0 4 →
      1 ≤ cnt → cnt ≤ 64 → fieldLE h 4 4 = 0 → s.readC (wrap64 (ta + 8)) (8 * cnt) 8 0x04A = .ok bs → l = buckets bs cnt → rising l = true →
      (∀ e, l.find? (fun e => decide ((s.core.sreg a).toNat ≤ e.1)) = some e → inCode s (e.2 : Int) →
        ∃ t, exec (.bksel d a im) s = jumped t e.2 ∧ (d ≠ 0 → t.core.sreg d = BitVec.ofNat 64 e.1) ∧
          t.core.csr 0x014 = BitVec.ofNat 64 e.1 - s.core.sreg a ∧ t.mem = s.mem) ∧
      (l.find? (fun e => decide ((s.core.sreg a).toNat ≤ e.1)) = none →
        ∃ t, exec (.bksel d a im) s = jumped t (s.c.pc + 1) ∧ t.core.sreg d = 0 ∧ t.core.csr 0x014 = 0 ∧ t.mem = s.mem))

/-- RCLAIM, RPUBL, RTAKE, RRELS, SPAWN, JDEC, TEXIT and BKSEL. -/
def Obligations.RingAndTaskWords : Prop := Claims.ringWords ∧ Claims.queueWaitsEnd ∧ Claims.taskAndTableWords

/-! ### Tiles, copies and links -/

/-- TALLOC outside a rebuild run gives the next version of its slot and makes it FILLING with a fresh header; TSEAL of a FILLING version that
passes its checks makes it SEALED and puts its lineage entry; TRETIRE of a version no kept entry names makes it RETIRED; TREPL starts the
replication of a SEALED version; TLOOK reports the state, the next version, or a pointer to a version's data or header unit, 0 for one that is FREE or
RETIRED, and in a rebuild run to the run's private copy of a version that has one (R385 to R389, R398). A word that acts releases what came before it in
the C stream first, which the model reads as waiting for it (log entry 50). -/
def Sys2Proof.Claims.tileWords : Prop :=
  ∀ (s : State) (d a b : Reg) (h p n v sel : Nat) (t : TPool), ready s d → s.tileOf a = .ok (h, p, n, t) →
    (∀ f k u e, f = (fun (g : Frame) => if (t.slot n).state v = none ∨ (t.slot n).state v = some .retired then 0
        else BitVec.ofNat 64 (4 * 2 ^ 60 + if sel = 1 then (t.frameAddr n v g).1 else (t.frameAddr n v g).2)) →
      s.verOperand b 2 = .ok (v, sel) → sel = 1 ∨ sel = 2 →
      (s.runLid = none → t.ver n v = some e → exec (.tlook d a b) s = wrote s d (f e.frame)) ∧
      (s.runLid = none → t.ver n v = none → exec (.tlook d a b) s = wrote s d (f .home)) ∧
      (∀ lid, s.runLid = some lid → t.ver n v = some e → e.priv.any (fun r => r.1 == lid) = true → s.privateCopy p n v lid = .ok (k, u) → ready u d →
        exec (.tlook d a b) s = wrote u d (f (.shadow k)))) ∧
    (∀ u, s.runLid = none → s.allocate p n (s.nextOrd p n) t d = .ok u → exec (.talloc d a) s = retired u) ∧
    (∀ x u, s.planSeal d a b = .ok x → u = s.touch s.ctxNo (x.dies ++ s.verDies s.ctxNo x.pool x.n x.v x.e.frame) → x.which = .filling →
      exec (.tseal d a b) s = retired (if x.ext then u.sealVer x
        else (u.sealVer x).putEntry (u.verHome u.ctxNo x.pool x.n x.v x.e.frame) (u.sealEntry x))) ∧
    (∀ st, s.verOperand b 1 = .ok (v, sel) → s.released 3 = true → (t.slot n).state v = some st →
      (st = .retired → exec (.tretire a b) s = retired s) ∧
      (∀ e u, st ≠ .retired → t.ver n v = some e → s.atHome t n v e = .ok () → u = s.touch s.ctxNo [s.verHome s.ctxNo t n v e.frame] →
        (u.backed h v).isEmpty = true → exec (.tretire a b) s = retired (u.retireVer u.ctxNo p n v))) ∧
    (∀ e, s.verOperand b 0 = .ok (v, sel) → (t.slot n).state v = some .sealed → t.ver n v = some e → e.repl = .none →
      ∀ w u, w = s.touch s.ctxNo (s.verDies s.ctxNo t n v e.frame) → u = w.startRepl w.ctxNo w.cur p n v → ready u d → exec (.trepl d a b) s = retired (withReg u d 0)) ∧
    (s.verOperand b 0 = .ok (v, sel) → (t.slot n).state v = some .replicated → exec (.trepl d a b) s = wrote s d 1) ∧
    (s.verOperand b 2 = .ok (v, 0) →
      exec (.tlook d a b) s = wrote s d (BitVec.ofNat 64 (lookState ((t.slot n).state v) (if (t.slot n).state v = none then none else t.ver n v)))) ∧
    (s.verOperand b 2 = .ok (v, 3) → exec (.tlook d a b) s = wrote s d (BitVec.ofNat 64 (t.slot n).next))

/-- XCOPY, XCOPY2, XFILL and CKPT whose checks pass take the next number of their copy queue, put their transfer behind those that stand in
it, and return the number; a guarded command that moves no row takes its number only; XSTAT returns the fault mark, the number of
commands that stand in the queue and the last fault, and clears the mark (R369 to R373, R390). Each releases what came before it in the C stream first,
which the model reads as waiting for it (log entry 50). -/
def Sys2Proof.Claims.copyWords : Prop :=
  ∀ (s : State) (d a b : Reg) (q : Nat) (c : CopyQ), ready s d → c = s.ctx.cq q →
    (∀ op i t u0 v, (op = 0 ∧ i = .xcopy d a b ∨ op = 1 ∧ i = .xcopy2 d a b ∨ op = 2 ∧ i = .xfill d a b) →
      s.planXfer op d a b = .ok (q, t, u0) →
      (match t.bind (fun x => x.bar.map (fun y => (y, x.bytes))) with
        | none => v = u0
        | some (y, n) => u0.addPend y n = some v) → ready v d → v.ctx.cq q = c →
      ∃ u, exec i s = .next u ∧ (u.ctx.cq q).issued = c.issued + 1 ∧ (d ≠ 0 → u.core.sreg d = BitVec.ofNat 64 (c.issued + 1)) ∧
        u.mem = v.mem ∧ (u.ctx.cq q).cmds = (match t with
          | some x => c.cmds ++ [{ x with num := c.issued + 1 }]
          | none => c.cmds)) ∧
    (∀ vs x u0, s.planCkpt d a b = .ok (q, vs, x, u0) → ready (u0.keepVers vs) d → (u0.keepVers vs).ctx.cq q = c →
      ∃ u, exec (.ckpt d a b) s = .next u ∧ (u.ctx.cq q).cmds = c.cmds ++ [{ x with num := c.issued + 1 }] ∧
        (u.ctx.cq q).issued = c.issued + 1 ∧ (d ≠ 0 → u.core.sreg d = BitVec.ofNat 64 (c.issued + 1)) ∧ u.mem = s.mem) ∧
    (∀ g, s.xQueue b = .ok (q, g) → exec (.xstat d b) s = retired (withReg (s.setCq s.ctxNo q { c with flt := false }) d
      (BitVec.ofNat 64 (c.flt.toNat * 2 ^ 63 + c.cmds.length * 2 ^ 32 + c.lastf % 2 ^ 32))))

/-- LKMCST, LKSEND and LKLDRED whose checks pass take the next timeline number, stand outstanding until they complete, and return the number;
LKLDRED is the next operation of its core on the group, and one that has failed already gives it its status when every contributing core has issued
(R434 to R437, R461, R463). The data of LKMCST and LKSEND are taken at issue, which is the model's reading (log entry 73). -/
def Sys2Proof.Claims.linkDataWords : Prop :=
  ∀ (s : State) (d a b : Reg) (l : Nat) (g : CGroup) (x : LDesc) (src : Place) (o : LinkOp) (u0 : State), ready s d →
    (s.linkGroup b = .ok (l, g) → s.linkAllowed (some g) = .ok () →
      (s.linkPlan false d a (fun x => need (decide (x.dsto + x.count ≤ g.minexp)) 0x184) = .ok (x, src, o, u0) →
        ∃ t, exec (.lkmcst d a b) s = .next t ∧ linkStands s t true { o with kind := .mcst l } ∧ gaveNumber s t d ∧
          t.out.head? = some (.linkStore l x.dsto o.data)) ∧
      (s.linkPlan true d a (fun _ => need (decide (s.lcoreOf s.cur < g.loc)) 0x184) = .ok (x, src, o, u0) →
        ∀ n, n = (find? g.counts (s.lcoreOf s.cur)).getD 0 → s.core.links.all (fun e => e.kind != .ldred l n) = true →
        ∃ t st, exec (.lkldred d a b) s = .next t ∧ linkStands s t false { o with kind := .ldred l n, st := st } ∧ gaveNumber s t d ∧
          (st = none ∨ st = find? g.failed n) ∧ t.groupAt l = some { g with counts := setKey g.counts (s.lcoreOf s.cur) (n + 1) })) ∧
    (∀ dev e, ready s b → dev = (s.core.sreg b).toNat % 2 ^ 20 → s.linkAllowed none = .ok () →
      s.linkPlan false d a (fun x => match s.fabric.reach.find? (fun e => e.1 == dev) with
        | none => stop 0x183
        | some (_, len, _) => need (decide (x.dsto + x.count ≤ len)) 0x185) = .ok (x, src, o, u0) →
      s.fabric.reach.find? (fun e => e.1 == dev) = some e →
      ∃ t, exec (.lksend d a b) s = .next t ∧ linkStands s t true { o with kind := .send dev } ∧ gaveNumber s t d ∧
        t.out.head? = some (.remoteStore dev x.dsto o.data))

/-- CGJOIN of a rank that has joined already, with no request of this member on its way, counts only; otherwise it, and CGLEAVE with no data word
outstanding on the group, take a number that stands until the switch has recorded the request; CGSTAT returns rank, joining and state of the group (R439,
Table 19-7). That a CGJOIN behind a CGLEAVE on its way sends a request of its own is the model's reading (log entry 73). -/
def Sys2Proof.Claims.groupWords : Prop :=
  ∀ (s : State) (d a : Reg) (l : Nat) (g : CGroup), ready s d → s.linkGroup a = .ok (l, g) →
    (s.linkAllowed (some g) = .ok () →
      (g.joined.contains g.rank = true → g.pendJoin = [] → exec (.cgjoin a) s = retired (s.setC s.c.countNum)) ∧
      (g.joined.contains g.rank = false ∨ g.pendJoin ≠ [] → ∃ t, exec (.cgjoin a) s = retired t ∧ t.out.head? = some (.cgJoin l true) ∧
        t.groupAt l = some { g with pendJoin := g.pendJoin ++ [(s.cur, s.c.issued + 1, true)] }) ∧
      ((s.linkOps s.ctxNo l).isEmpty = true → ∃ t, exec (.cgleave a) s = retired t ∧ t.out.head? = some (.cgJoin l false) ∧
        t.groupAt l = some { g with pendJoin := g.pendJoin ++ [(s.cur, s.c.issued + 1, false)] })) ∧
    (∀ v, v = BitVec.ofNat 64 (g.rank % 65536 * 2 ^ 32 + (g.joined.contains g.rank).toNat * 8 + cgCode g.st) →
      exec (.cgstat d a) s = retired ((withReg s d v).setC (withReg s d v).c.countNum))

/-- LKMCST, LKSEND, LKLDRED, CGJOIN, CGLEAVE and CGSTAT. -/
def Obligations.LinkWords : Prop := Claims.linkDataWords ∧ Claims.groupWords

/-- SCRUB of a frame in window 0x4 that is not poisoned returns a count of corrected lines of at most 1,024, with bit 63 when a line held an
uncorrectable error, and changes no byte of memory; both values are free (log entry 80), and the counters that take them are the model's choice (log entry
104); of a frame that is poisoned already it sets
bit 63, and where a page table itself lies in a poisoned frame it takes 0x084 as any translation does (R121, Table 15-5). -/
def Sys2Proof.Claims.scrubWord : Prop :=
  ∀ (s : State) (d a : Reg) (p : Nat), ready s d → ready s a → p = (s.core.sreg a).toNat / 65536 * 65536 → bits p 63 60 = 4 →
    (∀ t, access s s.cur ⟨[4], none, 65536, 65536, false, 0⟩ none p = .ok t →
      ∃ u n, exec (.scrub d a) s = .next u ∧ u.mem = s.mem ∧ n ≤ 1024 ∧
        (d = 0 ∨ u.core.sreg d = BitVec.ofNat 64 n ∨ u.core.sreg d = BitVec.ofNat 64 (n + 2 ^ 63))) ∧
    (∀ x y, access s s.cur ⟨[4], none, 65536, 65536, false, 0⟩ none p = .error (.cause 0x084 x y) →
      (∀ pa, s.pageOf s.cur (bits p 55 0) = some pa →
        ∃ u n, exec (.scrub d a) s = .next u ∧ u.mem = s.mem ∧ n ≤ 1024 ∧ (d ≠ 0 → u.core.sreg d = BitVec.ofNat 64 (n + 2 ^ 63))) ∧
      (s.pageOf s.cur (bits p 55 0) = none → exec (.scrub d a) s = .next (s.raise .C (s.siteC false) 0x084 x y)))

/-- The tile words, the copy words and SCRUB. -/
def Obligations.TileAndCopyWords : Prop := Claims.tileWords ∧ Claims.copyWords ∧ Claims.scrubWord

namespace Sys2Proof.Claims
open Machine

/-- The words of the engine-control group. -/
noncomputable def controlWords (w : W96) : List Instr :=
  [.engineNop w, .enginePost w, .engineAwait w, .engineMark w, .jmp w, .boqb w, .boqbPush w, .boqbPushall w, .loop w, .iaddi w,
    .iset w, .ipop w, .engineFence w, .trapx w, .endStream w]

/-- The words of the load stream. -/
noncomputable def loadWords (w : W96) : List Instr :=
  [.ldb w, .ldtBuffer w, .ldtTile w, .ldg w, .ldz w, .ldc w, .ldsh w, .lpref w, .lwfree w, .lpubl w]

/-- The words of the store stream. -/
noncomputable def storeWords (w : W96) : List Instr :=
  [.stb w, .sttBuffer w, .sttTile w, .stsc w, .stadd w, .staxpy w, .stopt w, .stoptAdam w, .stcvt w, .stcvtTile w, .satom w,
    .swfill w, .srels w]

/-- The words of the vector stream. -/
noncomputable def vectorWords (w : W96) : List Instr :=
  ([.vadd w, .vsub w, .vmul w, .vfma w, .vfms w, .vmin w, .vmax w, .vabs w, .vneg w, .vcpys w, .vrcp w, .vrsq w, .vsqrt w,
    .vexp2 w, .vlog2 w, .vexpd w, .vtanh w, .vsigm w, .vcmpeq w, .vcmplt w, .vcmple w, .vcmpun w, .vclass w, .viadd w, .visub w,
    .vimul w, .vimad w, .vand w, .vor w, .vxor w, .vandn w, .vshl w, .vshr w, .vsra w, .vimin w, .vimax w, .viminu w, .vimaxu w,
    .vicmpeq w, .vicmplt w] : List Instr) ++
  ([.vicmpltu w, .vpcnt w, .vclz w, .vcvt w, .vqnt w, .vdqnt w, .vscale w, .vpack w, .vunpk w, .vrsum w, .vrmax w, .vrmin w,
    .vrarg w, .vscan w, .vscanx w, .vsort w, .vtopk w, .vmrg w, .vperm w, .vbcst w, .vrot w, .vsel w, .vmov w, .vldi w, .vlane w,
    .vlaneAddress w, .vpushc w, .vpopc w, .vrebal w, .vcount w, .vsred w, .vsscan w, .vsnorm w, .vsmask w, .vslen w, .vblz w,
    .vrng w, .vrngu w] : List Instr)

/-- The words of the matrix stream. -/
noncomputable def matrixWords (w : W192) : List Instr :=
  [.mma w, .mmat w, .mmas w, .mzero w, .minit w, .mdrain w, .mdrainRegister w, .mret w, .mcal w, .msetk w, .mwide w, .mchk w,
    .mspill w, .mfill w, .mstat w]

/-- Instruction i is an engine word with bits w, or x in the matrix stream; it issues on stream t with head h in the state u. A word of the
engine-control group belongs to the stream that issues it. -/
def engineWord (s : State) (w : W96) (x : W192) (i : Instr) (t : Strm) (h : Hd) (u : State) : Prop :=
  h = hd96 w ∧ u = due s t ∧
    (t = s.cst ∧ i ∈ controlWords w ∨ t = .L ∧ i ∈ loadWords w ∨ t = .S ∧ i ∈ storeWords w ∨ t = .V ∧ i ∈ vectorWords w) ∨
  h = hd192 x ∧ u = dueM s ∧ t = .M ∧ i ∈ matrixWords x

/-- A load of an L word enters the load queue, with the post-updates of the operands ds. -/
def loads (s : State) (w : W96) (f : LoadFin) (dies : List Nat) (ds : List Desc) : Out1 :=
  issued .L (hd96 w) { s := s.enterLoad f dies, res := postUpdates s.core .L ds, opened := true }

/-- The stores of a STOPT word over its rows, in ascending order: the index of the element, the number of the store and its target. -/
def optTargets (l : List (Nat × Tgt × List Tgt)) : List (Nat × Nat × Tgt) :=
  l.flatMap (fun e => (List.range 128).flatMap (fun k =>
    ((List.range e.2.2.length).zip e.2.2).map (fun r => (128 * e.1 + k, 3 * (128 * e.1 + k) + r.1, r.2.slice (4 * k) 4))))

/-- Elements of an S word enter the store queue, each in the window it writes, with the post-updates of the operands ds. -/
def stores (s : State) (w : W96) (esz : Nat) (dies : List Nat) (es : List StoreElem) (dropped : Nat) (ds : List Desc) : Out1 :=
  issued .S (hd96 w) (s.enterStore .elems esz dies es dropped (postUpdates s.core .S ds))

end Sys2Proof.Claims

/-! ### What every engine word shares -/

/-- An engine word that its predicate disables does nothing but issue: it writes no register, raises nothing, takes its timeline number,
and the stream goes on at the next word with its schedule position moved (R36, R37). -/
def Sys2Proof.Claims.predicatedOffWords : Prop :=
  ∀ (s s' v : State) (w : W96) (x : W192) (i : Instr) (t : Strm) (h : Hd), engineWord s w x i t h s' → (s'.sm t).active t h = 0 →
    (s'.sm t).short [rg 1 h.pred] = none → v = State.issueEngine t h { s := s' } →
    ∃ u, exec i s = .next u ∧ (u = v ∨ u = v.flushPosts) ∧ v.mem = s.mem

/-- With the checking scoreboard on, an engine word whose predicate register has a result that is not yet visible takes cause 0x120; the
detail of a word that the predicate disables names that register and the word that writes it (R44, Table 2-13). -/
def Sys2Proof.Claims.scoreboardCause : Prop :=
  ∀ (s u : State) (w : W96) (x : W192) (i : Instr) (t : Strm) (h : Hd) (p : Pend), engineWord s w x i t h u →
    (u.sm t).short [rg 1 h.pred] = some p →
    ∃ v d, exec i s = .next v ∧ (v = u.raise t (u.siteE t 0) 0x120 0 d ∨ v = (u.raise t (u.siteE t 0) 0x120 0 d).flushPosts) ∧
      ((u.sm t).active t h = 0 → d = p.xpc % 2 ^ 32 + p.num * 2 ^ 32 + p.file * 2 ^ 40)

/-- What every engine word shares: the false slot and the scoreboard cause. -/
def Obligations.DisabledEngineWords : Prop := Claims.predicatedOffWords ∧ Claims.scoreboardCause

/-- The words of the engine-control group, on the stream that issues them (R114, R136 to R140, R263, R264). -/
def Sys2Proof.Claims.engineControlWords : Prop :=
  ∀ (s s' : State) (t : Strm) (w : W96) (m : Mask) (k : StreamSt), t = s.cst → enabled s t (hd96 w) (fun _ => []) m s' → k = s'.sm t →
    exec (.engineNop w) s = issued t (hd96 w) { s := s' } ∧
    exec (.enginePost w) s =
      .next (State.issueEngine t (hd96 w) { s := s'.pushPost t w.d.imm w.a.imm (k.issued + 1) }).flushPosts ∧
    (∀ c, s'.core.doAwait t w.d.imm w.a.imm = some c → exec (.engineAwait w) s = issued t (hd96 w) { s := s'.setCore c }) ∧
    exec (.engineMark w) s = issued t (hd96 w) { s := s'.setSm t k.doMark } ∧
    (∀ n, s'.offTarget w.b = .ok n → exec (.jmp w) s = issued t (hd96 w) { s := s', next := some n }) ∧
    (∀ b r n, k.boq = b :: r → (if b then (s'.offTarget w.b).map some else .ok none) = .ok n →
      exec (.boqb w) s = issued t (hd96 w) { s := s'.setSm t { k with boq := r }, next := n }) ∧
    exec (.iset w) s = issued t (hd96 w) { s := s', res := idxRes w.d.imm (offValue w.b), lat := some 1 } ∧
    (∀ v r, k.pq = v :: r → exec (.ipop w) s = issued t (hd96 w) { s := s'.setSm t { k with pq := r }, res := idxRes w.d.imm v }) ∧
    ((w.a.imm = 1 ∨ s'.core.releaseReady t w.d.imm = true) →
      exec (.engineFence w) s = .next (State.issueEngine t (hd96 w) { s := s'.setSm t (k.fence w.d.imm w.a.imm) }).flushPosts) ∧
    exec (.trapx w) s = .next (s'.raise t (s'.siteE t 0) (0x1E0 + w.d.imm) 0 0) ∧
    (k.loadsDone k.seq = true → exec (.endStream w) s = issued t (hd96 w) { s := s'.setSm t { k with run := false } })

/-- LOOP lowers its index register and goes to its target while the result is not 0; IADDI adds its immediate; BOQB push and pushall put the
bit of a predicate register, in the V stream whether any or whether every lane is set, onto a branch-outcome queue of fewer than 32
entries (R136, R138, R139). -/
def Sys2Proof.Claims.indexAndOutcomeWords : Prop :=
  ∀ (s s' : State) (t : Strm) (w : W96) (m : Mask) (k : StreamSt), t = s.cst → k = s'.sm t →
    (enabled s t (hd96 w) (fun _ => [rg 2 w.d.imm]) m s' →
      (∀ v n, v = k.ireg w.d.imm - 1 → (if v ≠ 0 then (s'.offTarget w.b).map some else .ok none) = .ok n →
        exec (.loop w) s = issued t (hd96 w) { s := s', res := idxRes w.d.imm v, lat := some 1, next := n }) ∧
      exec (.iaddi w) s = issued t (hd96 w) { s := s', res := idxRes w.d.imm (k.ireg w.d.imm + offValue w.b), lat := some 1 }) ∧
    (enabled s t (hd96 w) (fun _ => [rg 1 w.a.imm]) m s' → ∀ x p, x = engineOf w.d.imm → p = k.preg w.a.imm → (s'.sm x).boq.length < 32 →
      exec (.boqbPush w) s = issued t (hd96 w) { s := s'.setSm x { s'.sm x with
        boq := (s'.sm x).boq ++ [if t = .V then p != 0 else p.getLsbD 0] } } ∧
      exec (.boqbPushall w) s = issued t (hd96 w) { s := s'.setSm x { s'.sm x with
        boq := (s'.sm x).boq ++ [if t = .V then p == BitVec.allOnes 128 else p.getLsbD 0] } })

/-- The engine-control words complete. -/
def Obligations.EngineControlGroup : Prop := Claims.engineControlWords ∧ Claims.indexAndOutcomeWords

/-! ### The load stream -/

/-- LDB and LDC of rows whose sources and destinations pass their checks, in ascending order, enter the load queue with their padding and
conversion; LDZ enters it with the pattern of a scalar register; LPREF changes nothing but its address register (R132, R133, R141, R146). -/
def Sys2Proof.Claims.blockLoadWords : Prop :=
  ∀ (s s' : State) (w : W96) (m : Mask) (f g : Nat) (l : List (Option Nat)) (pad sp : W32) (rows : List LoadRow),
    f = w.fmt.toNat → g = w.var.toNat →
    (enabled s .L (hd96 w) (blockReads w) m s' → (s'.sm .L).ldReady = true →
      s'.rowPlan (s'.blk .L w.a f) w.b.num w.b.imm = .ok (l, pad, sp) →
      (s'.loadRows (s'.blk .L w.a f) (s'.blk .L w.d f) [4, 5, 6] l = .ok rows →
        exec (.ldb w) s = loads s' w (.rows f .copy (codeRow f pad.toNat) rows) (rowDies rows) [w.d, w.a]) ∧
      (s'.loadRows (s'.blk .L w.a f) (s'.blk .L w.d g) [4, 5, 6] l = .ok rows →
        exec (.ldc w) s = loads s' w (.rows g (.conv f g w.rm.toNat sp)
          (codeRow g (convElem f g w.rm.toNat sp (pad.toNat % 2 ^ fmtBits f)).code) rows) (rowDies rows) [w.d, w.a])) ∧
    (∀ ds, enabled s .L (hd96 w) (aregReads [w.d]) m s' →
      s'.blkRows (s'.blk .L w.d f) [1, 2] true 1 (List.range w.b.imm) = .ok ds →
      exec (.ldz w) s = loads s' w (.fill f (codeRow f (s'.core.sreg (BitVec.ofNat 5 w.a.num)).toNat) (ds.map (fun t => t.place))) [] [w.d]) ∧
    (enabled s .L (hd96 w) (aregReads [w.a]) m s' →
      exec (.lpref w) s = issued .L (hd96 w) { s := s', res := postUpdates s'.core .L [w.a] })

/-- LDG enters the load queue with one element per enabled lane, once no gather before it still owes its index register a value; LDT of a version that
can be read enters it for the rows of a buffer or for a tile register that is not being folded, and LDSH of a record whose header can be read for its slot
(R127, R142 to R145, R245). What they read, and what they check of it, comes when their data arrive (`LoadDataArrives`). -/
def Sys2Proof.Claims.gatherTileAndShapeLoads : Prop :=
  ∀ (s s' : State) (w : W96) (m : Mask) (f : Nat), f = w.fmt.toNat → (s'.sm .L).ldReady = true →
    (∀ sp g, enabled s .L (hd96 w) (aregReads [w.a]) m s' → (s'.sm .L).gathers w.b.num = false → s'.core.shaping w.b.imm = false →
      s'.spareOf w.b.imm = .ok sp → s'.laneTgts .L w.a f [4, 5, 6] false m (s'.core.vregNew w.b.num) = .ok g →
      exec (.ldg w) s = loads s' w (.gather f (BitVec.ofNat 6 w.d.num) m (if f = 3 then sp else nan32) (g.map (fun e => (e.1, e.2.place))))
        (diesOf (g.map (fun e => e.2))) [w.a]) ∧
    (∀ h v p u ts, h = s'.bcReg w.a → v = s'.bcReg w.b % 2 ^ 32 → s'.tilePlace s'.cur h v f = .ok (p, u) →
      ts = (p.segs ++ u).filterMap (fun c => homeDie c.pa) →
      (∀ ds, enabled s .L (hd96 w) (aregReads [w.d]) m s' → s'.ldtRows w = .ok ds →
        exec (.ldtBuffer w) s = loads s' w (.tile f p h v (ds.map (fun t => t.place)) none) ts [w.d]) ∧
      (enabled s .L (hd96 w) (fun _ => []) m s' → (s'.core.tile w.d.imm).f = false →
        exec (.ldtTile w) s = loads s' w (.tile f p h v [] (some w.d.imm)) ts [])) ∧
    (∀ k p o a t, enabled s .L (hd96 w) (aregReads [w.a]) m s' → w.a = .str k p o → a = s'.core.aregOf .L k.toNat →
      access s' s'.cur ⟨[4], none, 256, 256, false, 0⟩ (some a) (wrap64 ((a.base.toNat : Int) + o.toInt)) = .ok t →
      exec (.ldsh w) s = loads s' w (.shape w.d.imm t.place none) t.place.dies [w.a])

/-- The scratchpad ring words: LWFREE of a ring that is not full hands out the next slot and SWFILL the slot at the head once it is FULL, each
in an address register; LPUBL and SRELS publish and release the ticket of the slot that their register names (R147, R308 to R310, R319). -/
def Sys2Proof.Claims.scratchpadRingWords : Prop :=
  ∀ (s s' : State) (t : Strm) (w : W96) (m : Mask) (n : Nat) (r : Ring) (a : Nat), n = w.d.imm → r = s'.core.ring n → a = ringReg w.b →
    enabled s t (hd96 w) (fun _ => [rg 3 a]) m s' → s'.core.ringOver t = none →
    (t = .L → r.st = .active → diff32 r.t r.q < 2 ^ r.logn → exec (.lwfree w) s = issued .L (hd96 w)
      { s := s'.setCore ((s'.core.setRing n { r with t := (r.t + 1) % 2 ^ 32 }).leaveRing .L), res := [⟨3, a, BitVec.allOnes 128, .addr (r.slotReg r.t)⟩] }) ∧
    (t = .S → (r.st = .active ∨ r.st = .draining) → 0 < diff32 r.t r.h → tagFull r.logn r.h (r.tag (r.h % 2 ^ r.logn)) = true →
      exec (.swfill w) s = issued .S (hd96 w)
        { s := s'.setCore ((s'.core.setRing n { r with h := (r.h + 1) % 2 ^ 32 }).leaveRing .S), res := [⟨3, a, BitVec.allOnes 128, .addr (r.slotReg r.h)⟩] }) ∧
    (∀ j, (r.st = .active ∨ r.st = .draining) → (s'.sm t).stReady = true → (s'.sm t).loadsDone (s'.sm t).seq = true →
      (t = .L → r.held (s'.core.aregOf .L a).base.toNat r.q r.t (tagClaimed r.logn) = .ok j →
        exec (.lpubl w) s = issued .L (hd96 w)
          { s := s'.setCore ((s'.core.setRing n (r.setTag (j % 2 ^ r.logn) (tagPublish r.logn j (r.tag (j % 2 ^ r.logn)) false))).leaveRing .L) }) ∧
      (t = .S → r.held (s'.core.aregOf .S a).base.toNat r.q r.h (tagFull r.logn) = .ok j →
        ∀ r', r' = r.setTag (j % 2 ^ r.logn) (tagRelease r.logn j (r.tag (j % 2 ^ r.logn))) →
        exec (.srels w) s = issued .S (hd96 w)
          { s := s'.setCore ((s'.core.moveRing n ({ r' with q := advance r.logn r'.tag r.h (2 ^ r.logn) r.q } : Ring).settled).leaveRing .S) }))

/-- A scratchpad ring word that waits and whose wait has ended takes the cause it ended with (0x044 when the ring left ACTIVE, R320), and has no
place at the ring any more once the cause can be taken. -/
def Sys2Proof.Claims.scratchpadWaitsEnd : Prop :=
  ∀ (s s' : State) (t : Strm) (w : W96) (m : Mask) (i : Instr) (code : Nat), (t = .L ∧ (i = .lwfree w ∨ i = .lpubl w) ∨ t = .S ∧ (i = .swfill w ∨ i = .srels w)) →
    enabled s t (hd96 w) (fun _ => [rg 3 (ringReg w.b)]) m s' → s'.core.ringOver t = some code → code ≠ 0x046 →
    exec i s = .next ((if s'.raisable t code then s'.setCore (s'.core.leaveRing t) else s').raise t (s'.siteE t 0) code 0 0)

/-- Every word of the load stream completes. The offset of LDC's D operand counts elements of the destination's format, and that of LDSH bytes: the model's
choice, for R31 speaks of the word's format alone (log entry 30). -/
def Obligations.LoadStreamWords : Prop :=
  Claims.blockLoadWords ∧ Claims.gatherTileAndShapeLoads ∧ Claims.scratchpadRingWords ∧ Claims.scratchpadWaitsEnd

/-! ### The store stream -/

/-- STB of rows that pass their checks puts their bytes as they are at issue into the store queue; STCVT does so with the bytes converted,
raising SCVB and the counters of conversions, from the A-buffer and from a tile register that holds a valid, folded value
(R127, R148, R149, R151). -/
def Sys2Proof.Claims.blockStoreWords : Prop :=
  ∀ (s s' : State) (w : W96) (m : Mask) (f : Nat), f = w.fmt.toNat → (s'.sm .S).stReady = true →
    (∀ l b ts es dr, enabled s .S (hd96 w) (aregReads [w.d, w.a]) m s' →
      s'.storeRows (s'.blk .S w.a f) (s'.blk .S w.d f) w.b.imm 1 = .ok (l, b, ts) → s'.rowsElems s'.numS f l = .ok (es, dr) →
      exec (.stb w) s = stores s' w (eszOf f) ts es dr [w.d, w.a]) ∧
    (∀ l b ts e, enabled s .S (hd96 w) (aregReads [w.d, w.a]) m s' →
      s'.storeRows (s'.blk .S w.a 0) (s'.blk .S w.d f) w.b.imm 1 = .ok (l, b, ts) →
      s'.cvtRows w 0 (l.map (fun e => (e.1, e.2.1, elems 0 e.2.2))) ts b (fun a b c => c.cvcnt a b) (postUpdates s'.core .S [w.d, w.a]) = .ok e →
      exec (.stcvt w) s = issued .S (hd96 w) e) ∧
    (∀ t ds e, enabled s .S (hd96 w) (aregReads [w.d]) m s' → t = (s'.core.tile w.a.imm).fold → t.f = false → t.v = true →
      (t.int = false ∨ f ≠ 2 ∧ f ≠ 3) → t.sumsOk allRows = .ok () →
      s'.blkRows (s'.blk .S w.d f) [4, 5, 6] true 1 (List.range w.b.imm) = .ok ds →
      s'.cvtRows w (if t.int then 5 else 0) (((List.range w.b.imm).zip ds).map (fun e => (128 * e.1, e.2, t.codes e.1))) (diesOf ds) t.cal
        (fun a b c => c.setTile w.a.imm (t.count a b 0)) (postUpdates s'.core .S [w.d]) = .ok e →
      exec (.stcvtTile w) s = issued .S (hd96 w) e)

/-- STT writes a version that its task may write: its rows, from the A-buffer or from a tile register, folded and converted to the word's format,
its scales, and header fields; of a version that is RETIRED it counts a dropped write only, and the tile's fold and counts stay and its D is cleared,
which is the model's reading (R150, R218, R363, Table 5-10; log entry 32). -/
def Sys2Proof.Claims.tileStoreWords : Prop :=
  ∀ (s s' : State) (w : W96) (m : Mask) (f v n : Nat) (t : TPool), f = w.fmt.toNat → v = s'.bcReg w.a % 2 ^ 32 → (s'.sm .S).stReady = true →
    (∀ rows, enabled s .S (hd96 w) (aregReads [w.b]) m s' → s'.blkRows (s'.blk .S w.b f) [2] false 0 (List.range 128) = .ok rows →
      (s'.sttVer (s'.bcReg w.d) v f = .ok (t, n, none) →
        exec (.sttBuffer w) s = issued .S (hd96 w) { s := s'.stale s'.ctxNo 1, res := postUpdates s'.core .S [w.b] }) ∧
      (∀ fr tag e, s'.sttVer (s'.bcReg w.d) v f = .ok (t, n, some (fr, tag)) →
        s'.sttWrite f t n v fr tag
          { rows := rows.map (fun r => s'.readPlace s'.cur (fmtBytes f 128) r.place), scales := none, sat := 0, nan := 0,
            bound := rows.foldl (fun b r => maxBound b (tagRead s'.core.atags r.place.aoff (fmtBytes f 128))) 0 }
          none (diesOf rows) (postUpdates s'.core .S [w.b]) = .ok e →
        exec (.sttBuffer w) s = issued .S (hd96 w) e)) ∧
    (∀ tl, enabled s .S (hd96 w) (fun _ => []) m s' → tl = s'.core.tile w.b.imm → tl.f = false → tl.v = true →
      (tl.int = true → f = 5 ∨ f = 0) → (tl.int = false → f ≠ 5) → tl.sumsOk allRows = .ok () →
      ∀ im tl', im = tl.fold.image f w.rm.toNat → tl' = tl.fold.count im.sat im.nan 0 →
      (s'.sttVer (s'.bcReg w.d) v f = .ok (t, n, none) →
        exec (.sttTile w) s = issued .S (hd96 w) { s := (s'.setCore (s'.core.setTile w.b.imm (tl'.setBit 1 false))).stale s'.ctxNo 1 }) ∧
      (∀ fr tag e, s'.sttVer (s'.bcReg w.d) v f = .ok (t, n, some (fr, tag)) →
        (s'.setCore (s'.core.setTile w.b.imm tl')).sttWrite f t n v fr tag im (some w.b.imm) [] [] = .ok e →
        exec (.sttTile w) s = issued .S (hd96 w) e))

/-- STSC puts the converted element of every enabled lane into the store queue; SATOM puts one atomic per lane there, STADD and STAXPY one
read-modify-write per element with their factor, when the decision log is off, in ascending order of lanes and rows
(R148, R151 to R153). -/
def Sys2Proof.Claims.scatterAndUpdateWords : Prop :=
  ∀ (s s' : State) (w : W96) (m : Mask) (f : Nat), f = w.fmt.toNat → (s'.sm .S).stReady = true → s'.logOn s'.ctxNo = false →
    (∀ cv l es k, enabled s .S (hd96 w) (aregReads [w.d]) m s' →
      cv = (fun (i : Nat) => convElem (if isIntFmt f then 5 else 0) f w.rm.toNat nan32 (lane (s'.core.vregNew w.a.num) i).toNat) →
      s'.laneEach .S w.d f ⟨[4, 5, 6], none, elemSize f, 1, true, 5⟩ m (s'.core.vregNew w.b.num)
        (fun i t => (s'.pieceElem s'.numS i t (packElems f [(cv i).code])).map (fun e => (i, t, e))) = .ok l →
      es = l.map (fun e => e.2.2) → k = countConv (l.map (fun e => cv e.1)) →
      exec (.stsc w) s = issued .S (hd96 w) ((s'.setCore (s'.core.cvcnt k.1 k.2)).enterStore .elems (eszOf f)
        (diesOf (l.map (fun e => e.2.1))) (es.filterMap id) (es.filter (fun e => e.isNone)).length
        (postUpdates (s'.setCore (s'.core.cvcnt k.1 k.2)).core .S [w.d]))) ∧
    (∀ n p o els, enabled s .S (hd96 w) (aregReads [w.d]) m s' → w.d = .str n p o →
      s'.laneEach .S w.d 0 ⟨[4, 6, 7], none, 4, 1, true, 3⟩ m (s'.core.vregNew w.b.num) (fun i t => do
        if w.b.imm = 10 then noDPage 4 [(i, t)] else .ok ()
        s'.atomLane w.b.imm (s'.core.vregNew w.a.num) (i, t)) = .ok els →
      exec (.satom w) s = stores s' w 4 (diesOf (els.map (fun e => e.2.1))) (els.filterMap (fun e => e.2.2))
        (els.length - (els.filterMap (fun e => e.2.2)).length) [w.d]) ∧
    (∀ l b ts al i els, enabled s .S (hd96 w) (aregReads [w.d, w.a]) m s' →
      (i = .stadd w ∧ al = 0x3F800000#32 ∨ i = .staxpy w ∧ al = (s'.core.sreg (BitVec.ofNat 5 w.b.num)).truncate 32) →
      s'.storeRows (s'.blk .S w.a f) (s'.blk .S w.d f) w.b.imm 2 = .ok (l, b, ts) → noDPage (elemSize f) (l.map (fun e => (e.1, e.2.1))) = .ok () →
      (l.flatMap (fun r => ((List.range 128).zip (elems f r.2.2)).map (fun e => (r.1 + e.1, r.2.1.slice (e.1 * elemSize f) (elemSize f), e.2)))).mapM
        (fun e => do
          let g ← atElem e.1 e.2.1.ptr 64 (s'.admitAt e.2.1 0x0A0)
          .ok (e.1, e.2.1, g.map (fun tag =>
            (⟨e.2.1.place, .fma f w.rm.toNat al (fp32Of f nan32 e.2.2), tag, e.1⟩ : StoreElem)))) = .ok els →
      exec i s = stores s' w (elemSize f) ts (els.filterMap (fun e => e.2.2))
        (els.length - (els.filterMap (fun e => e.2.2)).length) [w.d, w.a])

/-- STOPT in both variants over rows that pass their checks enters both queues of its stream: the load queue with its weight and moment rows, after
the earlier STOPT words, and the store queue with a write for the weight and for each moment of every element, in ascending order; the
gradients and CSRs are those at issue (R127, R154). -/
def Sys2Proof.Claims.optimiserWords : Prop :=
  ∀ (s s' u v : State) (w : W96) (m : Mask) (adam : Bool) (i : Instr) (l : List (Nat × Tgt × List Tgt)) (grad par : List W32)
    (els : List (Option StoreElem)) (es : List StoreElem) (k : StreamSt),
    enabled s .S (hd96 w) (aregReads [w.d, w.a]) m s' → (i = .stopt w ∧ adam = false ∨ i = .stoptAdam w ∧ adam = true) →
    (s'.sm .S).stReady = true → (s'.sm .S).ldReady = true → s'.optRows w adam = .ok l →
    grad = l.flatMap (fun e => (elems 0 (s'.readPlace s'.cur 512 e.2.1.place)).map (fun c => BitVec.ofNat 32 c)) →
    par = (List.range' 0x3C8 9).map (fun n => (s'.core.csr n).truncate 32) →
    (optTargets l).mapM (fun e => s'.optStore s'.numS e.1 e.2.1 e.2.2) = .ok els → es = els.filterMap id →
    u = (s'.touch s'.ctxNo (diesOf (l.flatMap (fun e => e.2.2) ++ l.map (fun e => e.2.1)))).stale s'.ctxNo (els.length - es.length) →
    v = u.setCore { u.core with wacks := u.core.wacks + (es.filter (fun e => e.place.win == 6)).length } → k = v.sm .S →
    exec i s = issued .S (hd96 w)
      { s := v.setSm .S
          ((k.pushLoad (k.issued + 1) k.pc (.opt adam par grad ((l.flatMap (fun e => e.2.2)).map (fun t => t.place)) (k.seq + 1)
            ((k.stores.filter (fun e => e.kind == .opt)).map (fun e => e.seq)))).pushWord (k.issued + 1) 4 .opt es),
        res := postUpdates v.core .S [w.d, w.a], opened := true }

/-- When the weights and moments of a STOPT word arrive, its stores take their values: those of element k of row j are the new weight and the
new moments that the update of R154 makes of the element's weight, moments and gradient. -/
def Sys2Proof.Claims.optimiserValues : Prop :=
  ∀ (adam : Bool) (par grad : List W32) (rows : List (List W32)) (z n j k : Nat) (o : W32 × W32 × W32), z = (if adam then 3 else 2) →
    rows.length = z * n → j < n → k < 128 →
    o = optElem par adam (lane (rows.getD (z * j) []) k) (lane (rows.getD (z * j + 1) []) k) (lane (rows.getD (z * j + (z - 1)) []) k)
      (lane grad (128 * j + k)) →
    (optRowsOut adam par grad rows).getD (3 * (128 * j + k)) 0 = o.1 ∧ (optRowsOut adam par grad rows).getD (3 * (128 * j + k) + 1) 0 = o.2.1 ∧
      (optRowsOut adam par grad rows).getD (3 * (128 * j + k) + 2) 0 = o.2.2 ∧
    ∀ (c : CoreSt) (e : LoadEnt) (b : W32) (ds : List (List Byte)) (ps : List Place) (st : Nat) (a : List Nat),
      e.fin = .opt adam par grad ps st a → rows = ds.map (fun b => (elems 0 b).map (fun c => BitVec.ofNat 32 c)) →
      (c.deliver e b ds).sS.stores = c.sS.stores.map (fun x =>
        if x.seq = st then { x with elems := x.elems.map (fillOpt (optRowsOut adam par grad rows)) } else x)

/-- Every word of the store stream completes. The offset of STCVT's A operand counts FP32 elements: the model's choice, for R31 speaks of the word's
format alone (log entry 30). -/
def Obligations.StoreStreamWords : Prop :=
  Claims.blockStoreWords ∧ Claims.tileStoreWords ∧ Claims.scatterAndUpdateWords ∧ Claims.optimiserWords ∧ Claims.optimiserValues

namespace Sys2Proof.Claims
open Machine

/-- The lanewise words of Tables 6-4, 6-5 and 6-7 with VCLASS and VMOV: the instruction, its latency (Table 6-2), whether it reads B, whether it reads
the old D, and the value of a lane from the lanes of A, B and D. -/
noncomputable def laneOps (w : W96) : List (Instr × Nat × Bool × Bool × (W32 → W32 → W32 → W32)) :=
  ([(.vadd w, 4, true, false, fun a b _ => fadd w.rm.toNat a b),
    (.vsub w, 4, true, false, fun a b _ => fsub w.rm.toNat a b),
    (.vmul w, 4, true, false, fun a b _ => fmul w.rm.toNat a b),
    (.vfma w, 4, true, true, fun a b d => ffma w.rm.toNat a b d),
    (.vfms w, 4, true, true, fun a b d => ffma w.rm.toNat (a ^^^ 0x80000000) b d),
    (.vmin w, 4, true, false, fun a b _ => fmin a b),
    (.vmax w, 4, true, false, fun a b _ => fmax a b),
    (.vabs w, 4, false, false, fun a _ _ => a &&& 0x7FFFFFFF),
    (.vneg w, 4, false, false, fun a _ _ => a ^^^ 0x80000000),
    (.vcpys w, 4, true, false, fun a b _ => (a &&& 0x7FFFFFFF) ||| (b &&& 0x80000000)),
    (.vrcp w, 12, false, false, fun a _ _ => rcpR a),
    (.vrsq w, 12, false, false, fun a _ _ => rsqR a),
    (.vsqrt w, 12, false, false, fun a _ _ => sqrtR a),
    (.vexp2 w, 12, false, false, fun a _ _ => exp2R (xv32 a)),
    (.vlog2 w, 12, false, false, fun a _ _ => log2R (xv32 a)),
    (.vexpd w, 12, true, false, fun a b _ => expR (xvAdd 0 (xv32 a) (xvNeg (xv32 b)))),
    (.vtanh w, 12, false, false, fun a _ _ => tanhR a),
    (.vsigm w, 12, false, false, fun a _ _ => sigmR a),
    (.vclass w, 4, false, false, fun a _ _ => classBit a),
    (.viadd w, 2, true, false, fun a b _ => a + b)] : List (Instr × Nat × Bool × Bool × (W32 → W32 → W32 → W32))) ++
  ([(.visub w, 2, true, false, fun a b _ => a - b),
    (.vimul w, 4, true, false, fun a b _ => a * b),
    (.vimad w, 4, true, true, fun a b d => a * b + d),
    (.vand w, 2, true, false, fun a b _ => a &&& b),
    (.vor w, 2, true, false, fun a b _ => a ||| b),
    (.vxor w, 2, true, false, fun a b _ => a ^^^ b),
    (.vandn w, 2, true, false, fun a b _ => a &&& ~~~b),
    (.vshl w, 2, true, false, fun a b _ => a <<< (b.toNat % 32)),
    (.vshr w, 2, true, false, fun a b _ => a >>> (b.toNat % 32)),
    (.vsra w, 2, true, false, fun a b _ => a.sshiftRight (b.toNat % 32)),
    (.vimin w, 2, true, false, fun a b _ => if b.toInt < a.toInt then b else a),
    (.vimax w, 2, true, false, fun a b _ => if a.toInt < b.toInt then b else a),
    (.viminu w, 2, true, false, fun a b _ => if b.toNat < a.toNat then b else a),
    (.vimaxu w, 2, true, false, fun a b _ => if a.toNat < b.toNat then b else a),
    (.vpcnt w, 2, false, false, fun a _ _ => popc32 a),
    (.vclz w, 2, false, false, fun a _ _ => clz32 a),
    (.vmov w, 2, false, false, fun a _ _ => a)] : List (Instr × Nat × Bool × Bool × (W32 → W32 → W32 → W32)))

/-- The compare words (Table 6-6): the instruction, its latency and the comparison. -/
noncomputable def compareOps (w : W96) : List (Instr × Nat × (W32 → W32 → Bool)) :=
  [(.vcmpeq w, 4, fun a b => xvEq (xv32 a) (xv32 b)),
    (.vcmplt w, 4, fun a b => xvLt (xv32 a) (xv32 b)),
    (.vcmple w, 4, fun a b => xvLt (xv32 a) (xv32 b) || xvEq (xv32 a) (xv32 b)),
    (.vcmpun w, 4, fun a b => isNaN32 a || isNaN32 b),
    (.vicmpeq w, 2, fun a b => a == b),
    (.vicmplt w, 2, fun a b => decide (a.toInt < b.toInt)),
    (.vicmpltu w, 2, fun a b => decide (a.toNat < b.toNat))]

/-- The bits of a comparison of two vectors, lane i at bit i. -/
def compareMask (c : W32 → W32 → Bool) (a b : Vec) : Mask :=
  BitVec.ofNat 128 ((List.zipWith c a b).foldr (fun x n => 2 * n + x.toNat) 0)

/-- The reductions and scans (R173 to R175): the instruction and its result in every lane from the lanes of a mask. -/
noncomputable def reduceOps (w : W96) : List (Instr × (Mask → Vec → Vec)) :=
  [(.vrsum w, fun m a => splat (reduce 0 w.fmt.toNat w.rm.toNat m a)),
    (.vrmax w, fun m a => splat (reduce 1 w.fmt.toNat 0 m a)),
    (.vrmin w, fun m a => splat (reduce 2 w.fmt.toNat 0 m a)),
    (.vrarg w, fun m a => match tree (argWin w.fmt.toNat (w.var == 1)) 7 (numbered 0 (included m 0 a)) with
    | some p => splat (BitVec.ofNat 32 p.2)
    | none => splat 0xFFFFFFFF),
    (.vscan w, fun m a => scan w.fmt.toNat w.rm.toNat false m a),
    (.vscanx w, fun m a => scan w.fmt.toNat w.rm.toNat true m a)]

/-- The outcome of a V word with register results and a latency. -/
def plainV (w : W96) (s : State) (res : List Wr) (lat : Option Nat) : Out1 := issued .V (hd96 w) { s := s, res := res, lat := lat }

/-- The outcome of a V word whose sources, A of format f, may be rows of peers: it issues in u, and its context has touched the dies of the
peers it reads (R13, R346). -/
def vectored (w : W96) (f : Nat) (u s : State) (res : List Wr) (lat : Option Nat) : Out1 :=
  issued .V (hd96 w) (Eff.peers { s := s, res := res, lat := lat } u w f)

end Sys2Proof.Claims

/-! ### The vector stream -/

/-- A lanewise word gives every enabled lane of its destination, a register or a row of the A-buffer, the value of Tables 6-4, 6-5 and 6-7,
after the latency of Table 6-2 and with the post-updates of its operands (R37, R156 to R166, R180). -/
def Sys2Proof.Claims.lanewiseWords : Prop :=
  ∀ (s s' : State) (i : Instr) (w : W96) (lat : Nat) (ub ud : Bool) (g : W32 → W32 → W32 → W32) (m : Mask) (a b : Vec × Nat)
    (o : Option Nat) (d : Vec) (r : State × List Wr), (i, lat, ub, ud, g) ∈ laneOps w →
    enabled s .V (hd96 w) (fun m => srcRegs m w.a ++ (if ub then srcRegs m w.b else []) ++ dstRegs m w.d ud) m s' →
    vsrc s' w.a = .ok a → (if ub then vsrc s' w.b else .ok (zeroVec, 0)) = .ok b → vdst s' w.d 0 = .ok o →
    d = (if ud then (match o with
      | some x => (elems 0 (s'.core.aRead x 512)).map (fun c => BitVec.ofNat 32 c)
      | none => s'.core.vreg w.d.num) else zeroVec) →
    r = vput s' w.d 0 o m (vmap3 (fun i x y z => if m.getLsbD i then g x y z else 0) 0 a.1 b.1 d) 0 →
    exec i s = vectored w 0 s' r.1 (r.2 ++ postUpdates s'.core .V [w.a, w.b, w.d]) (vlat lat [a.2, b.2, if ud && w.d.isStr then 2 else 0])

/-- A compare word writes the comparison of every enabled lane to its predicate register, or its conjunction or disjunction with the old bit
(R164, R166, Table 6-6). -/
def Sys2Proof.Claims.compareWords : Prop :=
  ∀ (s s' : State) (i : Instr) (w : W96) (lat : Nat) (c : W32 → W32 → Bool) (m p old : Mask) (a b : Vec × Nat),
    (i, lat, c) ∈ compareOps w →
    enabled s .V (hd96 w) (fun m => srcRegs m w.a ++ srcRegs m w.b ++ (if w.var = 0 then [] else [⟨1, w.d.imm, m⟩])) m s' →
    vsrc s' w.a = .ok a → vsrc s' w.b = .ok b → p = compareMask c a.1 b.1 → old = (s'.sm .V).preg w.d.imm →
    exec i s = vectored w 0 s' s' (⟨1, w.d.imm, m, .pred (if w.var = 0 then p else if w.var = 1 then old &&& p else old ||| p)⟩ ::
      postUpdates s'.core .V [w.a, w.b]) (vlat lat [a.2, b.2])

/-- Lanewise and compare words complete with their values. -/
def Obligations.LanewiseAndCompareWords : Prop := Claims.lanewiseWords ∧ Claims.compareWords

/-- VCVT converts every element and counts saturations and NaNs of the enabled lanes; VSCALE multiplies by powers of two; VPACK puts two
converted fields into every lane of its register and VUNPK takes one out (R167, R170 to R172). That the offset of VCVT's row counts elements of
its source format is the model's choice (log entry 30), and so are what a NaN or a difference that is no number adds to the bound of its row
(log entry 85) and that VSCALE counts no saturation and no NaN (log entry 34). -/
def Sys2Proof.Claims.conversionWords : Prop :=
  ∀ (s s' : State) (w : W96) (m : Mask) (g src : Nat), g = w.fmt.toNat → src = w.b.imm →
    (∀ a o cs ps k, enabled s .V (hd96 w) (fun m => srcRegs m w.a ++ dstRegs m w.d false) m s' → vread s' w.a src [2, 3] = .ok a →
      vdst s' w.d g = .ok o → cs = a.1.map (fun x => convElem src g w.rm.toNat nan32 (codeOf src x)) → ps = pick m 0 (a.1.zip cs) →
      k = countConv (ps.map (fun e => e.2.2)) →
      ∃ r, r = vput s' w.d g o m (if w.d.isStr then cs.map (fun c => BitVec.ofNat 32 c.code) else cs.map (fun c => laneOf g nan32 c.code))
          (addBound a.2.2 (convError (ps.map (fun e => (xvElem src nan32 (codeOf src e.2.1), xvElem g nan32 e.2.2.code, e.2.2.sat))))) ∧
        exec (.vcvt w) s = vectored w src s' (r.1.setCore (r.1.core.cvcnt k.1 k.2)) (r.2 ++ postUpdates s'.core .V [w.a, w.d]) (vlat 4 [a.2.1])) ∧
    (∀ a b o r, enabled s .V (hd96 w) (fun m => srcRegs m w.a ++ srcRegs m w.b ++ dstRegs m w.d false) m s' → vsrc s' w.a = .ok a →
      vread s' w.b 6 [2] = .ok b → vdst s' w.d 0 = .ok o →
      r = vput s' w.d 0 o m (List.zipWith (fun x e => if e.toNat % 256 = 255 then nan32
        else round32 w.rm.toNat (xvScale (xv32 x) (((e.toNat % 256 : Nat) : Int) - 127))) a.1 b.1) 0 →
      exec (.vscale w) s = vectored w 0 s' r.1 (r.2 ++ postUpdates s'.core .V [w.a, w.b, w.d]) (vlat 4 [a.2, b.2.1])) ∧
    (∀ x y cx cy k l q n, enabled s .V (hd96 w) (fun m => srcRegs m w.a ++ srcRegs m w.b ++ dstRegs m w.d true) m s' → vsrc s' w.a = .ok x →
      vsrc s' w.b = .ok y → cx = x.1.map (fun z => convElem (if isIntFmt g then 5 else 0) g w.rm.toNat nan32 z.toNat) →
      cy = y.1.map (fun z => convElem (if isIntFmt g then 5 else 0) g w.rm.toNat nan32 z.toNat) →
      k = countConv ((pick m 0 cx).map (fun e => e.2)) → l = countConv ((pick m 0 cy).map (fun e => e.2)) → q = w.d.imm → n = fmtBits g →
      exec (.vpack w) s = vectored w 0 s' (s'.setCore (s'.core.cvcnt (k.1 + l.1) (k.2 + l.2)))
        (⟨0, w.d.num, m, .vec (List.zipWith (fun d e => putField (putField d n (2 * q) e.1.code) n (2 * q + 1) e.2.code)
          (s'.core.vreg w.d.num) (cx.zip cy))⟩ :: postUpdates s'.core .V [w.a, w.b]) (vlat 4 [x.2, y.2])) ∧
    (∀ a, enabled s .V (hd96 w) (fun m => srcRegs m w.a) m s' → vsrc s' w.a = .ok a →
      exec (.vunpk w) s = vectored w 0 s' s' [⟨0, w.d.num, m, .vec (a.1.map (fun x => laneOf g nan32
        (x.toNat / 2 ^ (fmtBits g * w.d.imm) % 2 ^ fmtBits g)))⟩] (some 4))

/-- VQNT with a given scale quantises every element under it; without one it first forms the block's scale from the enabled lanes and writes it
to the A-buffer with the bound of the row; VDQNT multiplies the codes of a row or register by their scale, counts what becomes infinite or a
NaN in the enabled lanes, and changes nothing else (R168, R169, R172). That VQNT writes its row before the scale byte is the model's choice
(log entry 87), and so is what a difference that is no number adds to the bound (log entry 85). -/
def Sys2Proof.Claims.quantisationWords : Prop :=
  ∀ (s s' : State) (w : W96) (m : Mask) (g : Nat), g = w.fmt.toNat →
    (∀ a o bo xs sc cs ps k, enabled s .V (hd96 w)
        (fun m => srcRegs m w.a ++ dstRegs m w.d false ++ (if w.b.isStr then srcRegs m w.b else [])) m s' →
      vsrc s' w.a = .ok a → (if w.var == 1 then .ok 0 else byteOp s' w.b true) = .ok bo → vdst s' w.d g = .ok o → xs = a.1.map xv32 →
      sc = (if w.var == 1 then bcastByte s' w.b else blockScale g ((pick m 0 xs).map (fun e => e.2))) →
      cs = xs.map (fun x => if w.var == 1 then quantGiven g w.rm.toNat sc x else quantElem g w.rm.toNat sc x) →
      ps = pick m 0 (xs.zip cs) → k = countConv (ps.map (fun e => e.2.2)) →
      ∃ r beta c, beta = convError (ps.map (fun e => (e.2.1,
          if sc = 255 then .nan else xvScale (xvElem g nan32 e.2.2.code) ((sc : Int) - 127), e.2.2.sat))) ∧
        r = vput s' w.d g o m (cs.map (fun c => BitVec.ofNat 32 c.code)) beta ∧
        c = (if w.var == 1 then r.1.core else r.1.core.aWrite bo [BitVec.ofNat 8 sc] beta) ∧
        exec (.vqnt w) s = vectored w 0 s' (r.1.setCore (c.cvcnt k.1 k.2)) (r.2 ++ postUpdates s'.core .V [w.a, w.b, w.d]) (some 8)) ∧
    (∀ a sc sp v ps sat nan, enabled s .V (hd96 w) (fun m => srcRegs m w.a ++ (if w.b.isStr then srcRegs m w.b else [])) m s' →
      vread s' w.a g [2, 3] = .ok a →
      (if w.var = 1 then .ok (bcastByte s' w.b) else (byteOp s' w.b false).map (fun o => leNat (s'.core.aRead o 1))) = .ok sc →
      (if g = 3 then s'.spareOf w.d.imm else (if w.d.imm = 0 then .ok nan32 else (s'.slotRec w.d.imm).map (fun _ => nan32))) = .ok sp →
      v = a.1.map (fun x => dequant g sc sp x.toNat) → ps = pick m 0 (a.1.zip v) → nan = (ps.filter (fun e => isNaN32 e.2.2)).length →
      sat = (ps.filter (fun e => isInf32 e.2.2 && (xvElem g sp e.2.1.toNat).finite)).length →
      exec (.vdqnt w) s = vectored w g s' (s'.setCore (s'.core.cvcnt sat nan))
        (⟨0, w.d.num, m, .vec v⟩ :: postUpdates s'.core .V [w.a, w.b]) (vlat 8 [a.2.1, if w.b.isStr then 2 else 0]))

/-- VCVT, VSCALE, VPACK, VUNPK, VQNT and VDQNT complete. -/
def Obligations.ConversionAndQuantisationWords : Prop := Claims.conversionWords ∧ Claims.quantisationWords

/-- The reductions give every enabled lane the one value, the scans every lane its own, in the fixed order of R91 to R93
(R173 to R175). That VRSUM and VSCAN round as the word's rm says is the model's choice: R91 and R93 say so, and R70 says that every fixed-order
reduction rounds to nearest even (log entry 86). -/
def Sys2Proof.Claims.reductionAndScanWords : Prop :=
  ∀ (s s' : State) (i : Instr) (w : W96) (f : Mask → Vec → Vec) (m : Mask) (a : Vec × Nat), (i, f) ∈ reduceOps w →
    enabled s .V (hd96 w) (fun m => srcRegs m w.a) m s' → vsrc s' w.a = .ok a →
    exec i s = vectored w 0 s' s' (⟨0, w.d.num, m, .vec (f m a.1)⟩ :: postUpdates s'.core .V [w.a]) (vlat 10 [a.2])

/-- VSORT sorts the pairs of the enabled lanes, stably, into the lowest lanes of two registers; VTOPK keeps the first k and fills the other
lanes with all ones; VMRG merges two runs into four registers (R94, R176 to R178). -/
def Sys2Proof.Claims.sortWords : Prop :=
  ∀ (s s' : State) (w : W96) (m : Mask) (l : List (W32 × W32)),
    (enabled s .V (hd96 w) (fun m => srcRegs m w.a ++ srcRegs m w.b) m s' →
      l = sortPairs w.fmt.toNat w.var.toNat (truePairs m (s'.core.vreg w.a.num) (s'.core.vreg w.b.num)) →
      exec (.vsort w) s = plainV w s' (pairRes w.d.num (lowMask l.length) l) (some 24) ∧
      exec (.vtopk w) s = plainV w s' (pairRes w.d.num (BitVec.allOnes 128)
        (l.take w.d.imm ++ List.replicate (128 - (l.take w.d.imm).length) (0xFFFFFFFF, 0xFFFFFFFF))) (some 24)) ∧
    (enabled s .V (hd96 w) (fun m => [⟨0, w.a.num, m⟩, ⟨0, w.a.num + 1, m⟩, ⟨0, w.b.num, m⟩, ⟨0, w.b.num + 1, m⟩]) m s' →
      l = mergePairs w.fmt.toNat w.var.toNat 256 (truePairs m (s'.core.vreg w.a.num) (s'.core.vreg (w.a.num + 1)))
        (truePairs m (s'.core.vreg w.b.num) (s'.core.vreg (w.b.num + 1))) →
      exec (.vmrg w) s = plainV w s' (pairRes w.d.num (lowMask (min l.length 128)) (l.take 128) ++
        pairRes (w.d.num + 2) (lowMask (l.length - 128)) (l.drop 128)) (some 16))

/-- Reductions, scans, sorts and merges complete. -/
def Obligations.ReductionScanAndSortWords : Prop := Claims.reductionAndScanWords ∧ Claims.sortWords

/-- VPERM, VBCST and VROT move lanes of a register to the lanes that name them; VSEL chooses lane by lane by a predicate; VLDI and VLANE write
a constant and the lane numbers, and VLANE to an address register takes it from lanes 0 to 3 (R179, R180). -/
def Sys2Proof.Claims.moveWords : Prop :=
  ∀ (s s' : State) (w : W96) (m : Mask) (x y : Vec) (out : (Nat → W32) → List Wr), x = s'.core.vreg w.a.num → y = s'.core.vreg w.b.num →
    (∀ f, out f = [⟨0, w.d.num, m, .vec (vgen (fun i => if m.getLsbD i then f i else 0) 0 128)⟩]) →
    (enabled s .V (hd96 w) (fun _ => [rg 0 w.a.num, rg 0 w.b.num]) m s' → exec (.vperm w) s = plainV w s' (out (fun i =>
      if w.var = 0 then lane x ((lane y i).toNat % 128) else if (lane y i).toNat < 128 then lane x (lane y i).toNat else 0)) (some 2)) ∧
    (enabled s .V (hd96 w) (fun _ => [rg 0 w.a.num]) m s' →
      exec (.vbcst w) s = plainV w s' (out (fun _ => lane x w.b.imm)) (some 2) ∧
      (∀ n, n = (if w.var = 1 then bcastByte s w.b % 128 else w.b.imm) →
        exec (.vrot w) s = plainV w s' (out (fun i => lane x ((i + 128 - n) % 128))) (some 2))) ∧
    (∀ a b, enabled s .V (hd96 w) (fun m => srcRegs m w.a ++ srcRegs m w.b ++ [⟨1, w.d.imm, m⟩]) m s' → vsrc s' w.a = .ok a →
      vsrc s' w.b = .ok b → exec (.vsel w) s = vectored w 0 s' s' (⟨0, w.d.num, m, .vec (blendFrom ((s'.sm .V).preg w.d.imm) 0 a.1 b.1)⟩ ::
        postUpdates s'.core .V [w.a, w.b]) (vlat 2 [a.2, b.2])) ∧
    (∀ im : BitVec 16, enabled s .V (hd96 w) (fun _ => []) m s' → im = BitVec.ofNat 16 (w.a.imm + 256 * w.b.imm) →
      exec (.vldi w) s = plainV w s' [⟨0, w.d.num, m, .vec (splat (if w.fmt = 5 then im.signExtend 32 else im ++ (0 : BitVec 16)))⟩]
        (some 2) ∧
      exec (.vlane w) s = plainV w s' [⟨0, w.d.num, m, .vec (vgen (fun i => BitVec.ofNat 32 i) 0 128)⟩] (some 2)) ∧
    (enabled s .V (hd96 w) (fun _ => [⟨0, w.a.num, 0xF⟩]) m s' → exec (.vlaneAddress w) s = plainV w s'
      [⟨3, w.d.imm, BitVec.allOnes 128, .addr ⟨lane x 1 ++ lane x 0, lane x 2, lane x 3⟩⟩] (some 2))

/-- VPUSHC appends the enabled lanes behind the count that its index register holds, of at most 128; VPOPC takes up to 128 lanes from a pair of
registers whose count is at most 256; VREBAL orders lanes by their routes; VCOUNT counts lanes of a predicate; VRNG and VRNGU write the
hash of seed and counter (R181 to R185). -/
def Sys2Proof.Claims.streamAndRandomWords : Prop :=
  ∀ (s s' : State) (w : W96) (m : Mask) (n : Nat) (all : Mask), all = BitVec.allOnes 128 →
    (∀ xs l e, enabled s .V (hd96 w) (fun m => [⟨0, w.a.num, m⟩, rg 2 w.b.imm]) m s' → n = ((s'.sm .V).ireg w.b.imm).toNat → n ≤ 128 →
      xs = (pick m 0 (s'.core.vreg w.a.num)).map (fun e => e.2) → l = List.replicate n 0 ++ xs → e = n + xs.length →
      exec (.vpushc w) s = plainV w s' ([⟨0, w.d.num, lowMask (min e 128) &&& ~~~(lowMask n), .vec (padVec (l.take 128))⟩,
        ⟨0, w.d.num + 1, lowMask (e - 128) &&& ~~~(lowMask (n - 128)), .vec (padVec (l.drop 128))⟩] ++
        idxRes w.b.imm (BitVec.ofNat 32 e)) (some 6)) ∧
    (∀ k win rest, enabled s .V (hd96 w) (fun _ => [rg 0 w.a.num, rg 0 (w.a.num + 1), rg 2 w.a.imm]) m s' →
      n = ((s'.sm .V).ireg w.a.imm).toNat → n ≤ 256 → k = (if w.var = 1 ∧ n < 128 then 0 else min n 128) →
      win = s'.core.vreg w.a.num ++ s'.core.vreg (w.a.num + 1) → rest = ((win.take n).drop k ++ zeroVec ++ zeroVec).take 256 →
      exec (.vpopc w) s = plainV w s' ((if w.var = 0 ∨ k = 128 then
        [⟨0, w.d.num, all, .vec (padVec (win.take k))⟩, ⟨0, w.a.num, all, .vec (rest.take 128)⟩,
          ⟨0, w.a.num + 1, all, .vec (rest.drop 128)⟩] ++ idxRes w.a.imm (BitVec.ofNat 32 (n - k)) else []) ++
        [⟨1, w.d.imm, all, .pred (lowMask k)⟩]) (some 6)) ∧
    (enabled s .V (hd96 w) (fun m => srcRegs m w.a ++ srcRegs m w.b) m s' →
      (∀ r, r = (List.range 16).flatMap (fun k =>
          ((truePairs m (s'.core.vreg w.a.num) (s'.core.vreg w.b.num)).filter (fun p => p.2.toNat % 16 == k)).map (fun p => p.1)) →
        exec (.vrebal w) s = plainV w s' [⟨0, w.d.num, lowMask r.length, .vec (padVec r)⟩] (some 6)) ∧
      (∀ a b, vsrc s' w.a = .ok a → vsrc s' w.b = .ok b →
        exec (.vrng w) s = vectored w 0 s' s' [⟨0, w.d.num, m, .vec (vmap3 (fun i x y _ => rngHash x y i) 0 a.1 b.1 a.1)⟩] (some 6) ∧
        exec (.vrngu w) s = vectored w 0 s' s' [⟨0, w.d.num, m, .vec (vmap3 (fun i x y _ => unit24 (rngHash x y i)) 0 a.1 b.1 a.1)⟩] (some 6))) ∧
    (∀ p, enabled s .V (hd96 w) (fun _ => rg 1 w.a.imm :: (if w.var = 2 then [rg 0 w.a.num] else [])) m s' → p = (s'.sm .V).preg w.a.imm →
      exec (.vcount w) s = plainV w s' [⟨0, w.d.num, m, .vec (if w.var = 0 then prefixCounts p 128 0 0
        else if w.var = 1 then splat (BitVec.ofNat 32 (laneList p).length)
        else padVec ((List.range 16).map (fun i => BitVec.ofNat 32
          (((pick p 0 (s'.core.vreg w.a.num)).map (fun e => e.2.toNat % 16)).filter (fun x => x == i)).length)))⟩] (some 6))

/-- Permutations, selections, conditional streams and random numbers complete. -/
def Obligations.VectorMoveWords : Prop := Claims.moveWords ∧ Claims.streamAndRandomWords

/-- The segment words over the record of their slot, when it stands in the blaze cache: VSRED and VSSCAN reduce and scan the lanes of each
segment, VSNORM takes the softmax of each, VSMASK writes the positions that the mask mode leaves, VSLEN and VBLZ give lengths, positions
and boundaries (R238, R250 to R256). That VSRED and VSSCAN round as the word's rm says is the model's choice beside R70 (log entry 86), and so
are positions and numbers that do not wrap at 2^32 (log entry 34). -/
def Obligations.SegmentWords : Prop :=
  ∀ (s s' : State) (w : W96) (m : Mask) (r : BlzEnt) (segs : List (Option Nat)),
    segs = (List.range 128).map (fun i => segOf r.tab (s'.segPos i)) →
    (s'.slotRec w.d.imm = .ok r →
      (∀ a, enabled s .V (hd96 w) (fun m => srcRegs m w.a ++ [rg 2 1]) m s' → vsrc s' w.a = .ok a →
        (w.var = 0 → exec (.vsred w) s = vectored w 0 s' s' (⟨0, w.d.num, inSegs m segs,
          .vec (perSegment m segs (fun l => splat (segRed w.b.imm w.fmt.toNat w.rm.toNat l a.1)))⟩ :: postUpdates s'.core .V [w.a])
          (vlat 12 [a.2])) ∧
        (∀ g, w.var ≠ 0 → segOf r.tab (s'.segPos 0) = some g → ∃ v, exec (.vsred w) s = vectored w 0 s' s'
          (⟨0, w.d.num, m, .vec v⟩ :: postUpdates s'.core .V [w.a]) (vlat 12 [a.2]) ∧
          (∀ q, q < 128 → g + q < r.tab.length → lane v q = segRed w.b.imm w.fmt.toNat w.rm.toNat (segLanes m segs (g + q)) a.1)) ∧
        exec (.vsscan w) s = vectored w 0 s' s' (⟨0, w.d.num, inSegs m segs,
          .vec (perSegment m segs (fun l => scan w.fmt.toNat w.rm.toNat (w.var == 1) l a.1))⟩ :: postUpdates s'.core .V [w.a]) (vlat 12 [a.2]) ∧
        exec (.vsnorm w) s = vectored w 0 s' s' (⟨0, w.d.num, inSegs m segs, .vec (perSegment m segs (fun l => softmax l a.1))⟩ ::
          postUpdates s'.core .V [w.a]) (vlat 30 [a.2])) ∧
      (enabled s .V (hd96 w) (fun _ => [rg 2 1]) m s' → ∃ v, exec (.vslen w) s = vectored w 0 s' s' [⟨0, w.d.num, m, .vec v⟩] (some 6) ∧
        (∀ i g st, i < 128 → segs.getD i none = some g → st = (if g = 0 then 0 else r.tab.getD (g - 1) 0) →
          lane v i = BitVec.ofNat 32 (if w.var = 0 then r.tab.getD g 0 - st else if w.var = 1 then s'.segPos i - st else g)) ∧
        (∀ i, i < 128 → segs.getD i none = none → lane v i = 0xFFFFFFFF)) ∧
      (enabled s .V (hd96 w) (fun _ => [rg 2 w.a.imm]) m s' → ∃ v, exec (.vblz w) s = vectored w 0 s' s' [⟨0, w.d.num, m, .vec v⟩] (some 6) ∧
        (∀ i n, i < 128 → n = ((s'.sm .V).ireg w.a.imm).toNat → lane v i = (match r.tab[n + i]? with
          | some b => BitVec.ofNat 32 b
          | none => 0xFFFFFFFF)))) ∧
    (s'.slotRec w.a.imm = .ok r → enabled s .V (hd96 w) (fun _ => [rg 2 0, rg 2 1]) m s' →
      exec (.vsmask w) s = vectored w 0 s' s' [⟨1, w.d.imm, m, .pred (maskOf (fun j =>
        !maskedPair r.tab (if w.var = 0 then r.mode % 4 else if w.var = 1 then 2 else 1) ((s'.sm .V).ireg 0).toNat (s'.segPos j)))⟩] (some 6))

/-! ### The matrix stream -/

/-- A tile step of MMA, MMAT or MMAS whose checks pass opens or joins the loop of its tile and runs its steps; one whose guard leaves no step
only issues; one stopped inside its steps goes on from where it stands with the pair its slot held when it began. One that meets a stop point
stands there, and one that meets a cause takes it with the row it had reached (R193 to R206, R247). -/
def Obligations.TileStepWords : Prop :=
  ∀ (s s' : State) (w : W192) (m : Mask) (op : Nat) (i : Instr), (op = 0 ∧ i = .mma w ∨ op = 1 ∧ i = .mmat w ∨ op = 2 ∧ i = .mmas w) →
    enabledM s (hd192 w) (stepReads op w) m s' →
    (s'.stepCount w = 0 → exec i s = issuedM s' (hd192 w) s') ∧
    (∀ u e r, s'.stepCount w ≠ 0 →
      (s'.core.within = none ∧ s'.joinLoop w op (s'.stepCount w) = .ok (u, e) ∨
        (∃ h, s'.core.within = some h ∧ e = s'.mEntry w op (s'.stepCount w) h.slot) ∧ s'.checkSteps w e = .ok () ∧ u = s') →
      r = u.runSteps w.tile.toNat e →
      (r.2 = none → exec i s = issuedM s' (hd192 w) r.1) ∧
      (r.2 = some .wait → (r.1.standM.core.mstop = true ∨ r.1.standM.dev.hold = some 0) → exec i s = .next r.1.standM) ∧
      (∀ c a d, r.2 = some (.cause c a d) → exec i s = raisedM r.1 w.tile.toNat c a d))

/-- MZERO and MINIT set a tile outside a loop, MCAL adds to its caliper, MSETK sets its limits, MWIDE sets the level of a loop that has run no
step yet (R202, R207, R209 to R211). -/
def Sys2Proof.Claims.tileSetupWords : Prop :=
  ∀ (s s' : State) (w : W192) (m : Mask) (k : Nat) (t : Tile), k = w.tile.toNat → t = s'.tl k → enabledM s (hd192 w) (fun _ => []) m s' →
    (t.f = false → exec (.mzero w) s = issuedM s' (hd192 w) (s'.setTl k t.zeroed)) ∧
    (∀ fa fw u, t.f = false → (w.acc = false ∨ t.v = true) → frozenOf (s'.core.aregNew w.areg.toNat) 2 0x200000 = .ok fa →
      frozenOf (s'.core.aregNew w.breg.toNat) 1 0x180000 = .ok fw → u = s'.openTile k (!w.acc) false →
      exec (.minit w) s = issuedM s' (hd192 w) (u.setTl k { u.tl k with fra := fa, frw := fw })) ∧
    (∀ o x, t.v = true → t.f = false → s'.plainAddr w 4 4 false = .ok o → x = BitVec.ofNat 32 (leNat (s'.core.aRead o 4)) →
      exec (.mcal w) s = issuedM s' (hd192 w) (s'.setTl k { t.fold with
        cal := if isNaN32 x then 0x7F800000 else roundUp (qAdd (xv32 t.fold.cal) (xvAbs (xv32 x))) })) ∧
    (∀ o v, s'.plainAddr w 8 8 false = .ok o → v = leNat (s'.core.aRead o 8) → v < 2 ^ 48 →
      exec (.msetk w) s = issuedM s' (hd192 w) (s'.setTl k { t with
        satl := BitVec.ofNat 16 v, nanl := BitVec.ofNat 16 (v / 2 ^ 16), bsol := BitVec.ofNat 16 (v / 2 ^ 32) })) ∧
    (t.f = true → t.ran = false → exec (.mwide w) s = issuedM s' (hd192 w) (s'.setTl k (t.setLvl w.reissue.toNat)))

/-- MRET of a tile in a loop runs the checks and replays of its loop and, when they pass within the limits, closes the loop unless the word
keeps it open, and sets the cost count to 0; outside a loop it takes 0x0A6. It compares with one value of its threshold, which it keeps while
it waits inside a replay (R203, R204, R226 to R231): that it keeps this value, and that the term of R221 enters the caliper at every
execution of MRET, is how the model reads the rules (log entries 98 and 41). -/
def Sys2Proof.Claims.mretWord : Prop :=
  ∀ (s s' u : State) (w : W192) (m : Mask) (k : Nat) (t : Tile), k = w.tile.toNat → t = (s'.tl k).fold →
    enabledM s (hd192 w) (fun _ => []) m s' →
    ((s'.tl k).f = false → exec (.mret w) s = raisedM s' k 0x0A6 0 0) ∧
    (∀ kth x, (s'.tl k).f = true → kth = (s'.core.within.bind (fun h => h.kth)).getD (s'.core.csr (0x3E0 + w.kth.toNat)) →
      State.mretLoop k w.reissue.toNat kth 6 (s'.setTl k (if t.lvl = 2 then t.foldComp else t)) = (u, x) →
      (∀ v, x = none → (u.tl k).limitsOk = .ok () → v = (if w.acc then u else u.closeLoop k) →
        exec (.mret w) s = issuedM s' (hd192 w) (v.setCore { v.core with cost := 0, within := none, mstop := v.stopping })) ∧
      (x = some .wait → u.core.mstop = false → ∃ v n, exec (.mret w) s = .next v ∧ v.core.within = some ⟨none, none, some kth, some n, none⟩) ∧
      (∀ c a d, x = some (.cause c a d) ∨ x = none ∧ (u.tl k).limitsOk = .error (.cause c a d) → u.core.standNum .M = none →
        exec (.mret w) s = raisedM (u.setCore { u.core with within := none }) k c a d))

/-- MDRAIN writes a valid, closed tile whose register sums hold to rows of the A-buffer, with scales, or to vector registers; MSPILL and MFILL
move a whole tile to the A-buffer and back; MSTAT writes its record; MCHK passes when every block agrees with the loader's sums
(R208, R212 to R214, R234). -/
def Sys2Proof.Claims.tileMoveWords : Prop :=
  ∀ (s s' : State) (w : W192) (m : Mask) (k f : Nat) (t : Tile), k = w.tile.toNat → f = w.afmt.toNat → t = (s'.tl k).fold →
    enabledM s (hd192 w) (fun _ => []) m s' →
    (∀ a b rs os im sc u, (s'.tl k).v = true → (s'.tl k).f = false → (t.int = true → f = 5 ∨ f = 0) → (t.int = false → f ≠ 5) →
      t.sumsOk allRows = .ok () → a = s'.core.aregNew w.areg.toNat → b = s'.core.aregNew w.breg.toNat → rs = aStride a w.arsc.toNat →
      allRows.mapM (fun (i : Nat) => s'.aPlace (some a) (fmtBytes f 128)
        (if rs % (elemSize f : Int) ≠ 0 then 0 else strAlign w.aoff.toInt f) true
        (wrap64 ((strPtr a w.aoff.toInt f : Int) + (i : Int) * rs))) = .ok os →
      im = t.image f 0 →
      (match im.scales with
        | some b8 => (s'.aPlace (some b) 128 1 true (wrap64 ((b.base.toNat : Int) + w.boff.toInt))).map (fun o => [(o, b8)])
        | none => .ok []) = .ok sc →
      u = s'.setTl k ((t.count im.sat im.nan 0).setBit 1 false) →
      exec (.mdrain w) s = issuedM s' (hd192 w) (u.setCore (u.core.aWrites im.bound (os.zip im.rows ++ sc)))) ∧
    (∀ x q u c, t.v = true → t.f = false → f = (if t.int then 5 else 0) → x = w.aoff.toNat % 64 → q = w.aoff.toNat / 64 % 128 →
      t.sumsOk (List.range' q w.kcount.toNat) = .ok () → u = s'.setTl k t →
      c = (List.range w.kcount.toNat).foldl (fun c i => c.putVreg (x + i) (BitVec.allOnes 128) (t.row (q + i))) u.core →
      exec (.mdrainRegister w) s = issuedM s' (hd192 w) (u.setCore c)) ∧
    (∀ o u b, (s'.tl k).f = false → t.sumsOk allRows = .ok () → s'.plainAddr w 65600 64 true = .ok o → u = s'.setTl k t →
      b = t.record ++ (if t.v then t.rows.flatMap (fun r => r.flatMap (fun x => toLE 4 x.toNat)) else List.replicate 65536 0) →
      exec (.mspill w) s = issuedM s' (hd192 w) (u.setCore (u.core.aWrite o b t.cal))) ∧
    (∀ o r e, (s'.tl k).f = false → s'.plainAddr w 65600 64 false = .ok o → r = Tile.ofRecord .zero (s'.core.aRead o 64) → recordOk r = true →
      e = chunk128 ((words4 (s'.core.aRead (o + 64) 65536)).map (fun c => BitVec.ofNat 32 c)) →
      exec (.mfill w) s = issuedM s' (hd192 w) ((s'.setCore (s'.core.undrained k)).setTl k (r.setRows e).keepSums)) ∧
    (∀ o, s'.plainAddr w 64 64 true = .ok o →
      exec (.mstat w) s = issuedM s' (hd192 w) (s'.setCore (s'.core.aWrite o (s'.tl k).record 0))) ∧
    (∀ b p n, b = s'.core.aregNew w.breg.toNat → p = strPtr b w.boff.toInt w.bfmt.toNat → n = fmtBytes w.bfmt.toNat 16384 →
      bits p 59 21 = 0 → winOff 1 p + w.kcount.toNat * n ≤ 0x180000 →
      s'.checkOnly ⟨[1], none, w.kcount.toNat * n, blkAlign w.boff.toInt w.bfmt.toNat, false, 4⟩ (some b) p = .ok () →
      (∀ i, i < w.kcount.toNat → s'.core.blockSumsOk w.bfmt.toNat (winOff 1 p + i * n) = true) →
      exec (.mchk w) s = issuedM s' (hd192 w) s')

/-- The other matrix words complete. -/
def Obligations.TileControlWords : Prop := Claims.tileSetupWords ∧ Claims.mretWord ∧ Claims.tileMoveWords

namespace Sys2Proof.Claims
open Machine

/-- The state in which an event of core k happens. -/
def onto (s : State) (k : Nat) : State := { s with cur := k }

/-- The outcome of an event of a core that leaves v: the POSTs it allows are raised after it. -/
def posted (v : State) : Out1 := .next v.flushPosts

/-- The first entry of a store queue for a window that has something to perform is ent, of which an event of n elements that pass a test makes the
pieces l and leaves the pieces r. -/
def nextStore (s : State) (k : Nat) (t : Strm) (win n : Nat) (f : StoreOp → Bool) (ent : StoreEnt) (l r : List StoreElem) : Prop :=
  ((s.coreOf k).strm t).oldest win f = some ent ∧ s.mayPerform k t ent = true ∧ ent.pieces n f = (l, r)

/-- What is left of the entry ent in the store queue of a stream of core k of v: the pieces r, or nothing. -/
def leaves (v : State) (k : Nat) (t : Strm) (win : Nat) (ent : StoreEnt) (r : List StoreElem) : Prop :=
  if r = [] then ∀ x ∈ ((v.coreOf k).strm t).stores, ¬(x.seq = ent.seq ∧ x.win = win)
  else (((v.coreOf k).strm t).stores.find? (fun x => x.win == win && !x.elems.isEmpty)).map (fun x => (x.seq, x.elems)) = some (ent.seq, r)

/-- A piece of a store-queue entry at a place of memory that stands: no frame of it is lost or poisoned. -/
def atHome (s : State) (e : StoreElem) : Prop :=
  (∃ q g, e.place = .phys q g) ∧ e.place.segs.any (fun c => s.homeLost c.pa) = false ∧ s.placePoisoned e.place = false

/-- A piece at a place that stands, and that the version which admitted it still admits. -/
def standing (s : State) (e : StoreElem) : Prop := atHome s e ∧ e.tag.all s.tagHolds = true

/-- Memory m with one piece performed on it: bytes written, an atomic of Table 11-1, or an update of STADD and STAXPY. -/
noncomputable def pieceMem (s : State) (m : List Host.Cell) (e : StoreElem) : List Host.Cell :=
  let g := e.place.segs
  let old := leNat ({ s with mem := m }.readSegs g)
  match e.op with
  | .write d => storeAround m s.imageSegs g d
  | .atom op wide b cmp _ =>
    let w := if wide then 64 else 32
    if op = 9 ∧ old ≠ cmp.toNat % 2 ^ w then m
    else storeAround m s.imageSegs g (toLE (w / 8) (atomNew op w old (b.toNat % 2 ^ w) (cmp.toNat % 2 ^ w)))
  | .fma fmt rm alpha src => storeAround m s.imageSegs g (toLE (fmtBytes fmt 1) (fmaElem fmt rm alpha src old))
  | _ => m

/-- Work number n of stream t's queue on core k meets a cause when no handler runs and none is held back by loads: it and what the stream has
queued after it are set aside, and the cause is taken as at the word's issue, after `first`. -/
def takesQueued (s : State) (k : Nat) (t : Strm) (n tl pc elem : Nat) (first : State → State) (c a d : Nat) (o : Out1) : Prop :=
  ∀ u, u = (onto s k).setCore ((s.coreOf k).freeze t n) → (s.ctxOf (s.ctxNoOf k)).st = .running → (s.coreOf k).hand = none →
    u.owedFirst c = false →
    o = posted ((first u).raiseAt t ⟨strmNo t, tl, pc, if t = .L ∨ t = .S then elem else 0, 0⟩ (some (u.sm t).pc) c a d)

/-- A load that delivers what it has read as it stands: neither LDT, which checks the version's sum, nor LDSH, which goes on to a table. -/
def plainLoad (e : LoadEnt) : Bool :=
  match e.fin with
  | .tile _ _ _ _ _ _ => false
  | .shape _ _ _ => false
  | _ => true

/-- The oldest load of stream t of core k is e, with no other of its number behind it, and may bind the places l next, none of them poisoned:
with them it has bound the bytes got. -/
def binds (s : State) (k : Nat) (t : Strm) (a : Arrival) (e : LoadEnt) (r : List LoadEnt) (l : List (Place × Nat)) (got : List Byte) : Prop :=
  ((s.coreOf k).strm t).loads = e :: r ∧ (∀ x ∈ r, x.seq ≠ e.seq) ∧ l = e.next a.k ∧ (s.coreOf k).loadReady t e l = true ∧
    a.data.length = s.otherBytes l ∧ (∀ p ∈ l, s.placePoisoned p.1 = false) ∧ got = e.got ++ (onto s k).gatherBytes k l a.data

/-- An address outside a list of segments. -/
def outside (g : List Seg) (a : Nat) : Prop := ∀ c ∈ g, a < c.pa ∨ c.pa + c.len ≤ a

end Sys2Proof.Claims

/-! ### What completes the work a core has issued -/

/-- LOAD_DATA_ARRIVAL lets the oldest load of a stream bind the next elements of its sources once nothing they read is still carried in the core:
memory and every other core stay; until it has bound them all the load stands with the bytes so far, then it leaves the queue, and a load of
a register gives it the bytes read at its address, the 4 bytes of LDW sign-extended (R108, R127, R259). -/
def Sys2Proof.Claims.loadBinds : Prop :=
  ∀ (s : State) (k : Nat) (t : Strm) (e : LoadEnt) (r : List LoadEnt) (a : Arrival) (l : List (Place × Nat)) (got : List Byte),
    binds s k t a e r l got → plainLoad e = true →
    ∃ v, exec (.loadDataArrival k t a) s = posted v ∧ v.mem = s.mem ∧ (∀ j, j ≠ k → v.coreOf j = s.coreOf j) ∧
      (got.length < (e.sources.map (fun p => p.2)).sum → ((v.coreOf k).strm t).loads = { e with got := got } :: r ∧
        ∀ d, (v.coreOf k).sreg d = (s.coreOf k).sreg d) ∧
      ((e.sources.map (fun p => p.2)).sum ≤ got.length → ((v.coreOf k).strm t).loads = r ∧
        ∀ d n p x, e.fin = .creg d n p → d ≠ 0 → got.length = n → x = leNat got →
          (v.coreOf k).sreg d = if n = 4 then sx64 (BitVec.ofNat 32 x) else BitVec.ofNat 64 x)

/-- An LDT whose version stands where it stood delivers its data when their CRC is the header's, into a tile register with the header's bound; else
its data are free values, its version is LOST and it waits to read it again (R142, R143). An LDSH whose header is in order goes on to its table,
and with its table in order fills its slot with the record's pointer and version (R240, R245). -/
def Sys2Proof.Claims.tileAndShapeArrive : Prop :=
  ∀ (s u : State) (k : Nat) (t : Strm) (e : LoadEnt) (r : List LoadEnt) (a : Arrival) (l : List (Place × Nat)) (got : List Byte),
    binds s k t a e r l got → (e.sources.map (fun p => p.2)).sum ≤ got.length → u = (onto s k).setLoad t { e with got := got } →
    (∀ f p h ver dsts reg g hd, e.fin = .tile f p h ver dsts reg → s.tilePlace k h ver f = .ok (p, g) → u.tilePlace k h ver f = .ok (p, g) →
      hd = s.readSegs g →
      ((crc64 got).toNat = fieldLE hd 0x18 8 → ∃ v, exec (.loadDataArrival k t a) s = posted v ∧ ((v.coreOf k).strm t).loads = r ∧
        ∀ n, reg = some n → n < 8 → (v.coreOf k).tile n =
          ((s.coreOf k).tile n).loaded (decide (f = 5)) (tileRows f got) (asBound (BitVec.ofNat 32 (fieldLE hd 0x14 4))) h ver) ∧
      ((crc64 got).toNat ≠ fieldLE hd 0x18 8 →
        exec (.loadDataArrival k t a) s = posted ((u.setLoad t { e with got := [] }).tileFail f h ver dsts reg))) ∧
    (∀ m src tab y, e.fin = .shape m src tab → u.shapeHeader src.ptr (got.take 256) = .ok y →
      (∀ q, y = some q → tab = none →
        exec (.loadDataArrival k t a) s = posted ((u.touch u.ctxNo q.1.dies).setLoad t { e with got := got, fin := .shape m src (some q) })) ∧
      (y = none ∨ tab ≠ none → ascending (words4 (got.drop 256)) = true → ∃ v, exec (.loadDataArrival k t a) s = posted v ∧
        ((v.coreOf k).strm t).loads = r ∧ find? (v.coreOf k).slots m = some (src.ptr, fieldLE (got.take 256) 8 4)))

/-- A load that meets a poisoned frame, translated again, meets its cause before it binds anything: it and the loads behind it are set aside and the
cause is raised precisely at its word (R362, R366, R415), in the way of the model's log entry 95. -/
def Sys2Proof.Claims.poisonedLoad : Prop :=
  ∀ (s : State) (k : Nat) (t : Strm) (e : LoadEnt) (r : List LoadEnt) (a : Arrival) (l : List (Place × Nat)) (p : Place × Nat) (c q d : Nat),
    ((s.coreOf k).strm t).loads = e :: r → s.loadNow k e = .ok e → p :: l = e.next a.k → (s.coreOf k).loadReady t e (p :: l) = true →
    a.data.length = s.otherBytes (p :: l) → (onto s k).refresh k false e.kind p.1 = .error (.cause c q d) →
    takesQueued s k t e.seq e.tl e.pc (e.elemAt (e.got.length + (if q = 0 then 0 else (q + 2 ^ 64 - p.1.ptr) % 2 ^ 64))) id c q d
      (exec (.loadDataArrival k t a) s)

/-- Loads bind their elements, and deliver. -/
def Obligations.LoadDataArrives : Prop := Claims.loadBinds ∧ Claims.tileAndShapeArrive ∧ Claims.poisonedLoad

/-- A store event performs any number of elements of the oldest entry of its window, when no store of another stream goes before it: memory holds what
they write and read-modify-write, in their order, no byte outside them changes, and what is left of the entry stays in the queue. A single run
of bytes outside kernel images reads back as written. A write to a tile page of a version that has left the state that admitted it changes no
byte, and one whose frame has been poisoned and whose page, translated again, meets a cause takes that cause precisely (R261, R362,
R366, R383). How it stops its stream is the model's reading (log entry 95). -/
def Obligations.StorePerforms : Prop :=
  ∀ (s : State) (k win n : Nat) (t : Strm) (ent : StoreEnt) (l r : List StoreElem), nextStore s k t win n StoreOp.isWrite ent l r →
    ((∀ e ∈ l, standing s e) → win ≠ 6 → ∃ v, exec (.memoryWritePerform k t win n) s = posted v ∧ v.mem = l.foldl (pieceMem s) s.mem ∧
      leaves v k t win ent r ∧ (∀ a, (∀ e ∈ l, outside e.place.segs a) → look 0 v.mem a = look 0 s.mem a) ∧
      (∀ p q m d tag x i, l = [⟨.phys p [⟨q, m⟩], .write d, tag, x⟩] → d.length = m → i < m → overlap [⟨q, m⟩] s.imageSegs = false →
        look 0 v.mem (q + i) = d.getD i 0)) ∧
    (∀ p g d tag x, l = [⟨.phys p g, .write d, tag, x⟩] → g.any (fun c => s.homeLost c.pa) = false → s.placePoisoned (.phys p g) = false →
      tag.all s.tagHolds = false → ∃ v, exec (.memoryWritePerform k t win n) s = posted v ∧ sameMem s v) ∧
    (∀ e l' g c a d, l = e :: l' → e.place.segs = g → (∃ p, e.place = .phys p g) → g.any (fun c => s.homeLost c.pa) = false →
      (onto s k).placeNow k e = .error (.cause c a d) →
      takesQueued s k t ent.seq ent.tl ent.pc (e.elemAt ent.esz a) id c a d (exec (.memoryWritePerform k t win n) s))

/-- Atomics that perform at their home, any number of elements of an entry, combine memory with their operands as Table 11-1 says, in their order,
and change no other byte; one that returns a value gives its register the old one. Ordered updates and contributions of a barrier that is
neither IDLE nor BROKEN are held for its phase and leave memory as it is (R274, R283). That the first piece of a D-page STT alone carries the
count of Table 5-10 is the model's reading (log entry 48). -/
def Sys2Proof.Claims.atomicsAndUpdatesLand : Prop :=
  ∀ (s : State) (k win n : Nat) (t : Strm) (ent : StoreEnt) (l r : List StoreElem), win ≠ 6 → (∀ e ∈ l, atHome s e) →
    (nextStore s k t win n StoreOp.isAtomic ent l r → (∀ e ∈ l, e.tag.all s.tagHolds = true ∧ ∃ op wide b cmp dst, e.op = .atom op wide b cmp dst) →
      ∃ v, exec (.atomicPerform k t ⟨win, n⟩) s = posted v ∧ v.mem = l.foldl (pieceMem s) s.mem ∧ leaves v k t win ent r ∧
        (∀ a, (∀ e ∈ l, outside e.place.segs a) → look 0 v.mem a = look 0 s.mem a) ∧
        (∀ p g op wide b cmp (d : Reg) tag x, l = [⟨.phys p g, .atom op wide b cmp (some d.toNat), tag, x⟩] → d ≠ 0 →
          (v.coreOf k).sreg d = atomRet wide (leNat (s.readSegs g)))) ∧
    (∀ hs : List DHeld, nextStore s k t win n StoreOp.isHeld ent l r → (ent.isTile = false ∨ l.length = 1) →
      l.map (fun e => match e.op with
        | .dwrite d bar key ph => (s.landPhase bar ph).map (fun q => ({
            cnt := if ent.isTile && s.dheld.any (fun h => h.bar == bar && h.phase == q.1 && h.key.f1 == key.f1 && h.key.f2 == key.f2 &&
              h.key.f3 == key.f3 && h.core == k) then 0 else ent.staleFor d.length,
            bar := bar, phase := q.1, fixed := q.2, core := k, mem := s.memberNo k, strm := strmNo t, ctx := s.ctxNoOf k, key := key,
            segs := e.place.segs, data := d, tag := e.tag } : DHeld))
        | _ => none) = hs.map some →
      ∃ v, exec (.dPageWriteLand k t win n) s = posted v ∧ v.mem = s.mem ∧ v.dheld = s.dheld ++ hs ∧ leaves v k t win ent r) ∧
    (∀ e key lid pos x bar ph p f, nextStore s k .C win 0 StoreOp.isAredo ent [e] r → l = [e] → e.op = .ared key lid pos x bar ph →
      s.landPhase bar ph = some (p, f) →
      ∃ v, exec (.aredoLand k win) s = posted v ∧ v.mem = s.mem ∧
        v.aheld = s.aheld ++ [{ bar := bar, phase := p, fixed := f, core := k, die := engineDie (segAddr e.place.segs 0),
                                pa := segAddr e.place.segs 0, key := key, lid := lid, pos := pos, val := x, ctx := s.ctxNoOf k, tag := e.tag }])

/-- What a core's store queue carries to its place: a BARA whose release is satisfied arrives and gives its register the phase, or takes 0x147
where it arrives once too often; an RPUBL or RRELS publishes or releases its ticket, or faults its queue with cause 0x046 when another word
has done so first, or takes 0x090 on a queue that has ended; an RCLAIM takes a ticket of an ACTIVE queue with a free slot when it is its turn, in
its nw form answers 0 when the queue is full, waits in order otherwise, and takes 0x090 where the queue has ended (R298, R313, R316 to R318,
R321). That RCLAIM waits in the store queue and is set aside by a stop is the model's reading (log entry 50). -/
def Sys2Proof.Claims.releasesAct : Prop :=
  ∀ (s : State) (k win : Nat) (t : Strm) (ent : StoreEnt) (e : StoreElem) (r : List StoreElem) (o : Out1), win ≠ 6 →
    nextStore s k t win 1 StoreOp.isAtomic ent [e] r → atHome s e → o = exec (.atomicPerform k t ⟨win, 1⟩) s →
    (∀ (dst : Reg) b, e.op = .arrive none dst.toNat → dst ≠ 0 → b = segAddr e.place.segs 0 →
      (∀ ph u, (onto s k).arrive b (s.ctxNoOf k) = .ok ph u →
        ∃ v, o = posted v ∧ v.mem = u.mem ∧ (v.coreOf k).sreg dst = BitVec.ofNat 64 ph) ∧
      ((onto s k).arrive b (s.ctxNoOf k) = .refused → takesQueued s k t ent.seq ent.tl ent.pc e.idx id 0x147 0 0 o)) ∧
    (∀ q j rel, e.op = .qtag q j rel →
      (∀ u, (onto s k).ringAct q j rel = some u → ∃ v, o = posted v ∧ v.mem = u.mem ∧ v.queueOf q = u.queueOf q) ∧
      ((onto s k).ringAct q j rel = none →
        ((s.queueOf q).st = .active ∨ (s.queueOf q).st = .draining →
          takesQueued s k t ent.seq ent.tl ent.pc e.idx (fun u => u.faultQueue q) 0x046 0 0 o) ∧
        ((s.queueOf q).st = .disabled ∨ (s.queueOf q).st = .faulted → takesQueued s k t ent.seq ent.tl ent.pc e.idx id 0x090 0 0 o))) ∧
    (∀ q nw (dst : Reg) ended y, e.op = .qclaim q nw dst.toNat ended → dst ≠ 0 → y = s.queueOf q →
      (ended = true ∨ y.st ≠ .active → takesQueued s k t ent.seq ent.tl ent.pc e.idx id 0x090 0 0 o) ∧
      (ended = false → y.st = .active →
        (y.full = true → nw = true → ∃ v, o = posted v ∧ v.mem = s.mem ∧ (v.coreOf k).sreg dst = 0 ∧ (v.queueOf q).t = y.t) ∧
        (y.full = true → nw = false → o = posted ((onto s k).setQueueOf q { y with waitC := joinWait y.waitC k })) ∧
        (∀ u, y.full = false → s.turnOf y.ctx k y.waitC = true → State.decision (onto s k) 1 q .C 0 0 = .ok u →
          ∃ v, o = posted v ∧ (v.coreOf k).sreg dst = BitVec.ofNat 64 (y.slotPtr y.t) ∧ (v.queueOf q).t = (y.t + 1) % 2 ^ 32 ∧
            (v.queueOf q).claims = (y.t, u.taskNoOf k) :: y.claims)))

/-- Atomics, ordered updates and releases act. -/
def Obligations.AtomicsAndOrderedUpdatesLand : Prop := Claims.atomicsAndUpdatesLand ∧ Claims.releasesAct

/-- What ends a wait: a marker whose streams have completed its numbers is delivered and retires; a CLOSED barrier with no pending bytes and no
outstanding acknowledgement of a marking core releases its phase; a poll whose condition memory meets wakes its core, as the end of a SLEEP
does, unless a store that its core carries covers it, and one whose doubleword is poisoned ends to take its cause; a translation enters the core's micro-TLB from its die's TLB or from a walk, which enters
both, and one that faults leaves nothing; a refill fills the entry a waiting word wants, or gives the word its cause (R120, R242, R246, R271,
R272, R304, R364). -/
def Obligations.WaitsEnd : Prop :=
  ∀ (s : State) (k : Nat),
    (∀ i m, (s.coreOf k).marks[i]? = some m → s.markerReady k m = true →
      ∃ u, u = (onto s k).markArrive m.bar m.phase ∧
        exec (.markerRetire k i) s = posted (u.setCore { u.core with marks := u.core.marks.filter (fun e => e.cmd != m.cmd),
                                                                     cS := u.core.cS.finishNum m.cmd })) ∧
    (∀ b x, s.barOwner b = some x → (s.bar b).st = 2 → (s.bar b).pend = 0 → s.acksIn b = true →
      exec (.barrierPhaseRelease b) s =
        .next ((s.releaseBar x ((((s.coresOfCtx x).find? (fun c => c.1 == 0)).map (fun c => c.2)).getD 0) b).checkHeads x)) ∧
    (∀ w v p, (s.coreOf k).wait = .poll w → v = BitVec.ofNat 64 (s.readN w.pa 8) → p = .phys w.ptr [⟨w.pa, 8⟩] →
      (s.placeBad p = true → exec (.waitaPoll k) s = .next (s.setCoreOf k { s.coreOf k with wait := .none })) ∧
      (s.placeBad p = false → s.homeLost w.pa = false → (s.coreOf k).covered .C (.phys 0 [⟨w.pa, 8⟩]) = false →
        exec (.waitaPoll k) s = if waitHolds w v then .next (s.wake k v) else .next s)) ∧
    (∀ n, (s.coreOf k).sleep = some n → exec (.sleepExpiry k) s = .next (s.setCoreOf k { s.coreOf k with sleep := some 0 })) ∧
    (∀ x win va u d, win = 4 ∨ win = 5 → x = s.ctxNoOf k → d = dieOfCore k → (s.coreOf k).utlb.any (fun t => t.covers x win va) = false →
      (∀ t c, u = s.setCoreOf k { c with utlb := (t :: c.utlb).take 64 } → c = s.coreOf k →
        (s.dieOf d).tlb.find? (fun t => t.covers x win va) = some t → exec (.translationWalk ⟨k, 0⟩ win va) s = .next u) ∧
      ((s.dieOf d).tlb.find? (fun t => t.covers x win va) = none →
        (∀ l t v, walkRoot s x win va false = .ok l → t = ⟨x, win, va / l.size * l.size, l.size, l.leaf⟩ →
          v = s.setDieOf d { s.dieOf d with tlb := (t :: (s.dieOf d).tlb).take 4096 } →
          u = v.setCoreOf k { v.coreOf k with utlb := (t :: (v.coreOf k).utlb).take 64 } → exec (.translationWalk ⟨k, 0⟩ win va) s = .next u) ∧
        (∀ c, walkRoot s x win va false = .error c → exec (.translationWalk ⟨k, 0⟩ win va) s = .next s))) ∧
    (∀ (t : Strm) a v u, (s.coreOf k).want.find? (fun w => w.1 == t) = some (t, a, v) → ((s.coreOf k).strm t).run = true →
      ((s.coreOf k).strm t).waiting = true → (s.ctxOf (s.ctxNoOf k)).st = .running →
      u = (onto s k).setCore ((s.coreOf k).noWant t) →
      (u.core.blaze.any (fun b => b.addr == a && b.ver == v) = true → exec (.blazeCacheRefill k t) s = posted u) ∧
      (u.core.blaze.any (fun b => b.addr == a && b.ver == v) = false →
        (∀ e ds w, (onto s k).refillRec t a v = .ok (e, ds) → w = u.touch u.ctxNo ds →
          exec (.blazeCacheRefill k t) s = posted (w.setCore { w.core with blaze := (e :: w.core.blaze).take 16 })) ∧
        (∀ c p d, (onto s k).refillRec t a v = .error (.cause c p d) → exec (.blazeCacheRefill k t) s = posted (u.raise t (u.siteE t 0) c p d))))

/-! ### The scheduler -/

/-- DISPATCH_REQUEST of a free core of a RUNNING context is served by its die's pool unless a claimed gang of the context, in any pool of its
partition, still lacks cores: then it and GANG_CORE_HOLD hold every free core of the context for such a gang, in ascending order. TASK_QUEUE_TAKE
takes the head of a task queue, releases its slot in the same step (the model's choice, log entry 55), and its READY task enters its pool.
LAUNCH_START applies the patches of the oldest accepted launch and creates its tasks with the next launch number; a patch that meets a poisoned frame
gives the context 0x084 (R329, R330, R333). -/
def Sys2Proof.Claims.schedulerTakesWork : Prop :=
  ∀ (s : State) (k x : Nat), x = s.ctxNoOf k →
    ((s.ctxOf x).st = .running → s.freeCore x k = true → s.forming x = none → exec (.dispatchRequest k) s = .next (s.request x k)) ∧
    ((s.ctxOf x).st = .running → s.freeCore x k = true → (s.forming x).isSome = true → exec (.dispatchRequest k) s = .next (s.holdFree x)) ∧
    (s.freeCore x k = true → exec (.gangCoreHold k) s = .next (s.holdFree x)) ∧
    (∀ i t, (s.ctxOf x).st = .running → s.freeCore x k = true → s.forming x = some (i, t) →
      s.holdCore x k = (s.setTask i { t with cores := t.cores ++ [(k, s.lcoreOf k)] }).formGang i) ∧
    (∀ q n j, n = s.queueOf q → n.kind = 0 → (n.st = .active ∨ n.st = .draining) → s.qReady n = true → j = n.h →
      ∃ u, u = (s.setQueueOf q { n with h := (j + 1) % 2 ^ 32 }).qRelease q j ∧
        (∀ i t, u.tasks.find? (fun e => e.2.origin == .queue q j false) = some (i, t) → t.st = .ready →
          exec (.taskQueueTake q) s = .next (((u.setTask i { t with origin := .queue q j true }).enterPool i).checkHeads t.ctx)) ∧
        (∀ i t, u.tasks.find? (fun e => e.2.origin == .queue q j false) = some (i, t) → t.st ≠ .ready →
          exec (.taskQueueTake q) s = .next (u.setTask i { t with origin := .queue q j true })) ∧
        (u.tasks.find? (fun e => e.2.origin == .queue q j false) = none → exec (.taskQueueTake q) s = .next u)) ∧
    (∀ slot g l r w, s.graphOf slot = some g → g.launches = l :: r → l.started = false →
      (s.ctxOf g.ctx).st ∉ [.free, .dead, .trapped] → ((s.ctxOf g.ctx).st = .draining → (s.ctxOf g.ctx).stop = none) →
      (∀ u n, State.patchAll g l.patches s = (.ok u, w) → n = (u.ctxOf g.ctx).launch →
        exec (.launchStart slot) s = .next ((((u.setCtxOf g.ctx { u.ctxOf g.ctx with launch := (n + 1) % 2 ^ 32 }).setGraph slot
          { g with launches := { l with started := true } :: r }).createTasks slot n g l.entries).checkHeads g.ctx)) ∧
      (∀ a d, State.patchAll g l.patches s = (.error (a, d), w) → exec (.launchStart slot) s = .next (w.raiseCtx g.ctx 0x084 a d 0)))

/-- TASK_COMPLETION of a task whose members have all ended frees its cores, for a gang that lacks some first, runs the completion combiner and lets
its RETIRED kernel go;
KERNEL_VERIFICATION of a LOADED image makes it VERIFIED with its measurement, or records why not; REBUILD_ENQUEUE creates a rebuild run whose
operands are all there, in its pool; RECOVERY_STARVED gives cause 0x1A6 when every core waits for a version still away while a rebuild run waits
for a core (R99, R331, R399). -/
def Sys2Proof.Claims.schedulerEndsWork : Prop :=
  ∀ (s : State) (i : Nat) (t : Task),
    (∀ u v, find? s.tasks i = some t → t.finished = true →
      u = (s.forEach t.cores (fun c s => s.setCoreOf c.1 (s.coreOf c.1).release)).setTask i { t with cores := [], group := none } →
      v = ((u.endTask ((t.cores.headD (0, 0)).1) i).retireKernel t.kslot).checkHeads t.ctx →
      exec (.taskCompletion i) s = .next (v.holdFree t.ctx)) ∧
    (∀ n img, (s.kernelOf n).st = .loaded → (s.kernelOf n).vstat = 0 → img = getBytes s.mem (s.kernelOf n).image (s.kernelOf n).ilen →
      (verifyImage img = 0 → exec (.kernelVerification n) s =
        .next ((s.setKernelOf n { s.kernelOf n with st := .verified }).measure 2 n ((img.drop 0x60).take 32))) ∧
      (verifyImage img ≠ 0 → exec (.kernelVerification n) s = .next (s.setKernelOf n { s.kernelOf n with vstat := verifyImage img }))) ∧
    (∀ (x : Nat) (lid : Word) en, s.rebuildRun x lid.toNat = none → s.runEntry x lid.toNat = some en → s.freeEntry = some i →
      s.runReady x lid.toNat = true → t = rebuildTask x en →
      exec (.rebuildEnqueue x lid) s = .next (((s.newTask i { t with level := s.runLevel x t.lid t.level }).makeReady i).checkHeads x)) ∧
    (∀ x, (s.ctxOf x).st = .running → t.ctx = x → t.st = .rebuild → (i, t) ∈ s.tasks →
      (∀ c ∈ s.coresOfCtx x, (s.coreOf c.2).task.isSome = true ∧ ∃ w ∈ (s.coreOf c.2).needs, s.verAway x w.1 w.2 = true) →
      exec (.recoveryStarved x) s = .next (s.raiseCtx x 0x1A6 0 0 0))

/-- The scheduler dispatches, launches, completes and verifies. -/
def Obligations.SchedulerEvents : Prop := Claims.schedulerTakesWork ∧ Claims.schedulerEndsWork

/-! ### Copies, replicas and recovery -/

/-- A transfer goes through the states of Table 16-4: COPY_START issues the oldest queued one of a die whose engine is in service and has
fewer than 8 issued; COPY_LANDED writes it in order; COPY_ACKED lowers PEND, counts the flag and lets it go; COPY_FAULTED ends one that cannot go on;
a checkpoint that is sent waits for its acknowledgement (R371, R372, R390). -/
def Sys2Proof.Claims.copyTransfers : Prop :=
  ∀ (s : State) (x q die n : Nat) (t : Xfer),
    (((s.ctxOf x).cq q).cmds.find? (fun t => t.die == die && t.st == .queued) = some t → (s.dieOf die).lost = false → s.issuedOn q die < 8 →
      exec (.copyStart x q die) s = .next (s.setXfer x q { t with st := .issued })) ∧
    (s.xferOf x q n = some t → t.st = .issued → s.xferFails x t = false → s.inOrder x q t = true →
      ((∀ send ord ckid vs recs, t.kind ≠ .ckpt send ord ckid vs recs) →
        exec (.copyLanded x q n) s = .next ((s.landXfer x q t).setXfer x q { t with st := .landed })) ∧
      (∀ send ord ckid vs recs, t.kind = .ckpt send ord ckid vs recs → s.drainable x vs = true → t.bytes = 0 →
        exec (.copyLanded x q n) s = .next (s.landCkpt x q t))) ∧
    (∀ ord ckid vs recs, s.xferOf x q n = some t → t.kind = .ckpt true ord ckid vs recs → t.st = .issued → t.bytes = 1 →
      exec (.checkpointDeliveryAcknowledged x q n) s = .next (s.setXfer x q { t with st := .landed, acked := true })) ∧
    (∀ u, s.xferOf x q n = some t → t.st = .landed →
      u = (match t.bar with
        | some b => s.subPend b t.bytes
        | none => s) →
      exec (.copyAcked x q n) s = .next ((((u.flagUpdate x t.core t.flag t.ftag (fun v => v + 1)).letGo x t).dropXfer x q n).send (.xferDone x q n))) ∧
    (s.xferOf x q n = some t → t.st ≠ .landed → s.xferFails x t = true → exec (.copyFaulted x q n) s = .next (s.faultXfer x q false t))

/-- REPLICA_COUNTED of a device in reach makes a SEALED version REPLICATED and trims its entry; REPLICA_LOST makes a REPLICATED one SEALED and
replicates it anew; REPLICA_TARGET_LOST starts replication again; a mirror arrives, is acknowledged or is retried; RECOVERY_WALK and COPY_BACK_VERIFIED follow R397, the copy back
by its CRC (R391, R394 to R397). -/
def Sys2Proof.Claims.replicasAndRecovery : Prop :=
  ∀ (s : State) (x v p n d die : Nat) (h : Word) (e : Ver),
    (s.versionAt x h.toNat v = some (p, n, e) →
      (e.st = .sealed → e.repl = .sent d →
        (s.devUp d = true → exec (.replicaCounted x h v) s =
          .next ((s.setVer x p n v { e with st := .replicated, repl := .counted d, relost := false }).trim x (handleFor p n) v)) ∧
        (s.devUp d = false → exec (.replicaCounted x h v) s = .next s) ∧
        exec (.replicaTargetLost x h v) s = .next (s.startRepl x (s.firstCore x) p n v)) ∧
      (e.st = .replicated → e.repl = .counted d → exec (.replicaLost x h v) s =
        .next ((s.setVer x p n v { e with st := .sealed, repl := .none, rimg := [], relost := true }).startRepl x (s.firstCore x) p n v)) ∧
      (∀ t hd data g, e.st = .rebuilding → e.repl = .counted d → e.run = none → s.poolOf x p = some t → hd = e.rimg.take 256 →
        data = e.rimg.drop 256 → g = s.verSegs x t n v e.frame →
        (fieldLE hd 0x18 8 = (crc64 data).toNat → exec (.copyBackVerified x h v) s =
          .next (((s.perform g.1 data).perform g.2 (t.headerIn n v e.frame hd)).setVer x p n v { e with st := .replicated })) ∧
        (fieldLE hd 0x18 8 ≠ (crc64 data).toNat → exec (.copyBackVerified x h v) s =
          .next ((((s.setVer x p n v { e with st := .lost, repl := .none, rimg := [] }).recover x ((s.allVers x).length + 1)
            (h.toNat, v)).raiseRebuilds x).checkHeads x)))) ∧
    exec (.recoveryWalk x h v) s = .next (((s.recover x ((s.allVers x).length + 1) (h.toNat, v)).raiseRebuilds x).checkHeads x) ∧
    ((s.dieOf die).lost = false →
      (∀ dev hh vv body, ∃ u, exec (.lineageMirrorArrival die (.store dev hh vv body)) s = .next u ∧
        (⟨dev, hh.toNat, vv, body⟩ : MirEnt) ∈ (u.dieOf die).mirrors) ∧
      (∀ dev hh vv, ∃ u, exec (.lineageMirrorArrival die (.trim dev hh vv)) s = .next u ∧
        ∀ m ∈ (u.dieOf die).mirrors, ¬(m.dev = dev ∧ m.handle = hh.toNat ∧ m.ver = vv)) ∧
      (∀ r en, s.fabric.replicas.find? s.reachable = some r → en ∈ (s.dieOf die).shard → en.mdev = none →
        ∃ u, exec (.lineageMirrorRetry die) s = .next u ∧ u.mem = s.mem ∧ { en with mdev := some r.dev, mack := false } ∈ (u.dieOf die).shard) ∧
      (∀ dev (hh : Word) vv en, en ∈ (s.dieOf die).shard → en.handle = hh.toNat → en.ver = vv → en.mdev = some dev →
        ∃ u, exec (.lineageMirrorArrival die (.ack dev hh vv)) s = .next u ∧ u.mem = s.mem ∧ { en with mack := true } ∈ (u.dieOf die).shard))

/-- Transfers, replicas, mirrors and recovery move on. -/
def Obligations.CopiesAndReplicas : Prop := Claims.copyTransfers ∧ Claims.replicasAndRecovery

/-! ### The fabric -/

/-- An access of another device to the exported window is performed in the owning context's pages and answered: a read returns their bytes, a write
stores its bytes, an atomic returns the old value; an access the window does not admit changes no memory (R429). -/
def Sys2Proof.Claims.remoteAccesses : Prop :=
  ∀ (s : State) (off : Nat),
    (∀ n g, s.exportSegs off n false = some g → exec (.remoteAccessArrival (.read n) off) s = .next (s.send (.remoteReply (s.readSegs g)))) ∧
    (∀ d g, s.exportSegs off d.length true = some g →
      exec (.remoteAccessArrival (.write d) off) s = .next ((s.perform g d).send .remoteAck)) ∧
    (∀ d, s.exportSegs off d.length true = none → exec (.remoteAccessArrival (.write d) off) s = .next (s.send .remoteAck)) ∧
    (∀ op wide a b g, op < 64 → s.exportSegs off (if wide then 8 else 4) true = some g →
      exec (.remoteAccessArrival (.atom op wide a b) off) s =
        .next ((s.atomAt g op wide a b).2.send (.remoteReply (toLE (if wide then 8 else 4) (s.atomAt g op wide a b).1)))) ∧
    (∀ n, s.exportSegs off n false = none → ∃ t, exec (.remoteAccessArrival (.read n) off) s = .next t ∧ t.mem = s.mem)

/-- WRITE_ACKNOWLEDGE takes the oldest window 0x6 access that was sent off its stream's queue and lowers the core's count, and a returning atomic's
register takes a value that the other device makes, free here; the order among the streams is the model's (log entry 108). A LINK data word completes
with a status it can have now; a multicast commits first, writing this device's own window, at its first completion with OK (log entry 109). A
collective of a joined member commits its result once, or completes its words without one once every LOCAL word has issued; a withdrawal breaks the
group; a recorded join of a member that leaves none out makes the group ACTIVE, and one of this device's own completes the oldest CGJOIN or
CGLEAVE that waits (R430, R432, R433, R436, R437, R439, R461). -/
def Sys2Proof.Claims.linkCompletions : Prop :=
  ∀ (s : State) (k l : Nat),
    (∀ c : CoreSt, (s.coreOf k).takeAck allStrms = some (none, c) →
      exec (.writeAcknowledge k) s = posted ((onto s k).setCoreOf k c) ∧ c.wacks = (s.coreOf k).wacks - 1) ∧
    (∀ (d : Reg) (wide : Bool) (c : CoreSt), (s.coreOf k).takeAck allStrms = some (some (d.toNat, wide), c) → d ≠ 0 →
      ∃ v x, exec (.writeAcknowledge k) s = posted v ∧ v.mem = s.mem ∧ (v.coreOf k).wacks = (s.coreOf k).wacks - 1 ∧
        x = Config.freeWord s.fresh ∧ (v.coreOf k).sreg d = if wide then x else sx64 (x.setWidth 32)) ∧
    (∀ n st o, (s.coreOf k).links.find? (fun o => o.cmd == n) = some o → s.linkCan o st = true →
      (o.isMcst = true → o.st = none → st = .ok →
        exec (.linkDataCompletion k n st) s = posted (((onto s k).exportWrite o.off o.data).setCoreOf k
          { ((onto s k).exportWrite o.off o.data).coreOf k with
            links := (((onto s k).exportWrite o.off o.data).coreOf k).links.map (fun e => if e.cmd = o.cmd then { e with st := some .ok } else e) })) ∧
      (o.isMcst = false ∨ o.st.isSome = true ∨ st ≠ .ok → exec (.linkDataCompletion k n st) s = posted ((onto s k).linkDone k o st))) ∧
    (∀ g op st, s.groupAt l = some g → st = .peerAbsent ∨ st = .mismatch → g.st ≠ .broken → find? g.failed op = none →
      exec (.collectiveCommit l op (.fail st)) s = .next ((s.setGroup l { g with failed := setKey g.failed op st }).settleFailed l op)) ∧
    (∀ g op others o os cs res, s.groupAt l = some g → s.localOps g.ctx l op g.loc = some (o :: os) → g.st ≠ .broken → g.rank ∈ g.joined →
      sameOps (o :: os) = true → (o :: os).any (fun o => o.st.isSome) = false →
      rankOrder g o.fmt o.count (packContribution o.count ((o :: os).map (fun q => linkElems q.fmt q.count q.data))) others = some cs →
      res = (linkResult o.count cs).flatMap (fun v => if o.fmt = 0 then toLE 4 v.toNat else toLE 2 (v.toNat / 65536)) →
      exec (.collectiveCommit l op (.commit others)) s = .next (((s.linkWrite o.dst res).setGroup l { g with seq := (g.seq + 1) % 2 ^ 32 }).settleLinks
        g.ctx l (fun (q : LinkOp) => if q.kind = .ldred l op then some LinkStatus.ok else none))) ∧
    exec (.collectiveWithdraw l) s = .next (s.breakGroup l) ∧
    (∀ g r, s.groupAt l = some g → r < g.nmem → r ≠ g.rank → g.st ≠ .broken → (∀ m < g.nmem, m = r ∨ m ∈ g.joined) →
      exec (.collectiveJoinLeaveRecorded l r true) s =
        .next (s.setGroup l { g with joined := r :: g.joined.filter (fun m => m != r), st := .active })) ∧
    (∀ g e q, s.groupAt l = some g → g.rank < g.nmem → g.pendJoin = e :: q → ∃ u : State,
      exec (.collectiveJoinLeaveRecorded l g.rank e.2.2) s =
        .next (u.setCoreOf e.1 { u.coreOf e.1 with cS := (u.coreOf e.1).cS.finishNum e.2.1 }) ∧
      (u.groupAt l).map (fun h => (h.pendJoin, h.joined.contains g.rank)) = some (q, e.2.2))

/-- Remote accesses and link words complete. -/
def Obligations.FabricEvents : Prop := Claims.remoteAccesses ∧ Claims.linkCompletions

/-- The links: training starts on a request at a port that is DOWN on a die in service; it ends UP at full width, DEGRADED at half, and the third
failure in a row leaves the port DOWN; an exhausted retry retrains the port, the third within a second fences it; a flit with a CRC error changes
nothing. Power and heat: the limit holds M-stream issue, at once or after the K-steps it still allows; ALMANAC_FLUSH ends an hour, in which only the
histograms of temperature and supply count, and writes the almanac (R425 to R428, R448, R449, R451). That the hour counts at the flush, one bin
free per die and histogram, is the model's choice (log entry 104), and so is that a hold counts K-steps (log entry 110). -/
def Sys2Proof.Claims.linkAndPowerEvents : Prop :=
  ∀ (s : State) (p : Nat) (b : Option Nat),
    (p < 24 → s.port p = .down → (s.dieOf (portDie p)).lost = false → exec (.linkTrainingRequest p) s = .next (s.startTraining p)) ∧
    (s.port p = .training →
      exec (.linkTrainingResult p .full) s = .next ((s.setPort p .up).setAttempts p 0) ∧
      exec (.linkTrainingResult p .half) s = .next ((s.setPort p .degraded).setAttempts p 0) ∧
      (look 0 s.fabric.attempts p < 2 →
        exec (.linkTrainingResult p .failed) s = .next (s.setAttempts p (look 0 s.fabric.attempts p + 1))) ∧
      (2 ≤ look 0 s.fabric.attempts p → exec (.linkTrainingResult p .failed) s = .next ((s.setPort p .down).setAttempts p 0))) ∧
    ((s.port p = .up ∨ s.port p = .degraded) →
      exec (.linkRetryExhausted p false) s = .next (s.retrainPort p) ∧
      exec (.linkRetryExhausted p true) s = .next ((s.retrainPort p).fencePort p)) ∧
    exec (.linkFlitCrcError p) s = .next s ∧
    exec (.powerThermalLimit b) s = .next { s with dev := { s.dev with hold := b } } ∧
    (∃ t, exec .almanacFlush s = .next t ∧ t.dev.almFlash = t.dev.almanac ∧ t = { s with fresh := t.fresh, dev := t.dev } ∧
      ∀ n, n / 65536 ≠ 11 → n / 65536 ≠ 12 → look 0 t.dev.almanac n = look 0 s.dev.almanac n)

/-! ### Contexts leaving and taking their cores -/

/-- A context that a cause has stopped is TRAPPED once drained; an exchange takes a context that has drained or become TRAPPED to the shelf, whose
holder is spilled first, and brings the next one onto the cores, RUNNING, unless it may not run; then the first context whose RESUME waits becomes
the next; a spill that ends leaves the context SPILLED, with its spill area written, a fill SHELVED, and both leave a TRAPPED one so; a fill from a
poisoned area is 0x1A2; a core whose core task exceeds the limit gives the context 0x1C1 (R406 to R410, R420, R425). The bytes of the spill area are
free, and that a RESUME waits behind a context which comes next is the model's choice (log entries 70 and 103). -/
def Obligations.ContextSwitches : Prop :=
  ∀ (s : State) (x k part : Nat),
    ((s.ctxOf x).st = .draining → (s.ctxOf x).stop.isSome = true → s.drained x = true →
      exec (.contextStopped x) s = .next (s.setCtxOf x { s.ctxOf x with st := .trapped })) ∧
    (∀ u, (s.partOf part).live = none → (s.partOf part).next = some x → (s.partOf part).shelf ≠ some x →
      u = s.setPartOf part { s.partOf part with live := none, next := none, swap := false, shelf := (s.partOf part).shelf } →
      exec (.swapExchangeComplete part) s = .next
        (((if (s.ctxOf x).mayRun then u.bringIn x else u).forEach (s.partOf part).dies (fun d s => s.count 8 d 1)).serveAfter part)) ∧
    (∀ y u v nx, (s.partOf part).live = some y → (s.partOf part).swap = true →
      ((s.ctxOf y).st = .draining ∧ (s.ctxOf y).stop = none ∧ s.drained y = true ∨ (s.ctxOf y).st = .trapped ∧ (s.ctxOf y).moving = none) →
      nx = (s.partOf part).next.filter (fun x => (s.ctxOf x).mayRun) →
      u = (if nx.isSome ∧ (s.partOf part).shelf = nx then s else s.freeShelf part y).shelve y →
      v = u.setPartOf part { u.partOf part with live := none, next := none, swap := false, shelf := some y } →
      exec (.swapExchangeComplete part) s = .next (((match nx with
        | some x => v.bringIn x
        | none => v).forEach (s.partOf part).dies (fun d s => s.count 8 d 1)).serveAfter part)) ∧
    ((s.ctxOf x).moving = some true → (s.ctxOf x).loc = .shelf → ∃ t, exec (.spillComplete x) s = .next t ∧ t.mem = (s.writeSpill x).mem ∧
      (t.ctxOf x).st = (if (s.ctxOf x).st = .shelved then .spilled else (s.ctxOf x).st) ∧ (t.ctxOf x).loc = .spill ∧
      (t.ctxOf x).moving = none ∧ savedOf x t.shelf = []) ∧
    ((s.ctxOf x).moving = some false →
      (s.spillBad x = true → exec (.fillComplete x) s = .next ((s.giveUpMove x).raiseCtx x 0x1A2 0 0 0)) ∧
      (s.spillBad x = false → ∃ t, exec (.fillComplete x) s = .next t ∧
        (t.ctxOf x).st = (if (s.ctxOf x).st = .spilled then .shelved else (s.ctxOf x).st) ∧ (t.ctxOf x).loc = .shelf ∧
        (t.ctxOf x).moving = none ∧ savedOf x t.spill = [] ∧ t.mem = s.mem)) ∧
    ((s.ctxOf x).st = .running → s.ctxNoOf k = x → (s.ctxOf x).csr 0x302 ≠ 0 → (s.coreOf k).task.isSome = true → (s.coreOf k).ended = false →
      exec (.watchdog x k) s = .next (s.raiseCtx x 0x1C1 0 0 (s.lcoreOf k)))

/-! ### Losses and resets -/

/-- The loss of a die in service sets its flag and the replace request, fences its six ports and writes the almanac; the I/O die's loss leaves every context DEAD and the device lost; an uncorrectable error poisons its frame; one of a synchronization
engine, or of a saved state, gives its contexts 0x1A4 or 0x1A2 and is counted; a power-on reset runs the firmware of the flash, or enters recovery
mode, and a power loss keeps only the flash, and of an image being written to it too little to boot from, the model's choice (log entry 76); where an
error of a saved state is counted is the model's choice too (log entry 104). A thermal shutdown with every partition empty enters recovery mode (R15 to R17, R360, R362, R443, R444, R449). -/
def Sys2Proof.Claims.lossesAndResets : Prop :=
  ∀ (s : State) (d x pa : Nat),
    (d < 4 → (s.dieOf d).lost = false → ∃ t, exec (.dieLoss d) s = .next t ∧ (t.dieOf d).lost = true ∧ t.dev.replace = true ∧
      t.dev.almFlash = t.dev.almanac ∧ (∀ p ∈ List.range' (6 * d) 6, t.port p = .fenced)) ∧
    (∃ t, exec .ioDieLoss s = .next t ∧ t.dev.phase = .lost ∧ t.mem = s.mem ∧
      ∀ y, (s.ctxOf y).st ≠ .free → (t.ctxOf y).st = .dead) ∧
    (pa < 2 ^ 39 → s.homeLost pa = false → exec (.memoryUncorrectableError pa) s = .next (s.poisonFrame (pa / 65536))) ∧
    exec (.syncEngineUncorrectableError d) s = .next ((s.forEach (s.ctxs.map (fun y => y.1)) (fun y s =>
      if (s.ctxOf y).sync.any (fun e => e.die == d) then s.raiseCtx y 0x1A4 0 0 0 else s)).count 2 d 1) ∧
    ((s.ctxOf x).loc = .shelf ∨ (s.ctxOf x).loc = .spill →
      exec (.shelvedStateLost x) s = .next ((s.countSaved x).raiseCtx x 0x1A2 0 0 0)) ∧
    (s.dev.phase ≠ .lost →
      (∃ t, exec .powerOnReset s = .next t ∧ t.mem = [] ∧ t.dev.flash = s.flashDone.dev.flash ∧ t.dev.minfw = s.flashDone.dev.minfw ∧
        (∀ y, (t.ctxOf y).st = .free) ∧
        t.dev.phase = if fwOk s.flashDone.dev.minfw s.flashDone.dev.flash then .running else .recovery) ∧
      (∃ t, exec .powerLoss s = .next t ∧ t.mem = [] ∧ t.dev.phase = .off ∧ t.dev.almanac = s.dev.almFlash ∧ (∀ y, (t.ctxOf y).st = .free) ∧
        (s.dev.writing = none → t.dev.flash = s.dev.flash) ∧ (∀ b n, s.dev.writing = some (b, n) → t.dev.flash = b.take 64))) ∧
    (s.dev.phase = .running → (∀ c ∈ s.ctxs, (s.ctxOf c.1).st ≠ .running) → (∀ p ∈ s.parts, p.2.live = none ∧ p.2.shelf = none) →
      ∃ t, exec .thermalShutdown s = .next t ∧ t.dev.phase = .recovery ∧ t.mem = s.mem)

/-- Links, power, losses and resets. -/
def Obligations.LinkPowerAndLossEvents : Prop := Claims.linkAndPowerEvents ∧ Claims.lossesAndResets

namespace Sys2Proof.Claims
open Machine

/-- A command that is refused: nothing changes but the answer. -/
def refused (s : State) (j : Jec) (t : Status) : Out1 := .next ((s.answer j t []).follow j)

/-- The outcome of a command that gives back bytes. -/
def answeredWith (j : Jec) (data : List Byte) (t : State) : Out1 := .next ((t.answer j .ok data).follow j)

/-- The port takes a command that recovery mode carries out as well: SUMMARY, FWLOAD and QUOTE. -/
def acceptsAlways (s : State) (j : Jec) : Prop :=
  (s.dev.phase = .running ∨ s.dev.phase = .recovery) ∧ comesNext s j

/-- Nothing of the fabric changes but what f says. -/
def fabricked (s : State) (f : Fabric → Fabric) : State := { s with fabric := f s.fabric }

/-- The commands that recovery mode does not carry out. -/
noncomputable def plainCommands (j : Jec) (x n a : Nat) (w : Word) (bs : List Byte) (sp : MemSpace) (hr : HandleReq) (cr : CtxReq) (rr : ReachReq)
    (ls ms : List Nat) (rs : List ReplicaDev) : List Instr :=
  ([.kload j n a bs, .kunload j n, .kbind j n x, .kunbind j n x, .kretire j n, .gload j n x bs, .gunload j n, .trig j x w, .qset j n bs,
    .qdrain j n, .qoff j n, .hset j x n hr, .hclr j x n, .poolset j x bs, .pclear j n, .partset j n ls ms, .ctxnew j x cr, .run j x,
    .preempt j x, .spill j x, .fill j x, .resume j x, .kill j x, .ctxfree j x, .restore j x bs, .mread j sp a n, .mwrite j sp a bs] : List Instr) ++
  ([.exportWin j x w n, .reach j n rr, .memb j a rs, .cgdef j bs ls, .cgdel j n, .linkup j n, .retrain j n, .linkfence j n, .linkreset j n] : List Instr)

/-- The commands that recovery mode carries out. -/
noncomputable def recoveryCommands (j : Jec) (m f : Nat) (bs : List Byte) (b : Bool) : List Instr := [.summary j m f, .fwload j bs b, .quote j bs]

end Sys2Proof.Claims

/-! ### The Jecel port -/

/-- The port answers in order: a repeated sequence number returns the recorded answer and changes nothing else; a command that is not the next one does
nothing, and one that is makes its successor the next, modulo 2^32; in recovery mode every command but SUMMARY, FWLOAD and QUOTE is answered
WRONG_STATE; a device held in reset, without power or lost answers nothing (R441, R444). That the first command after a reset sets the order, and
that one which arrives too early is dropped, is the model's choice (log entry 76). -/
def Obligations.PortProtocol : Prop :=
  ∀ (s : State) (j : Jec) (x n a m f : Nat) (w : Word) (bs : List Byte) (sp : MemSpace) (hr : HandleReq) (cr : CtxReq) (rr : ReachReq)
    (ls ms : List Nat) (rs : List ReplicaDev) (b : Bool) (i : Instr),
    i ∈ plainCommands j x n a w bs sp hr cr rr ls ms rs ++ recoveryCommands j m f bs b →
    (∀ r, (s.dev.phase = .running ∨ s.dev.phase = .recovery) → find? s.dev.answers j.seq = some r →
      exec i s = .next { s with out := .answer r :: s.out }) ∧
    (∀ e, find? s.dev.answers j.seq = none → s.dev.expect = some e → e ≠ j.seq → exec i s = .next s) ∧
    ((s.dev.phase = .running ∨ s.dev.phase = .recovery) → find? s.dev.answers j.seq = none → s.inSequence j = true →
      ∃ t, exec i s = .next t ∧ t.dev.expect = some ((j.seq + 1) % 2 ^ 32)) ∧
    (i ∈ plainCommands j x n a w bs sp hr cr rr ls ms rs → s.dev.phase = .recovery → find? s.dev.answers j.seq = none →
      s.inSequence j = true → exec i s = refused s j .wrongState) ∧
    (s.dev.phase ≠ .running → s.dev.phase ≠ .recovery → exec i s = .next s)

/-- Kernels and graphs: KLOAD puts an image into first-tier memory and the slot is LOADED, or is refused where the range meets another slot's image, a
poisoned frame or a page that is not PINNED; KBIND, KUNBIND, KRETIRE and KUNLOAD move it along Table 4-2; GLOAD of an image that passes R326 defines
the graph, GUNLOAD of one with no launch in progress removes it; TRIG accepts a launch (R98, R326, R328, R361). That a page no context maps counts as
PINNED is the model's choice (log entry 105). -/
def Sys2Proof.Claims.kernelAndGraphCommands : Prop :=
  ∀ (s : State) (j : Jec) (n x a : Nat) (img : List Byte) (k : KSlot), accepts s j → k = s.kernelOf n →
    (n < 4096 → k.st = .absent → a % 65536 = 0 → a + img.length ≤ 2 ^ 39 → s.homeLost a = false →
      (s.meetsImage a img.length = false → s.unpinnedAt a img.length = false → s.placeBad (.phys 0 [⟨a, img.length⟩]) = false →
        exec (.kload j n a img) s = answered j ((s.perform [⟨a, img.length⟩] img).setKernelOf n ⟨.loaded, a, img.length, [], 0⟩)) ∧
      (s.meetsImage a img.length = true ∨ s.unpinnedAt a img.length = true ∨ s.placeBad (.phys 0 [⟨a, img.length⟩]) = true →
        exec (.kload j n a img) s = refused s j .badRange)) ∧
    (k.st = .loaded ∨ k.st = .verified → exec (.kunload j n) s = answered j (s.setKernelOf n ⟨.absent, 0, 0, [], 0⟩)) ∧
    (x < 256 → k.st = .verified ∨ k.st = .bound → exec (.kbind j n x) s = answered j (s.setKernelOf n
      { k with st := .bound, bound := if k.bound.contains x then k.bound else k.bound ++ [x] })) ∧
    (∀ b, k.st = .bound → x ∈ k.bound → b = k.bound.filter (fun y => y != x) →
      exec (.kunbind j n x) s = answered j (s.setKernelOf n { k with st := if b.isEmpty then .verified else .bound, bound := b })) ∧
    (k.st = .bound → exec (.kretire j n) s = answered j ((s.setKernelOf n { k with st := .retired }).retireKernel n)) ∧
    (∀ g, x < 256 → n < 1024 → s.graphOf n = none → s.alive x = true → s.imageGraph x img = some g →
      (s.graphs.map (fun e => e.2.bytes)).sum + g.bytes ≤ Config.schedBytes → exec (.gload j n x img) s = answered j (s.setGraph n g)) ∧
    (∀ g, s.graphOf n = some g → g.launches = [] → exec (.gunload j n) s = answered j { s with graphs := dropKey s.graphs n }) ∧
    (∀ (p : Word) t, s.alive x = true → s.acceptLaunch x p.toNat = .ok t → exec (.trig j x p) s = answered j t)

/-- Queues, copy handles, pools and poisoned frames: QSET of a descriptor of Table 12-3 gives an ACTIVE queue with its tags written, QDRAIN and QOFF
move it along Table 12-4; HSET defines a handle that passes R367, HCLR clears one that no transfer needs; POOLSET defines a pool on its pages;
PCLEAR ends the poison of a frame (R313, R360, R367, R377). -/
def Sys2Proof.Claims.objectCommands : Prop :=
  ∀ (s : State) (j : Jec) (q x n : Nat) (d : List Byte), accepts s j →
    (∀ k, q < 4096 → (s.queueOf q).st = .disabled → queueOfDesc d = some k → s.alive k.ctx = true →
      s.pinned4 k.ctx k.base (2 ^ k.logn * (k.slotsz * 64)) = true → s.pinned4 k.ctx k.tagp (2 ^ k.logn) = true →
      exec (.qset j q d) s = answered j ((s.setQueueOf q k).unitWrite k.ctx k.tagp (List.replicate (2 ^ k.logn) 3))) ∧
    ((s.queueOf q).st = .active → exec (.qdrain j q) s =
      answered j (((s.setQueueOf q { s.queueOf q with st := .draining, waitC := [] }).endQueueWaits q true (s.queueOf q).waitC).settleQueue q)) ∧
    (∀ u, (s.queueOf q).st ≠ .disabled → u = (s.closeQueue q .disabled).dropOrigins q →
      exec (.qoff j q) s = answered j { u with queues := dropKey u.queues q }) ∧
    (∀ h e, n < 4096 → x < 256 → s.alive x = true → s.handleOfReq x h = .ok e →
      exec (.hset j x n h) s = answered j (s.setCtxOf x { s.ctxOf x with handles := setKey (s.ctxOf x).handles n e })) ∧
    ((s.ctxOf x).copyq.any (fun q => q.2.cmds.any (fun t => t.st != .landed && t.handles.contains n)) = false →
      (find? (s.ctxOf x).handles n).isSome = true →
      exec (.hclr j x n) s = answered j (s.setCtxOf x { s.ctxOf x with handles := dropKey (s.ctxOf x).handles n })) ∧
    (∀ p t, s.alive x = true → poolOfDesc d = some (p, t) → s.poolOf x p = none → (s.ctxOf x).pools.length < 256 →
      s.poolPages x t.dbase (t.nslot * t.vdep * t.dataLen) = true → s.poolPages x t.hbase (t.nslot * t.vdep * 256) = true →
      (t.nshadow = 0 ∨ s.poolPages x t.sdbase (t.nshadow * t.dataLen) = true ∧ s.poolPages x t.shbase (t.nshadow * 256) = true) →
      exec (.poolset j x d) s = answered j (s.setPool x p t)) ∧
    exec (.pclear j n) s = answered j { s with poison := s.poison.filter (fun f => f != n) }

/-- Commands on kernels, graphs, queues, handles, pools and frames. -/
def Obligations.ObjectCommands : Prop := Claims.kernelAndGraphCommands ∧ Claims.objectCommands

/-- Partitions and contexts: PARTSET changes the cores of a partition no context of which runs; CTXNEW makes a READY context, CTXFREE frees a DEAD one;
RUN and RESUME give up a SPILL or FILL under way, which is the model's choice (log entry 103), and ask for the cores, PREEMPT drains the RUNNING
context, SPILL and FILL start moving a state, KILL ends a context (Table 18-1, R404 to R407, R414, R422 to R424). -/
def Sys2Proof.Claims.contextCommands : Prop :=
  ∀ (s : State) (j : Jec) (p x : Nat) (c : Ctx), accepts s j → c = s.ctxOf x →
    (∀ add rem : List Nat, p < 16 → (∀ k ∈ add ++ rem, k < 256) → add.Nodup → (∀ k ∈ rem, k ∈ (s.partOf p).cores.map (fun c => c.2)) →
      (∀ y ∈ s.boundTo p, (s.ctxOf y).st ≠ .running ∧ (s.ctxOf y).st ≠ .draining) →
      (∀ k ∈ add, ∀ q ∈ s.parts, ∀ c ∈ q.2.cores, c.2 ≠ k) →
      ∃ t, exec (.partset j p add rem) s = answered j t ∧
        ∀ k, k ∈ (t.partOf p).cores.map (fun c => c.2) ↔ k ∈ add ∨ k ∈ (s.partOf p).cores.map (fun c => c.2) ∧ k ∉ rem) ∧
    (∀ r t, x < 256 → r.part < 16 → r.wdog < 2 ^ 32 → syncOk r.sync = true → c.st = .free → t = s.setCtxOf x (newCtx r) → r.spill % 65536 = 0 →
      t.pinned4 x r.spill (spillBytes * (t.coresOfCtx x).length) = true →
      (r.hndb = 0 → exec (.ctxnew j x r) s = answered j t) ∧
      (r.hndb ≠ 0 → t.handlerBad x r.hndb.toNat = none → exec (.ctxnew j x r) s = answered j (t.measureHandlers x r.hndb.toNat))) ∧
    (c.st = .dead → c.copyq.any (fun q => !q.2.cmds.isEmpty) = false →
      ∃ t, exec (.ctxfree j x) s = answered j t ∧ (t.ctxOf x).st = .free ∧ (∀ q ∈ t.queues, q.2.ctx ≠ x) ∧ (∀ i ∈ t.tasks, i.2.ctx ≠ x) ∧
        (∀ g ∈ t.graphs, g.2.ctx ≠ x)) ∧
    (∀ t, c.st = .ready ∨ c.st = .shelved → (s.giveUpMove x).askRun x = some t → exec (.run j x) s = answered j t) ∧
    (∀ t, c.st = .running → t = (s.freeShelf c.part x).drainCtx x →
      exec (.preempt j x) s = answered j (t.setPartOf c.part { t.partOf c.part with swap := true })) ∧
    (c.st = .shelved ∨ c.st = .trapped → c.moving = none → (s.partOf c.part).next ≠ some x → x ∉ (s.partOf c.part).after →
      (c.loc ≠ .spill → exec (.spill j x) s = answered j (s.setCtxOf x { c with moving := some true })) ∧
      (c.loc = .spill → exec (.spill j x) s = answered j (s.send (.spilled x)))) ∧
    (c.st = .spilled → (s.partOf c.part).shelf = none → c.moving = none → exec (.fill j x) s =
      answered j ((s.setCtxOf x { c with moving := some false }).setPartOf c.part { s.partOf c.part with shelf := some x })) ∧
    (∀ u e, c.st = .trapped → c.stop ≠ some 0x1A2 → s.heldByLoss x = false → u = s.giveUpMove x → e = u.ctxOf x →
      (∀ t, e.loc = .cores → (u.partOf e.part).next = none → t = u.forEach (u.coresOfCtx x) (fun k s => s.setCoreOf k.2 (s.coreOf k.2).unstopped) →
        exec (.resume j x) s = answered j ((t.setCtxOf x { e with st := .running, stop := none }).resumeTasks x)) ∧
      (∀ t, e.loc ≠ .cores ∨ (u.partOf e.part).next.isSome = true → t = u.askResume x →
        exec (.resume j x) s = answered j (t.setCtxOf x { t.ctxOf x with stop := none }))) ∧
    (s.alive x = true → exec (.kill j x) s = answered j (s.killCtx x 0x1C0))

/-- An MWRITE that has passed its checks performs by an event: the bytes it may still write are in memory, and it is answered OK; a byte whose version
no longer admits it, or whose frame is poisoned, is dropped and counted in STALEC (R383, R472). -/
def Sys2Proof.Claims.portWrites : Prop :=
  ∀ (s : State) (w : PortWrite) (t : Strm) (win n p : Nat), s.dev.pwrite = some w →
    ∃ u, exec (.memoryWritePerform 256 t win n) s = .next u ∧ u.dev.pwrite = none ∧ find? u.dev.answers w.seq = some ⟨w.tag, .ok, []⟩ ∧
      (∀ a, outside w.segs a → look 0 u.mem a = look 0 s.mem a) ∧
      (w.segs = [⟨p, w.data.length⟩] → overlap w.segs s.imageSegs = false → s.placeBad (.phys 0 w.segs) = false →
        (w.admits = w.data.map (fun _ => some none) → ∀ i, i < w.data.length → look 0 u.mem (p + i) = w.data.getD i 0) ∧
        (w.admits = w.data.map (fun _ => none) → sameMem s u ∧
          ((u.ctxOf w.ctx).csr 0x3DD).toNat = min (((s.ctxOf w.ctx).csr 0x3DD).toNat + w.data.length) (2 ^ 32 - 1) ∨ w.data = []))

/-- MREAD gives back the bytes of a range it can reach and changes nothing; MWRITE of a physical range, and of pages whose versions admit it, is on
its way to perform; RESTORE of an image that passes its checks, for a context with no live task, brings back the launch number it records, and refuses another image
(R402, R442, R472). -/
def Sys2Proof.Claims.memoryCommands : Prop :=
  ∀ (s : State) (j : Jec) (sp : MemSpace) (a n x : Nat) (d : List Byte) (l : List Chunk), accepts s j →
    (s.portRange sp a n false = some l → exec (.mread j sp a n) s = answeredWith j (s.readSegs (l.map (fun c => c.seg))) s) ∧
    (s.portRange sp a n false = none → exec (.mread j sp a n) s = refused s j .badRange) ∧
    (s.portRange .phys a d.length true = some l → exec (.mwrite j .phys a d) s = .next (({ s with dev := { s.dev with
      pwrite := some ⟨j.seq, j.tag, 256, l.map (fun c => c.seg), d, d.map (fun _ => some none)⟩ } } : State).follow j)) ∧
    (∀ as, s.portRange (.ctx x) a d.length true = some l → l.any (fun c => bit c.leaf 2) = false → as = s.portAdmits x (bits a 55 0) l →
      (as.any (fun r => r == .refuse) = true → exec (.mwrite j (.ctx x) a d) s = refused s j .wrongState) ∧
      (as.any (fun r => r == .refuse) = false → exec (.mwrite j (.ctx x) a d) s = .next (({ s with dev := { s.dev with
        pwrite := some ⟨j.seq, j.tag, x, l.map (fun c => c.seg), d, as.map Admit.pass⟩ } } : State).follow j))) ∧
    (∀ rs, s.alive x = true → s.tasks.any (fun t => t.2.ctx == x && !t.2.over) = false → s.restorable x d = some rs →
      ∃ t, exec (.restore j x d) s = answered j t ∧
        ∀ b, (rs.filter (fun r => r.1 == 3)).map (fun r => r.2) = [b] → (t.ctxOf x).launch = fieldLE b 0 4) ∧
    (s.alive x = true → s.tasks.any (fun t => t.2.ctx == x && !t.2.over) = false → s.restorable x d = none →
      exec (.restore j x d) s = refused s j .badImage)

/-- Commands on partitions, contexts and memory. -/
def Obligations.ContextAndMemoryCommands : Prop := Claims.contextCommands ∧ Claims.memoryCommands ∧ Claims.portWrites

/-- The fabric: EXPORT sets the exported window on pages that allow it, REACH sets or removes a device, MEMB sets the failure domain and the replica
list, CGDEF defines a FORMING group, CGDEL dissolves one; LINKUP and RETRAIN start training, the third retrain within a second fences the port,
LINKFENCE fences a port and LINKRESET brings it DOWN (R394, R426 to R432). Which retrain is the third within a second is a free value once two
have been counted, for there is no clock (log entry 75). -/
def Sys2Proof.Claims.fabricCommands : Prop :=
  ∀ (s : State) (j : Jec) (x n p : Nat), accepts s j →
    (∀ w : Word, x < 256 → n ≤ 2 ^ 40 → n % 65536 = 0 → bits w.toNat 63 60 = 4 →
      allPages s x w.toNat n (fun e => bit e 4 && !bit e 2 && !bit e 3) = true →
      exec (.exportWin j x w n) s = answered j (fabricked s (fun f => { f with exported := some ⟨x, w.toNat, n⟩ }))) ∧
    (∀ len path, n < 2 ^ 20 → len ≤ 2 ^ 40 → exec (.reach j n (.set len path)) s =
      answered j (fabricked s (fun f => { f with reach := f.reach.filter (fun e => e.1 != n) ++ [(n, len, path)] }))) ∧
    (n < 2 ^ 20 → exec (.reach j n .remove) s = answered j (s.unreach n)) ∧
    (∀ rs, 1 ≤ rs.length → rs.length ≤ 4 → (∀ r ∈ rs, r.dev < 2 ^ 20) →
      exec (.memb j n rs) s = answered j (fabricked s (fun f => { f with domain := n, replicas := rs }))) ∧
    (∀ b ms g, groupOk b ms = true → s.fabric.groups.length < 1024 → g = groupOfRecord b → s.groupAt g.1 = none →
      exec (.cgdef j b ms) s = answered j (s.setGroup g.1 { g.2 with members := ms })) ∧
    (∀ g, s.groupAt n = some g → ∃ t, exec (.cgdel j n) s = answered j t ∧ n ∉ t.fabric.groups.map (fun e => e.1) ∧ t.mem = s.mem) ∧
    (p < 24 →
      (s.port p = .down → (s.dieOf (portDie p)).lost = false → exec (.linkup j p) s = answered j (s.startTraining p)) ∧
      (∀ u, s.port p = .up ∨ s.port p = .degraded → u = ({ s with fresh := s.fresh + 1 } : State).retrainPort p →
        exec (.retrain j p) s = answered j (if s.thirdRetrain p then u.fencePort p else u)) ∧
      exec (.linkfence j p) s = answered j (s.fencePort p) ∧
      (s.port p = .fenced → (s.dieOf (portDie p)).lost = false → exec (.linkreset j p) s = answered j (s.setPort p .down)))

/-- SUMMARY returns the cores its mask names to service and gives back the summary; QUOTE gives back the certificate chain, the log and the signature over
nonce, count and chain; FWLOAD, with no context but DEAD ones, of an image that passes the checks of R444 starts to write the flash, which the next
reset ends, and resets the device, and refuses another image (R444, R445, R447, R450, R451). -/
def Sys2Proof.Claims.deviceCommands : Prop :=
  ∀ (s : State) (j : Jec), acceptsAlways s j →
    (∀ m b u, m < 2 ^ 256 → b = s.dev.fenced.filter (fun k => bit m k && !(s.dieOf (dieOfCore k)).lost) →
      u = ({ s with dev := { s.dev with fenced := s.dev.fenced.filter (fun k => !b.contains k) } } : State).forEach b (fun k s => s.count 13 k 1) →
      exec (.summary j m 0) s = answeredWith j (u.summary j.seq) u) ∧
    (∀ nonce c, nonce.length = 32 → c = toLE 4 s.dev.mlog.length →
      exec (.quote j nonce) s = answeredWith j (Config.certChain ++ s.dev.mlog.flatMap MEntry.bytes ++ s.dev.chain ++ c ++
        Config.identitySign (sha256 (nonce ++ c ++ s.dev.chain))) s) ∧
    (∀ img b, s.ctxs.any (fun x => x.2.st != .free && x.2.st != .dead) = false →
      ∃ t, exec (.fwload j img b) s = (if fwOk s.dev.minfw img = true then answered j t else refused s j .badImage) ∧ t.dev.phase = .reset ∧
        t.dev.writing = some (img, b) ∧ t.dev.flash = s.dev.flash ∧ t.mem = [] ∧ (∀ y, (t.ctxOf y).st = .free) ∧ t.flashDone.dev.flash = img ∧
        t.flashDone.dev.minfw = if b then max s.dev.minfw (fieldLE img 4 4) else s.dev.minfw)

/-- Commands on the fabric and the device. -/
def Obligations.FabricAndDeviceCommands : Prop := Claims.fabricCommands ∧ Claims.deviceCommands

namespace Sys2Proof.Claims
open Machine

/-- The words that may transfer control in the C stream, each with the register it writes (s0 for one that writes none), whether it transfers, and
its target. -/
noncomputable def transferWords (s : State) (d a b : Reg) (o : BitVec 16) (w : BitVec 26) : List (Instr × Reg × Bool × Int) :=
  let x := s.core.sreg a
  let y := s.core.sreg b
  let n := pcOff s o.toInt
  [(.beq a b o, 0, decide (x = y), n), (.bne a b o, 0, decide (x ≠ y), n), (.blt a b o, 0, decide (x.toInt < y.toInt), n),
    (.bge a b o, 0, decide (y.toInt ≤ x.toInt), n), (.bltu a b o, 0, decide (x.toNat < y.toNat), n),
    (.bgeu a b o, 0, decide (y.toNat ≤ x.toNat), n), (.j w, 0, true, pcOff s w.toInt), (.jal w, 31, true, pcOff s w.toInt),
    (.jalr d a o, d, true, ((x + o.signExtend 64).toNat : Int)),
    (.loopc a b o, a, decide (x + 1 ≠ (s.core.setSreg a (x + 1)).sreg b), n)]

/-- The last byte of n at pointer p lies where the offset of its window allows, in the window and, in window 0x6, the device it names (R108,
Table 5-1). -/
def inWindow (p n : Nat) : Prop :=
  match p / 2 ^ 60 with
  | 4 => p % 2 ^ 60 + n ≤ 2 ^ 56
  | 5 => p % 2 ^ 60 + n ≤ 2 ^ 56
  | 6 => p % 2 ^ 40 + n ≤ 2 ^ 40
  | 7 => p % 2 ^ 60 + n ≤ 2 ^ 36
  | _ => False

/-- The causes that the outcome of a C access of n bytes at p can be before its translation, the first that applies, over the windows it may
use. -/
def accessCauses (s : State) (ws : List Nat) (num : Bool) (n p : Nat) (o : Out1) : Prop :=
  (p / 2 ^ 60 = 0 ∨ 8 ≤ p / 2 ^ 60 → o = caused s num 0x060 p) ∧
  (1 ≤ p / 2 ^ 60 ∧ p / 2 ^ 60 ≤ 3 → o = caused s num 0x041 p) ∧
  (4 ≤ p / 2 ^ 60 ∧ p / 2 ^ 60 ≤ 7 → p / 2 ^ 60 ∉ ws → o = caused s num 0x064 p) ∧
  (p / 2 ^ 60 ∈ ws → ¬inWindow p n → o = caused s num 0x061 p) ∧
  (p / 2 ^ 60 ∈ ws → inWindow p n → p % n ≠ 0 → o = caused s num 0x062 p)

/-- An FP32 pattern that is no NaN as a whole number that rises with its value, −0 below +0. -/
def fpOrder (a : W32) : Int := if a.msb then -((a.toNat : Int) - 2 ^ 31) - 1 else a.toNat

/-- The signed distance of a byte from a base, modulo 2^64 (R126). -/
def distance (base : Word) (x : Nat) : Int := (BitVec.ofNat 64 x - base).toInt

end Sys2Proof.Claims

/-! ### What words leave as it is -/

/-- A transfer word that does not transfer, or whose target lies in the array, changes nothing but the macro-PC and the register the word writes:
every other scalar register and CSR, every other core and every byte of memory stay (R111). -/
def Obligations.TransferFrame : Prop :=
  ∀ (s t : State) (i : Instr) (d a b r : Reg) (o : BitVec 16) (w : BitVec 26) (taken : Bool) (n : Int),
    (i, r, taken, n) ∈ transferWords s d a b o w → (taken = true → inCode s n) →
    exec i s = .next t → coreOnly s t ∧ scalarOnly s t r ∧ sameMem s t ∧ ∀ n, t.core.csr n = s.core.csr n

/-- A C load, store or atomic that issues changes no register, no CSR, no tile or buffer of its core, no other core and no byte of memory: a load
writes its register when its data arrive, a store or an atomic its bytes when it performs. It holds for LDW, LDD, STW, STD and each of the 25
atomics, at any address that passes its checks and lies in no barrier record, when their version admits them and the decision log is off
(R109, R261, R283). -/
def Obligations.MemoryWordsIssueFrame : Prop :=
  ∀ (s u : State) (i : Instr) (d a b : Reg) (im : BitVec 16) (n : Nat) (t : Tgt) (x : Word), ready s d → ready s a → ready s b →
    x = s.core.sreg a + im.signExtend 64 →
    ((n = 4 ∧ i = .ldw d a im ∨ n = 8 ∧ i = .ldd d a im) ∧ s.c.ldReady = true ∧
        access s s.cur ⟨[4, 5, 6, 7], none, n, n, false, 0⟩ none x.toNat = .ok t ∨
      (n = 4 ∧ i = .stw d a im ∨ n = 8 ∧ i = .std d a im) ∧ s.c.stReady = true ∧
        access s s.cur ⟨[4, 5, 6, 7], none, n, n, true, 1⟩ none x.toNat = .ok t ∧ s.recordOf t = none ∧
        (∃ g op, s.admitAt t 0x0A0 = .ok (some g) ∧ s.writeOp t (toLE n (s.core.sreg d).toNat) (s.streamKey .C (s.c.issued + 1) 0) = .ok op) ∨
      (∃ op w r q g, atomForms op d a b w = some (r, q) ∧ (i = r ∧ t.dpage = false ∨ i = q ∧ (t.dpage = false ∨ op < 8 ∨ 10 < op)) ∧
        n = (if w && decide (op < 10) then 8 else 4) ∧ s.c.stReady = true ∧
        access s s.cur ⟨[4, 6, 7], none, n, n, true, 3⟩ none (s.core.sreg a).toNat = .ok t ∧ s.recordOf t = none ∧
        s.admitAt t 0x0A0 = .ok g ∧ s.logOn s.ctxNo = false)) →
    exec i s = .next u →
    sameMem s u ∧ (∀ r, u.core.sreg r = s.core.sreg r) ∧ (∀ n, u.core.csr n = s.core.csr n) ∧ u.core.aregs = s.core.aregs ∧
      u.core.vregs = s.core.vregs ∧ u.core.tiles = s.core.tiles ∧ u.core.wbuf = s.core.wbuf ∧ u.core.abuf = s.core.abuf ∧
      u.core.events = s.core.events ∧ ∀ k, k ≠ s.cur → u.coreOf k = s.coreOf k

/-- An engine word that issues with an effect changes, beyond that effect, nothing but its core, and there no scalar register, CSR, event, tile or
buffer; a word of fixed latency changes no register of its stream at all, since its results stand pending (R36, R41, R42). -/
def Obligations.EngineIssueFrame : Prop :=
  ∀ (t : Strm) (h : Hd) (e : Eff) (u : State), u = State.issueEngine t h e →
    u = e.s.setCore u.core ∧ u.core.sregs = e.s.core.sregs ∧ u.core.csrs = e.s.core.csrs ∧ u.core.events = e.s.core.events ∧
    u.core.tiles = e.s.core.tiles ∧ u.core.wbuf = e.s.core.wbuf ∧ u.core.abuf = e.s.core.abuf ∧ u.core.rings = e.s.core.rings ∧
    (u.sm t).pc = e.next.getD ((e.s.sm t).pc + 1) ∧ (u.sm t).sigma = (e.s.sm t).sigma + 1 + h.stall ∧
    (∀ l, e.lat = some l → u.core.vregs = e.s.core.vregs ∧ u.core.aregs = e.s.core.aregs ∧ (u.sm t).preds = (e.s.sm t).preds ∧
      (u.sm t).iregs = (e.s.sm t).iregs)

/-! ### Causes and handlers -/

/-- The checks of a C access before its translation, in their order: a window code of 0 or 8 to 15 takes 0x060, a buffer window 0x041, another window
that the word may not use 0x064, a straddle or an offset outside the window's extent 0x061, and an address that is no multiple of the access size
0x062. It holds for LDW, LDD, STW and STD, which may use windows 0x4 to 0x7, and for each of the 25 atomics, which may use 0x4, 0x6 and 0x7; the
cause is taken in the state before the word (R108, R125, R285). -/
def Obligations.AccessChecksInOrder : Prop :=
  ∀ (s : State) (d a b : Reg) (im : BitVec 16) (x : Word), ready s d → ready s a → ready s b → x = s.core.sreg a + im.signExtend 64 →
    (s.c.ldReady = true → accessCauses s [4, 5, 6, 7] false 4 x.toNat (exec (.ldw d a im) s) ∧
      accessCauses s [4, 5, 6, 7] false 8 x.toNat (exec (.ldd d a im) s)) ∧
    (s.c.stReady = true → accessCauses s [4, 5, 6, 7] true 4 x.toNat (exec (.stw d a im) s) ∧
      accessCauses s [4, 5, 6, 7] true 8 x.toNat (exec (.std d a im) s) ∧
      ∀ op w i q n, atomForms op d a b w = some (i, q) → n = (if w && decide (op < 10) then 8 else 4) →
        accessCauses s [4, 6, 7] true n (s.core.sreg a).toNat (exec i s) ∧ accessCauses s [4, 6, 7] true n (s.core.sreg a).toNat (exec q s))

/-- A cause of a C word inside a handler, of any class but 0, 13 and 14, is reported as 0x1A3 and its context becomes DEAD; TRAP is such a word
(R418). -/
def Obligations.CauseInHandlerKills : Prop :=
  ∀ (s : State) (x : Nat) (o : Out1), x = s.ctxNo → (s.ctxOf x).st = .running → s.core.hand.isSome = true →
    (∃ num c p, 32 ≤ c ∧ c / 32 ≠ 13 ∧ c / 32 ≠ 14 ∧ o = caused s num c p) ∨ (∃ d, o = exec (.trap d) s) →
    ∃ t, o = .next t ∧ (t.ctxOf x).st = .dead ∧ (t.ctxOf x).stop = some ((s.ctxOf x).stop.getD 0x1A3) ∧ (t.ctxOf x).loc = .zero

/-- A software trap of a C word, of a RUNNING context, outside a handler: with a handler for its class the macro-PC and s1 to s31 are saved at the
save area, 8 bytes each from its start, the handler starts at its word 0 with s1 = DATA, s2 = the code, s3 = the save area and every other register
0, and memory changes nowhere else; without one the context stops and is DRAINING with this code, unless an earlier one stopped it (R413 to R417).
A handler table or save area on a lost die or in a poisoned frame stops the context with the cause that it is: the model's choice (log entry 99),
and so is that a value which the stream's loads owe comes first (log entry 46). -/
def Obligations.TrapEntersHandlerOrStops : Prop :=
  ∀ (s : State) (d : BitVec 5) (x : Nat), x = s.ctxNo → (s.ctxOf x).st = .running → s.core.hand = none →
    (∀ code saveb data sv, s.handlerEntry x 15 = some (code, saveb, data) → s.entryBad x 15 = none → s.core.owes = false →
      sv = saveb + s.lcoreOf s.cur * 256 →
      ∃ t h, exec (.trap d) s = .next t ∧ t.core.hand = some h ∧ h.code = code ∧ h.save = sv ∧ h.strm = .C ∧ h.mpc = s.c.pc ∧ h.cpc = s.c.pc ∧
        h.sleep = s.core.sleep ∧ t.core.sleep = none ∧ t.core.cS.pc = 0 ∧
        t.core.sreg 1 = BitVec.ofNat 64 data ∧ t.core.sreg 2 = BitVec.ofNat 64 (0x1E0 + d.toNat) ∧ t.core.sreg 3 = BitVec.ofNat 64 sv ∧
        (∀ r : Reg, 3 < r.toNat → t.core.sreg r = 0) ∧ t.core.csr 0x308 = BitVec.ofNat 64 (0x1E0 + d.toNat + 512) ∧
        t.core.csr 0x30C = BitVec.ofNat 64 s.c.pc ∧
        (∀ p n j, s.saveLines x sv = (List.range 4).map (fun i => ([⟨p + 64 * i, 64⟩], .done)) → overlap [⟨p, 256⟩] s.imageSegs = false → n < 32 →
          j < 8 → look 0 t.mem (p + 8 * n + j) = (toLE 8 (if n = 0 then s.c.pc else (s.core.sreg (BitVec.ofNat 5 n)).toNat)).getD j 0) ∧
        ∀ a, (∀ g ∈ s.saveLines x sv, g.2 = .done → outside g.1 a) → look 0 t.mem a = look 0 s.mem a) ∧
    (∀ c a e, s.entryBad x 15 = some (c, a, e) → s.core.owes = false → ∃ t, exec (.trap d) s = .next t ∧ (t.ctxOf x).st = .draining ∧
      (t.ctxOf x).stop = some ((s.ctxOf x).stop.getD c) ∧ t.core.hand = none) ∧
    (s.handlerEntry x 15 = none → s.entryBad x 15 = none →
      ∃ t, exec (.trap d) s = .next t ∧ (t.ctxOf x).st = .draining ∧ (t.ctxOf x).stop = some ((s.ctxOf x).stop.getD (0x1E0 + d.toNat)) ∧
        t.core.hand = none ∧ t.core.csr 0x308 = BitVec.ofNat 64 (0x1E0 + d.toNat) ∧ t.core.csr 0x30C = BitVec.ofNat 64 s.c.pc)

/-- The limit check of an operand of n bytes at p: a limit of 0 checks nothing; otherwise every byte of the operand lies in the register's range, or
the check takes cause 0x063 (R126). -/
def Obligations.LimitCheck : Prop :=
  ∀ (r : AReg) (p n : Nat), 0 < n →
    (r.limit = 0 → checkLimit r p n = .ok ()) ∧
    (r.limit ≠ 0 → (∀ i, i < n → 0 ≤ distance r.base (p + i) ∧ distance r.base (p + i) < r.limit.toNat) → checkLimit r p n = .ok ()) ∧
    (r.limit ≠ 0 → ∀ i, i < n → ¬(0 ≤ distance r.base (p + i) ∧ distance r.base (p + i) < r.limit.toNat) →
      checkLimit r p n = .error (.cause 0x063 p 0)) ∧
    (∀ s core a t, a.size = n → access s core a (some r) p = .ok t → checkLimit r p n = .ok ())

/-- An END word has pred = 0 and pneg = 0: a predicate alone gives it cause 0x022, and with any it is not well-formed (R39). -/
def Obligations.EndPredicate : Prop :=
  ∀ w : W96, (w.pred ≠ 0 ∨ w.pneg = true) →
    (Instr.endStream w).wf = false ∧
    (w.fmt = 0 → w.rm = 0 → w.var = 0 → w.d = .reg 0 false 0 → w.a = .reg 0 false 0 → w.b = .reg 0 false 0 →
      (Instr.endStream w).cause = some 0x022) ∧
    (∃ c, (Instr.endStream w).cause = some c ∧ c ≤ 0x022)

/-- Floating-point minimum and maximum use one order, the numeric one with −0 < +0; with one NaN the result is the other operand, with two the default
NaN; the atomics AFMIN and AFMAX use the same functions as VMIN and VMAX (R69, Table 11-1). -/
def Obligations.MinimumAndMaximum : Prop :=
  ∀ a b : W32,
    (isNaN32 a = true → isNaN32 b = true → fmin a b = nan32 ∧ fmax a b = nan32) ∧
    (isNaN32 a = true → isNaN32 b = false → fmin a b = b ∧ fmax a b = b) ∧
    (isNaN32 a = false → isNaN32 b = true → fmin a b = a ∧ fmax a b = a) ∧
    (isNaN32 a = false → isNaN32 b = false →
      fmin a b = (if fpOrder b < fpOrder a then b else a) ∧ fmax a b = (if fpOrder a < fpOrder b then b else a)) ∧
    atomNew 0x0B 32 a.toNat b.toNat 0 = (fmin a b).toNat ∧ atomNew 0x0C 32 a.toNat b.toNat 0 = (fmax a b).toNat
end

