-- ==== Sys2Proof/Laws/Dispatch.lean ====
section
/-! SUPPORT. One equation per action: the dispatch calls the meaning of its constructor. -/

namespace Sys2Proof.Machine

@[simp] theorem exec_add d a b (s : State) : exec (.add d a b) s = execAdd d a b s := rfl
@[simp] theorem exec_sub d a b (s : State) : exec (.sub d a b) s = execSub d a b s := rfl
@[simp] theorem exec_mul d a b (s : State) : exec (.mul d a b) s = execMul d a b s := rfl
@[simp] theorem exec_mulh d a b (s : State) : exec (.mulh d a b) s = execMulh d a b s := rfl
@[simp] theorem exec_mulhu d a b (s : State) : exec (.mulhu d a b) s = execMulhu d a b s := rfl
@[simp] theorem exec_div d a b (s : State) : exec (.div d a b) s = execDiv d a b s := rfl
@[simp] theorem exec_divu d a b (s : State) : exec (.divu d a b) s = execDivu d a b s := rfl
@[simp] theorem exec_rem d a b (s : State) : exec (.rem d a b) s = execRem d a b s := rfl
@[simp] theorem exec_remu d a b (s : State) : exec (.remu d a b) s = execRemu d a b s := rfl
@[simp] theorem exec_and d a b (s : State) : exec (.and d a b) s = execAnd d a b s := rfl
@[simp] theorem exec_or d a b (s : State) : exec (.or d a b) s = execOr d a b s := rfl
@[simp] theorem exec_xor d a b (s : State) : exec (.xor d a b) s = execXor d a b s := rfl
@[simp] theorem exec_shl d a b (s : State) : exec (.shl d a b) s = execShl d a b s := rfl
@[simp] theorem exec_shr d a b (s : State) : exec (.shr d a b) s = execShr d a b s := rfl
@[simp] theorem exec_sra d a b (s : State) : exec (.sra d a b) s = execSra d a b s := rfl
@[simp] theorem exec_min d a b (s : State) : exec (.min d a b) s = execMin d a b s := rfl
@[simp] theorem exec_max d a b (s : State) : exec (.max d a b) s = execMax d a b s := rfl
@[simp] theorem exec_minu d a b (s : State) : exec (.minu d a b) s = execMinu d a b s := rfl
@[simp] theorem exec_maxu d a b (s : State) : exec (.maxu d a b) s = execMaxu d a b s := rfl
@[simp] theorem exec_slt d a b (s : State) : exec (.slt d a b) s = execSlt d a b s := rfl
@[simp] theorem exec_sltu d a b (s : State) : exec (.sltu d a b) s = execSltu d a b s := rfl
@[simp] theorem exec_seq d a b (s : State) : exec (.seq d a b) s = execSeq d a b s := rfl
@[simp] theorem exec_clz d a (s : State) : exec (.clz d a) s = execClz d a s := rfl
@[simp] theorem exec_popc d a (s : State) : exec (.popc d a) s = execPopc d a s := rfl
@[simp] theorem exec_addi d a im (s : State) : exec (.addi d a im) s = execAddi d a im s := rfl
@[simp] theorem exec_andi d a im (s : State) : exec (.andi d a im) s = execAndi d a im s := rfl
@[simp] theorem exec_ori d a im (s : State) : exec (.ori d a im) s = execOri d a im s := rfl
@[simp] theorem exec_xori d a im (s : State) : exec (.xori d a im) s = execXori d a im s := rfl
@[simp] theorem exec_shli d a im (s : State) : exec (.shli d a im) s = execShli d a im s := rfl
@[simp] theorem exec_shri d a im (s : State) : exec (.shri d a im) s = execShri d a im s := rfl
@[simp] theorem exec_srai d a im (s : State) : exec (.srai d a im) s = execSrai d a im s := rfl
@[simp] theorem exec_slti d a im (s : State) : exec (.slti d a im) s = execSlti d a im s := rfl
@[simp] theorem exec_sltiu d a im (s : State) : exec (.sltiu d a im) s = execSltiu d a im s := rfl
@[simp] theorem exec_lui d im (s : State) : exec (.lui d im) s = execLui d im s := rfl
@[simp] theorem exec_ldw d a im (s : State) : exec (.ldw d a im) s = execLdw d a im s := rfl
@[simp] theorem exec_ldd d a im (s : State) : exec (.ldd d a im) s = execLdd d a im s := rfl
@[simp] theorem exec_stw d a im (s : State) : exec (.stw d a im) s = execStw d a im s := rfl
@[simp] theorem exec_std d a im (s : State) : exec (.std d a im) s = execStd d a im s := rfl
@[simp] theorem exec_seta n a b (s : State) : exec (.seta n a b) s = execSeta n a b s := rfl
@[simp] theorem exec_setk n a (s : State) : exec (.setk n a) s = execSetk n a s := rfl
@[simp] theorem exec_geta d n y (s : State) : exec (.geta d n y) s = execGeta d n y s := rfl
@[simp] theorem exec_beq a b o (s : State) : exec (.beq a b o) s = execBeq a b o s := rfl
@[simp] theorem exec_bne a b o (s : State) : exec (.bne a b o) s = execBne a b o s := rfl
@[simp] theorem exec_blt a b o (s : State) : exec (.blt a b o) s = execBlt a b o s := rfl
@[simp] theorem exec_bge a b o (s : State) : exec (.bge a b o) s = execBge a b o s := rfl
@[simp] theorem exec_bltu a b o (s : State) : exec (.bltu a b o) s = execBltu a b o s := rfl
@[simp] theorem exec_bgeu a b o (s : State) : exec (.bgeu a b o) s = execBgeu a b o s := rfl
@[simp] theorem exec_j o (s : State) : exec (.j o) s = execJ o s := rfl
@[simp] theorem exec_jal o (s : State) : exec (.jal o) s = execJal o s := rfl
@[simp] theorem exec_jalr d a im (s : State) : exec (.jalr d a im) s = execJalr d a im s := rfl
@[simp] theorem exec_loopc a b o (s : State) : exec (.loopc a b o) s = execLoopc a b o s := rfl
@[simp] theorem exec_fork m (s : State) : exec (.fork m) s = execFork m s := rfl
@[simp] theorem exec_rdv m (s : State) : exec (.rdv m) s = execRdv m s := rfl
@[simp] theorem exec_post e n (s : State) : exec (.post e n) s = execPost e n s := rfl
@[simp] theorem exec_await e n (s : State) : exec (.await e n) s = execAwait e n s := rfl
@[simp] theorem exec_boqp a x (s : State) : exec (.boqp a x) s = execBoqp a x s := rfl
@[simp] theorem exec_qput a x (s : State) : exec (.qput a x) s = execQput a x s := rfl
@[simp] theorem exec_spawn d a b (s : State) : exec (.spawn d a b) s = execSpawn d a b s := rfl
@[simp] theorem exec_jdec a (s : State) : exec (.jdec a) s = execJdec a s := rfl
@[simp] theorem exec_texit a (s : State) : exec (.texit a) s = execTexit a s := rfl
@[simp] theorem exec_bksel d a im (s : State) : exec (.bksel d a im) s = execBksel d a im s := rfl
@[simp] theorem exec_rclaim d a w (s : State) : exec (.rclaim d a w) s = execRclaim d a w s := rfl
@[simp] theorem exec_rpubl d a (s : State) : exec (.rpubl d a) s = execRpubl d a s := rfl
@[simp] theorem exec_rtake d a w (s : State) : exec (.rtake d a w) s = execRtake d a w s := rfl
@[simp] theorem exec_rrels d a (s : State) : exec (.rrels d a) s = execRrels d a s := rfl
@[simp] theorem exec_tlrd d y c (s : State) : exec (.tlrd d y c) s = execTlrd d y c s := rfl
@[simp] theorem exec_tlwait a c (s : State) : exec (.tlwait a c) s = execTlwait a c s := rfl
@[simp] theorem exec_mark (s : State) : exec .mark s = execMark s := rfl
@[simp] theorem exec_phmark a m (s : State) : exec (.phmark a m) s = execPhmark a m s := rfl
@[simp] theorem exec_aadd d a b w (s : State) : exec (.aadd d a b w) s = execAadd d a b w s := rfl
@[simp] theorem exec_aaddq a b w (s : State) : exec (.aaddq a b w) s = execAaddq a b w s := rfl
@[simp] theorem exec_amin d a b w (s : State) : exec (.amin d a b w) s = execAmin d a b w s := rfl
@[simp] theorem exec_aminq a b w (s : State) : exec (.aminq a b w) s = execAminq a b w s := rfl
@[simp] theorem exec_amax d a b w (s : State) : exec (.amax d a b w) s = execAmax d a b w s := rfl
@[simp] theorem exec_amaxq a b w (s : State) : exec (.amaxq a b w) s = execAmaxq a b w s := rfl
@[simp] theorem exec_aminu d a b w (s : State) : exec (.aminu d a b w) s = execAminu d a b w s := rfl
@[simp] theorem exec_aminuq a b w (s : State) : exec (.aminuq a b w) s = execAminuq a b w s := rfl
@[simp] theorem exec_amaxu d a b w (s : State) : exec (.amaxu d a b w) s = execAmaxu d a b w s := rfl
@[simp] theorem exec_amaxuq a b w (s : State) : exec (.amaxuq a b w) s = execAmaxuq a b w s := rfl
@[simp] theorem exec_aand d a b w (s : State) : exec (.aand d a b w) s = execAand d a b w s := rfl
@[simp] theorem exec_aandq a b w (s : State) : exec (.aandq a b w) s = execAandq a b w s := rfl
@[simp] theorem exec_aor d a b w (s : State) : exec (.aor d a b w) s = execAor d a b w s := rfl
@[simp] theorem exec_aorq a b w (s : State) : exec (.aorq a b w) s = execAorq a b w s := rfl
@[simp] theorem exec_axor d a b w (s : State) : exec (.axor d a b w) s = execAxor d a b w s := rfl
@[simp] theorem exec_axorq a b w (s : State) : exec (.axorq a b w) s = execAxorq a b w s := rfl
@[simp] theorem exec_axchg d a b w (s : State) : exec (.axchg d a b w) s = execAxchg d a b w s := rfl
@[simp] theorem exec_axchgq a b w (s : State) : exec (.axchgq a b w) s = execAxchgq a b w s := rfl
@[simp] theorem exec_acas d a b w (s : State) : exec (.acas d a b w) s = execAcas d a b w s := rfl
@[simp] theorem exec_acasq d a b w (s : State) : exec (.acasq d a b w) s = execAcasq d a b w s := rfl
@[simp] theorem exec_afadd d a b (s : State) : exec (.afadd d a b) s = execAfadd d a b s := rfl
@[simp] theorem exec_afaddq a b (s : State) : exec (.afaddq a b) s = execAfaddq a b s := rfl
@[simp] theorem exec_afmin d a b (s : State) : exec (.afmin d a b) s = execAfmin d a b s := rfl
@[simp] theorem exec_afminq a b (s : State) : exec (.afminq a b) s = execAfminq a b s := rfl
@[simp] theorem exec_afmax d a b (s : State) : exec (.afmax d a b) s = execAfmax d a b s := rfl
@[simp] theorem exec_afmaxq a b (s : State) : exec (.afmaxq a b) s = execAfmaxq a b s := rfl
@[simp] theorem exec_aredo d a b (s : State) : exec (.aredo d a b) s = execAredo d a b s := rfl
@[simp] theorem exec_waita d a b (s : State) : exec (.waita d a b) s = execWaita d a b s := rfl
@[simp] theorem exec_wake d a (s : State) : exec (.wake d a) s = execWake d a s := rfl
@[simp] theorem exec_baraDevice d a (s : State) : exec (.baraDevice d a) s = execBaraDevice d a s := rfl
@[simp] theorem exec_baraGroup d n (s : State) : exec (.baraGroup d n) s = execBaraGroup d n s := rfl
@[simp] theorem exec_barwDevice d a (s : State) : exec (.barwDevice d a) s = execBarwDevice d a s := rfl
@[simp] theorem exec_barwGroup d n (s : State) : exec (.barwGroup d n) s = execBarwGroup d n s := rfl
@[simp] theorem exec_barawDevice d a (s : State) : exec (.barawDevice d a) s = execBarawDevice d a s := rfl
@[simp] theorem exec_barawGroup d n (s : State) : exec (.barawGroup d n) s = execBarawGroup d n s := rfl
@[simp] theorem exec_talloc d a (s : State) : exec (.talloc d a) s = execTalloc d a s := rfl
@[simp] theorem exec_tseal d a b (s : State) : exec (.tseal d a b) s = execTseal d a b s := rfl
@[simp] theorem exec_tretire a b (s : State) : exec (.tretire a b) s = execTretire a b s := rfl
@[simp] theorem exec_trepl d a b (s : State) : exec (.trepl d a b) s = execTrepl d a b s := rfl
@[simp] theorem exec_tlook d a b (s : State) : exec (.tlook d a b) s = execTlook d a b s := rfl
@[simp] theorem exec_ckpt d a b (s : State) : exec (.ckpt d a b) s = execCkpt d a b s := rfl
@[simp] theorem exec_xcopy d a b (s : State) : exec (.xcopy d a b) s = execXcopy d a b s := rfl
@[simp] theorem exec_xcopy2 d a b (s : State) : exec (.xcopy2 d a b) s = execXcopy2 d a b s := rfl
@[simp] theorem exec_xfill d a b (s : State) : exec (.xfill d a b) s = execXfill d a b s := rfl
@[simp] theorem exec_xstat d b (s : State) : exec (.xstat d b) s = execXstat d b s := rfl
@[simp] theorem exec_lkmcst d a b (s : State) : exec (.lkmcst d a b) s = execLkmcst d a b s := rfl
@[simp] theorem exec_lkldred d a b (s : State) : exec (.lkldred d a b) s = execLkldred d a b s := rfl
@[simp] theorem exec_lksend d a b (s : State) : exec (.lksend d a b) s = execLksend d a b s := rfl
@[simp] theorem exec_cgjoin a (s : State) : exec (.cgjoin a) s = execCgjoin a s := rfl
@[simp] theorem exec_cgleave a (s : State) : exec (.cgleave a) s = execCgleave a s := rfl
@[simp] theorem exec_cgstat d a (s : State) : exec (.cgstat d a) s = execCgstat d a s := rfl
@[simp] theorem exec_nop (s : State) : exec .nop s = execNop s := rfl
@[simp] theorem exec_trap d (s : State) : exec (.trap d) s = execTrap d s := rfl
@[simp] theorem exec_eret (s : State) : exec .eret s = execEret s := rfl
@[simp] theorem exec_csrr d c (s : State) : exec (.csrr d c) s = execCsrr d c s := rfl
@[simp] theorem exec_csrw d c (s : State) : exec (.csrw d c) s = execCsrw d c s := rfl
@[simp] theorem exec_fence f y (s : State) : exec (.fence f y) s = execFence f y s := rfl
@[simp] theorem exec_sleep a (s : State) : exec (.sleep a) s = execSleep a s := rfl
@[simp] theorem exec_halt (s : State) : exec .halt s = execHalt s := rfl
@[simp] theorem exec_dlogp d (s : State) : exec (.dlogp d) s = execDlogp d s := rfl
@[simp] theorem exec_scrub d a (s : State) : exec (.scrub d a) s = execScrub d a s := rfl
@[simp] theorem exec_ldb w (s : State) : exec (.ldb w) s = execLdb w s := rfl
@[simp] theorem exec_ldtBuffer w (s : State) : exec (.ldtBuffer w) s = execLdtBuffer w s := rfl
@[simp] theorem exec_ldtTile w (s : State) : exec (.ldtTile w) s = execLdtTile w s := rfl
@[simp] theorem exec_ldg w (s : State) : exec (.ldg w) s = execLdg w s := rfl
@[simp] theorem exec_ldz w (s : State) : exec (.ldz w) s = execLdz w s := rfl
@[simp] theorem exec_ldc w (s : State) : exec (.ldc w) s = execLdc w s := rfl
@[simp] theorem exec_ldsh w (s : State) : exec (.ldsh w) s = execLdsh w s := rfl
@[simp] theorem exec_lpref w (s : State) : exec (.lpref w) s = execLpref w s := rfl
@[simp] theorem exec_lwfree w (s : State) : exec (.lwfree w) s = execLwfree w s := rfl
@[simp] theorem exec_lpubl w (s : State) : exec (.lpubl w) s = execLpubl w s := rfl
@[simp] theorem exec_stb w (s : State) : exec (.stb w) s = execStb w s := rfl
@[simp] theorem exec_sttBuffer w (s : State) : exec (.sttBuffer w) s = execSttBuffer w s := rfl
@[simp] theorem exec_sttTile w (s : State) : exec (.sttTile w) s = execSttTile w s := rfl
@[simp] theorem exec_stsc w (s : State) : exec (.stsc w) s = execStsc w s := rfl
@[simp] theorem exec_stadd w (s : State) : exec (.stadd w) s = execStadd w s := rfl
@[simp] theorem exec_staxpy w (s : State) : exec (.staxpy w) s = execStaxpy w s := rfl
@[simp] theorem exec_stopt w (s : State) : exec (.stopt w) s = execStopt w s := rfl
@[simp] theorem exec_stoptAdam w (s : State) : exec (.stoptAdam w) s = execStoptAdam w s := rfl
@[simp] theorem exec_stcvt w (s : State) : exec (.stcvt w) s = execStcvt w s := rfl
@[simp] theorem exec_stcvtTile w (s : State) : exec (.stcvtTile w) s = execStcvtTile w s := rfl
@[simp] theorem exec_satom w (s : State) : exec (.satom w) s = execSatom w s := rfl
@[simp] theorem exec_swfill w (s : State) : exec (.swfill w) s = execSwfill w s := rfl
@[simp] theorem exec_srels w (s : State) : exec (.srels w) s = execSrels w s := rfl
@[simp] theorem exec_mma w (s : State) : exec (.mma w) s = execMma w s := rfl
@[simp] theorem exec_mmat w (s : State) : exec (.mmat w) s = execMmat w s := rfl
@[simp] theorem exec_mmas w (s : State) : exec (.mmas w) s = execMmas w s := rfl
@[simp] theorem exec_mzero w (s : State) : exec (.mzero w) s = execMzero w s := rfl
@[simp] theorem exec_minit w (s : State) : exec (.minit w) s = execMinit w s := rfl
@[simp] theorem exec_mdrain w (s : State) : exec (.mdrain w) s = execMdrain w s := rfl
@[simp] theorem exec_mdrainRegister w (s : State) : exec (.mdrainRegister w) s = execMdrainRegister w s := rfl
@[simp] theorem exec_mret w (s : State) : exec (.mret w) s = execMret w s := rfl
@[simp] theorem exec_mcal w (s : State) : exec (.mcal w) s = execMcal w s := rfl
@[simp] theorem exec_msetk w (s : State) : exec (.msetk w) s = execMsetk w s := rfl
@[simp] theorem exec_mwide w (s : State) : exec (.mwide w) s = execMwide w s := rfl
@[simp] theorem exec_mchk w (s : State) : exec (.mchk w) s = execMchk w s := rfl
@[simp] theorem exec_mspill w (s : State) : exec (.mspill w) s = execMspill w s := rfl
@[simp] theorem exec_mfill w (s : State) : exec (.mfill w) s = execMfill w s := rfl
@[simp] theorem exec_mstat w (s : State) : exec (.mstat w) s = execMstat w s := rfl
@[simp] theorem exec_engineNop w (s : State) : exec (.engineNop w) s = execEngineNop w s := rfl
@[simp] theorem exec_enginePost w (s : State) : exec (.enginePost w) s = execEnginePost w s := rfl
@[simp] theorem exec_engineAwait w (s : State) : exec (.engineAwait w) s = execEngineAwait w s := rfl
@[simp] theorem exec_engineMark w (s : State) : exec (.engineMark w) s = execEngineMark w s := rfl
@[simp] theorem exec_jmp w (s : State) : exec (.jmp w) s = execJmp w s := rfl
@[simp] theorem exec_boqb w (s : State) : exec (.boqb w) s = execBoqb w s := rfl
@[simp] theorem exec_boqbPush w (s : State) : exec (.boqbPush w) s = execBoqbPush w s := rfl
@[simp] theorem exec_boqbPushall w (s : State) : exec (.boqbPushall w) s = execBoqbPushall w s := rfl
@[simp] theorem exec_loop w (s : State) : exec (.loop w) s = execLoop w s := rfl
@[simp] theorem exec_iaddi w (s : State) : exec (.iaddi w) s = execIaddi w s := rfl
@[simp] theorem exec_iset w (s : State) : exec (.iset w) s = execIset w s := rfl
@[simp] theorem exec_ipop w (s : State) : exec (.ipop w) s = execIpop w s := rfl
@[simp] theorem exec_engineFence w (s : State) : exec (.engineFence w) s = execEngineFence w s := rfl
@[simp] theorem exec_trapx w (s : State) : exec (.trapx w) s = execTrapx w s := rfl
@[simp] theorem exec_endStream w (s : State) : exec (.endStream w) s = execEndStream w s := rfl
@[simp] theorem exec_vadd w (s : State) : exec (.vadd w) s = execVadd w s := rfl
@[simp] theorem exec_vsub w (s : State) : exec (.vsub w) s = execVsub w s := rfl
@[simp] theorem exec_vmul w (s : State) : exec (.vmul w) s = execVmul w s := rfl
@[simp] theorem exec_vfma w (s : State) : exec (.vfma w) s = execVfma w s := rfl
@[simp] theorem exec_vfms w (s : State) : exec (.vfms w) s = execVfms w s := rfl
@[simp] theorem exec_vmin w (s : State) : exec (.vmin w) s = execVmin w s := rfl
@[simp] theorem exec_vmax w (s : State) : exec (.vmax w) s = execVmax w s := rfl
@[simp] theorem exec_vabs w (s : State) : exec (.vabs w) s = execVabs w s := rfl
@[simp] theorem exec_vneg w (s : State) : exec (.vneg w) s = execVneg w s := rfl
@[simp] theorem exec_vcpys w (s : State) : exec (.vcpys w) s = execVcpys w s := rfl
@[simp] theorem exec_vrcp w (s : State) : exec (.vrcp w) s = execVrcp w s := rfl
@[simp] theorem exec_vrsq w (s : State) : exec (.vrsq w) s = execVrsq w s := rfl
@[simp] theorem exec_vsqrt w (s : State) : exec (.vsqrt w) s = execVsqrt w s := rfl
@[simp] theorem exec_vexp2 w (s : State) : exec (.vexp2 w) s = execVexp2 w s := rfl
@[simp] theorem exec_vlog2 w (s : State) : exec (.vlog2 w) s = execVlog2 w s := rfl
@[simp] theorem exec_vexpd w (s : State) : exec (.vexpd w) s = execVexpd w s := rfl
@[simp] theorem exec_vtanh w (s : State) : exec (.vtanh w) s = execVtanh w s := rfl
@[simp] theorem exec_vsigm w (s : State) : exec (.vsigm w) s = execVsigm w s := rfl
@[simp] theorem exec_vcmpeq w (s : State) : exec (.vcmpeq w) s = execVcmpeq w s := rfl
@[simp] theorem exec_vcmplt w (s : State) : exec (.vcmplt w) s = execVcmplt w s := rfl
@[simp] theorem exec_vcmple w (s : State) : exec (.vcmple w) s = execVcmple w s := rfl
@[simp] theorem exec_vcmpun w (s : State) : exec (.vcmpun w) s = execVcmpun w s := rfl
@[simp] theorem exec_vclass w (s : State) : exec (.vclass w) s = execVclass w s := rfl
@[simp] theorem exec_viadd w (s : State) : exec (.viadd w) s = execViadd w s := rfl
@[simp] theorem exec_visub w (s : State) : exec (.visub w) s = execVisub w s := rfl
@[simp] theorem exec_vimul w (s : State) : exec (.vimul w) s = execVimul w s := rfl
@[simp] theorem exec_vimad w (s : State) : exec (.vimad w) s = execVimad w s := rfl
@[simp] theorem exec_vand w (s : State) : exec (.vand w) s = execVand w s := rfl
@[simp] theorem exec_vor w (s : State) : exec (.vor w) s = execVor w s := rfl
@[simp] theorem exec_vxor w (s : State) : exec (.vxor w) s = execVxor w s := rfl
@[simp] theorem exec_vandn w (s : State) : exec (.vandn w) s = execVandn w s := rfl
@[simp] theorem exec_vshl w (s : State) : exec (.vshl w) s = execVshl w s := rfl
@[simp] theorem exec_vshr w (s : State) : exec (.vshr w) s = execVshr w s := rfl
@[simp] theorem exec_vsra w (s : State) : exec (.vsra w) s = execVsra w s := rfl
@[simp] theorem exec_vimin w (s : State) : exec (.vimin w) s = execVimin w s := rfl
@[simp] theorem exec_vimax w (s : State) : exec (.vimax w) s = execVimax w s := rfl
@[simp] theorem exec_viminu w (s : State) : exec (.viminu w) s = execViminu w s := rfl
@[simp] theorem exec_vimaxu w (s : State) : exec (.vimaxu w) s = execVimaxu w s := rfl
@[simp] theorem exec_vicmpeq w (s : State) : exec (.vicmpeq w) s = execVicmpeq w s := rfl
@[simp] theorem exec_vicmplt w (s : State) : exec (.vicmplt w) s = execVicmplt w s := rfl
@[simp] theorem exec_vicmpltu w (s : State) : exec (.vicmpltu w) s = execVicmpltu w s := rfl
@[simp] theorem exec_vpcnt w (s : State) : exec (.vpcnt w) s = execVpcnt w s := rfl
@[simp] theorem exec_vclz w (s : State) : exec (.vclz w) s = execVclz w s := rfl
@[simp] theorem exec_vcvt w (s : State) : exec (.vcvt w) s = execVcvt w s := rfl
@[simp] theorem exec_vqnt w (s : State) : exec (.vqnt w) s = execVqnt w s := rfl
@[simp] theorem exec_vdqnt w (s : State) : exec (.vdqnt w) s = execVdqnt w s := rfl
@[simp] theorem exec_vscale w (s : State) : exec (.vscale w) s = execVscale w s := rfl
@[simp] theorem exec_vpack w (s : State) : exec (.vpack w) s = execVpack w s := rfl
@[simp] theorem exec_vunpk w (s : State) : exec (.vunpk w) s = execVunpk w s := rfl
@[simp] theorem exec_vrsum w (s : State) : exec (.vrsum w) s = execVrsum w s := rfl
@[simp] theorem exec_vrmax w (s : State) : exec (.vrmax w) s = execVrmax w s := rfl
@[simp] theorem exec_vrmin w (s : State) : exec (.vrmin w) s = execVrmin w s := rfl
@[simp] theorem exec_vrarg w (s : State) : exec (.vrarg w) s = execVrarg w s := rfl
@[simp] theorem exec_vscan w (s : State) : exec (.vscan w) s = execVscan w s := rfl
@[simp] theorem exec_vscanx w (s : State) : exec (.vscanx w) s = execVscanx w s := rfl
@[simp] theorem exec_vsort w (s : State) : exec (.vsort w) s = execVsort w s := rfl
@[simp] theorem exec_vtopk w (s : State) : exec (.vtopk w) s = execVtopk w s := rfl
@[simp] theorem exec_vmrg w (s : State) : exec (.vmrg w) s = execVmrg w s := rfl
@[simp] theorem exec_vperm w (s : State) : exec (.vperm w) s = execVperm w s := rfl
@[simp] theorem exec_vbcst w (s : State) : exec (.vbcst w) s = execVbcst w s := rfl
@[simp] theorem exec_vrot w (s : State) : exec (.vrot w) s = execVrot w s := rfl
@[simp] theorem exec_vsel w (s : State) : exec (.vsel w) s = execVsel w s := rfl
@[simp] theorem exec_vmov w (s : State) : exec (.vmov w) s = execVmov w s := rfl
@[simp] theorem exec_vldi w (s : State) : exec (.vldi w) s = execVldi w s := rfl
@[simp] theorem exec_vlane w (s : State) : exec (.vlane w) s = execVlane w s := rfl
@[simp] theorem exec_vlaneAddress w (s : State) : exec (.vlaneAddress w) s = execVlaneAddress w s := rfl
@[simp] theorem exec_vpushc w (s : State) : exec (.vpushc w) s = execVpushc w s := rfl
@[simp] theorem exec_vpopc w (s : State) : exec (.vpopc w) s = execVpopc w s := rfl
@[simp] theorem exec_vrebal w (s : State) : exec (.vrebal w) s = execVrebal w s := rfl
@[simp] theorem exec_vcount w (s : State) : exec (.vcount w) s = execVcount w s := rfl
@[simp] theorem exec_vsred w (s : State) : exec (.vsred w) s = execVsred w s := rfl
@[simp] theorem exec_vsscan w (s : State) : exec (.vsscan w) s = execVsscan w s := rfl
@[simp] theorem exec_vsnorm w (s : State) : exec (.vsnorm w) s = execVsnorm w s := rfl
@[simp] theorem exec_vsmask w (s : State) : exec (.vsmask w) s = execVsmask w s := rfl
@[simp] theorem exec_vslen w (s : State) : exec (.vslen w) s = execVslen w s := rfl
@[simp] theorem exec_vblz w (s : State) : exec (.vblz w) s = execVblz w s := rfl
@[simp] theorem exec_vrng w (s : State) : exec (.vrng w) s = execVrng w s := rfl
@[simp] theorem exec_vrngu w (s : State) : exec (.vrngu w) s = execVrngu w s := rfl
@[simp] theorem exec_dispatchRequest core (s : State) : exec (.dispatchRequest core) s = execDispatchRequest core s := rfl
@[simp] theorem exec_gangCoreHold core (s : State) : exec (.gangCoreHold core) s = execGangCoreHold core s := rfl
@[simp] theorem exec_taskCompletion task (s : State) : exec (.taskCompletion task) s = execTaskCompletion task s := rfl
@[simp] theorem exec_launchStart slot (s : State) : exec (.launchStart slot) s = execLaunchStart slot s := rfl
@[simp] theorem exec_kernelVerification slot (s : State) : exec (.kernelVerification slot) s = execKernelVerification slot s := rfl
@[simp] theorem exec_memoryWritePerform core st win k (s : State) : exec (.memoryWritePerform core st win k) s = execMemoryWritePerform core st win k s := rfl
@[simp] theorem exec_atomicPerform core st part (s : State) : exec (.atomicPerform core st part) s = execAtomicPerform core st part s := rfl
@[simp] theorem exec_dPageWriteLand core st win k (s : State) : exec (.dPageWriteLand core st win k) s = execDPageWriteLand core st win k s := rfl
@[simp] theorem exec_aredoLand core win (s : State) : exec (.aredoLand core win) s = execAredoLand core win s := rfl
@[simp] theorem exec_markerRetire core idx (s : State) : exec (.markerRetire core idx) s = execMarkerRetire core idx s := rfl
@[simp] theorem exec_barrierPhaseRelease bar (s : State) : exec (.barrierPhaseRelease bar) s = execBarrierPhaseRelease bar s := rfl
@[simp] theorem exec_waitaPoll core (s : State) : exec (.waitaPoll core) s = execWaitaPoll core s := rfl
@[simp] theorem exec_sleepExpiry core (s : State) : exec (.sleepExpiry core) s = execSleepExpiry core s := rfl
@[simp] theorem exec_translationWalk who win va (s : State) : exec (.translationWalk who win va) s = execTranslationWalk who win va s := rfl
@[simp] theorem exec_blazeCacheRefill core st (s : State) : exec (.blazeCacheRefill core st) s = execBlazeCacheRefill core st s := rfl
@[simp] theorem exec_copyStart ctx q die (s : State) : exec (.copyStart ctx q die) s = execCopyStart ctx q die s := rfl
@[simp] theorem exec_copyLanded ctx q n (s : State) : exec (.copyLanded ctx q n) s = execCopyLanded ctx q n s := rfl
@[simp] theorem exec_copyAcked ctx q n (s : State) : exec (.copyAcked ctx q n) s = execCopyAcked ctx q n s := rfl
@[simp] theorem exec_copyFaulted ctx q n (s : State) : exec (.copyFaulted ctx q n) s = execCopyFaulted ctx q n s := rfl
@[simp] theorem exec_remoteAccessArrival acc off (s : State) : exec (.remoteAccessArrival acc off) s = execRemoteAccessArrival acc off s := rfl
@[simp] theorem exec_writeAcknowledge core (s : State) : exec (.writeAcknowledge core) s = execWriteAcknowledge core s := rfl
@[simp] theorem exec_linkDataCompletion core num st (s : State) : exec (.linkDataCompletion core num st) s = execLinkDataCompletion core num st s := rfl
@[simp] theorem exec_collectiveCommit lnum op oc (s : State) : exec (.collectiveCommit lnum op oc) s = execCollectiveCommit lnum op oc s := rfl
@[simp] theorem exec_collectiveWithdraw lnum (s : State) : exec (.collectiveWithdraw lnum) s = execCollectiveWithdraw lnum s := rfl
@[simp] theorem exec_replicaCounted ctx handle ver (s : State) : exec (.replicaCounted ctx handle ver) s = execReplicaCounted ctx handle ver s := rfl
@[simp] theorem exec_replicaLost ctx handle ver (s : State) : exec (.replicaLost ctx handle ver) s = execReplicaLost ctx handle ver s := rfl
@[simp] theorem exec_lineageMirrorRetry die (s : State) : exec (.lineageMirrorRetry die) s = execLineageMirrorRetry die s := rfl
@[simp] theorem exec_recoveryWalk ctx handle ver (s : State) : exec (.recoveryWalk ctx handle ver) s = execRecoveryWalk ctx handle ver s := rfl
@[simp] theorem exec_copyBackVerified ctx handle ver (s : State) : exec (.copyBackVerified ctx handle ver) s = execCopyBackVerified ctx handle ver s := rfl
@[simp] theorem exec_rebuildEnqueue ctx lid (s : State) : exec (.rebuildEnqueue ctx lid) s = execRebuildEnqueue ctx lid s := rfl
@[simp] theorem exec_recoveryStarved ctx (s : State) : exec (.recoveryStarved ctx) s = execRecoveryStarved ctx s := rfl
@[simp] theorem exec_contextStopped ctx (s : State) : exec (.contextStopped ctx) s = execContextStopped ctx s := rfl
@[simp] theorem exec_swapExchangeComplete part (s : State) : exec (.swapExchangeComplete part) s = execSwapExchangeComplete part s := rfl
@[simp] theorem exec_spillComplete ctx (s : State) : exec (.spillComplete ctx) s = execSpillComplete ctx s := rfl
@[simp] theorem exec_fillComplete ctx (s : State) : exec (.fillComplete ctx) s = execFillComplete ctx s := rfl
@[simp] theorem exec_watchdog ctx core (s : State) : exec (.watchdog ctx core) s = execWatchdog ctx core s := rfl
@[simp] theorem exec_dieLoss die (s : State) : exec (.dieLoss die) s = execDieLoss die s := rfl
@[simp] theorem exec_ioDieLoss (s : State) : exec .ioDieLoss s = execIoDieLoss s := rfl
@[simp] theorem exec_memoryUncorrectableError pa (s : State) : exec (.memoryUncorrectableError pa) s = execMemoryUncorrectableError pa s := rfl
@[simp] theorem exec_syncEngineUncorrectableError die (s : State) : exec (.syncEngineUncorrectableError die) s = execSyncEngineUncorrectableError die s := rfl
@[simp] theorem exec_shelvedStateLost ctx (s : State) : exec (.shelvedStateLost ctx) s = execShelvedStateLost ctx s := rfl
@[simp] theorem exec_powerOnReset (s : State) : exec .powerOnReset s = execPowerOnReset s := rfl
@[simp] theorem exec_linkTrainingRequest port (s : State) : exec (.linkTrainingRequest port) s = execLinkTrainingRequest port s := rfl
@[simp] theorem exec_linkTrainingResult port res (s : State) : exec (.linkTrainingResult port res) s = execLinkTrainingResult port res s := rfl
@[simp] theorem exec_linkRetryExhausted port third (s : State) : exec (.linkRetryExhausted port third) s = execLinkRetryExhausted port third s := rfl
@[simp] theorem exec_linkFlitCrcError port (s : State) : exec (.linkFlitCrcError port) s = execLinkFlitCrcError port s := rfl
@[simp] theorem exec_powerThermalLimit on (s : State) : exec (.powerThermalLimit on) s = execPowerThermalLimit on s := rfl
@[simp] theorem exec_thermalShutdown (s : State) : exec .thermalShutdown s = execThermalShutdown s := rfl
@[simp] theorem exec_almanacFlush (s : State) : exec .almanacFlush s = execAlmanacFlush s := rfl
@[simp] theorem exec_trigger d (s : State) : exec (.trigger d) s = execTrigger d s := rfl
@[simp] theorem exec_tlbivaRange d (s : State) : exec (.tlbivaRange d) s = execTlbivaRange d s := rfl
@[simp] theorem exec_tlbivaAll d (s : State) : exec (.tlbivaAll d) s = execTlbivaAll d s := rfl
@[simp] theorem exec_hndbInstall d (s : State) : exec (.hndbInstall d) s = execHndbInstall d s := rfl
@[simp] theorem exec_hndbRemove d (s : State) : exec (.hndbRemove d) s = execHndbRemove d s := rfl
@[simp] theorem exec_ringcfEnable ring d (s : State) : exec (.ringcfEnable ring d) s = execRingcfEnable ring d s := rfl
@[simp] theorem exec_ringcfConfigure ring d (s : State) : exec (.ringcfConfigure ring d) s = execRingcfConfigure ring d s := rfl
@[simp] theorem exec_ringcfDrain ring d (s : State) : exec (.ringcfDrain ring d) s = execRingcfDrain ring d s := rfl
@[simp] theorem exec_ringcfDisable ring d (s : State) : exec (.ringcfDisable ring d) s = execRingcfDisable ring d s := rfl
@[simp] theorem exec_dlogcRecord d (s : State) : exec (.dlogcRecord d) s = execDlogcRecord d s := rfl
@[simp] theorem exec_dlogcReplay d (s : State) : exec (.dlogcReplay d) s = execDlogcReplay d s := rfl
@[simp] theorem exec_dlogcOff d (s : State) : exec (.dlogcOff d) s = execDlogcOff d s := rfl
@[simp] theorem exec_kthWrite n d (s : State) : exec (.kthWrite n d) s = execKthWrite n d s := rfl
@[simp] theorem exec_redlimWrite d (s : State) : exec (.redlimWrite d) s = execRedlimWrite d s := rfl
@[simp] theorem exec_kload j slot addr image (s : State) : exec (.kload j slot addr image) s = execKload j slot addr image s := rfl
@[simp] theorem exec_kunload j slot (s : State) : exec (.kunload j slot) s = execKunload j slot s := rfl
@[simp] theorem exec_kbind j slot ctx (s : State) : exec (.kbind j slot ctx) s = execKbind j slot ctx s := rfl
@[simp] theorem exec_kunbind j slot ctx (s : State) : exec (.kunbind j slot ctx) s = execKunbind j slot ctx s := rfl
@[simp] theorem exec_kretire j slot (s : State) : exec (.kretire j slot) s = execKretire j slot s := rfl
@[simp] theorem exec_gload j slot ctx image (s : State) : exec (.gload j slot ctx image) s = execGload j slot ctx image s := rfl
@[simp] theorem exec_gunload j slot (s : State) : exec (.gunload j slot) s = execGunload j slot s := rfl
@[simp] theorem exec_trig j ctx ptr (s : State) : exec (.trig j ctx ptr) s = execTrig j ctx ptr s := rfl
@[simp] theorem exec_qset j q desc (s : State) : exec (.qset j q desc) s = execQset j q desc s := rfl
@[simp] theorem exec_qdrain j q (s : State) : exec (.qdrain j q) s = execQdrain j q s := rfl
@[simp] theorem exec_qoff j q (s : State) : exec (.qoff j q) s = execQoff j q s := rfl
@[simp] theorem exec_hset j ctx idx h (s : State) : exec (.hset j ctx idx h) s = execHset j ctx idx h s := rfl
@[simp] theorem exec_hclr j ctx idx (s : State) : exec (.hclr j ctx idx) s = execHclr j ctx idx s := rfl
@[simp] theorem exec_poolset j ctx desc (s : State) : exec (.poolset j ctx desc) s = execPoolset j ctx desc s := rfl
@[simp] theorem exec_pclear j frame (s : State) : exec (.pclear j frame) s = execPclear j frame s := rfl
@[simp] theorem exec_partset j part add remove (s : State) : exec (.partset j part add remove) s = execPartset j part add remove s := rfl
@[simp] theorem exec_ctxnew j ctx req (s : State) : exec (.ctxnew j ctx req) s = execCtxnew j ctx req s := rfl
@[simp] theorem exec_run j ctx (s : State) : exec (.run j ctx) s = execRun j ctx s := rfl
@[simp] theorem exec_preempt j ctx (s : State) : exec (.preempt j ctx) s = execPreempt j ctx s := rfl
@[simp] theorem exec_spill j ctx (s : State) : exec (.spill j ctx) s = execSpill j ctx s := rfl
@[simp] theorem exec_fill j ctx (s : State) : exec (.fill j ctx) s = execFill j ctx s := rfl
@[simp] theorem exec_resume j ctx (s : State) : exec (.resume j ctx) s = execResume j ctx s := rfl
@[simp] theorem exec_kill j ctx (s : State) : exec (.kill j ctx) s = execKill j ctx s := rfl
@[simp] theorem exec_ctxfree j ctx (s : State) : exec (.ctxfree j ctx) s = execCtxfree j ctx s := rfl
@[simp] theorem exec_restore j ctx image (s : State) : exec (.restore j ctx image) s = execRestore j ctx image s := rfl
@[simp] theorem exec_mread j sp addr count (s : State) : exec (.mread j sp addr count) s = execMread j sp addr count s := rfl
@[simp] theorem exec_mwrite j sp addr data (s : State) : exec (.mwrite j sp addr data) s = execMwrite j sp addr data s := rfl
@[simp] theorem exec_exportWin j ctx ptr len (s : State) : exec (.exportWin j ctx ptr len) s = execExportWin j ctx ptr len s := rfl
@[simp] theorem exec_reach j dev entry (s : State) : exec (.reach j dev entry) s = execReach j dev entry s := rfl
@[simp] theorem exec_memb j domain replicas (s : State) : exec (.memb j domain replicas) s = execMemb j domain replicas s := rfl
@[simp] theorem exec_cgdef j rec members (s : State) : exec (.cgdef j rec members) s = execCgdef j rec members s := rfl
@[simp] theorem exec_cgdel j lnum (s : State) : exec (.cgdel j lnum) s = execCgdel j lnum s := rfl
@[simp] theorem exec_linkup j port (s : State) : exec (.linkup j port) s = execLinkup j port s := rfl
@[simp] theorem exec_retrain j port (s : State) : exec (.retrain j port) s = execRetrain j port s := rfl
@[simp] theorem exec_linkfence j port (s : State) : exec (.linkfence j port) s = execLinkfence j port s := rfl
@[simp] theorem exec_linkreset j port (s : State) : exec (.linkreset j port) s = execLinkreset j port s := rfl
@[simp] theorem exec_summary j mask flags (s : State) : exec (.summary j mask flags) s = execSummary j mask flags s := rfl
@[simp] theorem exec_fwload j image burn (s : State) : exec (.fwload j image burn) s = execFwload j image burn s := rfl
@[simp] theorem exec_quote j nonce (s : State) : exec (.quote j nonce) s = execQuote j nonce s := rfl
@[simp] theorem exec_powerLoss (s : State) : exec .powerLoss s = execPowerLoss s := rfl
@[simp] theorem exec_collectiveJoinLeaveRecorded lnum rank join (s : State) : exec (.collectiveJoinLeaveRecorded lnum rank join) s = execCollectiveJoinLeaveRecorded lnum rank join s := rfl
@[simp] theorem exec_taskQueueTake q (s : State) : exec (.taskQueueTake q) s = execTaskQueueTake q s := rfl
@[simp] theorem exec_loadDataArrival core st a (s : State) : exec (.loadDataArrival core st a) s = execLoadDataArrival core st a s := rfl
@[simp] theorem exec_dlogrWrite d (s : State) : exec (.dlogrWrite d) s = execDlogrWrite d s := rfl
@[simp] theorem exec_dlogwWrite d (s : State) : exec (.dlogwWrite d) s = execDlogwWrite d s := rfl
@[simp] theorem exec_lineageMirrorArrival die en (s : State) : exec (.lineageMirrorArrival die en) s = execLineageMirrorArrival die en s := rfl
@[simp] theorem exec_replicaTargetLost ctx handle ver (s : State) : exec (.replicaTargetLost ctx handle ver) s = execReplicaTargetLost ctx handle ver s := rfl
@[simp] theorem exec_checkpointDeliveryAcknowledged ctx q n (s : State) : exec (.checkpointDeliveryAcknowledged ctx q n) s = execCheckpointDeliveryAcknowledged ctx q n s := rfl

end Sys2Proof.Machine
end

