-- ==== Sys2Proof/Laws/Maps.lean ====
section
/-! SUPPORT. The laws of the sparse tables: what a read gives after a write, and that every write keeps the canonical form. -/

namespace Sys2Proof.Machine

/-! ### Tables of values -/

theorem look_put_same {α : Type} [DecidableEq α] (d : α) (m : List (Nat × α)) (a : Nat) (v : α) : look d (put d m a v) a = v := by
  induction m with
  | nil => by_cases h : v = d <;> simp [put, look, h]
  | cons e r ih =>
    obtain ⟨k, w⟩ := e
    simp only [put]
    split
    · by_cases h : v = d
      · subst h; simpa using ih
      · simp [h, look]
    · rename_i hk
      split
      · simp [look]
      · simpa [look, hk] using ih

theorem look_put_ne {α : Type} [DecidableEq α] (d : α) (m : List (Nat × α)) (a b : Nat) (v : α) (h : b ≠ a) :
    look d (put d m a v) b = look d m b := by
  induction m with
  | nil => by_cases hv : v = d <;> simp [put, look, hv, Ne.symm h]
  | cons e r ih =>
    obtain ⟨k, w⟩ := e
    simp only [put]
    split
    · rename_i hk
      subst hk
      by_cases hv : v = d
      · subst hv; simpa [look, Ne.symm h] using ih
      · simp [hv, look, Ne.symm h]
    · split
      · simp [look, Ne.symm h]
      · simp [look, ih]

@[simp] theorem look_put {α : Type} [DecidableEq α] (d : α) (m : List (Nat × α)) (a b : Nat) (v : α) :
    look d (put d m a v) b = if b = a then v else look d m b := by
  split
  · rename_i h; subst h; exact look_put_same ..
  · exact look_put_ne _ _ _ _ _ ‹_›

theorem canonFrom_mono {α : Type} [DecidableEq α] (d : α) (lo lo' : Nat) (m : List (Nat × α)) (h : lo ≤ lo')
    (hm : canonFrom d lo' m = true) : canonFrom d lo m = true := by
  cases m with
  | nil => rfl
  | cons e r =>
    simp only [canonFrom, Bool.and_eq_true, decide_eq_true_eq] at *
    exact ⟨⟨by omega, hm.1.2⟩, hm.2⟩

theorem canonFrom_put {α : Type} [DecidableEq α] (d : α) (lo : Nat) (m : List (Nat × α)) (a : Nat) (v : α) (h : lo ≤ a)
    (hm : canonFrom d lo m = true) : canonFrom d lo (put d m a v) = true := by
  induction m generalizing lo with
  | nil => by_cases hv : v = d <;> simp [put, canonFrom, hv, h]
  | cons e r ih =>
    obtain ⟨k, w⟩ := e
    simp only [canonFrom, Bool.and_eq_true, decide_eq_true_eq] at hm
    obtain ⟨⟨h1, h2⟩, h3⟩ := hm
    simp only [put]
    split
    · rename_i hk
      subst hk
      split
      · exact ih lo h1 (canonFrom_mono d lo (k + 1) r (by omega) h3)
      · simp [canonFrom, *]
    · split
      · rename_i hk
        simp only [canonFrom, Bool.and_eq_true, decide_eq_true_eq]
        exact ⟨⟨h, hk.2⟩, ⟨by omega, h2⟩, h3⟩
      · rename_i hk hv
        simp only [canonFrom, Bool.and_eq_true, decide_eq_true_eq]
        by_cases hd : v = d
        · subst hd
          refine ⟨⟨h1, h2⟩, ?_⟩
          by_cases hka : k < a
          · exact ih (k + 1) (by omega) h3
          · have : ∀ (l : List (Nat × α)) (n : Nat), canonFrom v n l = true → a < n → put v l a v = l := by
              intro l
              induction l with
              | nil => intros; simp [put]
              | cons f q ihq =>
                intro n hn hlt
                obtain ⟨k', w'⟩ := f
                simp only [canonFrom, Bool.and_eq_true, decide_eq_true_eq] at hn
                have := ihq (k' + 1) hn.2 (by omega)
                simp only [put]
                rw [if_neg (by omega), if_neg (by simp), this]
            rw [this r (k + 1) h3 (by omega)]
            exact h3
        · exact ⟨⟨h1, h2⟩, ih (k + 1) (by simp_all; omega) h3⟩

/-- A write of one entry keeps the canonical form. -/
theorem canon_put {α : Type} [DecidableEq α] (d : α) (m : List (Nat × α)) (a : Nat) (v : α) (h : canon d m = true) :
    canon d (put d m a v) = true := canonFrom_put d 0 m a v (Nat.zero_le a) h

/-! ### Tables of objects -/

@[simp] theorem find?_setKey {α : Type} (m : List (Nat × α)) (a b : Nat) (v : α) :
    find? (setKey m a v) b = if b = a then some v else find? m b := by
  induction m with
  | nil => simp [setKey, find?, eq_comm]
  | cons e r ih =>
    obtain ⟨k, w⟩ := e
    simp only [setKey]
    split
    · rename_i hk
      subst hk
      by_cases h : b = k
      · simp [find?, h]
      · simp [find?, h, Ne.symm h]
    · rename_i hk
      split
      · by_cases h : b = a
        · simp [find?, h]
        · simp [find?, h, Ne.symm h]
      · by_cases h : b = a
        · subst h; simp [find?, hk, ih]
        · simp [find?, h, ih]

@[simp] theorem setKey_setKey {α : Type} (m : List (Nat × α)) (a : Nat) (v w : α) : setKey (setKey m a v) a w = setKey m a w := by
  induction m with
  | nil => simp [setKey]
  | cons e r ih =>
    obtain ⟨k, x⟩ := e
    simp only [setKey]
    split
    · simp [setKey]
    · rename_i hk
      split
      · simp [setKey]
      · rename_i hl
        simp [setKey, hk, hl, ih]

@[simp] theorem find?_mapVals {α : Type} (f : Nat → α → α) (m : List (Nat × α)) (a : Nat) :
    find? (mapVals f m) a = (find? m a).map (f a) := by
  induction m with
  | nil => rfl
  | cons e r ih =>
    simp only [mapVals, List.map_cons, find?] at *
    split
    · rename_i h; subst h; rfl
    · exact ih

theorem find?_dropKey {α : Type} (m : List (Nat × α)) (a b : Nat) :
    find? (dropKey m a) b = if b = a then none else find? m b := by
  induction m with
  | nil => simp [dropKey, find?]
  | cons e r ih =>
    obtain ⟨k, w⟩ := e
    simp only [dropKey, List.filter_cons] at *
    by_cases hk : k = a
    · subst hk
      simp only [bne_self_eq_false, Bool.false_eq_true, ↓reduceIte]
      rw [ih]
      by_cases hb : b = k
      · simp [hb]
      · simp [find?, hb, Ne.symm hb]
    · simp only [bne_iff_ne, ne_eq, hk, not_false_eq_true, ↓reduceIte, find?]
      by_cases hb : k = b
      · subst hb; simp [hk]
      · simp [hb, ih]

/-! ### Bytes -/

@[simp] theorem getBytes_length (m : List (Nat × Byte)) (a n : Nat) : (getBytes m a n).length = n := by
  induction n generalizing a with
  | zero => rfl
  | succ n ih => simp [getBytes, ih]

@[simp] theorem toLE_length (n v : Nat) : (toLE n v).length = n := by
  induction n generalizing v with
  | zero => rfl
  | succ n ih => simp [toLE, ih]

/-- Bytes outside a store read as before. -/
theorem look_setBytes_ne (m : List (Nat × Byte)) (a : Nat) (bs : List Byte) (b : Nat) (h : b < a ∨ a + bs.length ≤ b) :
    look 0 (setBytes m a bs) b = look 0 m b := by
  induction bs generalizing m a with
  | nil => rfl
  | cons x r ih =>
    simp only [List.length_cons] at h
    rw [setBytes, ih _ _ (by omega), look_put, if_neg (by omega)]

/-- A byte of a store reads as stored. -/
theorem look_setBytes (m : List (Nat × Byte)) (a : Nat) (bs : List Byte) (i : Nat) (h : i < bs.length) :
    look 0 (setBytes m a bs) (a + i) = bs.getD i 0 := by
  induction bs generalizing m a i with
  | nil => simp at h
  | cons x r ih =>
    cases i with
    | zero => rw [setBytes, look_setBytes_ne _ _ _ _ (by omega), Nat.add_zero, look_put_same]; rfl
    | succ i =>
      have := ih (put 0 m a x) (a + 1) i (by simpa using h)
      simpa [setBytes, Nat.add_assoc, Nat.add_comm 1 i] using this

/-- A store of bytes keeps the canonical form. -/
theorem canon_setBytes (m : List (Nat × Byte)) (a : Nat) (bs : List Byte) (h : canon 0 m = true) : canon 0 (setBytes m a bs) = true := by
  induction bs generalizing m a with
  | nil => exact h
  | cons x r ih => exact ih _ _ (canon_put 0 m a x h)

/-- A store over segments keeps the canonical form. -/
theorem canon_storeSegs (m : List Host.Cell) (g : List Seg) (bs : List Byte) (h : canon 0 m = true) :
    canon 0 (storeSegs m g bs) = true := by
  induction g generalizing m bs with
  | nil => exact h
  | cons x r ih => exact ih _ _ (canon_setBytes m x.pa _ h)

/-- Bytes outside the segments of a store read as before. -/
theorem look_storeSegs_ne (m : List Host.Cell) (g : List Seg) (bs : List Byte) (a : Nat)
    (h : ∀ x, x ∈ g → a < x.pa ∨ x.pa + x.len ≤ a) : look 0 (storeSegs m g bs) a = look 0 m a := by
  induction g generalizing m bs with
  | nil => rfl
  | cons x r ih =>
    rw [storeSegs, ih _ _ (fun y hy => h y (List.mem_cons_of_mem x hy)), look_setBytes_ne]
    have := h x (List.mem_cons_self ..)
    have := List.length_take_le x.len bs
    omega

end Sys2Proof.Machine
end

