-- ==== Sys2Proof/Laws/State.lean ====
section
/-! SUPPORT. One equation per field and update of the state, and what the accessors read after a write. -/

namespace Sys2Proof.Machine

@[simp] theorem State.setCoreOf_cur (s : State) (k : Nat) (c : CoreSt) : (s.setCoreOf k c).cur = s.cur := rfl
@[simp] theorem State.setCoreOf_cst (s : State) (k : Nat) (c : CoreSt) : (s.setCoreOf k c).cst = s.cst := rfl
@[simp] theorem State.setCoreOf_shelf (s : State) (k : Nat) (c : CoreSt) : (s.setCoreOf k c).shelf = s.shelf := rfl
@[simp] theorem State.setCoreOf_spill (s : State) (k : Nat) (c : CoreSt) : (s.setCoreOf k c).spill = s.spill := rfl
@[simp] theorem State.setCoreOf_mem (s : State) (k : Nat) (c : CoreSt) : (s.setCoreOf k c).mem = s.mem := rfl
@[simp] theorem State.setCoreOf_poison (s : State) (k : Nat) (c : CoreSt) : (s.setCoreOf k c).poison = s.poison := rfl
@[simp] theorem State.setCoreOf_lostMem (s : State) (k : Nat) (c : CoreSt) : (s.setCoreOf k c).lostMem = s.lostMem := rfl
@[simp] theorem State.setCoreOf_wakes (s : State) (k : Nat) (c : CoreSt) : (s.setCoreOf k c).wakes = s.wakes := rfl
@[simp] theorem State.setCoreOf_ctxs (s : State) (k : Nat) (c : CoreSt) : (s.setCoreOf k c).ctxs = s.ctxs := rfl
@[simp] theorem State.setCoreOf_parts (s : State) (k : Nat) (c : CoreSt) : (s.setCoreOf k c).parts = s.parts := rfl
@[simp] theorem State.setCoreOf_kernels (s : State) (k : Nat) (c : CoreSt) : (s.setCoreOf k c).kernels = s.kernels := rfl
@[simp] theorem State.setCoreOf_graphs (s : State) (k : Nat) (c : CoreSt) : (s.setCoreOf k c).graphs = s.graphs := rfl
@[simp] theorem State.setCoreOf_tasks (s : State) (k : Nat) (c : CoreSt) : (s.setCoreOf k c).tasks = s.tasks := rfl
@[simp] theorem State.setCoreOf_gens (s : State) (k : Nat) (c : CoreSt) : (s.setCoreOf k c).gens = s.gens := rfl
@[simp] theorem State.setCoreOf_pools (s : State) (k : Nat) (c : CoreSt) : (s.setCoreOf k c).pools = s.pools := rfl
@[simp] theorem State.setCoreOf_queues (s : State) (k : Nat) (c : CoreSt) : (s.setCoreOf k c).queues = s.queues := rfl
@[simp] theorem State.setCoreOf_dies (s : State) (k : Nat) (c : CoreSt) : (s.setCoreOf k c).dies = s.dies := rfl
@[simp] theorem State.setCoreOf_arrs (s : State) (k : Nat) (c : CoreSt) : (s.setCoreOf k c).arrs = s.arrs := rfl
@[simp] theorem State.setCoreOf_dheld (s : State) (k : Nat) (c : CoreSt) : (s.setCoreOf k c).dheld = s.dheld := rfl
@[simp] theorem State.setCoreOf_aheld (s : State) (k : Nat) (c : CoreSt) : (s.setCoreOf k c).aheld = s.aheld := rfl
@[simp] theorem State.setCoreOf_fabric (s : State) (k : Nat) (c : CoreSt) : (s.setCoreOf k c).fabric = s.fabric := rfl
@[simp] theorem State.setCoreOf_dev (s : State) (k : Nat) (c : CoreSt) : (s.setCoreOf k c).dev = s.dev := rfl
@[simp] theorem State.setCoreOf_out (s : State) (k : Nat) (c : CoreSt) : (s.setCoreOf k c).out = s.out := rfl
@[simp] theorem State.setCoreOf_fresh (s : State) (k : Nat) (c : CoreSt) : (s.setCoreOf k c).fresh = s.fresh := rfl
@[simp] theorem State.setCoreOf_script (s : State) (k : Nat) (c : CoreSt) : (s.setCoreOf k c).script = s.script := rfl

@[simp] theorem State.setCtxOf_cur (s : State) (k : Nat) (c : Ctx) : (s.setCtxOf k c).cur = s.cur := rfl
@[simp] theorem State.setCtxOf_cst (s : State) (k : Nat) (c : Ctx) : (s.setCtxOf k c).cst = s.cst := rfl
@[simp] theorem State.setCtxOf_cores (s : State) (k : Nat) (c : Ctx) : (s.setCtxOf k c).cores = s.cores := rfl
@[simp] theorem State.setCtxOf_shelf (s : State) (k : Nat) (c : Ctx) : (s.setCtxOf k c).shelf = s.shelf := rfl
@[simp] theorem State.setCtxOf_spill (s : State) (k : Nat) (c : Ctx) : (s.setCtxOf k c).spill = s.spill := rfl
@[simp] theorem State.setCtxOf_mem (s : State) (k : Nat) (c : Ctx) : (s.setCtxOf k c).mem = s.mem := rfl
@[simp] theorem State.setCtxOf_poison (s : State) (k : Nat) (c : Ctx) : (s.setCtxOf k c).poison = s.poison := rfl
@[simp] theorem State.setCtxOf_lostMem (s : State) (k : Nat) (c : Ctx) : (s.setCtxOf k c).lostMem = s.lostMem := rfl
@[simp] theorem State.setCtxOf_wakes (s : State) (k : Nat) (c : Ctx) : (s.setCtxOf k c).wakes = s.wakes := rfl
@[simp] theorem State.setCtxOf_parts (s : State) (k : Nat) (c : Ctx) : (s.setCtxOf k c).parts = s.parts := rfl
@[simp] theorem State.setCtxOf_kernels (s : State) (k : Nat) (c : Ctx) : (s.setCtxOf k c).kernels = s.kernels := rfl
@[simp] theorem State.setCtxOf_graphs (s : State) (k : Nat) (c : Ctx) : (s.setCtxOf k c).graphs = s.graphs := rfl
@[simp] theorem State.setCtxOf_tasks (s : State) (k : Nat) (c : Ctx) : (s.setCtxOf k c).tasks = s.tasks := rfl
@[simp] theorem State.setCtxOf_gens (s : State) (k : Nat) (c : Ctx) : (s.setCtxOf k c).gens = s.gens := rfl
@[simp] theorem State.setCtxOf_pools (s : State) (k : Nat) (c : Ctx) : (s.setCtxOf k c).pools = s.pools := rfl
@[simp] theorem State.setCtxOf_queues (s : State) (k : Nat) (c : Ctx) : (s.setCtxOf k c).queues = s.queues := rfl
@[simp] theorem State.setCtxOf_dies (s : State) (k : Nat) (c : Ctx) : (s.setCtxOf k c).dies = s.dies := rfl
@[simp] theorem State.setCtxOf_arrs (s : State) (k : Nat) (c : Ctx) : (s.setCtxOf k c).arrs = s.arrs := rfl
@[simp] theorem State.setCtxOf_dheld (s : State) (k : Nat) (c : Ctx) : (s.setCtxOf k c).dheld = s.dheld := rfl
@[simp] theorem State.setCtxOf_aheld (s : State) (k : Nat) (c : Ctx) : (s.setCtxOf k c).aheld = s.aheld := rfl
@[simp] theorem State.setCtxOf_fabric (s : State) (k : Nat) (c : Ctx) : (s.setCtxOf k c).fabric = s.fabric := rfl
@[simp] theorem State.setCtxOf_dev (s : State) (k : Nat) (c : Ctx) : (s.setCtxOf k c).dev = s.dev := rfl
@[simp] theorem State.setCtxOf_out (s : State) (k : Nat) (c : Ctx) : (s.setCtxOf k c).out = s.out := rfl
@[simp] theorem State.setCtxOf_fresh (s : State) (k : Nat) (c : Ctx) : (s.setCtxOf k c).fresh = s.fresh := rfl
@[simp] theorem State.setCtxOf_script (s : State) (k : Nat) (c : Ctx) : (s.setCtxOf k c).script = s.script := rfl

@[simp] theorem State.setPartOf_cur (s : State) (k : Nat) (c : Part) : (s.setPartOf k c).cur = s.cur := rfl
@[simp] theorem State.setPartOf_cst (s : State) (k : Nat) (c : Part) : (s.setPartOf k c).cst = s.cst := rfl
@[simp] theorem State.setPartOf_cores (s : State) (k : Nat) (c : Part) : (s.setPartOf k c).cores = s.cores := rfl
@[simp] theorem State.setPartOf_shelf (s : State) (k : Nat) (c : Part) : (s.setPartOf k c).shelf = s.shelf := rfl
@[simp] theorem State.setPartOf_spill (s : State) (k : Nat) (c : Part) : (s.setPartOf k c).spill = s.spill := rfl
@[simp] theorem State.setPartOf_mem (s : State) (k : Nat) (c : Part) : (s.setPartOf k c).mem = s.mem := rfl
@[simp] theorem State.setPartOf_poison (s : State) (k : Nat) (c : Part) : (s.setPartOf k c).poison = s.poison := rfl
@[simp] theorem State.setPartOf_lostMem (s : State) (k : Nat) (c : Part) : (s.setPartOf k c).lostMem = s.lostMem := rfl
@[simp] theorem State.setPartOf_wakes (s : State) (k : Nat) (c : Part) : (s.setPartOf k c).wakes = s.wakes := rfl
@[simp] theorem State.setPartOf_ctxs (s : State) (k : Nat) (c : Part) : (s.setPartOf k c).ctxs = s.ctxs := rfl
@[simp] theorem State.setPartOf_kernels (s : State) (k : Nat) (c : Part) : (s.setPartOf k c).kernels = s.kernels := rfl
@[simp] theorem State.setPartOf_graphs (s : State) (k : Nat) (c : Part) : (s.setPartOf k c).graphs = s.graphs := rfl
@[simp] theorem State.setPartOf_tasks (s : State) (k : Nat) (c : Part) : (s.setPartOf k c).tasks = s.tasks := rfl
@[simp] theorem State.setPartOf_gens (s : State) (k : Nat) (c : Part) : (s.setPartOf k c).gens = s.gens := rfl
@[simp] theorem State.setPartOf_pools (s : State) (k : Nat) (c : Part) : (s.setPartOf k c).pools = s.pools := rfl
@[simp] theorem State.setPartOf_queues (s : State) (k : Nat) (c : Part) : (s.setPartOf k c).queues = s.queues := rfl
@[simp] theorem State.setPartOf_dies (s : State) (k : Nat) (c : Part) : (s.setPartOf k c).dies = s.dies := rfl
@[simp] theorem State.setPartOf_arrs (s : State) (k : Nat) (c : Part) : (s.setPartOf k c).arrs = s.arrs := rfl
@[simp] theorem State.setPartOf_dheld (s : State) (k : Nat) (c : Part) : (s.setPartOf k c).dheld = s.dheld := rfl
@[simp] theorem State.setPartOf_aheld (s : State) (k : Nat) (c : Part) : (s.setPartOf k c).aheld = s.aheld := rfl
@[simp] theorem State.setPartOf_fabric (s : State) (k : Nat) (c : Part) : (s.setPartOf k c).fabric = s.fabric := rfl
@[simp] theorem State.setPartOf_dev (s : State) (k : Nat) (c : Part) : (s.setPartOf k c).dev = s.dev := rfl
@[simp] theorem State.setPartOf_out (s : State) (k : Nat) (c : Part) : (s.setPartOf k c).out = s.out := rfl
@[simp] theorem State.setPartOf_fresh (s : State) (k : Nat) (c : Part) : (s.setPartOf k c).fresh = s.fresh := rfl
@[simp] theorem State.setPartOf_script (s : State) (k : Nat) (c : Part) : (s.setPartOf k c).script = s.script := rfl

@[simp] theorem State.setDieOf_cur (s : State) (k : Nat) (c : Die) : (s.setDieOf k c).cur = s.cur := rfl
@[simp] theorem State.setDieOf_cst (s : State) (k : Nat) (c : Die) : (s.setDieOf k c).cst = s.cst := rfl
@[simp] theorem State.setDieOf_cores (s : State) (k : Nat) (c : Die) : (s.setDieOf k c).cores = s.cores := rfl
@[simp] theorem State.setDieOf_shelf (s : State) (k : Nat) (c : Die) : (s.setDieOf k c).shelf = s.shelf := rfl
@[simp] theorem State.setDieOf_spill (s : State) (k : Nat) (c : Die) : (s.setDieOf k c).spill = s.spill := rfl
@[simp] theorem State.setDieOf_mem (s : State) (k : Nat) (c : Die) : (s.setDieOf k c).mem = s.mem := rfl
@[simp] theorem State.setDieOf_poison (s : State) (k : Nat) (c : Die) : (s.setDieOf k c).poison = s.poison := rfl
@[simp] theorem State.setDieOf_lostMem (s : State) (k : Nat) (c : Die) : (s.setDieOf k c).lostMem = s.lostMem := rfl
@[simp] theorem State.setDieOf_wakes (s : State) (k : Nat) (c : Die) : (s.setDieOf k c).wakes = s.wakes := rfl
@[simp] theorem State.setDieOf_ctxs (s : State) (k : Nat) (c : Die) : (s.setDieOf k c).ctxs = s.ctxs := rfl
@[simp] theorem State.setDieOf_parts (s : State) (k : Nat) (c : Die) : (s.setDieOf k c).parts = s.parts := rfl
@[simp] theorem State.setDieOf_kernels (s : State) (k : Nat) (c : Die) : (s.setDieOf k c).kernels = s.kernels := rfl
@[simp] theorem State.setDieOf_graphs (s : State) (k : Nat) (c : Die) : (s.setDieOf k c).graphs = s.graphs := rfl
@[simp] theorem State.setDieOf_tasks (s : State) (k : Nat) (c : Die) : (s.setDieOf k c).tasks = s.tasks := rfl
@[simp] theorem State.setDieOf_gens (s : State) (k : Nat) (c : Die) : (s.setDieOf k c).gens = s.gens := rfl
@[simp] theorem State.setDieOf_pools (s : State) (k : Nat) (c : Die) : (s.setDieOf k c).pools = s.pools := rfl
@[simp] theorem State.setDieOf_queues (s : State) (k : Nat) (c : Die) : (s.setDieOf k c).queues = s.queues := rfl
@[simp] theorem State.setDieOf_arrs (s : State) (k : Nat) (c : Die) : (s.setDieOf k c).arrs = s.arrs := rfl
@[simp] theorem State.setDieOf_dheld (s : State) (k : Nat) (c : Die) : (s.setDieOf k c).dheld = s.dheld := rfl
@[simp] theorem State.setDieOf_aheld (s : State) (k : Nat) (c : Die) : (s.setDieOf k c).aheld = s.aheld := rfl
@[simp] theorem State.setDieOf_fabric (s : State) (k : Nat) (c : Die) : (s.setDieOf k c).fabric = s.fabric := rfl
@[simp] theorem State.setDieOf_dev (s : State) (k : Nat) (c : Die) : (s.setDieOf k c).dev = s.dev := rfl
@[simp] theorem State.setDieOf_out (s : State) (k : Nat) (c : Die) : (s.setDieOf k c).out = s.out := rfl
@[simp] theorem State.setDieOf_fresh (s : State) (k : Nat) (c : Die) : (s.setDieOf k c).fresh = s.fresh := rfl
@[simp] theorem State.setDieOf_script (s : State) (k : Nat) (c : Die) : (s.setDieOf k c).script = s.script := rfl

@[simp] theorem State.setQueueOf_cur (s : State) (k : Nat) (c : Queue) : (s.setQueueOf k c).cur = s.cur := rfl
@[simp] theorem State.setQueueOf_cst (s : State) (k : Nat) (c : Queue) : (s.setQueueOf k c).cst = s.cst := rfl
@[simp] theorem State.setQueueOf_cores (s : State) (k : Nat) (c : Queue) : (s.setQueueOf k c).cores = s.cores := rfl
@[simp] theorem State.setQueueOf_shelf (s : State) (k : Nat) (c : Queue) : (s.setQueueOf k c).shelf = s.shelf := rfl
@[simp] theorem State.setQueueOf_spill (s : State) (k : Nat) (c : Queue) : (s.setQueueOf k c).spill = s.spill := rfl
@[simp] theorem State.setQueueOf_mem (s : State) (k : Nat) (c : Queue) : (s.setQueueOf k c).mem = s.mem := rfl
@[simp] theorem State.setQueueOf_poison (s : State) (k : Nat) (c : Queue) : (s.setQueueOf k c).poison = s.poison := rfl
@[simp] theorem State.setQueueOf_lostMem (s : State) (k : Nat) (c : Queue) : (s.setQueueOf k c).lostMem = s.lostMem := rfl
@[simp] theorem State.setQueueOf_wakes (s : State) (k : Nat) (c : Queue) : (s.setQueueOf k c).wakes = s.wakes := rfl
@[simp] theorem State.setQueueOf_ctxs (s : State) (k : Nat) (c : Queue) : (s.setQueueOf k c).ctxs = s.ctxs := rfl
@[simp] theorem State.setQueueOf_parts (s : State) (k : Nat) (c : Queue) : (s.setQueueOf k c).parts = s.parts := rfl
@[simp] theorem State.setQueueOf_kernels (s : State) (k : Nat) (c : Queue) : (s.setQueueOf k c).kernels = s.kernels := rfl
@[simp] theorem State.setQueueOf_graphs (s : State) (k : Nat) (c : Queue) : (s.setQueueOf k c).graphs = s.graphs := rfl
@[simp] theorem State.setQueueOf_tasks (s : State) (k : Nat) (c : Queue) : (s.setQueueOf k c).tasks = s.tasks := rfl
@[simp] theorem State.setQueueOf_gens (s : State) (k : Nat) (c : Queue) : (s.setQueueOf k c).gens = s.gens := rfl
@[simp] theorem State.setQueueOf_pools (s : State) (k : Nat) (c : Queue) : (s.setQueueOf k c).pools = s.pools := rfl
@[simp] theorem State.setQueueOf_dies (s : State) (k : Nat) (c : Queue) : (s.setQueueOf k c).dies = s.dies := rfl
@[simp] theorem State.setQueueOf_arrs (s : State) (k : Nat) (c : Queue) : (s.setQueueOf k c).arrs = s.arrs := rfl
@[simp] theorem State.setQueueOf_dheld (s : State) (k : Nat) (c : Queue) : (s.setQueueOf k c).dheld = s.dheld := rfl
@[simp] theorem State.setQueueOf_aheld (s : State) (k : Nat) (c : Queue) : (s.setQueueOf k c).aheld = s.aheld := rfl
@[simp] theorem State.setQueueOf_fabric (s : State) (k : Nat) (c : Queue) : (s.setQueueOf k c).fabric = s.fabric := rfl
@[simp] theorem State.setQueueOf_dev (s : State) (k : Nat) (c : Queue) : (s.setQueueOf k c).dev = s.dev := rfl
@[simp] theorem State.setQueueOf_out (s : State) (k : Nat) (c : Queue) : (s.setQueueOf k c).out = s.out := rfl
@[simp] theorem State.setQueueOf_fresh (s : State) (k : Nat) (c : Queue) : (s.setQueueOf k c).fresh = s.fresh := rfl
@[simp] theorem State.setQueueOf_script (s : State) (k : Nat) (c : Queue) : (s.setQueueOf k c).script = s.script := rfl

@[simp] theorem State.setKernelOf_cur (s : State) (k : Nat) (c : KSlot) : (s.setKernelOf k c).cur = s.cur := rfl
@[simp] theorem State.setKernelOf_cst (s : State) (k : Nat) (c : KSlot) : (s.setKernelOf k c).cst = s.cst := rfl
@[simp] theorem State.setKernelOf_cores (s : State) (k : Nat) (c : KSlot) : (s.setKernelOf k c).cores = s.cores := rfl
@[simp] theorem State.setKernelOf_shelf (s : State) (k : Nat) (c : KSlot) : (s.setKernelOf k c).shelf = s.shelf := rfl
@[simp] theorem State.setKernelOf_spill (s : State) (k : Nat) (c : KSlot) : (s.setKernelOf k c).spill = s.spill := rfl
@[simp] theorem State.setKernelOf_mem (s : State) (k : Nat) (c : KSlot) : (s.setKernelOf k c).mem = s.mem := rfl
@[simp] theorem State.setKernelOf_poison (s : State) (k : Nat) (c : KSlot) : (s.setKernelOf k c).poison = s.poison := rfl
@[simp] theorem State.setKernelOf_lostMem (s : State) (k : Nat) (c : KSlot) : (s.setKernelOf k c).lostMem = s.lostMem := rfl
@[simp] theorem State.setKernelOf_wakes (s : State) (k : Nat) (c : KSlot) : (s.setKernelOf k c).wakes = s.wakes := rfl
@[simp] theorem State.setKernelOf_ctxs (s : State) (k : Nat) (c : KSlot) : (s.setKernelOf k c).ctxs = s.ctxs := rfl
@[simp] theorem State.setKernelOf_parts (s : State) (k : Nat) (c : KSlot) : (s.setKernelOf k c).parts = s.parts := rfl
@[simp] theorem State.setKernelOf_graphs (s : State) (k : Nat) (c : KSlot) : (s.setKernelOf k c).graphs = s.graphs := rfl
@[simp] theorem State.setKernelOf_tasks (s : State) (k : Nat) (c : KSlot) : (s.setKernelOf k c).tasks = s.tasks := rfl
@[simp] theorem State.setKernelOf_gens (s : State) (k : Nat) (c : KSlot) : (s.setKernelOf k c).gens = s.gens := rfl
@[simp] theorem State.setKernelOf_pools (s : State) (k : Nat) (c : KSlot) : (s.setKernelOf k c).pools = s.pools := rfl
@[simp] theorem State.setKernelOf_queues (s : State) (k : Nat) (c : KSlot) : (s.setKernelOf k c).queues = s.queues := rfl
@[simp] theorem State.setKernelOf_dies (s : State) (k : Nat) (c : KSlot) : (s.setKernelOf k c).dies = s.dies := rfl
@[simp] theorem State.setKernelOf_arrs (s : State) (k : Nat) (c : KSlot) : (s.setKernelOf k c).arrs = s.arrs := rfl
@[simp] theorem State.setKernelOf_dheld (s : State) (k : Nat) (c : KSlot) : (s.setKernelOf k c).dheld = s.dheld := rfl
@[simp] theorem State.setKernelOf_aheld (s : State) (k : Nat) (c : KSlot) : (s.setKernelOf k c).aheld = s.aheld := rfl
@[simp] theorem State.setKernelOf_fabric (s : State) (k : Nat) (c : KSlot) : (s.setKernelOf k c).fabric = s.fabric := rfl
@[simp] theorem State.setKernelOf_dev (s : State) (k : Nat) (c : KSlot) : (s.setKernelOf k c).dev = s.dev := rfl
@[simp] theorem State.setKernelOf_out (s : State) (k : Nat) (c : KSlot) : (s.setKernelOf k c).out = s.out := rfl
@[simp] theorem State.setKernelOf_fresh (s : State) (k : Nat) (c : KSlot) : (s.setKernelOf k c).fresh = s.fresh := rfl
@[simp] theorem State.setKernelOf_script (s : State) (k : Nat) (c : KSlot) : (s.setKernelOf k c).script = s.script := rfl

@[simp] theorem State.setCore_cur (s : State) (c : CoreSt) : (s.setCore c).cur = s.cur := rfl
@[simp] theorem State.setCore_cst (s : State) (c : CoreSt) : (s.setCore c).cst = s.cst := rfl
@[simp] theorem State.setCore_shelf (s : State) (c : CoreSt) : (s.setCore c).shelf = s.shelf := rfl
@[simp] theorem State.setCore_spill (s : State) (c : CoreSt) : (s.setCore c).spill = s.spill := rfl
@[simp] theorem State.setCore_mem (s : State) (c : CoreSt) : (s.setCore c).mem = s.mem := rfl
@[simp] theorem State.setCore_poison (s : State) (c : CoreSt) : (s.setCore c).poison = s.poison := rfl
@[simp] theorem State.setCore_lostMem (s : State) (c : CoreSt) : (s.setCore c).lostMem = s.lostMem := rfl
@[simp] theorem State.setCore_wakes (s : State) (c : CoreSt) : (s.setCore c).wakes = s.wakes := rfl
@[simp] theorem State.setCore_ctxs (s : State) (c : CoreSt) : (s.setCore c).ctxs = s.ctxs := rfl
@[simp] theorem State.setCore_parts (s : State) (c : CoreSt) : (s.setCore c).parts = s.parts := rfl
@[simp] theorem State.setCore_kernels (s : State) (c : CoreSt) : (s.setCore c).kernels = s.kernels := rfl
@[simp] theorem State.setCore_graphs (s : State) (c : CoreSt) : (s.setCore c).graphs = s.graphs := rfl
@[simp] theorem State.setCore_tasks (s : State) (c : CoreSt) : (s.setCore c).tasks = s.tasks := rfl
@[simp] theorem State.setCore_gens (s : State) (c : CoreSt) : (s.setCore c).gens = s.gens := rfl
@[simp] theorem State.setCore_pools (s : State) (c : CoreSt) : (s.setCore c).pools = s.pools := rfl
@[simp] theorem State.setCore_queues (s : State) (c : CoreSt) : (s.setCore c).queues = s.queues := rfl
@[simp] theorem State.setCore_dies (s : State) (c : CoreSt) : (s.setCore c).dies = s.dies := rfl
@[simp] theorem State.setCore_arrs (s : State) (c : CoreSt) : (s.setCore c).arrs = s.arrs := rfl
@[simp] theorem State.setCore_dheld (s : State) (c : CoreSt) : (s.setCore c).dheld = s.dheld := rfl
@[simp] theorem State.setCore_aheld (s : State) (c : CoreSt) : (s.setCore c).aheld = s.aheld := rfl
@[simp] theorem State.setCore_fabric (s : State) (c : CoreSt) : (s.setCore c).fabric = s.fabric := rfl
@[simp] theorem State.setCore_dev (s : State) (c : CoreSt) : (s.setCore c).dev = s.dev := rfl
@[simp] theorem State.setCore_out (s : State) (c : CoreSt) : (s.setCore c).out = s.out := rfl
@[simp] theorem State.setCore_fresh (s : State) (c : CoreSt) : (s.setCore c).fresh = s.fresh := rfl
@[simp] theorem State.setCore_script (s : State) (c : CoreSt) : (s.setCore c).script = s.script := rfl

@[simp] theorem State.setSm_cur (s : State) (t : Strm) (m : StreamSt) : (s.setSm t m).cur = s.cur := rfl
@[simp] theorem State.setSm_cst (s : State) (t : Strm) (m : StreamSt) : (s.setSm t m).cst = s.cst := rfl
@[simp] theorem State.setSm_shelf (s : State) (t : Strm) (m : StreamSt) : (s.setSm t m).shelf = s.shelf := rfl
@[simp] theorem State.setSm_spill (s : State) (t : Strm) (m : StreamSt) : (s.setSm t m).spill = s.spill := rfl
@[simp] theorem State.setSm_mem (s : State) (t : Strm) (m : StreamSt) : (s.setSm t m).mem = s.mem := rfl
@[simp] theorem State.setSm_poison (s : State) (t : Strm) (m : StreamSt) : (s.setSm t m).poison = s.poison := rfl
@[simp] theorem State.setSm_lostMem (s : State) (t : Strm) (m : StreamSt) : (s.setSm t m).lostMem = s.lostMem := rfl
@[simp] theorem State.setSm_wakes (s : State) (t : Strm) (m : StreamSt) : (s.setSm t m).wakes = s.wakes := rfl
@[simp] theorem State.setSm_ctxs (s : State) (t : Strm) (m : StreamSt) : (s.setSm t m).ctxs = s.ctxs := rfl
@[simp] theorem State.setSm_parts (s : State) (t : Strm) (m : StreamSt) : (s.setSm t m).parts = s.parts := rfl
@[simp] theorem State.setSm_kernels (s : State) (t : Strm) (m : StreamSt) : (s.setSm t m).kernels = s.kernels := rfl
@[simp] theorem State.setSm_graphs (s : State) (t : Strm) (m : StreamSt) : (s.setSm t m).graphs = s.graphs := rfl
@[simp] theorem State.setSm_tasks (s : State) (t : Strm) (m : StreamSt) : (s.setSm t m).tasks = s.tasks := rfl
@[simp] theorem State.setSm_gens (s : State) (t : Strm) (m : StreamSt) : (s.setSm t m).gens = s.gens := rfl
@[simp] theorem State.setSm_pools (s : State) (t : Strm) (m : StreamSt) : (s.setSm t m).pools = s.pools := rfl
@[simp] theorem State.setSm_queues (s : State) (t : Strm) (m : StreamSt) : (s.setSm t m).queues = s.queues := rfl
@[simp] theorem State.setSm_dies (s : State) (t : Strm) (m : StreamSt) : (s.setSm t m).dies = s.dies := rfl
@[simp] theorem State.setSm_arrs (s : State) (t : Strm) (m : StreamSt) : (s.setSm t m).arrs = s.arrs := rfl
@[simp] theorem State.setSm_dheld (s : State) (t : Strm) (m : StreamSt) : (s.setSm t m).dheld = s.dheld := rfl
@[simp] theorem State.setSm_aheld (s : State) (t : Strm) (m : StreamSt) : (s.setSm t m).aheld = s.aheld := rfl
@[simp] theorem State.setSm_fabric (s : State) (t : Strm) (m : StreamSt) : (s.setSm t m).fabric = s.fabric := rfl
@[simp] theorem State.setSm_dev (s : State) (t : Strm) (m : StreamSt) : (s.setSm t m).dev = s.dev := rfl
@[simp] theorem State.setSm_out (s : State) (t : Strm) (m : StreamSt) : (s.setSm t m).out = s.out := rfl
@[simp] theorem State.setSm_fresh (s : State) (t : Strm) (m : StreamSt) : (s.setSm t m).fresh = s.fresh := rfl
@[simp] theorem State.setSm_script (s : State) (t : Strm) (m : StreamSt) : (s.setSm t m).script = s.script := rfl

@[simp] theorem State.setC_cur (s : State) (m : StreamSt) : (s.setC m).cur = s.cur := rfl
@[simp] theorem State.setC_cst (s : State) (m : StreamSt) : (s.setC m).cst = s.cst := rfl
@[simp] theorem State.setC_shelf (s : State) (m : StreamSt) : (s.setC m).shelf = s.shelf := rfl
@[simp] theorem State.setC_spill (s : State) (m : StreamSt) : (s.setC m).spill = s.spill := rfl
@[simp] theorem State.setC_mem (s : State) (m : StreamSt) : (s.setC m).mem = s.mem := rfl
@[simp] theorem State.setC_poison (s : State) (m : StreamSt) : (s.setC m).poison = s.poison := rfl
@[simp] theorem State.setC_lostMem (s : State) (m : StreamSt) : (s.setC m).lostMem = s.lostMem := rfl
@[simp] theorem State.setC_wakes (s : State) (m : StreamSt) : (s.setC m).wakes = s.wakes := rfl
@[simp] theorem State.setC_ctxs (s : State) (m : StreamSt) : (s.setC m).ctxs = s.ctxs := rfl
@[simp] theorem State.setC_parts (s : State) (m : StreamSt) : (s.setC m).parts = s.parts := rfl
@[simp] theorem State.setC_kernels (s : State) (m : StreamSt) : (s.setC m).kernels = s.kernels := rfl
@[simp] theorem State.setC_graphs (s : State) (m : StreamSt) : (s.setC m).graphs = s.graphs := rfl
@[simp] theorem State.setC_tasks (s : State) (m : StreamSt) : (s.setC m).tasks = s.tasks := rfl
@[simp] theorem State.setC_gens (s : State) (m : StreamSt) : (s.setC m).gens = s.gens := rfl
@[simp] theorem State.setC_pools (s : State) (m : StreamSt) : (s.setC m).pools = s.pools := rfl
@[simp] theorem State.setC_queues (s : State) (m : StreamSt) : (s.setC m).queues = s.queues := rfl
@[simp] theorem State.setC_dies (s : State) (m : StreamSt) : (s.setC m).dies = s.dies := rfl
@[simp] theorem State.setC_arrs (s : State) (m : StreamSt) : (s.setC m).arrs = s.arrs := rfl
@[simp] theorem State.setC_dheld (s : State) (m : StreamSt) : (s.setC m).dheld = s.dheld := rfl
@[simp] theorem State.setC_aheld (s : State) (m : StreamSt) : (s.setC m).aheld = s.aheld := rfl
@[simp] theorem State.setC_fabric (s : State) (m : StreamSt) : (s.setC m).fabric = s.fabric := rfl
@[simp] theorem State.setC_dev (s : State) (m : StreamSt) : (s.setC m).dev = s.dev := rfl
@[simp] theorem State.setC_out (s : State) (m : StreamSt) : (s.setC m).out = s.out := rfl
@[simp] theorem State.setC_fresh (s : State) (m : StreamSt) : (s.setC m).fresh = s.fresh := rfl
@[simp] theorem State.setC_script (s : State) (m : StreamSt) : (s.setC m).script = s.script := rfl

@[simp] theorem State.retire_cur (s : State) : (s.retire).cur = s.cur := rfl
@[simp] theorem State.retire_cst (s : State) : (s.retire).cst = s.cst := rfl
@[simp] theorem State.retire_shelf (s : State) : (s.retire).shelf = s.shelf := rfl
@[simp] theorem State.retire_spill (s : State) : (s.retire).spill = s.spill := rfl
@[simp] theorem State.retire_mem (s : State) : (s.retire).mem = s.mem := rfl
@[simp] theorem State.retire_poison (s : State) : (s.retire).poison = s.poison := rfl
@[simp] theorem State.retire_lostMem (s : State) : (s.retire).lostMem = s.lostMem := rfl
@[simp] theorem State.retire_wakes (s : State) : (s.retire).wakes = s.wakes := rfl
@[simp] theorem State.retire_ctxs (s : State) : (s.retire).ctxs = s.ctxs := rfl
@[simp] theorem State.retire_parts (s : State) : (s.retire).parts = s.parts := rfl
@[simp] theorem State.retire_kernels (s : State) : (s.retire).kernels = s.kernels := rfl
@[simp] theorem State.retire_graphs (s : State) : (s.retire).graphs = s.graphs := rfl
@[simp] theorem State.retire_tasks (s : State) : (s.retire).tasks = s.tasks := rfl
@[simp] theorem State.retire_gens (s : State) : (s.retire).gens = s.gens := rfl
@[simp] theorem State.retire_pools (s : State) : (s.retire).pools = s.pools := rfl
@[simp] theorem State.retire_queues (s : State) : (s.retire).queues = s.queues := rfl
@[simp] theorem State.retire_dies (s : State) : (s.retire).dies = s.dies := rfl
@[simp] theorem State.retire_arrs (s : State) : (s.retire).arrs = s.arrs := rfl
@[simp] theorem State.retire_dheld (s : State) : (s.retire).dheld = s.dheld := rfl
@[simp] theorem State.retire_aheld (s : State) : (s.retire).aheld = s.aheld := rfl
@[simp] theorem State.retire_fabric (s : State) : (s.retire).fabric = s.fabric := rfl
@[simp] theorem State.retire_dev (s : State) : (s.retire).dev = s.dev := rfl
@[simp] theorem State.retire_out (s : State) : (s.retire).out = s.out := rfl
@[simp] theorem State.retire_fresh (s : State) : (s.retire).fresh = s.fresh := rfl
@[simp] theorem State.retire_script (s : State) : (s.retire).script = s.script := rfl

@[simp] theorem State.jump_cur (s : State) (n : Nat) : (s.jump n).cur = s.cur := rfl
@[simp] theorem State.jump_cst (s : State) (n : Nat) : (s.jump n).cst = s.cst := rfl
@[simp] theorem State.jump_shelf (s : State) (n : Nat) : (s.jump n).shelf = s.shelf := rfl
@[simp] theorem State.jump_spill (s : State) (n : Nat) : (s.jump n).spill = s.spill := rfl
@[simp] theorem State.jump_mem (s : State) (n : Nat) : (s.jump n).mem = s.mem := rfl
@[simp] theorem State.jump_poison (s : State) (n : Nat) : (s.jump n).poison = s.poison := rfl
@[simp] theorem State.jump_lostMem (s : State) (n : Nat) : (s.jump n).lostMem = s.lostMem := rfl
@[simp] theorem State.jump_wakes (s : State) (n : Nat) : (s.jump n).wakes = s.wakes := rfl
@[simp] theorem State.jump_ctxs (s : State) (n : Nat) : (s.jump n).ctxs = s.ctxs := rfl
@[simp] theorem State.jump_parts (s : State) (n : Nat) : (s.jump n).parts = s.parts := rfl
@[simp] theorem State.jump_kernels (s : State) (n : Nat) : (s.jump n).kernels = s.kernels := rfl
@[simp] theorem State.jump_graphs (s : State) (n : Nat) : (s.jump n).graphs = s.graphs := rfl
@[simp] theorem State.jump_tasks (s : State) (n : Nat) : (s.jump n).tasks = s.tasks := rfl
@[simp] theorem State.jump_gens (s : State) (n : Nat) : (s.jump n).gens = s.gens := rfl
@[simp] theorem State.jump_pools (s : State) (n : Nat) : (s.jump n).pools = s.pools := rfl
@[simp] theorem State.jump_queues (s : State) (n : Nat) : (s.jump n).queues = s.queues := rfl
@[simp] theorem State.jump_dies (s : State) (n : Nat) : (s.jump n).dies = s.dies := rfl
@[simp] theorem State.jump_arrs (s : State) (n : Nat) : (s.jump n).arrs = s.arrs := rfl
@[simp] theorem State.jump_dheld (s : State) (n : Nat) : (s.jump n).dheld = s.dheld := rfl
@[simp] theorem State.jump_aheld (s : State) (n : Nat) : (s.jump n).aheld = s.aheld := rfl
@[simp] theorem State.jump_fabric (s : State) (n : Nat) : (s.jump n).fabric = s.fabric := rfl
@[simp] theorem State.jump_dev (s : State) (n : Nat) : (s.jump n).dev = s.dev := rfl
@[simp] theorem State.jump_out (s : State) (n : Nat) : (s.jump n).out = s.out := rfl
@[simp] theorem State.jump_fresh (s : State) (n : Nat) : (s.jump n).fresh = s.fresh := rfl
@[simp] theorem State.jump_script (s : State) (n : Nat) : (s.jump n).script = s.script := rfl

@[simp] theorem CoreSt.setCsr_sregs (s : CoreSt) (n : Nat) (v : Word) : (s.setCsr n v).sregs = s.sregs := rfl
@[simp] theorem CoreSt.setCsr_aregs (s : CoreSt) (n : Nat) (v : Word) : (s.setCsr n v).aregs = s.aregs := rfl
@[simp] theorem CoreSt.setCsr_vregs (s : CoreSt) (n : Nat) (v : Word) : (s.setCsr n v).vregs = s.vregs := rfl
@[simp] theorem CoreSt.setCsr_tiles (s : CoreSt) (n : Nat) (v : Word) : (s.setCsr n v).tiles = s.tiles := rfl
@[simp] theorem CoreSt.setCsr_events (s : CoreSt) (n : Nat) (v : Word) : (s.setCsr n v).events = s.events := rfl
@[simp] theorem CoreSt.setCsr_evWait (s : CoreSt) (n : Nat) (v : Word) : (s.setCsr n v).evWait = s.evWait := rfl
@[simp] theorem CoreSt.setCsr_slots (s : CoreSt) (n : Nat) (v : Word) : (s.setCsr n v).slots = s.slots := rfl
@[simp] theorem CoreSt.setCsr_rings (s : CoreSt) (n : Nat) (v : Word) : (s.setCsr n v).rings = s.rings := rfl
@[simp] theorem CoreSt.setCsr_wbuf (s : CoreSt) (n : Nat) (v : Word) : (s.setCsr n v).wbuf = s.wbuf := rfl
@[simp] theorem CoreSt.setCsr_abuf (s : CoreSt) (n : Nat) (v : Word) : (s.setCsr n v).abuf = s.abuf := rfl
@[simp] theorem CoreSt.setCsr_wtags (s : CoreSt) (n : Nat) (v : Word) : (s.setCsr n v).wtags = s.wtags := rfl
@[simp] theorem CoreSt.setCsr_atags (s : CoreSt) (n : Nat) (v : Word) : (s.setCsr n v).atags = s.atags := rfl
@[simp] theorem CoreSt.setCsr_wsums (s : CoreSt) (n : Nat) (v : Word) : (s.setCsr n v).wsums = s.wsums := rfl
@[simp] theorem CoreSt.setCsr_blaze (s : CoreSt) (n : Nat) (v : Word) : (s.setCsr n v).blaze = s.blaze := rfl
@[simp] theorem CoreSt.setCsr_want (s : CoreSt) (n : Nat) (v : Word) : (s.setCsr n v).want = s.want := rfl
@[simp] theorem CoreSt.setCsr_cS (s : CoreSt) (n : Nat) (v : Word) : (s.setCsr n v).cS = s.cS := rfl
@[simp] theorem CoreSt.setCsr_lS (s : CoreSt) (n : Nat) (v : Word) : (s.setCsr n v).lS = s.lS := rfl
@[simp] theorem CoreSt.setCsr_vS (s : CoreSt) (n : Nat) (v : Word) : (s.setCsr n v).vS = s.vS := rfl
@[simp] theorem CoreSt.setCsr_mS (s : CoreSt) (n : Nat) (v : Word) : (s.setCsr n v).mS = s.mS := rfl
@[simp] theorem CoreSt.setCsr_sS (s : CoreSt) (n : Nat) (v : Word) : (s.setCsr n v).sS = s.sS := rfl
@[simp] theorem CoreSt.setCsr_journal (s : CoreSt) (n : Nat) (v : Word) : (s.setCsr n v).journal = s.journal := rfl
@[simp] theorem CoreSt.setCsr_cost (s : CoreSt) (n : Nat) (v : Word) : (s.setCsr n v).cost = s.cost := rfl
@[simp] theorem CoreSt.setCsr_within (s : CoreSt) (n : Nat) (v : Word) : (s.setCsr n v).within = s.within := rfl
@[simp] theorem CoreSt.setCsr_sleep (s : CoreSt) (n : Nat) (v : Word) : (s.setCsr n v).sleep = s.sleep := rfl
@[simp] theorem CoreSt.setCsr_wait (s : CoreSt) (n : Nat) (v : Word) : (s.setCsr n v).wait = s.wait := rfl
@[simp] theorem CoreSt.setCsr_utlb (s : CoreSt) (n : Nat) (v : Word) : (s.setCsr n v).utlb = s.utlb := rfl
@[simp] theorem CoreSt.setCsr_bwait (s : CoreSt) (n : Nat) (v : Word) : (s.setCsr n v).bwait = s.bwait := rfl
@[simp] theorem CoreSt.setCsr_late (s : CoreSt) (n : Nat) (v : Word) : (s.setCsr n v).late = s.late := rfl
@[simp] theorem CoreSt.setCsr_frozen (s : CoreSt) (n : Nat) (v : Word) : (s.setCsr n v).frozen = s.frozen := rfl
@[simp] theorem CoreSt.setCsr_rwait (s : CoreSt) (n : Nat) (v : Word) : (s.setCsr n v).rwait = s.rwait := rfl
@[simp] theorem CoreSt.setCsr_mstop (s : CoreSt) (n : Nat) (v : Word) : (s.setCsr n v).mstop = s.mstop := rfl
@[simp] theorem CoreSt.setCsr_marks (s : CoreSt) (n : Nat) (v : Word) : (s.setCsr n v).marks = s.marks := rfl
@[simp] theorem CoreSt.setCsr_marked (s : CoreSt) (n : Nat) (v : Word) : (s.setCsr n v).marked = s.marked := rfl
@[simp] theorem CoreSt.setCsr_xq (s : CoreSt) (n : Nat) (v : Word) : (s.setCsr n v).xq = s.xq := rfl
@[simp] theorem CoreSt.setCsr_wver (s : CoreSt) (n : Nat) (v : Word) : (s.setCsr n v).wver = s.wver := rfl
@[simp] theorem CoreSt.setCsr_links (s : CoreSt) (n : Nat) (v : Word) : (s.setCsr n v).links = s.links := rfl
@[simp] theorem CoreSt.setCsr_wacks (s : CoreSt) (n : Nat) (v : Word) : (s.setCsr n v).wacks = s.wacks := rfl
@[simp] theorem CoreSt.setCsr_hand (s : CoreSt) (n : Nat) (v : Word) : (s.setCsr n v).hand = s.hand := rfl
@[simp] theorem CoreSt.setCsr_task (s : CoreSt) (n : Nat) (v : Word) : (s.setCsr n v).task = s.task := rfl
@[simp] theorem CoreSt.setCsr_ended (s : CoreSt) (n : Nat) (v : Word) : (s.setCsr n v).ended = s.ended := rfl
@[simp] theorem CoreSt.setCsr_dispatches (s : CoreSt) (n : Nat) (v : Word) : (s.setCsr n v).dispatches = s.dispatches := rfl
@[simp] theorem CoreSt.setCsr_attempts (s : CoreSt) (n : Nat) (v : Word) : (s.setCsr n v).attempts = s.attempts := rfl

@[simp] theorem CoreSt.setAreg_sregs (s : CoreSt) (n : Nat) (v : AReg) : (s.setAreg n v).sregs = s.sregs := rfl
@[simp] theorem CoreSt.setAreg_vregs (s : CoreSt) (n : Nat) (v : AReg) : (s.setAreg n v).vregs = s.vregs := rfl
@[simp] theorem CoreSt.setAreg_tiles (s : CoreSt) (n : Nat) (v : AReg) : (s.setAreg n v).tiles = s.tiles := rfl
@[simp] theorem CoreSt.setAreg_events (s : CoreSt) (n : Nat) (v : AReg) : (s.setAreg n v).events = s.events := rfl
@[simp] theorem CoreSt.setAreg_evWait (s : CoreSt) (n : Nat) (v : AReg) : (s.setAreg n v).evWait = s.evWait := rfl
@[simp] theorem CoreSt.setAreg_slots (s : CoreSt) (n : Nat) (v : AReg) : (s.setAreg n v).slots = s.slots := rfl
@[simp] theorem CoreSt.setAreg_rings (s : CoreSt) (n : Nat) (v : AReg) : (s.setAreg n v).rings = s.rings := rfl
@[simp] theorem CoreSt.setAreg_csrs (s : CoreSt) (n : Nat) (v : AReg) : (s.setAreg n v).csrs = s.csrs := rfl
@[simp] theorem CoreSt.setAreg_wbuf (s : CoreSt) (n : Nat) (v : AReg) : (s.setAreg n v).wbuf = s.wbuf := rfl
@[simp] theorem CoreSt.setAreg_abuf (s : CoreSt) (n : Nat) (v : AReg) : (s.setAreg n v).abuf = s.abuf := rfl
@[simp] theorem CoreSt.setAreg_wtags (s : CoreSt) (n : Nat) (v : AReg) : (s.setAreg n v).wtags = s.wtags := rfl
@[simp] theorem CoreSt.setAreg_atags (s : CoreSt) (n : Nat) (v : AReg) : (s.setAreg n v).atags = s.atags := rfl
@[simp] theorem CoreSt.setAreg_wsums (s : CoreSt) (n : Nat) (v : AReg) : (s.setAreg n v).wsums = s.wsums := rfl
@[simp] theorem CoreSt.setAreg_blaze (s : CoreSt) (n : Nat) (v : AReg) : (s.setAreg n v).blaze = s.blaze := rfl
@[simp] theorem CoreSt.setAreg_want (s : CoreSt) (n : Nat) (v : AReg) : (s.setAreg n v).want = s.want := rfl
@[simp] theorem CoreSt.setAreg_cS (s : CoreSt) (n : Nat) (v : AReg) : (s.setAreg n v).cS = s.cS := rfl
@[simp] theorem CoreSt.setAreg_lS (s : CoreSt) (n : Nat) (v : AReg) : (s.setAreg n v).lS = s.lS := rfl
@[simp] theorem CoreSt.setAreg_vS (s : CoreSt) (n : Nat) (v : AReg) : (s.setAreg n v).vS = s.vS := rfl
@[simp] theorem CoreSt.setAreg_mS (s : CoreSt) (n : Nat) (v : AReg) : (s.setAreg n v).mS = s.mS := rfl
@[simp] theorem CoreSt.setAreg_sS (s : CoreSt) (n : Nat) (v : AReg) : (s.setAreg n v).sS = s.sS := rfl
@[simp] theorem CoreSt.setAreg_journal (s : CoreSt) (n : Nat) (v : AReg) : (s.setAreg n v).journal = s.journal := rfl
@[simp] theorem CoreSt.setAreg_cost (s : CoreSt) (n : Nat) (v : AReg) : (s.setAreg n v).cost = s.cost := rfl
@[simp] theorem CoreSt.setAreg_within (s : CoreSt) (n : Nat) (v : AReg) : (s.setAreg n v).within = s.within := rfl
@[simp] theorem CoreSt.setAreg_sleep (s : CoreSt) (n : Nat) (v : AReg) : (s.setAreg n v).sleep = s.sleep := rfl
@[simp] theorem CoreSt.setAreg_wait (s : CoreSt) (n : Nat) (v : AReg) : (s.setAreg n v).wait = s.wait := rfl
@[simp] theorem CoreSt.setAreg_utlb (s : CoreSt) (n : Nat) (v : AReg) : (s.setAreg n v).utlb = s.utlb := rfl
@[simp] theorem CoreSt.setAreg_bwait (s : CoreSt) (n : Nat) (v : AReg) : (s.setAreg n v).bwait = s.bwait := rfl
@[simp] theorem CoreSt.setAreg_late (s : CoreSt) (n : Nat) (v : AReg) : (s.setAreg n v).late = s.late := rfl
@[simp] theorem CoreSt.setAreg_frozen (s : CoreSt) (n : Nat) (v : AReg) : (s.setAreg n v).frozen = s.frozen := rfl
@[simp] theorem CoreSt.setAreg_rwait (s : CoreSt) (n : Nat) (v : AReg) : (s.setAreg n v).rwait = s.rwait := rfl
@[simp] theorem CoreSt.setAreg_mstop (s : CoreSt) (n : Nat) (v : AReg) : (s.setAreg n v).mstop = s.mstop := rfl
@[simp] theorem CoreSt.setAreg_marks (s : CoreSt) (n : Nat) (v : AReg) : (s.setAreg n v).marks = s.marks := rfl
@[simp] theorem CoreSt.setAreg_marked (s : CoreSt) (n : Nat) (v : AReg) : (s.setAreg n v).marked = s.marked := rfl
@[simp] theorem CoreSt.setAreg_xq (s : CoreSt) (n : Nat) (v : AReg) : (s.setAreg n v).xq = s.xq := rfl
@[simp] theorem CoreSt.setAreg_wver (s : CoreSt) (n : Nat) (v : AReg) : (s.setAreg n v).wver = s.wver := rfl
@[simp] theorem CoreSt.setAreg_links (s : CoreSt) (n : Nat) (v : AReg) : (s.setAreg n v).links = s.links := rfl
@[simp] theorem CoreSt.setAreg_wacks (s : CoreSt) (n : Nat) (v : AReg) : (s.setAreg n v).wacks = s.wacks := rfl
@[simp] theorem CoreSt.setAreg_hand (s : CoreSt) (n : Nat) (v : AReg) : (s.setAreg n v).hand = s.hand := rfl
@[simp] theorem CoreSt.setAreg_task (s : CoreSt) (n : Nat) (v : AReg) : (s.setAreg n v).task = s.task := rfl
@[simp] theorem CoreSt.setAreg_ended (s : CoreSt) (n : Nat) (v : AReg) : (s.setAreg n v).ended = s.ended := rfl
@[simp] theorem CoreSt.setAreg_dispatches (s : CoreSt) (n : Nat) (v : AReg) : (s.setAreg n v).dispatches = s.dispatches := rfl
@[simp] theorem CoreSt.setAreg_attempts (s : CoreSt) (n : Nat) (v : AReg) : (s.setAreg n v).attempts = s.attempts := rfl

@[simp] theorem CoreSt.setVreg_sregs (s : CoreSt) (n : Nat) (v : Vec) : (s.setVreg n v).sregs = s.sregs := rfl
@[simp] theorem CoreSt.setVreg_aregs (s : CoreSt) (n : Nat) (v : Vec) : (s.setVreg n v).aregs = s.aregs := rfl
@[simp] theorem CoreSt.setVreg_tiles (s : CoreSt) (n : Nat) (v : Vec) : (s.setVreg n v).tiles = s.tiles := rfl
@[simp] theorem CoreSt.setVreg_events (s : CoreSt) (n : Nat) (v : Vec) : (s.setVreg n v).events = s.events := rfl
@[simp] theorem CoreSt.setVreg_evWait (s : CoreSt) (n : Nat) (v : Vec) : (s.setVreg n v).evWait = s.evWait := rfl
@[simp] theorem CoreSt.setVreg_slots (s : CoreSt) (n : Nat) (v : Vec) : (s.setVreg n v).slots = s.slots := rfl
@[simp] theorem CoreSt.setVreg_rings (s : CoreSt) (n : Nat) (v : Vec) : (s.setVreg n v).rings = s.rings := rfl
@[simp] theorem CoreSt.setVreg_csrs (s : CoreSt) (n : Nat) (v : Vec) : (s.setVreg n v).csrs = s.csrs := rfl
@[simp] theorem CoreSt.setVreg_wbuf (s : CoreSt) (n : Nat) (v : Vec) : (s.setVreg n v).wbuf = s.wbuf := rfl
@[simp] theorem CoreSt.setVreg_abuf (s : CoreSt) (n : Nat) (v : Vec) : (s.setVreg n v).abuf = s.abuf := rfl
@[simp] theorem CoreSt.setVreg_wtags (s : CoreSt) (n : Nat) (v : Vec) : (s.setVreg n v).wtags = s.wtags := rfl
@[simp] theorem CoreSt.setVreg_atags (s : CoreSt) (n : Nat) (v : Vec) : (s.setVreg n v).atags = s.atags := rfl
@[simp] theorem CoreSt.setVreg_wsums (s : CoreSt) (n : Nat) (v : Vec) : (s.setVreg n v).wsums = s.wsums := rfl
@[simp] theorem CoreSt.setVreg_blaze (s : CoreSt) (n : Nat) (v : Vec) : (s.setVreg n v).blaze = s.blaze := rfl
@[simp] theorem CoreSt.setVreg_want (s : CoreSt) (n : Nat) (v : Vec) : (s.setVreg n v).want = s.want := rfl
@[simp] theorem CoreSt.setVreg_cS (s : CoreSt) (n : Nat) (v : Vec) : (s.setVreg n v).cS = s.cS := rfl
@[simp] theorem CoreSt.setVreg_lS (s : CoreSt) (n : Nat) (v : Vec) : (s.setVreg n v).lS = s.lS := rfl
@[simp] theorem CoreSt.setVreg_vS (s : CoreSt) (n : Nat) (v : Vec) : (s.setVreg n v).vS = s.vS := rfl
@[simp] theorem CoreSt.setVreg_mS (s : CoreSt) (n : Nat) (v : Vec) : (s.setVreg n v).mS = s.mS := rfl
@[simp] theorem CoreSt.setVreg_sS (s : CoreSt) (n : Nat) (v : Vec) : (s.setVreg n v).sS = s.sS := rfl
@[simp] theorem CoreSt.setVreg_journal (s : CoreSt) (n : Nat) (v : Vec) : (s.setVreg n v).journal = s.journal := rfl
@[simp] theorem CoreSt.setVreg_cost (s : CoreSt) (n : Nat) (v : Vec) : (s.setVreg n v).cost = s.cost := rfl
@[simp] theorem CoreSt.setVreg_within (s : CoreSt) (n : Nat) (v : Vec) : (s.setVreg n v).within = s.within := rfl
@[simp] theorem CoreSt.setVreg_sleep (s : CoreSt) (n : Nat) (v : Vec) : (s.setVreg n v).sleep = s.sleep := rfl
@[simp] theorem CoreSt.setVreg_wait (s : CoreSt) (n : Nat) (v : Vec) : (s.setVreg n v).wait = s.wait := rfl
@[simp] theorem CoreSt.setVreg_utlb (s : CoreSt) (n : Nat) (v : Vec) : (s.setVreg n v).utlb = s.utlb := rfl
@[simp] theorem CoreSt.setVreg_bwait (s : CoreSt) (n : Nat) (v : Vec) : (s.setVreg n v).bwait = s.bwait := rfl
@[simp] theorem CoreSt.setVreg_late (s : CoreSt) (n : Nat) (v : Vec) : (s.setVreg n v).late = s.late := rfl
@[simp] theorem CoreSt.setVreg_frozen (s : CoreSt) (n : Nat) (v : Vec) : (s.setVreg n v).frozen = s.frozen := rfl
@[simp] theorem CoreSt.setVreg_rwait (s : CoreSt) (n : Nat) (v : Vec) : (s.setVreg n v).rwait = s.rwait := rfl
@[simp] theorem CoreSt.setVreg_mstop (s : CoreSt) (n : Nat) (v : Vec) : (s.setVreg n v).mstop = s.mstop := rfl
@[simp] theorem CoreSt.setVreg_marks (s : CoreSt) (n : Nat) (v : Vec) : (s.setVreg n v).marks = s.marks := rfl
@[simp] theorem CoreSt.setVreg_marked (s : CoreSt) (n : Nat) (v : Vec) : (s.setVreg n v).marked = s.marked := rfl
@[simp] theorem CoreSt.setVreg_xq (s : CoreSt) (n : Nat) (v : Vec) : (s.setVreg n v).xq = s.xq := rfl
@[simp] theorem CoreSt.setVreg_wver (s : CoreSt) (n : Nat) (v : Vec) : (s.setVreg n v).wver = s.wver := rfl
@[simp] theorem CoreSt.setVreg_links (s : CoreSt) (n : Nat) (v : Vec) : (s.setVreg n v).links = s.links := rfl
@[simp] theorem CoreSt.setVreg_wacks (s : CoreSt) (n : Nat) (v : Vec) : (s.setVreg n v).wacks = s.wacks := rfl
@[simp] theorem CoreSt.setVreg_hand (s : CoreSt) (n : Nat) (v : Vec) : (s.setVreg n v).hand = s.hand := rfl
@[simp] theorem CoreSt.setVreg_task (s : CoreSt) (n : Nat) (v : Vec) : (s.setVreg n v).task = s.task := rfl
@[simp] theorem CoreSt.setVreg_ended (s : CoreSt) (n : Nat) (v : Vec) : (s.setVreg n v).ended = s.ended := rfl
@[simp] theorem CoreSt.setVreg_dispatches (s : CoreSt) (n : Nat) (v : Vec) : (s.setVreg n v).dispatches = s.dispatches := rfl
@[simp] theorem CoreSt.setVreg_attempts (s : CoreSt) (n : Nat) (v : Vec) : (s.setVreg n v).attempts = s.attempts := rfl

@[simp] theorem CoreSt.setTile_sregs (s : CoreSt) (n : Nat) (v : Tile) : (s.setTile n v).sregs = s.sregs := rfl
@[simp] theorem CoreSt.setTile_aregs (s : CoreSt) (n : Nat) (v : Tile) : (s.setTile n v).aregs = s.aregs := rfl
@[simp] theorem CoreSt.setTile_vregs (s : CoreSt) (n : Nat) (v : Tile) : (s.setTile n v).vregs = s.vregs := rfl
@[simp] theorem CoreSt.setTile_events (s : CoreSt) (n : Nat) (v : Tile) : (s.setTile n v).events = s.events := rfl
@[simp] theorem CoreSt.setTile_evWait (s : CoreSt) (n : Nat) (v : Tile) : (s.setTile n v).evWait = s.evWait := rfl
@[simp] theorem CoreSt.setTile_slots (s : CoreSt) (n : Nat) (v : Tile) : (s.setTile n v).slots = s.slots := rfl
@[simp] theorem CoreSt.setTile_rings (s : CoreSt) (n : Nat) (v : Tile) : (s.setTile n v).rings = s.rings := rfl
@[simp] theorem CoreSt.setTile_csrs (s : CoreSt) (n : Nat) (v : Tile) : (s.setTile n v).csrs = s.csrs := rfl
@[simp] theorem CoreSt.setTile_wbuf (s : CoreSt) (n : Nat) (v : Tile) : (s.setTile n v).wbuf = s.wbuf := rfl
@[simp] theorem CoreSt.setTile_abuf (s : CoreSt) (n : Nat) (v : Tile) : (s.setTile n v).abuf = s.abuf := rfl
@[simp] theorem CoreSt.setTile_wtags (s : CoreSt) (n : Nat) (v : Tile) : (s.setTile n v).wtags = s.wtags := rfl
@[simp] theorem CoreSt.setTile_atags (s : CoreSt) (n : Nat) (v : Tile) : (s.setTile n v).atags = s.atags := rfl
@[simp] theorem CoreSt.setTile_wsums (s : CoreSt) (n : Nat) (v : Tile) : (s.setTile n v).wsums = s.wsums := rfl
@[simp] theorem CoreSt.setTile_blaze (s : CoreSt) (n : Nat) (v : Tile) : (s.setTile n v).blaze = s.blaze := rfl
@[simp] theorem CoreSt.setTile_want (s : CoreSt) (n : Nat) (v : Tile) : (s.setTile n v).want = s.want := rfl
@[simp] theorem CoreSt.setTile_cS (s : CoreSt) (n : Nat) (v : Tile) : (s.setTile n v).cS = s.cS := rfl
@[simp] theorem CoreSt.setTile_lS (s : CoreSt) (n : Nat) (v : Tile) : (s.setTile n v).lS = s.lS := rfl
@[simp] theorem CoreSt.setTile_vS (s : CoreSt) (n : Nat) (v : Tile) : (s.setTile n v).vS = s.vS := rfl
@[simp] theorem CoreSt.setTile_mS (s : CoreSt) (n : Nat) (v : Tile) : (s.setTile n v).mS = s.mS := rfl
@[simp] theorem CoreSt.setTile_sS (s : CoreSt) (n : Nat) (v : Tile) : (s.setTile n v).sS = s.sS := rfl
@[simp] theorem CoreSt.setTile_journal (s : CoreSt) (n : Nat) (v : Tile) : (s.setTile n v).journal = s.journal := rfl
@[simp] theorem CoreSt.setTile_cost (s : CoreSt) (n : Nat) (v : Tile) : (s.setTile n v).cost = s.cost := rfl
@[simp] theorem CoreSt.setTile_within (s : CoreSt) (n : Nat) (v : Tile) : (s.setTile n v).within = s.within := rfl
@[simp] theorem CoreSt.setTile_sleep (s : CoreSt) (n : Nat) (v : Tile) : (s.setTile n v).sleep = s.sleep := rfl
@[simp] theorem CoreSt.setTile_wait (s : CoreSt) (n : Nat) (v : Tile) : (s.setTile n v).wait = s.wait := rfl
@[simp] theorem CoreSt.setTile_utlb (s : CoreSt) (n : Nat) (v : Tile) : (s.setTile n v).utlb = s.utlb := rfl
@[simp] theorem CoreSt.setTile_bwait (s : CoreSt) (n : Nat) (v : Tile) : (s.setTile n v).bwait = s.bwait := rfl
@[simp] theorem CoreSt.setTile_late (s : CoreSt) (n : Nat) (v : Tile) : (s.setTile n v).late = s.late := rfl
@[simp] theorem CoreSt.setTile_frozen (s : CoreSt) (n : Nat) (v : Tile) : (s.setTile n v).frozen = s.frozen := rfl
@[simp] theorem CoreSt.setTile_rwait (s : CoreSt) (n : Nat) (v : Tile) : (s.setTile n v).rwait = s.rwait := rfl
@[simp] theorem CoreSt.setTile_mstop (s : CoreSt) (n : Nat) (v : Tile) : (s.setTile n v).mstop = s.mstop := rfl
@[simp] theorem CoreSt.setTile_marks (s : CoreSt) (n : Nat) (v : Tile) : (s.setTile n v).marks = s.marks := rfl
@[simp] theorem CoreSt.setTile_marked (s : CoreSt) (n : Nat) (v : Tile) : (s.setTile n v).marked = s.marked := rfl
@[simp] theorem CoreSt.setTile_xq (s : CoreSt) (n : Nat) (v : Tile) : (s.setTile n v).xq = s.xq := rfl
@[simp] theorem CoreSt.setTile_wver (s : CoreSt) (n : Nat) (v : Tile) : (s.setTile n v).wver = s.wver := rfl
@[simp] theorem CoreSt.setTile_links (s : CoreSt) (n : Nat) (v : Tile) : (s.setTile n v).links = s.links := rfl
@[simp] theorem CoreSt.setTile_wacks (s : CoreSt) (n : Nat) (v : Tile) : (s.setTile n v).wacks = s.wacks := rfl
@[simp] theorem CoreSt.setTile_hand (s : CoreSt) (n : Nat) (v : Tile) : (s.setTile n v).hand = s.hand := rfl
@[simp] theorem CoreSt.setTile_task (s : CoreSt) (n : Nat) (v : Tile) : (s.setTile n v).task = s.task := rfl
@[simp] theorem CoreSt.setTile_ended (s : CoreSt) (n : Nat) (v : Tile) : (s.setTile n v).ended = s.ended := rfl
@[simp] theorem CoreSt.setTile_dispatches (s : CoreSt) (n : Nat) (v : Tile) : (s.setTile n v).dispatches = s.dispatches := rfl
@[simp] theorem CoreSt.setTile_attempts (s : CoreSt) (n : Nat) (v : Tile) : (s.setTile n v).attempts = s.attempts := rfl

@[simp] theorem CoreSt.setSreg_aregs (c : CoreSt) (r : Reg) (v : Word) : (c.setSreg r v).aregs = c.aregs := by unfold CoreSt.setSreg; split <;> rfl
@[simp] theorem CoreSt.setSreg_vregs (c : CoreSt) (r : Reg) (v : Word) : (c.setSreg r v).vregs = c.vregs := by unfold CoreSt.setSreg; split <;> rfl
@[simp] theorem CoreSt.setSreg_tiles (c : CoreSt) (r : Reg) (v : Word) : (c.setSreg r v).tiles = c.tiles := by unfold CoreSt.setSreg; split <;> rfl
@[simp] theorem CoreSt.setSreg_events (c : CoreSt) (r : Reg) (v : Word) : (c.setSreg r v).events = c.events := by unfold CoreSt.setSreg; split <;> rfl
@[simp] theorem CoreSt.setSreg_evWait (c : CoreSt) (r : Reg) (v : Word) : (c.setSreg r v).evWait = c.evWait := by unfold CoreSt.setSreg; split <;> rfl
@[simp] theorem CoreSt.setSreg_slots (c : CoreSt) (r : Reg) (v : Word) : (c.setSreg r v).slots = c.slots := by unfold CoreSt.setSreg; split <;> rfl
@[simp] theorem CoreSt.setSreg_rings (c : CoreSt) (r : Reg) (v : Word) : (c.setSreg r v).rings = c.rings := by unfold CoreSt.setSreg; split <;> rfl
@[simp] theorem CoreSt.setSreg_csrs (c : CoreSt) (r : Reg) (v : Word) : (c.setSreg r v).csrs = c.csrs := by unfold CoreSt.setSreg; split <;> rfl
@[simp] theorem CoreSt.setSreg_wbuf (c : CoreSt) (r : Reg) (v : Word) : (c.setSreg r v).wbuf = c.wbuf := by unfold CoreSt.setSreg; split <;> rfl
@[simp] theorem CoreSt.setSreg_abuf (c : CoreSt) (r : Reg) (v : Word) : (c.setSreg r v).abuf = c.abuf := by unfold CoreSt.setSreg; split <;> rfl
@[simp] theorem CoreSt.setSreg_wtags (c : CoreSt) (r : Reg) (v : Word) : (c.setSreg r v).wtags = c.wtags := by unfold CoreSt.setSreg; split <;> rfl
@[simp] theorem CoreSt.setSreg_atags (c : CoreSt) (r : Reg) (v : Word) : (c.setSreg r v).atags = c.atags := by unfold CoreSt.setSreg; split <;> rfl
@[simp] theorem CoreSt.setSreg_wsums (c : CoreSt) (r : Reg) (v : Word) : (c.setSreg r v).wsums = c.wsums := by unfold CoreSt.setSreg; split <;> rfl
@[simp] theorem CoreSt.setSreg_blaze (c : CoreSt) (r : Reg) (v : Word) : (c.setSreg r v).blaze = c.blaze := by unfold CoreSt.setSreg; split <;> rfl
@[simp] theorem CoreSt.setSreg_want (c : CoreSt) (r : Reg) (v : Word) : (c.setSreg r v).want = c.want := by unfold CoreSt.setSreg; split <;> rfl
@[simp] theorem CoreSt.setSreg_cS (c : CoreSt) (r : Reg) (v : Word) : (c.setSreg r v).cS = c.cS := by unfold CoreSt.setSreg; split <;> rfl
@[simp] theorem CoreSt.setSreg_lS (c : CoreSt) (r : Reg) (v : Word) : (c.setSreg r v).lS = c.lS := by unfold CoreSt.setSreg; split <;> rfl
@[simp] theorem CoreSt.setSreg_vS (c : CoreSt) (r : Reg) (v : Word) : (c.setSreg r v).vS = c.vS := by unfold CoreSt.setSreg; split <;> rfl
@[simp] theorem CoreSt.setSreg_mS (c : CoreSt) (r : Reg) (v : Word) : (c.setSreg r v).mS = c.mS := by unfold CoreSt.setSreg; split <;> rfl
@[simp] theorem CoreSt.setSreg_sS (c : CoreSt) (r : Reg) (v : Word) : (c.setSreg r v).sS = c.sS := by unfold CoreSt.setSreg; split <;> rfl
@[simp] theorem CoreSt.setSreg_journal (c : CoreSt) (r : Reg) (v : Word) : (c.setSreg r v).journal = c.journal := by unfold CoreSt.setSreg; split <;> rfl
@[simp] theorem CoreSt.setSreg_cost (c : CoreSt) (r : Reg) (v : Word) : (c.setSreg r v).cost = c.cost := by unfold CoreSt.setSreg; split <;> rfl
@[simp] theorem CoreSt.setSreg_within (c : CoreSt) (r : Reg) (v : Word) : (c.setSreg r v).within = c.within := by unfold CoreSt.setSreg; split <;> rfl
@[simp] theorem CoreSt.setSreg_sleep (c : CoreSt) (r : Reg) (v : Word) : (c.setSreg r v).sleep = c.sleep := by unfold CoreSt.setSreg; split <;> rfl
@[simp] theorem CoreSt.setSreg_wait (c : CoreSt) (r : Reg) (v : Word) : (c.setSreg r v).wait = c.wait := by unfold CoreSt.setSreg; split <;> rfl
@[simp] theorem CoreSt.setSreg_utlb (c : CoreSt) (r : Reg) (v : Word) : (c.setSreg r v).utlb = c.utlb := by unfold CoreSt.setSreg; split <;> rfl
@[simp] theorem CoreSt.setSreg_bwait (c : CoreSt) (r : Reg) (v : Word) : (c.setSreg r v).bwait = c.bwait := by unfold CoreSt.setSreg; split <;> rfl
@[simp] theorem CoreSt.setSreg_late (c : CoreSt) (r : Reg) (v : Word) : (c.setSreg r v).late = c.late := by unfold CoreSt.setSreg; split <;> rfl
@[simp] theorem CoreSt.setSreg_frozen (c : CoreSt) (r : Reg) (v : Word) : (c.setSreg r v).frozen = c.frozen := by unfold CoreSt.setSreg; split <;> rfl
@[simp] theorem CoreSt.setSreg_rwait (c : CoreSt) (r : Reg) (v : Word) : (c.setSreg r v).rwait = c.rwait := by unfold CoreSt.setSreg; split <;> rfl
@[simp] theorem CoreSt.setSreg_mstop (c : CoreSt) (r : Reg) (v : Word) : (c.setSreg r v).mstop = c.mstop := by unfold CoreSt.setSreg; split <;> rfl
@[simp] theorem CoreSt.setSreg_marks (c : CoreSt) (r : Reg) (v : Word) : (c.setSreg r v).marks = c.marks := by unfold CoreSt.setSreg; split <;> rfl
@[simp] theorem CoreSt.setSreg_marked (c : CoreSt) (r : Reg) (v : Word) : (c.setSreg r v).marked = c.marked := by unfold CoreSt.setSreg; split <;> rfl
@[simp] theorem CoreSt.setSreg_xq (c : CoreSt) (r : Reg) (v : Word) : (c.setSreg r v).xq = c.xq := by unfold CoreSt.setSreg; split <;> rfl
@[simp] theorem CoreSt.setSreg_wver (c : CoreSt) (r : Reg) (v : Word) : (c.setSreg r v).wver = c.wver := by unfold CoreSt.setSreg; split <;> rfl
@[simp] theorem CoreSt.setSreg_links (c : CoreSt) (r : Reg) (v : Word) : (c.setSreg r v).links = c.links := by unfold CoreSt.setSreg; split <;> rfl
@[simp] theorem CoreSt.setSreg_wacks (c : CoreSt) (r : Reg) (v : Word) : (c.setSreg r v).wacks = c.wacks := by unfold CoreSt.setSreg; split <;> rfl
@[simp] theorem CoreSt.setSreg_hand (c : CoreSt) (r : Reg) (v : Word) : (c.setSreg r v).hand = c.hand := by unfold CoreSt.setSreg; split <;> rfl
@[simp] theorem CoreSt.setSreg_task (c : CoreSt) (r : Reg) (v : Word) : (c.setSreg r v).task = c.task := by unfold CoreSt.setSreg; split <;> rfl
@[simp] theorem CoreSt.setSreg_ended (c : CoreSt) (r : Reg) (v : Word) : (c.setSreg r v).ended = c.ended := by unfold CoreSt.setSreg; split <;> rfl
@[simp] theorem CoreSt.setSreg_dispatches (c : CoreSt) (r : Reg) (v : Word) : (c.setSreg r v).dispatches = c.dispatches := by unfold CoreSt.setSreg; split <;> rfl
@[simp] theorem CoreSt.setSreg_attempts (c : CoreSt) (r : Reg) (v : Word) : (c.setSreg r v).attempts = c.attempts := by unfold CoreSt.setSreg; split <;> rfl

@[simp] theorem CoreSt.setStrm_sregs (c : CoreSt) (t : Strm) (m : StreamSt) : (c.setStrm t m).sregs = c.sregs := by cases t <;> rfl
@[simp] theorem CoreSt.setStrm_aregs (c : CoreSt) (t : Strm) (m : StreamSt) : (c.setStrm t m).aregs = c.aregs := by cases t <;> rfl
@[simp] theorem CoreSt.setStrm_vregs (c : CoreSt) (t : Strm) (m : StreamSt) : (c.setStrm t m).vregs = c.vregs := by cases t <;> rfl
@[simp] theorem CoreSt.setStrm_tiles (c : CoreSt) (t : Strm) (m : StreamSt) : (c.setStrm t m).tiles = c.tiles := by cases t <;> rfl
@[simp] theorem CoreSt.setStrm_events (c : CoreSt) (t : Strm) (m : StreamSt) : (c.setStrm t m).events = c.events := by cases t <;> rfl
@[simp] theorem CoreSt.setStrm_evWait (c : CoreSt) (t : Strm) (m : StreamSt) : (c.setStrm t m).evWait = c.evWait := by cases t <;> rfl
@[simp] theorem CoreSt.setStrm_slots (c : CoreSt) (t : Strm) (m : StreamSt) : (c.setStrm t m).slots = c.slots := by cases t <;> rfl
@[simp] theorem CoreSt.setStrm_rings (c : CoreSt) (t : Strm) (m : StreamSt) : (c.setStrm t m).rings = c.rings := by cases t <;> rfl
@[simp] theorem CoreSt.setStrm_csrs (c : CoreSt) (t : Strm) (m : StreamSt) : (c.setStrm t m).csrs = c.csrs := by cases t <;> rfl
@[simp] theorem CoreSt.setStrm_wbuf (c : CoreSt) (t : Strm) (m : StreamSt) : (c.setStrm t m).wbuf = c.wbuf := by cases t <;> rfl
@[simp] theorem CoreSt.setStrm_abuf (c : CoreSt) (t : Strm) (m : StreamSt) : (c.setStrm t m).abuf = c.abuf := by cases t <;> rfl
@[simp] theorem CoreSt.setStrm_wtags (c : CoreSt) (t : Strm) (m : StreamSt) : (c.setStrm t m).wtags = c.wtags := by cases t <;> rfl
@[simp] theorem CoreSt.setStrm_atags (c : CoreSt) (t : Strm) (m : StreamSt) : (c.setStrm t m).atags = c.atags := by cases t <;> rfl
@[simp] theorem CoreSt.setStrm_wsums (c : CoreSt) (t : Strm) (m : StreamSt) : (c.setStrm t m).wsums = c.wsums := by cases t <;> rfl
@[simp] theorem CoreSt.setStrm_blaze (c : CoreSt) (t : Strm) (m : StreamSt) : (c.setStrm t m).blaze = c.blaze := by cases t <;> rfl
@[simp] theorem CoreSt.setStrm_want (c : CoreSt) (t : Strm) (m : StreamSt) : (c.setStrm t m).want = c.want := by cases t <;> rfl
@[simp] theorem CoreSt.setStrm_journal (c : CoreSt) (t : Strm) (m : StreamSt) : (c.setStrm t m).journal = c.journal := by cases t <;> rfl
@[simp] theorem CoreSt.setStrm_cost (c : CoreSt) (t : Strm) (m : StreamSt) : (c.setStrm t m).cost = c.cost := by cases t <;> rfl
@[simp] theorem CoreSt.setStrm_within (c : CoreSt) (t : Strm) (m : StreamSt) : (c.setStrm t m).within = c.within := by cases t <;> rfl
@[simp] theorem CoreSt.setStrm_sleep (c : CoreSt) (t : Strm) (m : StreamSt) : (c.setStrm t m).sleep = c.sleep := by cases t <;> rfl
@[simp] theorem CoreSt.setStrm_wait (c : CoreSt) (t : Strm) (m : StreamSt) : (c.setStrm t m).wait = c.wait := by cases t <;> rfl
@[simp] theorem CoreSt.setStrm_utlb (c : CoreSt) (t : Strm) (m : StreamSt) : (c.setStrm t m).utlb = c.utlb := by cases t <;> rfl
@[simp] theorem CoreSt.setStrm_bwait (c : CoreSt) (t : Strm) (m : StreamSt) : (c.setStrm t m).bwait = c.bwait := by cases t <;> rfl
@[simp] theorem CoreSt.setStrm_late (c : CoreSt) (t : Strm) (m : StreamSt) : (c.setStrm t m).late = c.late := by cases t <;> rfl
@[simp] theorem CoreSt.setStrm_frozen (c : CoreSt) (t : Strm) (m : StreamSt) : (c.setStrm t m).frozen = c.frozen := by cases t <;> rfl
@[simp] theorem CoreSt.setStrm_rwait (c : CoreSt) (t : Strm) (m : StreamSt) : (c.setStrm t m).rwait = c.rwait := by cases t <;> rfl
@[simp] theorem CoreSt.setStrm_mstop (c : CoreSt) (t : Strm) (m : StreamSt) : (c.setStrm t m).mstop = c.mstop := by cases t <;> rfl
@[simp] theorem CoreSt.setStrm_marks (c : CoreSt) (t : Strm) (m : StreamSt) : (c.setStrm t m).marks = c.marks := by cases t <;> rfl
@[simp] theorem CoreSt.setStrm_marked (c : CoreSt) (t : Strm) (m : StreamSt) : (c.setStrm t m).marked = c.marked := by cases t <;> rfl
@[simp] theorem CoreSt.setStrm_xq (c : CoreSt) (t : Strm) (m : StreamSt) : (c.setStrm t m).xq = c.xq := by cases t <;> rfl
@[simp] theorem CoreSt.setStrm_wver (c : CoreSt) (t : Strm) (m : StreamSt) : (c.setStrm t m).wver = c.wver := by cases t <;> rfl
@[simp] theorem CoreSt.setStrm_links (c : CoreSt) (t : Strm) (m : StreamSt) : (c.setStrm t m).links = c.links := by cases t <;> rfl
@[simp] theorem CoreSt.setStrm_wacks (c : CoreSt) (t : Strm) (m : StreamSt) : (c.setStrm t m).wacks = c.wacks := by cases t <;> rfl
@[simp] theorem CoreSt.setStrm_hand (c : CoreSt) (t : Strm) (m : StreamSt) : (c.setStrm t m).hand = c.hand := by cases t <;> rfl
@[simp] theorem CoreSt.setStrm_task (c : CoreSt) (t : Strm) (m : StreamSt) : (c.setStrm t m).task = c.task := by cases t <;> rfl
@[simp] theorem CoreSt.setStrm_ended (c : CoreSt) (t : Strm) (m : StreamSt) : (c.setStrm t m).ended = c.ended := by cases t <;> rfl
@[simp] theorem CoreSt.setStrm_dispatches (c : CoreSt) (t : Strm) (m : StreamSt) : (c.setStrm t m).dispatches = c.dispatches := by cases t <;> rfl
@[simp] theorem CoreSt.setStrm_attempts (c : CoreSt) (t : Strm) (m : StreamSt) : (c.setStrm t m).attempts = c.attempts := by cases t <;> rfl

/-! ### What the accessors read after a write -/

@[simp] theorem State.coreOf_setCoreOf (s : State) (k j : Nat) (c : CoreSt) :
    (s.setCoreOf k c).coreOf j = if j = k then c else s.coreOf j := by
  simp only [State.coreOf, State.setCoreOf, find?_setKey]
  split <;> simp_all

@[simp] theorem State.ctxOf_setCtxOf (s : State) (k j : Nat) (c : Ctx) : (s.setCtxOf k c).ctxOf j = if j = k then c else s.ctxOf j := by
  simp only [State.ctxOf, State.setCtxOf, find?_setKey]
  split <;> simp_all

@[simp] theorem State.partOf_setPartOf (s : State) (k j : Nat) (c : Part) : (s.setPartOf k c).partOf j = if j = k then c else s.partOf j := by
  simp only [State.partOf, State.setPartOf, find?_setKey]
  split <;> simp_all

@[simp] theorem State.dieOf_setDieOf (s : State) (k j : Nat) (c : Die) : (s.setDieOf k c).dieOf j = if j = k then c else s.dieOf j := by
  simp only [State.dieOf, State.setDieOf, find?_setKey]
  split <;> simp_all

@[simp] theorem State.queueOf_setQueueOf (s : State) (k j : Nat) (c : Queue) :
    (s.setQueueOf k c).queueOf j = if j = k then c else s.queueOf j := by
  simp only [State.queueOf, State.setQueueOf, find?_setKey]
  split <;> simp_all

@[simp] theorem State.kernelOf_setKernelOf (s : State) (k j : Nat) (c : KSlot) :
    (s.setKernelOf k c).kernelOf j = if j = k then c else s.kernelOf j := by
  simp only [State.kernelOf, State.setKernelOf, find?_setKey]
  split <;> simp_all

@[simp] theorem State.core_setCore (s : State) (c : CoreSt) : (s.setCore c).core = c := by simp [State.core, State.setCore]

@[simp] theorem State.setCore_setCore (s : State) (c d : CoreSt) : (s.setCore c).setCore d = s.setCore d := by
  simp [State.setCore, State.setCoreOf]

@[simp] theorem CoreSt.strm_setStrm (c : CoreSt) (t u : Strm) (m : StreamSt) :
    (c.setStrm t m).strm u = if u = t then m else c.strm u := by cases t <;> cases u <;> rfl

@[simp] theorem State.sm_setSm (s : State) (t u : Strm) (m : StreamSt) : (s.setSm t m).sm u = if u = t then m else s.sm u := by
  simp [State.sm, State.setSm]

@[simp] theorem CoreSt.setSreg_zero (c : CoreSt) (v : Word) : c.setSreg 0#5 v = c := rfl

@[simp] theorem CoreSt.sreg_zero (c : CoreSt) : c.sreg 0#5 = 0 := rfl

@[simp] theorem CoreSt.sreg_setSreg (c : CoreSt) (r q : Reg) (v : Word) :
    (c.setSreg r v).sreg q = if q = r then (if r = 0#5 then 0 else v) else c.sreg q := by
  by_cases hr : r = 0#5
  · subst hr
    by_cases hq : q = 0#5
    · subst hq; rfl
    · rw [if_neg hq]; rfl
  · have hs : c.setSreg r v = { c with sregs := put 0 c.sregs r.toNat v } := if_neg hr
    by_cases hq : q = r
    · subst hq
      rw [hs, if_pos rfl, if_neg hr]
      exact (if_neg hr).trans (look_put_same ..)
    · have hn : q.toNat ≠ r.toNat := fun h => hq (BitVec.eq_of_toNat_eq h)
      rw [hs, if_neg hq]
      simp only [CoreSt.sreg, look_put, if_neg hn]

@[simp] theorem CoreSt.sreg_setStrm (c : CoreSt) (t : Strm) (m : StreamSt) (r : Reg) : (c.setStrm t m).sreg r = c.sreg r := by
  cases t <;> rfl

@[simp] theorem CoreSt.sreg_setCsr (c : CoreSt) (n : Nat) (v : Word) (r : Reg) : (c.setCsr n v).sreg r = c.sreg r := rfl

@[simp] theorem CoreSt.csr_setCsr (c : CoreSt) (n k : Nat) (v : Word) : (c.setCsr n v).csr k = if k = n then v else c.csr k := by
  simp only [CoreSt.csr, CoreSt.setCsr, find?_setKey]
  split <;> simp_all

@[simp] theorem CoreSt.csr_setStrm (c : CoreSt) (t : Strm) (m : StreamSt) (n : Nat) : (c.setStrm t m).csr n = c.csr n := by
  cases t <;> rfl

@[simp] theorem CoreSt.csr_setSreg (c : CoreSt) (r : Reg) (v : Word) (n : Nat) : (c.setSreg r v).csr n = c.csr n := by
  simp [CoreSt.csr]

@[simp] theorem Ctx.csr_setCsr (x : Ctx) (n k : Nat) (v : Word) : (x.setCsr n v).csr k = if k = n then v else x.csr k := by
  simp only [Ctx.csr, Ctx.setCsr, find?_setKey]
  split <;> simp_all

@[simp] theorem StreamSt.preg_zero (m : StreamSt) : m.preg 0 = BitVec.allOnes 128 := rfl

@[simp] theorem StreamSt.preg_setPreg (m : StreamSt) (k j : Nat) (v : Mask) :
    (m.setPreg k v).preg j = if j = k ∧ k ≠ 0 then v else m.preg j := by
  by_cases hk : k = 0
  · simp [StreamSt.setPreg, hk]
  · by_cases hj : j = k
    · subst hj; simp [StreamSt.setPreg, StreamSt.preg, hk]
    · simp [StreamSt.setPreg, StreamSt.preg, hk, hj]

@[simp] theorem CoreSt.areg_setAreg (c : CoreSt) (n k : Nat) (a : AReg) : (c.setAreg n a).areg k = if k = n then a else c.areg k := by
  simp [CoreSt.areg, CoreSt.setAreg]

@[simp] theorem CoreSt.vreg_setVreg (c : CoreSt) (n k : Nat) (v : Vec) : (c.setVreg n v).vreg k = if k = n then v else c.vreg k := by
  simp [CoreSt.vreg, CoreSt.setVreg]

end Sys2Proof.Machine
end

