-- ==== Sys2Proof/Laws/Ops.lean ====
section
/-! SUPPORT. What the shared operations of the C stream can do. -/

namespace Sys2Proof.Machine

@[simp] theorem finish_ok (num : Bool) (t s : State) : finish num (.ok t) s = .next t.retire := rfl

@[simp] theorem finish_wait (num : Bool) (s : State) : finish num (.error .wait) s = .next (s.park .C) := rfl

@[simp] theorem finish_cause (num : Bool) (c a d : Nat) (s : State) :
    finish num (.error (.cause c a d)) s = .next (s.raise .C (s.siteC num) c a d) := rfl

@[simp] theorem finishJump_ok (t s : State) (n : Nat) : finishJump (.ok (t, n)) s = .next (t.jump n) := rfl

@[simp] theorem finishJump_cause (c a d : Nat) (s : State) :
    finishJump (.error (.cause c a d)) s = .next (s.raise .C (s.siteC false) c a d) := rfl

/-- A C word always answers a next state. -/
theorem finish_next (num : Bool) (r : Res State) (s : State) : ∃ t, finish num r s = .next t := by
  match r with
  | .ok _ => exact ⟨_, rfl⟩
  | .error .wait => exact ⟨_, rfl⟩
  | .error (.cause _ _ _) => exact ⟨_, rfl⟩
  | .error (.at _ _ _ _) => exact ⟨_, rfl⟩

/-- So does a C word that may transfer control. -/
theorem finishJump_next (r : Res (State × Nat)) (s : State) : ∃ t, finishJump r s = .next t := by
  match r with
  | .ok (_, _) => exact ⟨_, rfl⟩
  | .error .wait => exact ⟨_, rfl⟩
  | .error (.cause _ _ _) => exact ⟨_, rfl⟩
  | .error (.at _ _ _ _) => exact ⟨_, rfl⟩

/-- A register that nothing in flight owes its value is read. -/
theorem State.rd_ready {s : State} {r : Reg} (h : s.core.busy r = false) : s.rd r = .ok (s.core.sreg r) := by simp [State.rd, h]

/-- And written. -/
theorem State.wr_ready {s : State} {r : Reg} (v : Word) (h : s.core.busy r = false) : s.wr r v = .ok (s.setCore (s.core.setSreg r v)) := by
  simp [State.wr, h]

@[simp] theorem await_true : await true = .ok () := rfl

@[simp] theorem need_true (c : Nat) : need true c = .ok () := rfl

@[simp] theorem needAt_true (c a : Nat) : needAt true c a = .ok () := rfl

@[simp] theorem res_ok_bind {α β : Type} (a : α) (f : α → Res β) : ((.ok a : Res α) >>= f) = f a := rfl

@[simp] theorem res_error_bind {α β : Type} (e : Stop) (f : α → Res β) : ((.error e : Res α) >>= f) = .error e := rfl

/-- What a bind that answers has gone through. -/
theorem bind_ok {α β : Type} {x : Res α} {f : α → Res β} {b : β} (h : x >>= f = .ok b) : ∃ a, x = .ok a ∧ f a = .ok b := by
  cases x with
  | ok a => exact ⟨a, rfl, h⟩
  | error e => cases h

end Sys2Proof.Machine
end

