-- ==== Sys2Proof/Laws/Engine.lean ====
section
/-! SUPPORT. What every engine word does: when its predicate enables it and its registers are visible, its body; when the predicate disables
it, nothing but its issue; when a register it reads is not yet visible under the scoreboard, cause 0x120. -/

namespace Sys2Proof.Machine

variable {t : Strm} {h : Hd} {reads : Mask → List Rg} {onWait : State → State} {onCause : Nat → State → State}
  {body : Mask → State → Res Eff} {s s' : State} {m : Mask} {e : Eff} {p : Pend}

/-- An enabled word whose body answers issues with its effect. -/
theorem engineWith_ok (hs : s' = s.setCore (s.core.settle t)) (ha : (s'.sm t).active t h = m) (hm : m ≠ 0)
    (hr : (s'.sm t).short (rg 1 h.pred :: reads m) = none) (hb : body m s' = .ok e) :
    engineWith t h reads onWait onCause body s = .next (State.issueEngine t h e) := by
  subst hs ha
  simp only [engineWith, if_neg hm, hr, hb]

/-- An enabled word whose body waits leaves the stream waiting. -/
theorem engineWith_wait (hs : s' = s.setCore (s.core.settle t)) (ha : (s'.sm t).active t h = m) (hm : m ≠ 0)
    (hr : (s'.sm t).short (rg 1 h.pred :: reads m) = none) (hb : body m s' = .error .wait) :
    engineWith t h reads onWait onCause body s = .next (onWait (s'.park t)) := by
  subst hs ha
  simp only [engineWith, if_neg hm, hr, hb]

/-- An enabled word whose body takes a cause takes it. -/
theorem engineWith_cause {c a d : Nat} (hs : s' = s.setCore (s.core.settle t)) (ha : (s'.sm t).active t h = m) (hm : m ≠ 0)
    (hr : (s'.sm t).short (rg 1 h.pred :: reads m) = none) (hb : body m s' = .error (.cause c a d)) :
    engineWith t h reads onWait onCause body s = .next ((onCause c s').raise t (s'.siteE t 0) c a d) := by
  subst hs ha
  simp only [engineWith, if_neg hm, hr, hb]

/-- A disabled word only issues. -/
theorem engineWith_off (hs : s' = s.setCore (s.core.settle t)) (ha : (s'.sm t).active t h = 0) (hr : (s'.sm t).short [rg 1 h.pred] = none) :
    engineWith t h reads onWait onCause body s = .next (State.issueEngine t h { s := s' }) := by
  subst hs
  simp only [engineWith, ha, ↓reduceIte, hr]

/-- A disabled word whose predicate is not yet visible takes 0x120. -/
theorem engineWith_short (hs : s' = s.setCore (s.core.settle t)) (ha : (s'.sm t).active t h = 0)
    (hr : (s'.sm t).short [rg 1 h.pred] = some p) :
    engineWith t h reads onWait onCause body s =
      .next (s'.raise t (s'.siteE t 0) 0x120 0 (p.xpc % 2 ^ 32 + p.num * 2 ^ 32 + p.file * 2 ^ 40)) := by
  subst hs
  simp only [engineWith, ha, ↓reduceIte, hr]

/-- An engine word always answers a next state. -/
theorem engineWith_next (s : State) : ∃ u, engineWith t h reads onWait onCause body s = .next u := by
  simp only [engineWith]
  split
  · exact ⟨_, rfl⟩
  · split
    · exact ⟨_, rfl⟩
    · split <;> exact ⟨_, rfl⟩

theorem engine_next (s : State) : ∃ u, engine t h reads onWait body s = .next u := engineWith_next s

variable {w : W192} {mreads : State → List Rg} {mbody : State → MRes} {u : State}

/-- An enabled matrix word whose body runs to its end issues. -/
theorem matrixWord_ok (hs : s' = s.setCore { s.core.settle .M with mstop := false }) (ha : (s'.sm .M).active .M (hd192 w) = m) (hm : m ≠ 0)
    (hr : (s'.sm .M).short (rg 1 (hd192 w).pred :: mreads s') = none) (hb : mbody s' = (u, none)) :
    matrixWord w mreads onWait mbody s = .next (State.issueEngine .M (hd192 w) { s := u.standM, taken := s'.core.standNum .M }) := by
  subst hs ha
  simp only [matrixWord, if_neg hm, hr, hb, Prod.map, id]

/-- A matrix word always answers a next state. -/
theorem matrixWord_next (s : State) : ∃ u, matrixWord w mreads onWait mbody s = .next u := by
  simp only [matrixWord]
  split
  · exact ⟨_, rfl⟩
  · split
    · exact ⟨_, rfl⟩
    · split <;> exact ⟨_, rfl⟩

end Sys2Proof.Machine
end

