-- ==== Sys2Proof/Laws/Memory.lean ====
section
/-! SUPPORT. Every operation that writes memory keeps its canonical form, and reads outside the bytes it stores stay. -/

namespace Sys2Proof.Machine

/-! ### Running over lists -/

/-- t keeps the canonical form that the memory of s has. -/
structure State.Kept (s t : State) : Prop where
  wf : Memory.wf s.mem = true → Memory.wf t.mem = true

theorem State.Kept.refl (s : State) : s.Kept s := ⟨id⟩

theorem State.Kept.trans {s t u : State} (h : s.Kept t) (k : t.Kept u) : s.Kept u := ⟨fun w => k.wf (h.wf w)⟩

theorem State.Kept.of_eq {s t : State} (h : t.mem = s.mem) : s.Kept t := ⟨fun w => h ▸ w⟩

theorem State.forEach_mem {α : Type} (l : List α) (f : α → State → State) (s : State) (h : ∀ a s, (f a s).mem = s.mem) :
    (s.forEach l f).mem = s.mem := by
  simp only [State.forEach]
  induction l generalizing s with
  | nil => rfl
  | cons a r ih => simp [ih, h]

theorem State.forEach_kept {α : Type} (l : List α) (f : α → State → State) (s : State) (h : ∀ a s, State.Kept s (f a s)) :
    s.Kept (s.forEach l f) := by
  simp only [State.forEach]
  induction l generalizing s with
  | nil => exact .refl s
  | cons a r ih => exact (h a s).trans (ih _)

theorem State.forN_mem (n : Nat) (f : Nat → State → State) (s : State) (h : ∀ a s, (f a s).mem = s.mem) : (s.forN n f).mem = s.mem :=
  State.forEach_mem (List.range n) f s h

theorem State.forN_kept (n : Nat) (f : Nat → State → State) (s : State) (h : ∀ a s, State.Kept s (f a s)) : s.Kept (s.forN n f) :=
  State.forEach_kept (List.range n) f s h

/-! ### Bytes performed at their home -/

theorem State.writeN_kept (s : State) (pa n v : Nat) : s.Kept (s.writeN pa n v) := ⟨canon_setBytes _ _ _⟩

/-- Bytes outside a value written read as before. -/
theorem State.writeN_look (s : State) (pa n v a : Nat) (h : a < pa ∨ pa + n ≤ a) : look 0 (s.writeN pa n v).mem a = look 0 s.mem a :=
  look_setBytes_ne _ _ _ _ (by simpa using h)

/-- Wake messages write no byte. -/
@[simp] theorem State.sendWakes_mem (s : State) (ws : List WaitEnt) : (s.sendWakes ws).mem = s.mem := by
  have off := s.forEach_mem (ws.filter (fun w => !s.logOn w.ctx)) (fun w s => s.wake w.core (BitVec.ofNat 64 (s.readN w.pa 8))) (fun _ _ => rfl)
  unfold State.sendWakes
  extract_lets a b f t u
  split
  · exact off
  · exact Eq.trans (b := t.mem) (State.forEach_mem b _ t (fun _ _ => rfl)) off

/-- Ending waits writes no byte. -/
@[simp] theorem State.evalWaits_mem (s : State) (g : List Seg) : (s.evalWaits g).mem = s.mem := by
  refine State.forN_mem _ _ s (fun d s => ?_)
  dsimp only
  split
  · rfl
  · exact State.sendWakes_mem _ _

theorem canon_storeAround (m : List Host.Cell) (holes g : List Seg) (bs : List Byte) (h : canonFrom 0 0 m = true) :
    canonFrom 0 0 (storeAround m holes g bs) = true := by
  unfold storeAround
  split
  · exact canon_storeSegs _ _ _ h
  · exact canon_storeSegs _ _ _ h

/-- What a hole leaves of a stretch lies in it. -/
theorem cutHole_out {x : Seg} {e c : Seg × List Byte} {a : Nat} (hc : c ∈ cutHole x e) (h : a < e.1.pa ∨ e.1.pa + e.1.len ≤ a) :
    a < c.1.pa ∨ c.1.pa + c.1.len ≤ a := by
  dsimp only [cutHole] at hc
  split at hc
  · rw [List.mem_singleton] at hc; exact hc ▸ h
  · rename_i hx
    rw [not_or, not_or] at hx
    rcases List.mem_append.1 hc with hc | hc
    · split at hc
      · cases hc
      · rw [List.mem_singleton] at hc; subst hc; dsimp only; omega
    · split at hc
      · cases hc
      · rw [List.mem_singleton] at hc; subst hc; dsimp only; omega

theorem segBytes_mem {g : List Seg} {bs : List Byte} {e : Seg × List Byte} (h : e ∈ segBytes g bs) : e.1 ∈ g := by
  induction g generalizing bs with
  | nil => cases h
  | cons x r ih =>
    rcases List.mem_cons.1 h with h | h
    · exact h ▸ List.mem_cons_self
    · exact List.mem_cons_of_mem _ (ih h)

/-- Bytes outside the segments of a store read as before, whatever pages keep their bytes. -/
theorem look_storeAround_ne (m : List Host.Cell) (holes g : List Seg) (bs : List Byte) (a : Nat)
    (h : ∀ x, x ∈ g → a < x.pa ∨ x.pa + x.len ≤ a) : look 0 (storeAround m holes g bs) a = look 0 m a := by
  have cut (l : List (Seg × List Byte)) (hl : ∀ e ∈ l, a < e.1.pa ∨ e.1.pa + e.1.len ≤ a) :
      ∀ e ∈ holes.foldl (fun l h => l.flatMap (cutHole h)) l, a < e.1.pa ∨ e.1.pa + e.1.len ≤ a := by
    induction holes generalizing l with
    | nil => exact hl
    | cons x r ih =>
      refine ih _ (fun e he => ?_)
      obtain ⟨c, hc, he⟩ := List.mem_flatMap.1 he
      exact cutHole_out he (hl c hc)
  unfold storeAround
  split
  · refine look_storeSegs_ne _ _ _ _ (fun x hx => ?_)
    obtain ⟨e, he, rfl⟩ := List.mem_map.1 hx
    exact cut _ (fun e he => h e.1 (segBytes_mem he)) e he
  · exact look_storeSegs_ne _ _ _ _ h

theorem State.perform_mem (s : State) (g : List Seg) (bs : List Byte) : (s.perform g bs).mem = storeAround s.mem s.imageSegs g bs := by
  simp [State.perform]

theorem State.perform_kept (s : State) (g : List Seg) (bs : List Byte) : s.Kept (s.perform g bs) := by
  refine ⟨fun h => ?_⟩
  rw [State.perform_mem]
  exact canon_storeAround _ _ _ _ h

/-- Bytes outside the segments of a store read as before. -/
theorem State.perform_look (s : State) (g : List Seg) (bs : List Byte) (a : Nat) (h : ∀ x, x ∈ g → a < x.pa ∨ x.pa + x.len ≤ a) :
    look 0 (s.perform g bs).mem a = look 0 s.mem a := by
  rw [State.perform_mem]; exact look_storeAround_ne _ _ _ _ _ h

theorem State.atomAt_kept (s : State) (g : List Seg) (op : Nat) (wide : Bool) (b c : Word) : s.Kept (s.atomAt g op wide b c).2 := by
  unfold State.atomAt
  dsimp only
  by_cases h : op = 9 ∧ leNat (s.readSegs g) ≠ c.toNat % 2 ^ (if wide then 64 else 32)
  · rw [if_pos h]; exact .refl s
  · rw [if_neg h]; exact s.perform_kept ..

/-- What is lost of memory leaves the rest in canonical form. -/
theorem canonFrom_filter (lo : Nat) (m : List Host.Cell) (f : Host.Cell → Bool) (h : canonFrom 0 lo m = true) :
    canonFrom 0 lo (m.filter f) = true := by
  induction m generalizing lo with
  | nil => rfl
  | cons e r ih =>
    simp only [canonFrom, Bool.and_eq_true, decide_eq_true_eq] at h
    rw [List.filter_cons]
    split
    · simp only [canonFrom, Bool.and_eq_true, decide_eq_true_eq]; exact ⟨h.1, ih _ h.2⟩
    · exact canonFrom_mono 0 lo (e.1 + 1) _ (by omega) (ih _ h.2)

/-! ### Barrier records -/

@[simp] theorem State.barWaits_mem (s : State) (b : Nat) : (s.barWaits b).mem = s.mem := s.evalWaits_mem _

theorem State.barWaits_kept (s : State) (b : Nat) : s.Kept (s.barWaits b) := .of_eq (s.barWaits_mem b)

@[simp] theorem State.endBarWaits_mem (s : State) (b : Nat) : (s.endBarWaits b).mem = s.mem := rfl

theorem State.putBar_kept (s : State) (b : Nat) (r : Bar) : s.Kept (s.putBar b r) :=
  (s.writeN_kept ..).trans <| (State.writeN_kept ..).trans <| (State.writeN_kept ..).trans <| (State.writeN_kept ..).trans <|
    (State.writeN_kept ..).trans <| (State.writeN_kept ..).trans (State.writeN_kept ..)

theorem State.setBar_kept (s : State) (b : Nat) (r : Bar) : s.Kept (s.setBar b r) := (s.putBar_kept b r).trans (State.barWaits_kept ..)

theorem State.barClose_kept (s : State) (b : Nat) : s.Kept (s.barClose b) := by
  dsimp only [State.barClose]
  split
  · exact s.setBar_kept ..
  · exact .refl s

theorem State.Kept.endBarWaits {s t : State} {b : Nat} (h : t.mem = s.mem) : s.Kept (t.endBarWaits b) :=
  .of_eq ((t.endBarWaits_mem b).trans h)

theorem State.breakBar_kept (s : State) (b : Nat) : s.Kept (s.breakBar b) := by
  unfold State.breakBar
  extract_lets r u
  have hu : s.Kept u := s.setBar_kept ..
  clear_value u
  split
  · exact hu.trans (.endBarWaits rfl)
  · exact .refl s

theorem State.addPend_kept {s t : State} {b n : Nat} (h : s.addPend b n = some t) : s.Kept t := by
  dsimp only [State.addPend] at h
  split at h
  · cases h
  · obtain rfl := Option.some.inj h; exact s.setBar_kept ..

theorem State.subPend_kept (s : State) (b n : Nat) : s.Kept (s.subPend b n) := s.setBar_kept ..

theorem State.markArrive_kept (s : State) (b p : Nat) : s.Kept (s.markArrive b p) := by
  dsimp only [State.markArrive]
  split
  · exact (s.setBar_kept ..).trans (State.barClose_kept ..)
  · split
    · exact s.setBar_kept ..
    · exact .refl s

theorem State.arrive_kept {s t : State} {b x p : Nat} (h : s.arrive b x = .ok p t) : s.Kept t := by
  dsimp only [State.arrive] at h
  split at h
  · cases h
  · split at h
    · obtain ⟨-, rfl⟩ := Arrive.ok.inj h
      refine State.Kept.trans ?_ (State.barClose_kept ..)
      exact (s.setBar_kept b { s.bar b with arriv := (s.bar b).arriv + 1 }).trans (.of_eq (by dsimp only))
    · split at h
      · split at h
        · cases h
        · obtain ⟨-, rfl⟩ := Arrive.ok.inj h
          exact (s.setBar_kept b { s.bar b with narr := (s.bar b).narr + 1 }).trans (.of_eq (by dsimp only))
      · cases h

/-- What barriers hold follows a stored PHASE without a write. -/
@[simp] theorem State.rephase_mem (s : State) (b o n : Nat) : (s.rephase b o n).mem = s.mem := rfl

theorem State.barPut_kept (s : State) (b : Nat) (l : List (Nat × Byte)) : s.Kept (s.barPut b l) := by
  unfold State.barPut
  extract_lets u
  have hu : s.Kept u := s.forEach_kept _ _ (fun _ _ => ⟨canon_put _ _ _ _⟩)
  split
  · exact hu
  · exact hu.trans (.of_eq (State.rephase_mem ..))

/-- A store to a record keeps the canonical form. -/
theorem State.storeBar_kept {s t : State} {b o : Nat} {bs : List Byte} (h : s.storeBar b o bs = some t) : s.Kept t := by
  unfold State.storeBar at h
  extract_lets r v nst at h
  split at h
  · cases h
  · extract_lets u q s1 q1 q2 at h
    have hu : s.Kept u := s.barPut_kept ..
    clear_value u
    have h1 : s.Kept s1 := hu.trans (u.setBar_kept b _)
    clear_value s1
    repeat' split at h
    all_goals first
      | exact absurd h.symm (Option.some_ne_none _)
      | obtain rfl := Option.some.inj h
    · exact s.breakBar_kept b
    · exact h1.trans (.endBarWaits rfl)
    · exact (hu.trans ((State.setBar_kept ..).trans (State.barClose_kept ..))).trans (.endBarWaits rfl)
    · exact (hu.trans (State.barWaits_kept ..)).trans (.endBarWaits rfl)

/-! ### Sends, counts and reports write no byte -/

@[simp] theorem State.send_mem (s : State) (o : Out) : (s.send o).mem = s.mem := by unfold State.send; split <;> rfl

@[simp] theorem State.count_mem (s : State) (k i n : Nat) : (s.count k i n).mem = s.mem := rfl

@[simp] theorem State.onSaved_mem (s : State) (x l : Nat) (f : CoreSt → CoreSt) : (s.onSaved x l f).mem = s.mem := by
  unfold State.onSaved
  dsimp only
  split
  · split <;> rfl
  · split <;> rfl
  · split <;> rfl
  · rfl

@[simp] theorem State.inform_mem (s : State) (x core code : Nat) : (s.inform x core code).mem = s.mem := by simp [State.inform]

@[simp] theorem State.touch_mem (s : State) (x : Nat) (ds : List Nat) : (s.touch x ds).mem = s.mem := by
  unfold State.touch; split <;> rfl

@[simp] theorem State.stale_mem (s : State) (x n : Nat) : (s.stale x n).mem = s.mem := rfl

@[simp] theorem State.giveBack_mem (s : State) (core : Nat) (d : Option Nat) (v : Word) : (s.giveBack core d v).mem = s.mem := by
  unfold State.giveBack; split <;> rfl

theorem State.touch_kept {s t : State} (x : Nat) (ds : List Nat) (h : s.Kept t) : s.Kept (t.touch x ds) := h.trans (.of_eq (State.touch_mem ..))

/-- A planned write of Skatas itself, carried out. -/
theorem State.sysAct_kept (s : State) (x : Nat) (r : List Seg × SysOut) (bs : List Byte) : s.Kept (s.sysAct x r bs) := by
  unfold State.sysAct
  split
  · exact State.touch_kept _ _ (s.perform_kept ..)
  · exact .of_eq (s.stale_mem ..)
  · exact .refl s

theorem State.sysWrite_kept (s : State) (x p : Nat) (run : Option Nat) (bs : List Byte) : s.Kept (s.sysWrite x p run bs).1 :=
  s.sysAct_kept ..

theorem State.flagUpdate_kept (s : State) (x core p : Nat) (tag : Option VerTag) (f : Nat → Nat) : s.Kept (s.flagUpdate x core p tag f) := by
  unfold State.flagUpdate
  split
  · exact .refl s
  · split
    · exact .of_eq (by simp)
    · dsimp only
      split
      · split
        · exact State.touch_kept _ _ (s.perform_kept ..)
        · exact .of_eq (s.stale_mem ..)
      · split
        · exact .of_eq (by simp)
        · exact s.sysWrite_kept ..

/-! ### What barriers hold, and elements of the store queues -/

theorem State.applyHeld_kept (s : State) (h : DHeld) : s.Kept (s.applyHeld h) := by
  unfold State.applyHeld
  split
  · exact .refl s
  · split
    · split
      · exact s.perform_kept ..
      · exact .of_eq rfl
    · exact s.perform_kept ..

theorem State.applyTarget_kept (s : State) (cs : List AHeld) : s.Kept (s.applyTarget cs) := by
  have k (l : List AHeld) : s.Kept (s.forEach l (fun h s => s.stale h.ctx 1)) := .of_eq (s.forEach_mem _ _ (fun _ _ => rfl))
  unfold State.applyTarget
  dsimp only
  split
  · exact k _
  · split
    · exact k _
    · exact (k _).trans (State.perform_kept ..)

/-! ### Queues -/

@[simp] theorem State.endQueueWaits_mem (s : State) (q : Nat) (b : Bool) (ks : List Nat) : (s.endQueueWaits q b ks).mem = s.mem :=
  s.forEach_mem _ _ (fun _ _ => rfl)

@[simp] theorem State.closeQueue_mem (s : State) (q : Nat) (st : RingState) : (s.closeQueue q st).mem = s.mem := by
  simp [State.closeQueue]

@[simp] theorem State.settleQueue_mem (s : State) (q : Nat) : (s.settleQueue q).mem = s.mem := by
  unfold State.settleQueue
  dsimp only
  split
  · exact State.closeQueue_mem ..
  · rfl

@[simp] theorem State.faultQueue_mem (s : State) (q : Nat) : (s.faultQueue q).mem = s.mem := by
  unfold State.faultQueue
  dsimp only
  split
  · exact State.closeQueue_mem ..
  · rfl

theorem State.setQTag_kept (s : State) (k : Queue) (i v : Nat) : s.Kept (s.setQTag k i v) :=
  s.sysAct_kept ..

theorem State.qPublish_kept (s : State) (q j : Nat) (void : Bool) : s.Kept (s.qPublish q j void) :=
  (s.setQTag_kept ..).trans (.of_eq rfl)

theorem State.qRelease_kept (s : State) (q j : Nat) : s.Kept (s.qRelease q j) :=
  (s.setQTag_kept ..).trans (.of_eq (State.settleQueue_mem ..))

theorem State.ringAct_kept {s t : State} {q j : Nat} {rel : Bool} (h : s.ringAct q j rel = some t) : s.Kept t := by
  dsimp only [State.ringAct] at h
  split at h
  · obtain rfl := Option.some.inj h
    split
    · exact s.qRelease_kept ..
    · exact s.qPublish_kept ..
  · cases h

@[simp] theorem State.wakeAll_mem (s : State) (pa : Nat) : (s.wakeAll pa).2.mem = s.mem := by
  dsimp only [State.wakeAll]
  refine (State.forEach_mem _ (fun c s => s.wake c _) _ (fun _ _ => rfl)).trans ?_
  exact State.forN_mem _ _ _ (fun d s => by split <;> rfl)

@[simp] theorem State.sendRemote_mem (s : State) (e : StoreElem) (dev off : Nat) : (s.sendRemote e dev off).mem = s.mem := by
  unfold State.sendRemote
  split <;> simp

theorem State.giveBack_kept {s t : State} (core : Nat) (d : Option Nat) (v : Word) (h : s.Kept t) : s.Kept (t.giveBack core d v) :=
  h.trans (.of_eq (State.giveBack_mem ..))

@[simp] theorem State.setClosed_mem (s : State) (i : Nat) (t : Task) : (s.setClosed i t).mem = s.mem := by
  unfold State.setClosed State.endGroupWaits
  dsimp only
  split
  · rfl
  · exact State.forEach_mem _ _ _ (fun _ _ => rfl)

@[simp] theorem State.setGroupBar_mem (s : State) (i n : Nat) (b : GBar) : (s.setGroupBar i n b).mem = s.mem := by
  unfold State.setGroupBar
  split
  · exact State.setClosed_mem ..
  · rfl

/-- What a computation that answers has passed through. -/
theorem Res.bind_ok {α β : Type} {x : Res α} {f : α → Res β} {b : β} (h : (x >>= f) = .ok b) : ∃ a, x = .ok a ∧ f a = .ok b := by
  cases x with
  | error e => cases h
  | ok a => exact ⟨a, rfl, h⟩

theorem State.doArrive_kept {s u : State} {core x b dst : Nat} {grp : Option Nat} (h : s.doArrive core x b grp dst = .ok u) : s.Kept u := by
  unfold State.doArrive at h
  split at h
  · split at h
    · cases h
    · cases h; exact State.giveBack_kept _ _ _ (.refl s)
    · rename_i ha; cases h; exact State.giveBack_kept _ _ _ (State.arrive_kept ha)
  · split at h
    · cases h
    · split at h
      · cases h
      · cases h; exact State.giveBack_kept _ _ _ (.of_eq (State.setGroupBar_mem ..))

theorem State.doRing_kept {s u : State} {q j : Nat} {rel : Bool} (h : s.doRing q j rel = .ok u) : s.Kept u := by
  unfold State.doRing at h
  split at h
  · rename_i ha; cases h; exact State.ringAct_kept ha
  · cases h

/-- An entry of the decision log is the only write of a decision. -/
theorem State.decision_kept {s u : State} {kind loc elem num : Nat} {t : Strm} (h : s.decision kind loc t elem num = .ok u) : s.Kept u := by
  dsimp only [State.decision] at h
  repeat' split at h
  all_goals first
    | cases h; done
    | cases h; exact .refl s
    | cases h; exact (s.sysWrite_kept ..).trans (.of_eq rfl)
    | cases h; exact .of_eq (by simp)

theorem State.doClaim_kept {s u : State} {core q dst : Nat} {nw ended : Bool} (h : s.doClaim core q nw dst ended = .ok u) : s.Kept u := by
  dsimp only [State.doClaim] at h
  repeat' split at h
  all_goals first
    | cases h; done
    | cases h; exact State.giveBack_kept _ _ _ (.of_eq rfl)
    | skip
  obtain ⟨v, hv, h⟩ := Res.bind_ok h
  cases h
  have k : s.Kept v := State.Kept.trans (t := { s with cur := core }) (.of_eq rfl) (State.decision_kept hv)
  exact State.giveBack_kept _ _ _ (k.trans (.of_eq rfl))

theorem State.holdWrite_kept (s : State) (core x : Nat) (t : Strm) (ent : StoreEnt) (e : StoreElem) (d : List Byte) (bar : Nat) (key : DKey)
    (phase : Option Nat) : s.Kept (s.holdWrite core x t ent e d bar key phase) := by
  unfold State.holdWrite
  split
  · exact .refl s
  · exact .of_eq rfl

/-- An element that performs at its home keeps the canonical form. -/
theorem State.doElem_kept {s u : State} {core x : Nat} {t : Strm} {ent : StoreEnt} {e : StoreElem} (h : s.doElem core x t ent e = .ok u) :
    s.Kept u := by
  have either (b : Bool) {v w : State} (hv : s.Kept v) (hw : s.Kept w) : s.Kept (if b = true then v else w) := by
    split
    · exact hv
    · exact hw
  unfold State.doElem at h
  split at h
  · cases h; exact .of_eq (by simp)
  · split at h
    · cases h; exact .refl s
    · obtain ⟨pl, -, h⟩ := Res.bind_ok h
      dsimp only at h
      split at h
      · cases h; exact either _ (s.perform_kept ..) (.of_eq (s.stale_mem ..))
      · cases h; exact s.holdWrite_kept ..
      · cases h; exact either _ (State.giveBack_kept _ _ _ (s.atomAt_kept ..)) (State.giveBack_kept _ _ _ (.of_eq (s.stale_mem ..)))
      · cases h; exact either _ (s.perform_kept ..) (.of_eq (s.stale_mem ..))
      · cases h; split <;> exact .of_eq rfl
      · cases h; exact State.giveBack_kept _ _ _ (.of_eq (State.wakeAll_mem ..))
      · cases h; exact .refl s
      · exact State.doArrive_kept h
      · exact State.doRing_kept h
      · exact State.doClaim_kept h
  · cases h; exact .refl s

/-- So do the pieces of an entry made in order. -/
theorem State.doPieces_kept (core x : Nat) (t : Strm) (ent : StoreEnt) (l : List StoreElem) (s : State) :
    s.Kept (State.doPieces core x t ent l s).s := by
  induction l generalizing s with
  | nil => exact .refl s
  | cons e r ih =>
    unfold State.doPieces
    split
    · exact .refl s
    · rename_i u hu
      split
      · exact State.doElem_kept hu
      · exact (State.doElem_kept hu).trans (ih u)

/-- So does the part of a store-queue entry that performs at once, when the cause its first piece may meet does. -/
theorem State.performSome_kept (s : State) (core : Nat) (t : Strm) (win k : Nat) (f : StoreOp → Bool)
    (hf : ∀ ent e c, s.Kept (s.storeFault t ent e c)) : s.Kept (s.performSome core t win k f) := by
  unfold State.performSome
  dsimp only
  split
  · exact .refl s
  · rename_i ent _
    split
    · exact hf _ _ _
    · exact (State.doPieces_kept core (s.ctxNoOf core) t ent (ent.pieces k f).1 s).trans (.of_eq rfl)

/-! ### The program of a test -/

theorem State.withFetchWord_kept (s : State) (nbits w : Nat) : s.Kept (s.withFetchWord nbits w) :=
  ⟨fun h => canon_setBytes (setBytes s.mem _ _) _ _ (canon_setBytes s.mem _ _ h)⟩

end Sys2Proof.Machine
end

