-- ==== Sys2Proof/Laws/PerInstr.lean ====
section
/-! SUPPORT. Per instruction: the bytes of its word in a stream are as many as the words of that stream have (R26 to R30). -/

namespace Sys2Proof.Laws.WordLength

/-- The word of i in a stream has the length of that stream's words. -/
def Statement (i : Instr) : Prop := ∀ (t : Strm) (bs : List Byte), encode t i = some bs → bs.length = Machine.wordLen t

/-- Every word has its stream's length. -/
theorem encode_length (i : Instr) : Statement i := by
  intro t bs h
  cases t with
  | C =>
    simp only [encode, Option.map_eq_some_iff] at h
    obtain ⟨w, -, rfl⟩ := h
    exact Machine.toLE_length ..
  | M =>
    simp only [encode] at h
    split at h
    · obtain rfl := Option.some.inj h
      exact Machine.toLE_length ..
    · simp only [Option.map_eq_some_iff] at h
      obtain ⟨w, -, rfl⟩ := h
      exact Machine.toLE_length ..
  | L | V | S =>
    simp only [encode] at h
    split at h
    · obtain rfl := Option.some.inj h
      exact Machine.toLE_length ..
    · simp only [Option.bind_eq_some_iff] at h
      obtain ⟨w, -, h⟩ := h
      split at h
      · obtain rfl := Option.some.inj h
        exact Machine.toLE_length ..
      · cases h

theorem add d a b : Statement (.add d a b) := encode_length _
theorem sub d a b : Statement (.sub d a b) := encode_length _
theorem mul d a b : Statement (.mul d a b) := encode_length _
theorem mulh d a b : Statement (.mulh d a b) := encode_length _
theorem mulhu d a b : Statement (.mulhu d a b) := encode_length _
theorem div d a b : Statement (.div d a b) := encode_length _
theorem divu d a b : Statement (.divu d a b) := encode_length _
theorem rem d a b : Statement (.rem d a b) := encode_length _
theorem remu d a b : Statement (.remu d a b) := encode_length _
theorem and d a b : Statement (.and d a b) := encode_length _
theorem or d a b : Statement (.or d a b) := encode_length _
theorem xor d a b : Statement (.xor d a b) := encode_length _
theorem shl d a b : Statement (.shl d a b) := encode_length _
theorem shr d a b : Statement (.shr d a b) := encode_length _
theorem sra d a b : Statement (.sra d a b) := encode_length _
theorem min d a b : Statement (.min d a b) := encode_length _
theorem max d a b : Statement (.max d a b) := encode_length _
theorem minu d a b : Statement (.minu d a b) := encode_length _
theorem maxu d a b : Statement (.maxu d a b) := encode_length _
theorem slt d a b : Statement (.slt d a b) := encode_length _
theorem sltu d a b : Statement (.sltu d a b) := encode_length _
theorem seq d a b : Statement (.seq d a b) := encode_length _
theorem clz d a : Statement (.clz d a) := encode_length _
theorem popc d a : Statement (.popc d a) := encode_length _
theorem addi d a im : Statement (.addi d a im) := encode_length _
theorem andi d a im : Statement (.andi d a im) := encode_length _
theorem ori d a im : Statement (.ori d a im) := encode_length _
theorem xori d a im : Statement (.xori d a im) := encode_length _
theorem shli d a im : Statement (.shli d a im) := encode_length _
theorem shri d a im : Statement (.shri d a im) := encode_length _
theorem srai d a im : Statement (.srai d a im) := encode_length _
theorem slti d a im : Statement (.slti d a im) := encode_length _
theorem sltiu d a im : Statement (.sltiu d a im) := encode_length _
theorem lui d im : Statement (.lui d im) := encode_length _
theorem ldw d a im : Statement (.ldw d a im) := encode_length _
theorem ldd d a im : Statement (.ldd d a im) := encode_length _
theorem stw d a im : Statement (.stw d a im) := encode_length _
theorem std d a im : Statement (.std d a im) := encode_length _
theorem seta n a b : Statement (.seta n a b) := encode_length _
theorem setk n a : Statement (.setk n a) := encode_length _
theorem geta d n y : Statement (.geta d n y) := encode_length _
theorem beq a b o : Statement (.beq a b o) := encode_length _
theorem bne a b o : Statement (.bne a b o) := encode_length _
theorem blt a b o : Statement (.blt a b o) := encode_length _
theorem bge a b o : Statement (.bge a b o) := encode_length _
theorem bltu a b o : Statement (.bltu a b o) := encode_length _
theorem bgeu a b o : Statement (.bgeu a b o) := encode_length _
theorem j o : Statement (.j o) := encode_length _
theorem jal o : Statement (.jal o) := encode_length _
theorem jalr d a im : Statement (.jalr d a im) := encode_length _
theorem loopc a b o : Statement (.loopc a b o) := encode_length _
theorem fork m : Statement (.fork m) := encode_length _
theorem rdv m : Statement (.rdv m) := encode_length _
theorem post e n : Statement (.post e n) := encode_length _
theorem await e n : Statement (.await e n) := encode_length _
theorem boqp a x : Statement (.boqp a x) := encode_length _
theorem qput a x : Statement (.qput a x) := encode_length _
theorem spawn d a b : Statement (.spawn d a b) := encode_length _
theorem jdec a : Statement (.jdec a) := encode_length _
theorem texit a : Statement (.texit a) := encode_length _
theorem bksel d a im : Statement (.bksel d a im) := encode_length _
theorem rclaim d a w : Statement (.rclaim d a w) := encode_length _
theorem rpubl d a : Statement (.rpubl d a) := encode_length _
theorem rtake d a w : Statement (.rtake d a w) := encode_length _
theorem rrels d a : Statement (.rrels d a) := encode_length _
theorem tlrd d y c : Statement (.tlrd d y c) := encode_length _
theorem tlwait a c : Statement (.tlwait a c) := encode_length _
theorem mark : Statement (.mark) := encode_length _
theorem phmark a m : Statement (.phmark a m) := encode_length _
theorem aadd d a b w : Statement (.aadd d a b w) := encode_length _
theorem aaddq a b w : Statement (.aaddq a b w) := encode_length _
theorem amin d a b w : Statement (.amin d a b w) := encode_length _
theorem aminq a b w : Statement (.aminq a b w) := encode_length _
theorem amax d a b w : Statement (.amax d a b w) := encode_length _
theorem amaxq a b w : Statement (.amaxq a b w) := encode_length _
theorem aminu d a b w : Statement (.aminu d a b w) := encode_length _
theorem aminuq a b w : Statement (.aminuq a b w) := encode_length _
theorem amaxu d a b w : Statement (.amaxu d a b w) := encode_length _
theorem amaxuq a b w : Statement (.amaxuq a b w) := encode_length _
theorem aand d a b w : Statement (.aand d a b w) := encode_length _
theorem aandq a b w : Statement (.aandq a b w) := encode_length _
theorem aor d a b w : Statement (.aor d a b w) := encode_length _
theorem aorq a b w : Statement (.aorq a b w) := encode_length _
theorem axor d a b w : Statement (.axor d a b w) := encode_length _
theorem axorq a b w : Statement (.axorq a b w) := encode_length _
theorem axchg d a b w : Statement (.axchg d a b w) := encode_length _
theorem axchgq a b w : Statement (.axchgq a b w) := encode_length _
theorem acas d a b w : Statement (.acas d a b w) := encode_length _
theorem acasq d a b w : Statement (.acasq d a b w) := encode_length _
theorem afadd d a b : Statement (.afadd d a b) := encode_length _
theorem afaddq a b : Statement (.afaddq a b) := encode_length _
theorem afmin d a b : Statement (.afmin d a b) := encode_length _
theorem afminq a b : Statement (.afminq a b) := encode_length _
theorem afmax d a b : Statement (.afmax d a b) := encode_length _
theorem afmaxq a b : Statement (.afmaxq a b) := encode_length _
theorem aredo d a b : Statement (.aredo d a b) := encode_length _
theorem waita d a b : Statement (.waita d a b) := encode_length _
theorem wake d a : Statement (.wake d a) := encode_length _
theorem baraDevice d a : Statement (.baraDevice d a) := encode_length _
theorem baraGroup d n : Statement (.baraGroup d n) := encode_length _
theorem barwDevice d a : Statement (.barwDevice d a) := encode_length _
theorem barwGroup d n : Statement (.barwGroup d n) := encode_length _
theorem barawDevice d a : Statement (.barawDevice d a) := encode_length _
theorem barawGroup d n : Statement (.barawGroup d n) := encode_length _
theorem talloc d a : Statement (.talloc d a) := encode_length _
theorem tseal d a b : Statement (.tseal d a b) := encode_length _
theorem tretire a b : Statement (.tretire a b) := encode_length _
theorem trepl d a b : Statement (.trepl d a b) := encode_length _
theorem tlook d a b : Statement (.tlook d a b) := encode_length _
theorem ckpt d a b : Statement (.ckpt d a b) := encode_length _
theorem xcopy d a b : Statement (.xcopy d a b) := encode_length _
theorem xcopy2 d a b : Statement (.xcopy2 d a b) := encode_length _
theorem xfill d a b : Statement (.xfill d a b) := encode_length _
theorem xstat d b : Statement (.xstat d b) := encode_length _
theorem lkmcst d a b : Statement (.lkmcst d a b) := encode_length _
theorem lkldred d a b : Statement (.lkldred d a b) := encode_length _
theorem lksend d a b : Statement (.lksend d a b) := encode_length _
theorem cgjoin a : Statement (.cgjoin a) := encode_length _
theorem cgleave a : Statement (.cgleave a) := encode_length _
theorem cgstat d a : Statement (.cgstat d a) := encode_length _
theorem nop : Statement (.nop) := encode_length _
theorem trap d : Statement (.trap d) := encode_length _
theorem eret : Statement (.eret) := encode_length _
theorem csrr d c : Statement (.csrr d c) := encode_length _
theorem csrw d c : Statement (.csrw d c) := encode_length _
theorem fence f y : Statement (.fence f y) := encode_length _
theorem sleep a : Statement (.sleep a) := encode_length _
theorem halt : Statement (.halt) := encode_length _
theorem dlogp d : Statement (.dlogp d) := encode_length _
theorem scrub d a : Statement (.scrub d a) := encode_length _
theorem ldb w : Statement (.ldb w) := encode_length _
theorem ldtBuffer w : Statement (.ldtBuffer w) := encode_length _
theorem ldtTile w : Statement (.ldtTile w) := encode_length _
theorem ldg w : Statement (.ldg w) := encode_length _
theorem ldz w : Statement (.ldz w) := encode_length _
theorem ldc w : Statement (.ldc w) := encode_length _
theorem ldsh w : Statement (.ldsh w) := encode_length _
theorem lpref w : Statement (.lpref w) := encode_length _
theorem lwfree w : Statement (.lwfree w) := encode_length _
theorem lpubl w : Statement (.lpubl w) := encode_length _
theorem stb w : Statement (.stb w) := encode_length _
theorem sttBuffer w : Statement (.sttBuffer w) := encode_length _
theorem sttTile w : Statement (.sttTile w) := encode_length _
theorem stsc w : Statement (.stsc w) := encode_length _
theorem stadd w : Statement (.stadd w) := encode_length _
theorem staxpy w : Statement (.staxpy w) := encode_length _
theorem stopt w : Statement (.stopt w) := encode_length _
theorem stoptAdam w : Statement (.stoptAdam w) := encode_length _
theorem stcvt w : Statement (.stcvt w) := encode_length _
theorem stcvtTile w : Statement (.stcvtTile w) := encode_length _
theorem satom w : Statement (.satom w) := encode_length _
theorem swfill w : Statement (.swfill w) := encode_length _
theorem srels w : Statement (.srels w) := encode_length _
theorem mma w : Statement (.mma w) := encode_length _
theorem mmat w : Statement (.mmat w) := encode_length _
theorem mmas w : Statement (.mmas w) := encode_length _
theorem mzero w : Statement (.mzero w) := encode_length _
theorem minit w : Statement (.minit w) := encode_length _
theorem mdrain w : Statement (.mdrain w) := encode_length _
theorem mdrainRegister w : Statement (.mdrainRegister w) := encode_length _
theorem mret w : Statement (.mret w) := encode_length _
theorem mcal w : Statement (.mcal w) := encode_length _
theorem msetk w : Statement (.msetk w) := encode_length _
theorem mwide w : Statement (.mwide w) := encode_length _
theorem mchk w : Statement (.mchk w) := encode_length _
theorem mspill w : Statement (.mspill w) := encode_length _
theorem mfill w : Statement (.mfill w) := encode_length _
theorem mstat w : Statement (.mstat w) := encode_length _
theorem engineNop w : Statement (.engineNop w) := encode_length _
theorem enginePost w : Statement (.enginePost w) := encode_length _
theorem engineAwait w : Statement (.engineAwait w) := encode_length _
theorem engineMark w : Statement (.engineMark w) := encode_length _
theorem jmp w : Statement (.jmp w) := encode_length _
theorem boqb w : Statement (.boqb w) := encode_length _
theorem boqbPush w : Statement (.boqbPush w) := encode_length _
theorem boqbPushall w : Statement (.boqbPushall w) := encode_length _
theorem loop w : Statement (.loop w) := encode_length _
theorem iaddi w : Statement (.iaddi w) := encode_length _
theorem iset w : Statement (.iset w) := encode_length _
theorem ipop w : Statement (.ipop w) := encode_length _
theorem engineFence w : Statement (.engineFence w) := encode_length _
theorem trapx w : Statement (.trapx w) := encode_length _
theorem endStream w : Statement (.endStream w) := encode_length _
theorem vadd w : Statement (.vadd w) := encode_length _
theorem vsub w : Statement (.vsub w) := encode_length _
theorem vmul w : Statement (.vmul w) := encode_length _
theorem vfma w : Statement (.vfma w) := encode_length _
theorem vfms w : Statement (.vfms w) := encode_length _
theorem vmin w : Statement (.vmin w) := encode_length _
theorem vmax w : Statement (.vmax w) := encode_length _
theorem vabs w : Statement (.vabs w) := encode_length _
theorem vneg w : Statement (.vneg w) := encode_length _
theorem vcpys w : Statement (.vcpys w) := encode_length _
theorem vrcp w : Statement (.vrcp w) := encode_length _
theorem vrsq w : Statement (.vrsq w) := encode_length _
theorem vsqrt w : Statement (.vsqrt w) := encode_length _
theorem vexp2 w : Statement (.vexp2 w) := encode_length _
theorem vlog2 w : Statement (.vlog2 w) := encode_length _
theorem vexpd w : Statement (.vexpd w) := encode_length _
theorem vtanh w : Statement (.vtanh w) := encode_length _
theorem vsigm w : Statement (.vsigm w) := encode_length _
theorem vcmpeq w : Statement (.vcmpeq w) := encode_length _
theorem vcmplt w : Statement (.vcmplt w) := encode_length _
theorem vcmple w : Statement (.vcmple w) := encode_length _
theorem vcmpun w : Statement (.vcmpun w) := encode_length _
theorem vclass w : Statement (.vclass w) := encode_length _
theorem viadd w : Statement (.viadd w) := encode_length _
theorem visub w : Statement (.visub w) := encode_length _
theorem vimul w : Statement (.vimul w) := encode_length _
theorem vimad w : Statement (.vimad w) := encode_length _
theorem vand w : Statement (.vand w) := encode_length _
theorem vor w : Statement (.vor w) := encode_length _
theorem vxor w : Statement (.vxor w) := encode_length _
theorem vandn w : Statement (.vandn w) := encode_length _
theorem vshl w : Statement (.vshl w) := encode_length _
theorem vshr w : Statement (.vshr w) := encode_length _
theorem vsra w : Statement (.vsra w) := encode_length _
theorem vimin w : Statement (.vimin w) := encode_length _
theorem vimax w : Statement (.vimax w) := encode_length _
theorem viminu w : Statement (.viminu w) := encode_length _
theorem vimaxu w : Statement (.vimaxu w) := encode_length _
theorem vicmpeq w : Statement (.vicmpeq w) := encode_length _
theorem vicmplt w : Statement (.vicmplt w) := encode_length _
theorem vicmpltu w : Statement (.vicmpltu w) := encode_length _
theorem vpcnt w : Statement (.vpcnt w) := encode_length _
theorem vclz w : Statement (.vclz w) := encode_length _
theorem vcvt w : Statement (.vcvt w) := encode_length _
theorem vqnt w : Statement (.vqnt w) := encode_length _
theorem vdqnt w : Statement (.vdqnt w) := encode_length _
theorem vscale w : Statement (.vscale w) := encode_length _
theorem vpack w : Statement (.vpack w) := encode_length _
theorem vunpk w : Statement (.vunpk w) := encode_length _
theorem vrsum w : Statement (.vrsum w) := encode_length _
theorem vrmax w : Statement (.vrmax w) := encode_length _
theorem vrmin w : Statement (.vrmin w) := encode_length _
theorem vrarg w : Statement (.vrarg w) := encode_length _
theorem vscan w : Statement (.vscan w) := encode_length _
theorem vscanx w : Statement (.vscanx w) := encode_length _
theorem vsort w : Statement (.vsort w) := encode_length _
theorem vtopk w : Statement (.vtopk w) := encode_length _
theorem vmrg w : Statement (.vmrg w) := encode_length _
theorem vperm w : Statement (.vperm w) := encode_length _
theorem vbcst w : Statement (.vbcst w) := encode_length _
theorem vrot w : Statement (.vrot w) := encode_length _
theorem vsel w : Statement (.vsel w) := encode_length _
theorem vmov w : Statement (.vmov w) := encode_length _
theorem vldi w : Statement (.vldi w) := encode_length _
theorem vlane w : Statement (.vlane w) := encode_length _
theorem vlaneAddress w : Statement (.vlaneAddress w) := encode_length _
theorem vpushc w : Statement (.vpushc w) := encode_length _
theorem vpopc w : Statement (.vpopc w) := encode_length _
theorem vrebal w : Statement (.vrebal w) := encode_length _
theorem vcount w : Statement (.vcount w) := encode_length _
theorem vsred w : Statement (.vsred w) := encode_length _
theorem vsscan w : Statement (.vsscan w) := encode_length _
theorem vsnorm w : Statement (.vsnorm w) := encode_length _
theorem vsmask w : Statement (.vsmask w) := encode_length _
theorem vslen w : Statement (.vslen w) := encode_length _
theorem vblz w : Statement (.vblz w) := encode_length _
theorem vrng w : Statement (.vrng w) := encode_length _
theorem vrngu w : Statement (.vrngu w) := encode_length _
theorem dispatchRequest core : Statement (.dispatchRequest core) := encode_length _
theorem gangCoreHold core : Statement (.gangCoreHold core) := encode_length _
theorem taskCompletion task : Statement (.taskCompletion task) := encode_length _
theorem launchStart slot : Statement (.launchStart slot) := encode_length _
theorem kernelVerification slot : Statement (.kernelVerification slot) := encode_length _
theorem memoryWritePerform core st win k : Statement (.memoryWritePerform core st win k) := encode_length _
theorem atomicPerform core st part : Statement (.atomicPerform core st part) := encode_length _
theorem dPageWriteLand core st win k : Statement (.dPageWriteLand core st win k) := encode_length _
theorem aredoLand core win : Statement (.aredoLand core win) := encode_length _
theorem markerRetire core idx : Statement (.markerRetire core idx) := encode_length _
theorem barrierPhaseRelease bar : Statement (.barrierPhaseRelease bar) := encode_length _
theorem waitaPoll core : Statement (.waitaPoll core) := encode_length _
theorem sleepExpiry core : Statement (.sleepExpiry core) := encode_length _
theorem translationWalk who win va : Statement (.translationWalk who win va) := encode_length _
theorem blazeCacheRefill core st : Statement (.blazeCacheRefill core st) := encode_length _
theorem copyStart ctx q die : Statement (.copyStart ctx q die) := encode_length _
theorem copyLanded ctx q n : Statement (.copyLanded ctx q n) := encode_length _
theorem copyAcked ctx q n : Statement (.copyAcked ctx q n) := encode_length _
theorem copyFaulted ctx q n : Statement (.copyFaulted ctx q n) := encode_length _
theorem remoteAccessArrival acc off : Statement (.remoteAccessArrival acc off) := encode_length _
theorem writeAcknowledge core : Statement (.writeAcknowledge core) := encode_length _
theorem linkDataCompletion core num st : Statement (.linkDataCompletion core num st) := encode_length _
theorem collectiveCommit lnum op oc : Statement (.collectiveCommit lnum op oc) := encode_length _
theorem collectiveWithdraw lnum : Statement (.collectiveWithdraw lnum) := encode_length _
theorem replicaCounted ctx handle ver : Statement (.replicaCounted ctx handle ver) := encode_length _
theorem replicaLost ctx handle ver : Statement (.replicaLost ctx handle ver) := encode_length _
theorem lineageMirrorRetry die : Statement (.lineageMirrorRetry die) := encode_length _
theorem recoveryWalk ctx handle ver : Statement (.recoveryWalk ctx handle ver) := encode_length _
theorem copyBackVerified ctx handle ver : Statement (.copyBackVerified ctx handle ver) := encode_length _
theorem rebuildEnqueue ctx lid : Statement (.rebuildEnqueue ctx lid) := encode_length _
theorem recoveryStarved ctx : Statement (.recoveryStarved ctx) := encode_length _
theorem contextStopped ctx : Statement (.contextStopped ctx) := encode_length _
theorem swapExchangeComplete part : Statement (.swapExchangeComplete part) := encode_length _
theorem spillComplete ctx : Statement (.spillComplete ctx) := encode_length _
theorem fillComplete ctx : Statement (.fillComplete ctx) := encode_length _
theorem watchdog ctx core : Statement (.watchdog ctx core) := encode_length _
theorem dieLoss die : Statement (.dieLoss die) := encode_length _
theorem ioDieLoss : Statement (.ioDieLoss) := encode_length _
theorem memoryUncorrectableError pa : Statement (.memoryUncorrectableError pa) := encode_length _
theorem syncEngineUncorrectableError die : Statement (.syncEngineUncorrectableError die) := encode_length _
theorem shelvedStateLost ctx : Statement (.shelvedStateLost ctx) := encode_length _
theorem powerOnReset : Statement (.powerOnReset) := encode_length _
theorem linkTrainingRequest port : Statement (.linkTrainingRequest port) := encode_length _
theorem linkTrainingResult port res : Statement (.linkTrainingResult port res) := encode_length _
theorem linkRetryExhausted port third : Statement (.linkRetryExhausted port third) := encode_length _
theorem linkFlitCrcError port : Statement (.linkFlitCrcError port) := encode_length _
theorem powerThermalLimit on : Statement (.powerThermalLimit on) := encode_length _
theorem thermalShutdown : Statement (.thermalShutdown) := encode_length _
theorem almanacFlush : Statement (.almanacFlush) := encode_length _
theorem trigger d : Statement (.trigger d) := encode_length _
theorem tlbivaRange d : Statement (.tlbivaRange d) := encode_length _
theorem tlbivaAll d : Statement (.tlbivaAll d) := encode_length _
theorem hndbInstall d : Statement (.hndbInstall d) := encode_length _
theorem hndbRemove d : Statement (.hndbRemove d) := encode_length _
theorem ringcfEnable ring d : Statement (.ringcfEnable ring d) := encode_length _
theorem ringcfConfigure ring d : Statement (.ringcfConfigure ring d) := encode_length _
theorem ringcfDrain ring d : Statement (.ringcfDrain ring d) := encode_length _
theorem ringcfDisable ring d : Statement (.ringcfDisable ring d) := encode_length _
theorem dlogcRecord d : Statement (.dlogcRecord d) := encode_length _
theorem dlogcReplay d : Statement (.dlogcReplay d) := encode_length _
theorem dlogcOff d : Statement (.dlogcOff d) := encode_length _
theorem kthWrite n d : Statement (.kthWrite n d) := encode_length _
theorem redlimWrite d : Statement (.redlimWrite d) := encode_length _
theorem kload j slot addr image : Statement (.kload j slot addr image) := encode_length _
theorem kunload j slot : Statement (.kunload j slot) := encode_length _
theorem kbind j slot ctx : Statement (.kbind j slot ctx) := encode_length _
theorem kunbind j slot ctx : Statement (.kunbind j slot ctx) := encode_length _
theorem kretire j slot : Statement (.kretire j slot) := encode_length _
theorem gload j slot ctx image : Statement (.gload j slot ctx image) := encode_length _
theorem gunload j slot : Statement (.gunload j slot) := encode_length _
theorem trig j ctx ptr : Statement (.trig j ctx ptr) := encode_length _
theorem qset j q desc : Statement (.qset j q desc) := encode_length _
theorem qdrain j q : Statement (.qdrain j q) := encode_length _
theorem qoff j q : Statement (.qoff j q) := encode_length _
theorem hset j ctx idx h : Statement (.hset j ctx idx h) := encode_length _
theorem hclr j ctx idx : Statement (.hclr j ctx idx) := encode_length _
theorem poolset j ctx desc : Statement (.poolset j ctx desc) := encode_length _
theorem pclear j frame : Statement (.pclear j frame) := encode_length _
theorem partset j part add remove : Statement (.partset j part add remove) := encode_length _
theorem ctxnew j ctx req : Statement (.ctxnew j ctx req) := encode_length _
theorem run j ctx : Statement (.run j ctx) := encode_length _
theorem preempt j ctx : Statement (.preempt j ctx) := encode_length _
theorem spill j ctx : Statement (.spill j ctx) := encode_length _
theorem fill j ctx : Statement (.fill j ctx) := encode_length _
theorem resume j ctx : Statement (.resume j ctx) := encode_length _
theorem kill j ctx : Statement (.kill j ctx) := encode_length _
theorem ctxfree j ctx : Statement (.ctxfree j ctx) := encode_length _
theorem restore j ctx image : Statement (.restore j ctx image) := encode_length _
theorem mread j sp addr count : Statement (.mread j sp addr count) := encode_length _
theorem mwrite j sp addr data : Statement (.mwrite j sp addr data) := encode_length _
theorem exportWin j ctx ptr len : Statement (.exportWin j ctx ptr len) := encode_length _
theorem reach j dev entry : Statement (.reach j dev entry) := encode_length _
theorem memb j domain replicas : Statement (.memb j domain replicas) := encode_length _
theorem cgdef j rec members : Statement (.cgdef j rec members) := encode_length _
theorem cgdel j lnum : Statement (.cgdel j lnum) := encode_length _
theorem linkup j port : Statement (.linkup j port) := encode_length _
theorem retrain j port : Statement (.retrain j port) := encode_length _
theorem linkfence j port : Statement (.linkfence j port) := encode_length _
theorem linkreset j port : Statement (.linkreset j port) := encode_length _
theorem summary j mask flags : Statement (.summary j mask flags) := encode_length _
theorem fwload j image burn : Statement (.fwload j image burn) := encode_length _
theorem quote j nonce : Statement (.quote j nonce) := encode_length _
theorem powerLoss : Statement (.powerLoss) := encode_length _
theorem collectiveJoinLeaveRecorded lnum rank join : Statement (.collectiveJoinLeaveRecorded lnum rank join) := encode_length _
theorem taskQueueTake q : Statement (.taskQueueTake q) := encode_length _
theorem loadDataArrival core st a : Statement (.loadDataArrival core st a) := encode_length _
theorem dlogrWrite d : Statement (.dlogrWrite d) := encode_length _
theorem dlogwWrite d : Statement (.dlogwWrite d) := encode_length _
theorem lineageMirrorArrival die en : Statement (.lineageMirrorArrival die en) := encode_length _
theorem replicaTargetLost ctx handle ver : Statement (.replicaTargetLost ctx handle ver) := encode_length _
theorem checkpointDeliveryAcknowledged ctx q n : Statement (.checkpointDeliveryAcknowledged ctx q n) := encode_length _

end Sys2Proof.Laws.WordLength
end

