-- ==== Sys2Proof/Laws/Vector.lean ====
section
/-! SUPPORT. What the shared operations of the vector stream do when their operands pass their checks. -/

namespace Sys2Proof.Machine

variable {w : W96} {s s' : State} {m : Mask}

/-- A lanewise word whose operands can be read and whose destination can be written. -/
theorem lanewise_ok {lat : Nat} {ub ud : Bool} {g : Nat → W32 → W32 → W32 → W32} {a b : Vec × Nat} {o : Option Nat} {d : Vec}
    {r : State × List Wr} {e : Eff} (hs : s' = s.setCore (s.core.settle .V)) (ha : (s'.sm .V).active .V (hd96 w) = m) (hm : m ≠ 0)
    (hr : (s'.sm .V).short (rg 1 (hd96 w).pred :: (srcRegs m w.a ++ (if ub then srcRegs m w.b else []) ++ dstRegs m w.d ud)) = none)
    (h1 : vsrc s' w.a = .ok a) (h2 : (if ub then vsrc s' w.b else .ok (zeroVec, 0)) = .ok b)
    (hd : d = (if ud then (match o with
      | some x => (elems 0 (s'.core.aRead x 512)).map (fun c => BitVec.ofNat 32 c)
      | none => s'.core.vreg w.d.num) else zeroVec))
    (h3 : vdst s' w.d 0 = .ok o)
    (he : e = { s := r.1, res := r.2 ++ postUpdates s'.core .V [w.a, w.b, w.d], lat := vlat lat [a.2, b.2, if ud && w.d.isStr then 2 else 0] })
    (hv : r = vput s' w.d 0 o m (vmap3 (fun i x y z => if m.getLsbD i then g i x y z else 0) 0 a.1 b.1 d) 0) :
    lanewise w lat ub ud g s = .next (State.issueEngine .V (hd96 w) (e.peers s' w 0)) := by
  simp only [lanewise, vword, engine]
  apply engineWith_ok hs ha hm hr
  subst hd hv he
  cases ub
  · obtain rfl := Except.ok.inj h2
    simp only [h1, h3, res_ok_bind, Bool.false_eq_true, reduceIte] <;> rfl
  · rw [if_pos rfl] at h2
    simp only [h1, h2, h3, res_ok_bind, reduceIte] <;> rfl

/-- A compare word whose operands can be read. -/
theorem compare_ok {lat : Nat} {c : W32 → W32 → Bool} {a b : Vec × Nat} (hs : s' = s.setCore (s.core.settle .V))
    (ha : (s'.sm .V).active .V (hd96 w) = m) (hm : m ≠ 0)
    (hr : (s'.sm .V).short (rg 1 (hd96 w).pred ::
      (srcRegs m w.a ++ srcRegs m w.b ++ (if w.var = 0 then [] else [⟨1, w.d.imm, m⟩]))) = none)
    (h1 : vsrc s' w.a = .ok a) (h2 : vsrc s' w.b = .ok b) :
    ∃ v, compare w lat c s = .next (State.issueEngine .V (hd96 w) (Eff.peers
      { s := s', res := ⟨1, w.d.imm, m, .pred v⟩ :: postUpdates s'.core .V [w.a, w.b], lat := vlat lat [a.2, b.2] } s' w 0)) := by
  simp only [compare, vword, engine]
  refine ⟨?_, ?_⟩
  rotate_left
  · apply engineWith_ok hs ha hm hr
    simp only [h1, h2, res_ok_bind]
    rfl

/-- Lane i of a result of three vectors of 128 lanes. -/
theorem vmap3_getD (g : Nat → W32 → W32 → W32 → W32) (k : Nat) (a b d : Vec) (i : Nat) (ha : i < a.length) (hb : i < b.length)
    (hd : i < d.length) : (vmap3 g k a b d).getD i 0 = g (k + i) (a.getD i 0) (b.getD i 0) (d.getD i 0) := by
  induction a generalizing k b d i with
  | nil => simp at ha
  | cons x a ih =>
    cases b with
    | nil => simp at hb
    | cons y b =>
      cases d with
      | nil => simp at hd
      | cons z d =>
        cases i with
        | zero => rfl
        | succ i =>
          have := ih (k + 1) b d i (by simpa using ha) (by simpa using hb) (by simpa using hd)
          simpa [vmap3, Nat.add_assoc, Nat.add_comm 1 i] using this

end Sys2Proof.Machine
end

