-- ==== Sys2Proof/Tests/Slice0.lean ====
section
/-! SUPPORT. Tests: a witness for the hypotheses of every obligation that has any (witness_*), single steps on small states, the words of every
stream written out from the encoding tables (test_decode_*), an ill-formed term for each check of WellFormed (test_wf_*), and results that the spec
itself works out (test_*). No result is taken from a run. -/

open Sys2Proof Sys2Proof.Machine Sys2Proof.Claims

namespace Sys2Proof.Tests

-- One theorem after another: each kernel evaluation waiting in a thread of its own would fill the memory.
set_option Elab.async false

/-- What a result answers satisfies a test. -/
def okWith {α : Type} (r : Res α) (p : α → Bool) : Bool :=
  match r with
  | .ok a => p a
  | .error _ => false

theorem ok_of {α : Type} {r : Res α} {p : α → Bool} (h : okWith r p = true) : ∃ a, r = .ok a ∧ p a = true := by
  cases r with
  | ok a => exact ⟨a, rfl, h⟩
  | error e => cases h

/-- Whether an outcome is a next state that satisfies a test. -/
def nextWith (o : Host.Outcome State Fault Refusal) (p : State → Bool) : Bool :=
  match o with
  | .next t => p t
  | _ => false

theorem next_of {o : Host.Outcome State Fault Refusal} {p : State → Bool} (h : nextWith o p = true) : ∃ t, o = .next t ∧ p t = true := by
  cases o with
  | next t => exact ⟨t, rfl, h⟩
  | fault r => cases r
  | refused r => cases h

/-- A core of the witnesses: s1 points at window 0x4, s2 holds 3, s3 points at a barrier record, a1 at window 0x4, a2 at the W-buffer, a3 at the
A-buffer. -/
def core0 : CoreSt :=
  { CoreSt.zero with
    sregs := [(1, 0x4000000000001000#64), (2, 3#64), (3, 0x7000000000000000#64)]
    aregs := [(1, ⟨0x4000000000001000#64, 512#32, 0#32⟩), (2, ⟨0x1000000000000000#64, 512#32, 0#32⟩), (3, ⟨0x2000000000000000#64, 512#32, 0#32⟩)] }

/-- Page tables at 0x200000: window 0x4 has a leaf of 2 GiB at physical address 0 and, where the flags are not 0, another with these flags at
2 GiB; window 0x5 one of 2 GiB of the second tier. -/
def tables (flags : Byte) : List (Nat × Byte) :=
  [(0x200000, 1), (0x200002, 0x21), (0x210000, 0x33)] ++ (if flags = 0 then [] else [(0x210008, flags), (0x21000B, 0x80)]) ++
    [(0x220000, 1), (0x220002, 0x23), (0x230000, 0x33), (0x230005, 2)]

/-- A package with context 0 RUNNING on core 0; its window 0x4 maps to physical addresses below 2^31, and from offset 2^31 on as the flags say, its
window 0x5 to the second tier, its window 0x7 to one sync page with a barrier record at its start; slot 0 holds an image with all five streams and
four C words in the second MiB. -/
def baseP (flags : Byte) (c : CoreSt) : State :=
  { State.reset with
    cores := [(0, c)], parts := [(0, ⟨[(0, 0), (1, 1)], some 0, none, none, false, []⟩)],
    ctxs := [(0, { Ctx.zero with
      st := .running, loc := .cores, sync := [⟨0, 0, 0, true, false, [0]⟩], csrs := [(0x3E8, 0x200000), (0x3E9, 0x220000)] })],
    mem := [(6, 0x1F), (0x100006, 0x1F), (0x100010, 128), (0x100014, 4)] ++ tables flags, kernels := [(0, ⟨.bound, 0x100000, 256, [0], 0⟩)],
    dev := { Device.zero with phase := .running } }

/-- The same without pages from 2 GiB on. -/
abbrev base (c : CoreSt) : State := baseP 0 c

/-! ### Steps -/

/-- A state whose first move runs a C word from slot 0. -/
noncomputable def fetched (w : Nat) : State := State.reset.withFetchWord 32 w

/-- The same with core 0 changed. -/
noncomputable def fetchedBy (w : Nat) (f : CoreSt → CoreSt) : State := (fetched w).setCoreOf 0 (f ((fetched w).coreOf 0))

theorem witness_StepRunsDecodedWord : (fetched 0x00221800).script = [.word 0 .C] ∧ (fetched 0x00221800).mayIssue 0 .C = true ∧
    (((fetched 0x00221800).coreOf 0).strm .C).pc < ((fetched 0x00221800).codeArray 0 .C).2 ∧
    (fetched 0x00221800).lateNow 0 = false ∧ ((fetched 0x00221800).codeSegs 0 .C 128 4).any (fun c => (fetched 0x00221800).homeLost c.pa) = false ∧
    (fetched 0x00221800).placeBad (.phys 0 ((fetched 0x00221800).codeSegs 0 .C 128 4)) = false ∧
    decode .C ((fetched 0x00221800).wordAt 0 .C 0) = .ok (.add 1 2 3) ∧ (Instr.add 1 2 3).wf = true := by
  decide +kernel

/-- The word runs as the first instruction after reset: ADD s1, s2, s3 writes its register and goes on at word 1. -/
theorem test_step_runs : nextWith (step (fetchedBy 0x00221800 (fun c => { c with sregs := [(2, 5), (3, 7)] })))
    (fun t => decide ((t.coreOf 0).sreg 1 = 12) && decide ((t.coreOf 0).cS.pc = 1)) = true := by decide +kernel

theorem witness_StepBadWordTakesCause :
    (fetchedBy 0x00221800 (fun c => { c with late := [⟨.C, 1, 0, 0x140, 0, 0⟩] })).lateNow 0 = true ∧ (fetched 0xFC000000).lateNow 0 = false ∧
    ((fetchedBy 0x00221800 (fun c => c.setStrm .C { c.cS with pc := 1 })).mayIssue 0 .C = true ∧
      ((fetched 0x00221800).codeArray 0 .C).2 ≤ 1) ∧
    ((fetched 0xFC000000).mayIssue 0 .C = true ∧ decode .C ((fetched 0xFC000000).wordAt 0 .C 0) = .error 0x020) ∧
    (decode .C ((fetched 0x7C000000).wordAt 0 .C 0) = .ok (.await 0 0) ∧ (Instr.await 0 0).cause = some 0x022) := by
  decide +kernel

theorem witness_StepRunsEvents :
    (Instr.outside .powerLoss = true ∧ (base core0).dev.phase = .running) ∧
    (State.reset.dev.phase ≠ .running ∧ State.reset.dev.phase ≠ .recovery ∧ (Instr.add 1 2 3) ≠ .powerOnReset ∧ (Instr.add 1 2 3) ≠ .powerLoss) ∧
    Instr.outside (.add 1 2 3) = false := by
  decide +kernel

theorem witness_StepKeepsMemoryCanonical : canonical (fetched 0x00221800) ∧ ∃ t, step (fetched 0x00221800) = .next t ∧ t.mem.isEmpty = false :=
  ⟨by unfold canonical; decide +kernel, by
    obtain ⟨t, h, e⟩ := next_of (o := step (fetched 0x00221800)) (p := fun t => !t.mem.isEmpty) (by decide +kernel)
    exact ⟨t, h, by simpa using e⟩⟩

theorem witness_DecodeEncode : (Instr.add 1 2 3).wf = true ∧ encode .C (.add 1 2 3) = some (toLE 4 0x00221800) := by decide +kernel

theorem witness_HardwiredRegisters : (1 : Reg) ≠ 0 ∧ (7 : Nat) ≠ 0 := by decide

/-! ### The C stream -/

/-- The state of the witnesses. -/
abbrev w0 : State := base core0

/-- No register of w0 is owed a value. -/
theorem ready_w0 (r : Reg) : ready w0 r := by
  have h : w0.core.cS.loads = [] ∧ w0.core.cS.stores = [] := by decide +kernel
  simp [ready, CoreSt.busy, h]

theorem witness_AluRegisterWords : ready w0 1 ∧ ready w0 2 ∧ ready w0 0 ∧ w0.core.sreg 2 = 3 := ⟨ready_w0 1, ready_w0 2, ready_w0 0, rfl⟩

theorem witness_ImmediateWords : ready w0 4 ∧ ready w0 2 ∧ w0.core.sreg 2 = 3 := ⟨ready_w0 4, ready_w0 2, rfl⟩

theorem witness_AluWordsFrame : Instr.add 4 2 2 ∈ aluWords 4 2 2 0 0 ∧ ∃ t, exec (.add 4 2 2) w0 = .next t ∧ (t.core.sreg 4 == 6) = true :=
  ⟨by simp [aluWords], next_of (by decide +kernel)⟩

theorem witness_LoadWordsIssue : ready w0 4 ∧ ready w0 1 ∧ w0.c.ldReady = true ∧
    (∃ t, access w0 w0.cur ⟨[4, 5, 6, 7], none, 4, 4, false, 0⟩ none (w0.core.sreg 1 + (0xFFFC#16).signExtend 64).toNat = .ok t ∧
      (t.ptr == 0x4000000000000FFC) = true) ∧
    (∃ t, access w0 w0.cur ⟨[4, 5, 6, 7], none, 8, 8, false, 0⟩ none (w0.core.sreg 1 + (8#16).signExtend 64).toNat = .ok t ∧
      (t.ptr == 0x4000000000001008) = true) :=
  ⟨ready_w0 4, ready_w0 1, by decide +kernel, ok_of (by decide +kernel), ok_of (by decide +kernel)⟩

/-- A pool of one slot whose version 1 is RETIRED and version 2 FILLING; its data lie at offset 2^31 of window 0x4. -/
def pool0 : TPool :=
  { fmt := 0, layer := 0, vdep := 2, nshadow := 1, nslot := 1, dbase := 0x4000000080000000, hbase := 0x4000000090000000,
    sdbase := 0x40000000A0000000, shbase := 0x40000000B0000000,
    slots := [(0, ⟨3, [(1, ⟨.retired, .home, false, false, 0, 0, 0, .none, none, [], 0, [], false⟩),
      (2, ⟨.filling, .home, false, false, 0, 0, 0, .none, none, [], 0, [], false⟩)]⟩)] }

/-- w0 with the pool, on T pages. -/
def wT (c : CoreSt) : State := { baseP 0x2B c with ctxs := [(0, { (base c).ctxOf 0 with pools := [(0, pool0)] })] }

theorem witness_StoreWordsIssue :
    (ready w0 2 ∧ ready w0 1 ∧ ready w0 3 ∧ w0.c.stReady = true) ∧
    (∃ t, access w0 w0.cur ⟨[4, 5, 6, 7], none, 4, 4, true, 1⟩ none (w0.core.sreg 1 + (0#16).signExtend 64).toNat = .ok t ∧
      (decide (w0.recordOf t = none) && okWith (w0.admitAt t 0x0A0) (fun g => g == some none) &&
        okWith (w0.writeOp t (toLE 4 (w0.core.sreg 2).toNat) (w0.streamKey .C (w0.c.issued + 1) 0)) (fun _ => true)) = true) ∧
    (∃ t, access (wT core0) 0 ⟨[4, 5, 6, 7], none, 8, 8, true, 1⟩ none 0x4000000080010000 = .ok t ∧
      (decide ((wT core0).recordOf t = none) && okWith ((wT core0).admitAt t 0x0A0) (fun g => g == none)) = true) ∧
    (∃ t, access w0 w0.cur ⟨[4, 5, 6, 7], none, 8, 8, true, 1⟩ none (w0.core.sreg 3 + (8#16).signExtend 64).toNat = .ok t ∧
      (w0.recordOf t == some (syncBase 0 0) && w0.c.stores.all (fun e => e.win != 7) &&
        (w0.storeBar (syncBase 0 0) (segAddr t.place.segs 0 - syncBase 0 0) (toLE 8 (w0.core.sreg 2).toNat)).isSome) = true) :=
  ⟨⟨ready_w0 2, ready_w0 1, ready_w0 3, by decide +kernel⟩, ok_of (by decide +kernel), ok_of (by decide +kernel), ok_of (by decide +kernel)⟩

theorem witness_AddressRegisterWords : ready w0 1 ∧ ready w0 2 ∧ ready w0 3 := ⟨ready_w0 1, ready_w0 2, ready_w0 3⟩

theorem witness_ConditionalBranches : ready w0 1 ∧ ready w0 2 ∧ w0.core.sreg 1 ≠ w0.core.sreg 2 ∧ inCode w0 (pcOff w0 (3#16).toInt) ∧
    decide (w0.core.sreg 1 = w0.core.sreg 2) = false := by
  refine ⟨ready_w0 1, ready_w0 2, ?_⟩
  unfold inCode pcOff; decide +kernel

theorem witness_JumpWords : inCode w0 (pcOff w0 (3#26).toInt) ∧ ready w0 31 ∧
    inCode w0 ((w0.core.sreg 2 + (0#16).signExtend 64).toNat : Int) ∧ inCode w0 (pcOff w0 (1#16).toInt) ∧
    (w0.core.sreg 2 + 1 ≠ (w0.setCore (w0.core.setSreg 2 (w0.core.sreg 2 + 1))).core.sreg 1) ∧
    (w0.core.sreg 2 + 1 = (w0.setCore (w0.core.setSreg 2 (w0.core.sreg 2 + 1))).core.sreg 2) := by
  refine ⟨?_, ready_w0 31, ?_⟩ <;> unfold inCode <;> try unfold pcOff
  all_goals decide +kernel

/-- Bytes put into a state's memory. -/
def withMem (s : State) (a : Nat) (b : List Byte) : State := { s with mem := setBytes s.mem a b }

/-- w0 with a bucket table at s1: up to 2 to word 4, which the code does not have, and up to 3 to word 3. -/
def wBk : State := withMem w0 0x1000 (toLE 4 2 ++ toLE 4 0 ++ toLE 4 2 ++ toLE 4 4 ++ toLE 4 3 ++ toLE 4 3)

theorem witness_TransferOutsideCode : ready w0 1 ∧ ready w0 2 ∧ ¬inCode w0 (pcOff w0 (4#26).toInt) ∧
    ¬inCode w0 ((w0.core.sreg 2 + (1#16).signExtend 64).toNat : Int) ∧ ¬inCode w0 (pcOff w0 (0xFFFF#16).toInt) ∧
    (w0.core.sreg 1 = w0.core.sreg 1 ∧ w0.core.sreg 1 ≠ w0.core.sreg 2 ∧ (w0.core.sreg 2).toInt < (w0.core.sreg 1).toInt ∧
      (w0.core.sreg 2).toInt ≤ (w0.core.sreg 2).toInt ∧ (w0.core.sreg 2).toNat < (w0.core.sreg 1).toNat ∧
      (w0.core.sreg 2).toNat ≤ (w0.core.sreg 2).toNat ∧ w0.core.sreg 2 + 1 ≠ (w0.core.setSreg 2 (w0.core.sreg 2 + 1)).sreg 1) ∧
    ready wBk 1 ∧ (∃ h, wBk.readC (wBk.core.sreg 1 + (0#16).signExtend 64).toNat 8 8 0x04A = .ok h ∧ (fieldLE h 0 4 == 2 && fieldLE h 4 4 == 0) = true) ∧
    (∃ bs, wBk.readC (wrap64 (0x4000000000001000 + 8)) (8 * 2) 8 0x04A = .ok bs ∧ (rising (buckets bs 2) &&
      (buckets bs 2).find? (fun e => decide ((wBk.core.sreg 0).toNat ≤ e.1)) == some (2, 4)) = true) ∧ ¬inCode wBk ((4 : Nat) : Int) := by
  refine ⟨ready_w0 1, ready_w0 2, ?_, ?_, ?_, by decide +kernel, ?_, ok_of (by decide +kernel), ok_of (by decide +kernel), ?_⟩
  · unfold inCode pcOff; decide +kernel
  · unfold inCode; decide +kernel
  · unfold inCode pcOff; decide +kernel
  · have h : wBk.core.cS.loads = [] ∧ wBk.core.cS.stores = [] := by decide +kernel
    simp [ready, CoreSt.busy, h]
  · unfold inCode; decide +kernel

theorem witness_ForkAndRdv : (∀ t, t ∈ maskStrms 15#4 → (w0.sm t).run = false) ∧ (∀ t, t ∈ maskStrms 15#4 → w0.present t = true) ∧
    w0.core.owes = false ∧ w0.c.postReady w0.c.seq = true ∧ (∀ t, t ∈ maskStrms 15#4 → (w0.sm t).postReady (w0.sm t).seq = true) := by decide +kernel

theorem witness_EventAndQueueWords : (1#10 ≠ 0) ∧ (∃ c, (core0.setEvent 5 1).doAwait .C 5 1 = some c) ∧ w0.core.doAwait .C 5 1 = none ∧
    (w0.sm .M).boq.length < 32 ∧ (w0.sm .M).pq.length < 16 := by
  refine ⟨by decide, ?_, by decide +kernel⟩
  rw [← Option.isSome_iff_exists]; decide +kernel

/-- A handler whose save area lies at offset 0x2000 of window 0x4, entered from word 2 of the C stream. -/
def handH : HandlerSt := ⟨0x4000000000003000, 0x4000000000002000, .C, 2, none, 2, 0, none, .none, .none, none⟩

/-- A core in it. -/
def coreH : CoreSt := { core0 with hand := some handH }

/-- The state in which the ERET of that handler acts: the stores before it are performed at core scope. -/
def markedH (s : State) : State := s.setCore (s.core.markCore .C s.c.seq)

theorem witness_SystemWords : w0.core.hand = none ∧
    ((base coreH).core.hand = some handH ∧ (base coreH).core.owes = false ∧ (base coreH).c.postReady (base coreH).c.seq = true ∧
      (markedH (base coreH)).areaBad 0 handH.save 256 = none ∧
      (markedH { base coreH with poison := [0] }).areaBad 0 handH.save 256 = some (0x084, 0x4000000000002000, 0x4100) ∧
      (markedH (base coreH)).core.blockedNow .C (.phys 0 ((markedH (base coreH)).segsAt 0 (bits handH.save 55 0) 256)) = false) ∧
    (ready w0 4 ∧ w0.core.sleep = none ∧ w0.core.sreg 4 = 0) ∧ (ready w0 2 ∧ w0.core.sreg 2 ≠ 0) ∧
    (base { core0 with sleep := some 0 }).core.sleep = some 0 := by
  refine ⟨by decide +kernel, by decide +kernel, ⟨ready_w0 4, ?_⟩, ⟨ready_w0 2, ?_⟩, ?_⟩ <;> decide +kernel

theorem witness_EretRestores : (base coreH).core.hand = some handH ∧ (base coreH).core.owes = false ∧ (base coreH).c.postReady (base coreH).c.seq = true ∧
    (markedH (base coreH)).areaBad 0 handH.save 256 = none ∧
    (markedH (base coreH)).core.blockedNow .C (.phys 0 ((markedH (base coreH)).segsAt 0 (bits handH.save 55 0) 256)) = false ∧ (∃ t, exec .eret (base coreH) = .next t ∧ (t.core.hand == none) = true) := by
  refine ⟨by decide +kernel, by decide +kernel, by decide +kernel, by decide +kernel, by decide +kernel, next_of (by decide +kernel)⟩

/-! ### Registers of control and status, ordering -/

/-- A core whose s4 holds v. -/
def coreR (v : Word) : CoreSt := core0.setSreg 4 v

/-- A core that owes no register a value. -/
theorem ready_of {s : State} (h : (s.core.cS.loads.isEmpty && s.core.cS.stores.isEmpty) = true) (r : Reg) : ready s r := by
  simp only [Bool.and_eq_true, List.isEmpty_iff] at h
  simp [ready, CoreSt.busy, h]

theorem witness_CsrWords : ready w0 2 ∧ (csrExists (0x010#10).toNat = true ∧ (0x010#10).toNat ≠ 0x3F4) ∧
    (csrExists (0x3D8#10).toNat = true ∧ ∃ t, w0.csrWrite (0x3D8#10).toNat (w0.core.sreg 2) = .ok t ∧ (t.core.csr 0x3D8 == 3) = true) ∧
    0x013#10 ∈ [0x010#10, 0x011#10, 0x012#10, 0x013#10] ∧ csrExists (0x000#10).toNat = false ∧ 0 = (w0.ctx.csr 0x3F3).toNat % 4 :=
  ⟨ready_w0 2, by decide, ⟨by decide, ok_of (by decide +kernel)⟩, by decide, by decide, by decide +kernel⟩

/-- w0 with an empty graph in slot 0. -/
def wG : State := { w0 with graphs := [(0, ⟨0, 0, 64, [], []⟩)] }

theorem witness_ActingCsrWrites :
    (ready wG 1 ∧ wG.released 3 = true ∧ ∃ t, wG.acceptLaunch wG.ctxNo (wG.core.sreg 1).toNat = .ok t ∧ (t.graphs != wG.graphs) = true) ∧
    ((0x4000000000000002#64).toNat % 4 ≠ 3 ∧ tlbivaRangeOf (0x4000000000000002#64).toNat = .ok (some (4, 0, 2 ^ 31)) ∧
      (base (coreR 0x4000000000000002)).released 3 = true ∧
      (base (coreR 0x4000000000000002)).holdsAddrs 0 (some (4, 0, 2 ^ 31)) = false) ∧
    ((0x3#64).toNat % 4 = 3 ∧ bits (0x3#64).toNat 15 2 = 0 ∧ (base (coreR 3)).holdsAddrs 0 none = false) ∧
    ((w0.coresOfCtx w0.ctxNo).all (fun c => (w0.coreOf c.2).hand.isNone) = true ∧
      w0.core.sreg 1 ≠ 0 ∧ w0.released 3 = true ∧ w0.handlerBad w0.ctxNo (w0.core.sreg 1).toNat = none) ∧ w0.core.sreg 4 = 0 := by
  refine ⟨⟨ready_of (by decide +kernel) 1, by decide +kernel, ok_of (by decide +kernel)⟩, ?_⟩
  decide +kernel

/-- A core whose ring 15 is r, and whose s4 holds v. -/
def coreRing (r : Ring) (v : Word) : CoreSt := (coreR v).setRing 15 r

/-- w0 with a decision log of 256 entries at offset 2^24 of window 0x4. -/
def wLog : State := { w0 with ctxs := [(0, (w0.ctxOf 0).setCsr 0x3F2 0x4000000001000000)] }

theorem witness_RingAndLogWrites :
    (((base (coreR 0x0001800100000000)).core.ring 15).st = .disabled ∧ bits 0x0001800100000000 49 48 = 1 ∧
      1 ≤ bits 0x0001800100000000 43 32 ∧ bits 0x0001800100000000 47 44 ≤ 8 ∧
      bits 0x0001800100000000 14 0 * 64 + 2 ^ bits 0x0001800100000000 47 44 * bits 0x0001800100000000 43 32 * 64 ≤ 0x200000) ∧
    (((base (coreR 0x0000F00000000000)).core.ring 15).st = .disabled ∧ bits 0x0000F00000000000 49 48 = 0) ∧
    (((base (coreRing ⟨.active, 8, 1, 0, 7, 7, 6, []⟩ 0x0002800100000000)).core.ring 15).st = .active ∧ bits 0x0002800100000000 49 48 = 2 ∧
      (base (coreRing ⟨.active, 8, 1, 0, 7, 7, 6, []⟩ 0x0002800100000000)).core.ring 15 =
        { (base (coreRing ⟨.active, 8, 1, 0, 7, 7, 6, []⟩ 0x0002800100000000)).core.ring 15 with
          logn := bits 0x0002800100000000 47 44, slotsz := bits 0x0002800100000000 43 32, base := bits 0x0002800100000000 14 0 }) ∧
    ((base (coreRing ⟨.faulted, 8, 1, 0, 7, 7, 6, []⟩ 0x0000800100000000)).core.ring 15).st = .faulted ∧
    ((base (coreRing ⟨.active, 8, 1, 0, 7, 7, 7, []⟩ 0x0000800100000000)).core.ring 15).t = 7 ∧
    (8 ≤ bits 0x1801 15 8 ∧ bits 0x1801 15 8 ≤ 24 ∧ (w0.ctx.csr 0x3F3).toNat % 4 = 0 ∧ (w0.ctx.csr 0x3F5).toNat ≤ (w0.ctx.csr 0x3F4).toNat ∧
      (w0.ctx.csr 0x3F4).toNat - (w0.ctx.csr 0x3F5).toNat ≤ 2 ^ bits 0x1801 15 8 ∧ 0x0801 % 4 = 1 ∧ bits 0x0801 15 8 = 8 ∧ 0x0800 % 4 = 0 ∧ 0x0802 % 4 = 2 ∧
      bits (wLog.ctx.csr 0x3F2).toNat 63 60 = 4 ∧ (wLog.ctx.csr 0x3F2).toNat % 4096 = 0 ∧ (wLog.ctx.csr 0x3F3).toNat % 4 = 0 ∧
      pinned wLog wLog.ctxNo (wLog.ctx.csr 0x3F2).toNat (2 ^ 8 * 32) = true ∧ ¬bits (w0.ctx.csr 0x3F2).toNat 63 60 = 4) ∧
    ((w0.ctx.csr 0x3F5).toNat ≤ 256 ∧ 256 - (w0.ctx.csr 0x3F5).toNat ≤ 2 ^ bits (w0.ctx.csr 0x3F3).toNat 15 8) ∧
    (0 ≤ (w0.ctx.csr 0x3F4).toNat ∧ (w0.ctx.csr 0x3F4).toNat - 0 ≤ 2 ^ bits (w0.ctx.csr 0x3F3).toNat 15 8) := by
  decide +kernel

/-- w0 with copy queue 0 of its context as given. -/
def wQ (q : CopyQ) : State := { w0 with ctxs := [(0, { w0.ctxOf 0 with copyq := [(0, q)] })] }

theorem witness_OrderingWords : (1 ≤ (3#5).toNat ∧ (3#5).toNat ≤ 3 ∧ (4#5).toNat ≤ 4 ∧ (3#5 = 1 ∨ w0.core.releaseReady .C (4#5).toNat = true)) ∧
    tlExists (64#7).toNat = true ∧ w0.core.sreg 4 = 0 ∧
    ((wQ ⟨3, [], false, 0⟩).core.sreg 2 ≠ 0 ∧ 64 ≤ (64#7).toNat ∧
      ((wQ ⟨3, [], false, 0⟩).core.sreg 2).toNat ≤ ((wQ ⟨3, [], false, 0⟩).timeline (64#7).toNat).2) ∧ tlExists (4#7).toNat = true := by
  decide +kernel

/-- w0 with a device barrier that is OPEN, of two participants, for the gang of logical id 5, in phase 9. -/
def wB (c : CoreSt) : State :=
  { base (c.setCsr 0x011 5) with
    mem := (base c).mem ++ [(2 ^ 56, 1), (2 ^ 56 + 4, 9), (2 ^ 56 + 8, 2), (2 ^ 56 + 56, 5)] }

theorem witness_PhmarkWord : ready (wB core0) 3 ∧ (1#7 ≠ 0) ∧ (wB core0).c.stReady = true ∧
    (wB core0).barPtr ((wB core0).core.sreg 3).toNat 0x142 = .ok (2 ^ 56) ∧ (wB core0).barOpen (2 ^ 56) = true ∧ ((wB core0).bar (2 ^ 56)).phase = 9 ∧
    ((wB core0).core.marks.all (fun e => e.bar != 2 ^ 56) = true ∧ find? (wB core0).core.marked (2 ^ 56) = none) ∧
    ((9 - 1 + 2 ^ 32 - 9) % 2 ^ 32 ≥ 2 ^ 31 ∧ find? (wB { core0 with marked := [(2 ^ 56, 9)] }).core.marked (2 ^ 56) = some 9 ∧
      ((wB { core0 with marked := [(2 ^ 56, 9)] }).core.marks.filter (fun e => e.bar == 2 ^ 56)).length ≤ 1) ∧
    ((wB core0).bar (2 ^ 56)).mmask &&& (1#7).toNat = ((wB core0).bar (2 ^ 56)).mmask := by
  refine ⟨ready_of (by decide +kernel) 3, ?_⟩
  decide +kernel

/-- w0 whose window 0x4 has D pages from offset 2^31 on. -/
def wD (c : CoreSt) : State := baseP 0x27 c

theorem witness_AtomicWords :
    (atomForms 9 4 1 2 true = some (.acas 4 1 2 true, .acasq 4 1 2 true) ∧ ready w0 4 ∧ ready w0 1 ∧ ready w0 2 ∧ w0.c.stReady = true ∧
      ∃ t, access w0 w0.cur ⟨[4, 6, 7], none, 8, 8, true, 3⟩ none (w0.core.sreg 1).toNat = .ok t ∧
        (decide (w0.recordOf t = none) && okWith (w0.admitAt t 0x0A0) (fun _ => true) && !w0.logOn w0.ctxNo && !t.dpage) = true) ∧
    (atomForms 12 4 1 2 true = some (.afmax 4 1 2, .afmaxq 1 2) ∧
      ∃ t, access (wD core0) 0 ⟨[4, 6, 7], none, 4, 4, true, 3⟩ none 0x4000000080000000 = .ok t ∧
        (decide ((wD core0).recordOf t = none) && okWith ((wD core0).admitAt t 0x0A0) (fun _ => true) && t.dpage) = true) :=
  ⟨⟨rfl, ready_w0 4, ready_w0 1, ready_w0 2, by decide +kernel, ok_of (by decide +kernel)⟩, rfl, ok_of (by decide +kernel)⟩

/-- A task of context 0 in entry 0, alone on core 0. -/
def task0 : Task :=
  { ctx := 0, st := .running, kslot := 0, prio := 0, gang := 1, ctrl := 0, join := 1, lid := 5, frame := 0, succ := .list [],
    tiles := [], origin := .launch 0 0, die := 0, ticket := 0, level := 0, cores := [(0, 0)], started := [0], ended := [],
    aband := false, sealed := [], allocs := [], aredos := [], group := none }

/-- The core of that task. -/
def coreT : CoreSt := { core0 with task := some 0 }

theorem witness_ContributionAndWake :
    (∃ t, access (wB core0) 0 ⟨[4, 7], none, 8, 8, false, 0⟩ none 0x4000000000001000 = .ok t ∧ (t.ptr == 0x4000000000001000) = true) ∧
    (∃ t, access { wB (coreT.setCsr 0x3DA 0x7000000000000000) with tasks := [(0, task0)] } 0 ⟨[4, 7], none, 4, 4, true, 3⟩ none 0x4000000000001000 = .ok t ∧
      (decide ((wB (coreT.setCsr 0x3DA 0x7000000000000000)).recordOf t = none) &&
        decide ((wB (coreT.setCsr 0x3DA 0x7000000000000000)).dphb 0 = some (2 ^ 56)) &&
        okWith ((wB (coreT.setCsr 0x3DA 0x7000000000000000)).admitAt t 0x0A0) (fun g => g.isSome) &&
        decide ((wB (coreT.setCsr 0x3DA 0x7000000000000000)).aredoUse (engineDie (segAddr t.place.segs 0)) < 32768)) = true) ∧
    taskHere { wB (coreT.setCsr 0x3DA 0x7000000000000000) with tasks := [(0, task0)] } 0 task0 :=
  ⟨ok_of (by decide +kernel), ok_of (by decide +kernel), rfl, rfl⟩

/-- Waits for the doubleword at s1: with the mask s2 and s2 expected equal, it does not hold on zero memory; expected unequal it does. -/
def waitAt (cmp : Nat) : WaitEnt := ⟨0, 0, 0x4000000000001000, 0x1000, 3, cmp, 3⟩

/-- A core whose wake message stands first among those that are still to be sent. -/
def wSend : State := { base { core0 with wait := .sending 7 } with wakes := [(0, [0])] }

theorem witness_WaitaWord :
    ((base { core0 with wait := .woken 7 }).core.wait = .woken 7 ∧ ready (base { core0 with wait := .woken 7 }) 4) ∧
    (wSend.core.wait = .sending 7 ∧ wSend.mySend wSend.ctxNo wSend.cur = true ∧
      (∃ t, wSend.decision 4 ((wSend.core.sreg 1).toNat / 8 * 8) .C 0 0 = .ok t ∧
        (((t.dropSend t.cur).setCore { t.core with wait := .none }).core.wait == .none &&
          !((t.dropSend t.cur).setCore { t.core with wait := .none }).core.busy 4) = true)) ∧
    (w0.core.wait = .none ∧ ready w0 2 ∧ ready w0 1 ∧ (w0.core.sreg 1).toNat % 8 < 6 ∧
      (∃ t, access w0 w0.cur ⟨[4, 7], none, 8, 8, false, 0⟩ none ((w0.core.sreg 1).toNat / 8 * 8) = .ok t ∧ (segAddr t.place.segs 0 == 0x1000) = true) ∧
      w0.c.stReady = true ∧ w0.c.loadsDone w0.c.seq = true ∧ w0.c.stores.all (fun x => x.win != bits 0x4000000000001000 63 60) = true ∧
      w0.core.covered .C (.phys 0x4000000000001000 [⟨0x1000, 8⟩]) = false ∧
      waitHolds (waitAt 0) (BitVec.ofNat 64 (w0.readN 0x1000 8)) = false ∧ waitHolds (waitAt 1) (BitVec.ofNat 64 (w0.readN 0x1000 8)) = true ∧
      (w0.dieOf (engineDie 0x1000)).waits.length < 4096) ∧
    4096 ≤ ((w0.setDieOf 0 ⟨false, [], [], List.replicate 4096 (waitAt 0), []⟩).dieOf (engineDie 0x1000)).waits.length := by
  refine ⟨⟨rfl, ready_of (by decide +kernel) 4⟩, ⟨rfl, by decide +kernel, ok_of (by decide +kernel)⟩,
    ⟨by decide +kernel, ready_w0 2, ready_w0 1, by decide +kernel, ok_of (by decide +kernel), ?_⟩, by decide +kernel⟩
  decide +kernel

/-! ### Barriers, rings, tasks, tiles, copies, links -/

/-- wB with the barrier BROKEN. -/
def wBroken : State := withMem (wB core0) (2 ^ 56) [4]

/-- What an arrival gives satisfies a test. -/
def arriveWith (r : Arrive) (p : Nat → State → Bool) : Bool :=
  match r with
  | .ok ph u => p ph u
  | _ => false

theorem arrive_of {r : Arrive} {p : Nat → State → Bool} (h : arriveWith r p = true) : ∃ ph u, r = .ok ph u ∧ p ph u = true := by
  cases r with
  | ok ph u => exact ⟨ph, u, rfl, h⟩
  | refused => cases h
  | broken n => cases h

/-- The die's bit of the barrier's home, as BARA and BARAW touch it, in a state. -/
def touched0 (s : State) : State := s.touch s.ctxNo [engineDie (2 ^ 56)]

/-- wB CLOSING, as many arrivals as it has participants taken. -/
def wFull : State := withMem (wB core0) (2 ^ 56) [3]

theorem witness_DeviceBarrierWords :
    (ready (wB (coreR 8)) 4 ∧ (wB (coreR 8)).barOf 3 = .ok (2 ^ 56) ∧ (wB (coreR 8)).c.stReady = true ∧
      (wB (coreR 8)).core.releaseReady .C 3 = true ∧ (wB (coreR 8)).released 3 = true) ∧
    ((wB (coreR 8)).core.bwait = .none ∧ ((wB (coreR 8)).bar (2 ^ 56)).gang ≠ 0 ∧ ((wB (coreR 8)).bar (2 ^ 56)).gang = (wB (coreR 8)).lidOf 0 ∧
      (wB (coreR 8)).barWait (2 ^ 56) (((wB (coreR 8)).core.sreg 4).toNat % 2 ^ 32) = some 9 ∧
      (wB (coreR 9)).barWait (2 ^ 56) (((wB (coreR 9)).core.sreg 4).toNat % 2 ^ 32) = none ∧ (wB (coreR 9)).homeLost (2 ^ 56) = false) ∧
    (∃ ph u, (touched0 (wB (coreR 8))).arrive (2 ^ 56) 0 = .ok ph u ∧ (ph == 9 && u.core.cS.loads.isEmpty && u.core.cS.stores.isEmpty &&
      decide (u.c = (wB (coreR 8)).c) && u.barWait (2 ^ 56) ph == none && !u.homeLost (2 ^ 56)) = true) ∧
    (touched0 wBroken).arrive (2 ^ 56) 0 = .broken 9 ∧ (touched0 wFull).arrive (2 ^ 56) 0 = .refused := by
  refine ⟨⟨ready_of (by decide +kernel) 4, by decide +kernel⟩, by decide +kernel, arrive_of (by decide +kernel), ?_, ?_⟩
  · simp only [State.arrive, show ((touched0 wBroken).bar (2 ^ 56)).st = 4 by decide +kernel,
      show ((touched0 wBroken).bar (2 ^ 56)).phase = 9 by decide +kernel, if_true]
  · have h : ((touched0 wFull).bar (2 ^ 56)).st = 3 := by decide +kernel
    simp only [State.arrive, h, show ¬(3 = 4) by decide, show ¬(3 = 1) by decide, show ¬(3 = 2) by decide, or_false, false_and, if_false]

/-- The task of core 0 as a gang of cores 0 and 1, in phase 4 of group barrier 15. -/
def wGang (c : CoreSt) (b : GBar) : State :=
  { base { c with task := some 0 } with
    tasks := [(0, { task0 with gang := 2, cores := [(0, 0), (1, 1)], started := [0, 1], group := some ⟨.running, [0, 1], [(15, b)]⟩ })] }

theorem witness_GroupBarrierWords :
    (ready (wGang core0 ⟨4, [], [], false⟩) 4 ∧ (wGang core0 ⟨4, [], [], false⟩).groupBar (15#4).toNat = .ok (0, ⟨4, [], [], false⟩, 0) ∧
      (wGang core0 ⟨4, [], [], false⟩).c.stReady = true ∧ (wGang core0 ⟨4, [], [], false⟩).core.releaseReady .C 2 = true ∧
      (wGang core0 ⟨4, [], [], false⟩).core.bwait = .none ∧ (wGang core0 ⟨4, [], [], false⟩).released 2 = true ∧
      (wGang core0 ⟨4, [], [], false⟩).cur ∈ [0, 1]) ∧
    ((⟨4, [], [], false⟩ : GBar).arrive 0 = some (4, ⟨4, [0], [], false⟩) ∧ (⟨4, [1], [], false⟩ : GBar).arrive 0 = some (4, ⟨4, [1, 0], [], false⟩) ∧
      (⟨4, [0], [0], false⟩ : GBar).arrive 0 = none) ∧
    (⟨4, [], [], false⟩ : GBar).waitRes (((wGang (coreR 3) ⟨4, [], [], false⟩).core.sreg 4).toNat % 2 ^ 32) = some 4 ∧
    (⟨4, [], [], false⟩ : GBar).waitRes (((wGang (coreR 4) ⟨4, [], [], false⟩).core.sreg 4).toNat % 2 ^ 32) = none ∧
    ((find? (wGang core0 ⟨4, [], [], false⟩).tasks 0).map (fun t => ((⟨4, [1, 0], [], false⟩ : GBar).close t.live 2).waitRes 4) = some (some 5) ∧
      (find? (wGang core0 ⟨4, [], [], false⟩).tasks 0).map (fun t => ((⟨4, [0], [], false⟩ : GBar).close t.live 2).waitRes 4) = some none) := by
  refine ⟨⟨ready_of (by decide +kernel) 4, ?_⟩, ?_⟩ <;> decide +kernel

theorem witness_BarrierWaitsEnd :
    (ready (wB { core0 with bwait := .done 7 }) 4 ∧ Instr.barwDevice 4 3 ∈ [Instr.barwDevice 4 3, .barawDevice 4 3, .barwGroup 4 0, .barawGroup 4 0]) ∧
    ((wB { core0 with bwait := .stopped (.dev (2 ^ 56)) 8 }).barWait (2 ^ 56) 8 = some 9 ∧
      (wB { core0 with bwait := .stopped (.dev (2 ^ 56)) 9 }).barWait (2 ^ 56) 9 = none ∧
      (wB { core0 with bwait := .stopped (.dev (2 ^ 56)) 9 }).homeLost (2 ^ 56) = false) ∧
    ((wGang { core0 with bwait := .stopped (.grp 0 15) 4 } ⟨4, [0], [], false⟩).groupBarOf 0 15 = some (0, ⟨4, [0], [], false⟩, 0) ∧
      (⟨4, [0], [], false⟩ : GBar).waitRes 4 = none ∧ (⟨5, [], [], false⟩ : GBar).waitRes 4 = some 5) ∧
    ((wB { core0 with bwait := .wait (.dev (2 ^ 56)) 8 true }).coreOf 0).bwait = .wait (.dev (2 ^ 56)) 8 true := by
  refine ⟨⟨ready_of (by decide +kernel) 4, by simp⟩, ?_⟩
  decide +kernel

/-- w0 with queue 0 of a kind: its slots of 64 bytes at offset 0x2000, its tags at 0x3000. -/
def wR (c : CoreSt) (k t h q : Nat) (tag : Byte) : State :=
  { withMem (base c) 0x3000 [tag, 3] with
    queues := [(0, ⟨.active, k, 1, 1, 0, 0x4000000000002000, 0x4000000000003000, t, h, q, [], [], [], []⟩)] }

/-- s4 holds the pointer of slot 0. -/
def coreSlot : CoreSt := coreR 0x4000000000002000

/-- The queue DRAINING with one slot at its head, published VOID. -/
def wVoid : State := (wR coreSlot 1 1 0 0 6).setQueueOf 0 { (wR coreSlot 1 1 0 0 6).queueOf 0 with st := .draining }

/-- The states in which an RTAKE of these queues looks for its slot. -/
def seenAt (s : State) : State := State.qSkipVoid 0 (2 ^ (s.queueOf 0).logn) s

/-- The queue with a full slot, and another core that has waited at its head before. -/
def wTurn : State := (wR coreSlot 1 1 0 0 2).setQueueOf 0 { (wR coreSlot 1 1 0 0 2).queueOf 0 with waitT := [1] }

theorem witness_RingWords :
    (ready (wR coreSlot 1 0 0 0 3) 4 ∧ ready (wR coreSlot 1 0 0 0 3) 0 ∧ (wR coreSlot 1 0 0 0 3).c.stReady = true ∧
      (wR coreSlot 1 0 0 0 3).ringQueue ((wR coreSlot 1 0 0 0 3).core.sreg 0) false 1 = .ok 0) ∧
    (ready (wR coreSlot 1 1 0 0 2) 4 ∧ ready (wR coreSlot 1 1 0 0 2) 0 ∧ (wR coreSlot 1 1 0 0 2).core.ringOver .C = none ∧
      (wR coreSlot 1 1 0 0 2).c.ldReady = true ∧ (wR coreSlot 1 1 0 0 2).c.loadsDone (wR coreSlot 1 1 0 0 2).c.seq = true ∧
      (wR coreSlot 1 1 0 0 2).ringQueue ((wR coreSlot 1 1 0 0 2).core.sreg 0) true 1 = .ok 0 ∧
      ((seenAt (wR coreSlot 1 1 0 0 2)).queueOf 0).st = .active ∧
      (seenAt (wR coreSlot 1 1 0 0 2)).qReady ((seenAt (wR coreSlot 1 1 0 0 2)).queueOf 0) = true ∧
      (seenAt (wR coreSlot 1 1 0 0 2)).myTurn ((seenAt (wR coreSlot 1 1 0 0 2)).queueOf 0).waitT = true ∧
      ∃ v, (seenAt (wR coreSlot 1 1 0 0 2)).decision 2 0 .C 0 0 = .ok v ∧ (!v.core.busy 4) = true) ∧
    ((seenAt (wR coreSlot 1 1 0 0 3)).qReady ((seenAt (wR coreSlot 1 1 0 0 3)).queueOf 0) = false ∧ ready (seenAt (wR coreSlot 1 1 0 0 3)) 4 ∧
      (seenAt wTurn).qReady ((seenAt wTurn).queueOf 0) = true ∧ (seenAt wTurn).myTurn ((seenAt wTurn).queueOf 0).waitT = false ∧
      wVoid.ringQueue (wVoid.core.sreg 0) true 1 = .ok 0 ∧ ((seenAt wVoid).queueOf 0).st = .disabled) ∧
    ((wR coreSlot 1 1 0 0 3).c.stReady = true ∧ (wR coreSlot 1 1 0 0 3).ringQueue ((wR coreSlot 1 1 0 0 3).core.sreg 0) true 1 = .ok 0 ∧
      (wR coreSlot 1 1 0 0 3).c.hasRing 0 0 false = false ∧ (wR coreSlot 1 1 0 0 3).c.hasRing 0 0 true = false ∧
      (wR coreSlot 1 1 0 0 3).heldTicket ((wR coreSlot 1 1 0 0 3).queueOf 0) ((wR coreSlot 1 1 0 0 3).core.sreg 4).toNat 0 1 (tagClaimed 1) = some 0) ∧
    (wR coreSlot 1 1 1 0 2).heldTicket ((wR coreSlot 1 1 1 0 2).queueOf 0) ((wR coreSlot 1 1 1 0 2).core.sreg 4).toNat 0 1 (tagFull 1) = some 0 := by
  refine ⟨⟨ready_of (by decide +kernel) 4, ready_of (by decide +kernel) 0, by decide +kernel⟩,
    ⟨ready_of (by decide +kernel) 4, ready_of (by decide +kernel) 0, by decide +kernel, by decide +kernel, by decide +kernel, by decide +kernel,
      by decide +kernel, by decide +kernel, by decide +kernel, ok_of (by decide +kernel)⟩,
    ⟨by decide +kernel, ready_of (by decide +kernel) 4, by decide +kernel⟩, ?_⟩
  decide +kernel

theorem witness_QueueWaitsEnd :
    Instr.spawn 4 1 2 ∈ [Instr.rtake 4 1 true, .spawn 4 1 2] ∧
    (base { core0 with rwait := [(0, .over 0x090)] }).core.ringOver .C = some 0x090 := by
  refine ⟨by simp, ?_⟩; decide +kernel

/-- A record of GANG 1 and slot 0 at s1, whose join count is given; a bucket table at s4. -/
def wSJ (join : Nat) : State :=
  withMem (withMem (wR (coreR 0x4000000000001100) 0 0 0 0 3) 0x1000 (toLE 4 0x40000 ++ toLE 4 join))
    0x1100 (toLE 4 2 ++ toLE 4 0 ++ toLE 4 2 ++ toLE 4 1 ++ toLE 4 3 ++ toLE 4 3)

abbrev wS : State := wSJ 1

/-- What SPAWN of the record r makes there, step by step: the ticket claimed, the slot written, the record published, the task entered. -/
def claimedS (s : State) : State :=
  ((s.touchC (s.core.sreg 1).toNat 64).touchQueue 0).setQueueOf 0
    { s.queueOf 0 with t := ((s.queueOf 0).t + 1) % 2 ^ 32, waitC := (s.queueOf 0).waitC.filter (fun c => c != s.cur) }
def spawnedS (s : State) (r : List Byte) : State :=
  let p := ((claimedS s).sysWrite 0 ((s.queueOf 0).slotPtr 0) (claimedS s).runLid r).1.qPublish 0 0 false
  p.newTask 0 (taskOfRecord p.ctxNo r (.queue 0 0 false))

/-- Whether the record that SPAWN reads in this state is as the clauses ask, and what it makes of it can be read back. -/
def spawns (s : State) (join : Nat) (r : List Byte) : Bool :=
  s.recordOk r && fieldLE r 4 4 == join &&
    (match ((claimedS s).sysPlan 0 ((s.queueOf 0).slotPtr 0) r.length (claimedS s).runLid).2 with
      | .done => true
      | _ => false) &&
    !(spawnedS s r).core.busy 4 && !((((spawnedS s r).makeReady 0).checkHeads (spawnedS s r).ctxNo).core.busy 4)

theorem witness_TaskAndTableWords :
    (ready wS 4 ∧ ready wS 1 ∧ ready wS 0 ∧ wS.c.storesDone wS.c.seq = true ∧
      (∃ r, wS.readC (wS.core.sreg 1).toNat 64 64 0x050 = .ok r ∧ spawns wS 1 r = true) ∧
      (∃ r, (wSJ 0).readC ((wSJ 0).core.sreg 1).toNat 64 64 0x050 = .ok r ∧ spawns (wSJ 0) 0 r = true) ∧
      wS.ringQueue (wS.core.sreg 0) false 0 = .ok 0 ∧ wS.freeEntry = some 0 ∧ (wS.queueOf 0).full = false ∧
      wS.myTurn (wS.queueOf 0).waitC = true ∧ wS.core.ringOver .C = none ∧ wS.logOn wS.ctxNo = false) ∧
    ({ w0 with tasks := [(0, { task0 with st := .waiting })], gens := [] }.taskOf 0 0 = some 0 ∧
      ({ w0 with tasks := [(0, { task0 with st := .waiting })] }.decJoin 0).1 = .ok true ∧
      ({ w0 with tasks := [(0, { task0 with st := .waiting, join := 2 })] }.decJoin 0).1 = .ok false) ∧
    ((∀ x, x ∈ [Strm.L, .V, .M, .S] → ((base coreT).sm x).run = false) ∧ (base coreT).core.drained = true ∧ (base coreT).core.linkCause = none ∧
      find? { base coreT with tasks := [(0, task0)] }.tasks 0 = some task0) ∧
    ((∃ h, wS.readC (wS.core.sreg 4 + (0#16).signExtend 64).toNat 8 8 0x04A = .ok h ∧ (fieldLE h 0 4 == 2 && fieldLE h 4 4 == 0) = true) ∧
      (∃ bs, wS.readC (wrap64 (0x4000000000001100 + 8)) 16 8 0x04A = .ok bs ∧ (rising (buckets bs 2) &&
        (buckets bs 2).find? (fun e => decide ((wS.core.sreg 2).toNat ≤ e.1)) == some (3, 3) &&
        (buckets bs 2).find? (fun e => decide ((wS.core.sreg 1).toNat ≤ e.1)) == none && decide (0 ≤ 3 ∧ 3 < (wS.codeArray wS.cur .C).2)) = true)) := by
  refine ⟨⟨ready_of (by decide +kernel) 4, ready_of (by decide +kernel) 1, ready_of (by decide +kernel) 0, by decide +kernel,
    ok_of (by decide +kernel), ok_of (by decide +kernel), ?_⟩, ?_, ?_, ok_of (by decide +kernel), ok_of (by decide +kernel)⟩ <;> decide +kernel

/-- A version of a state. -/
def ver (st : VState) : Ver := ⟨st, .home, false, false, 0, 0, 0, .none, none, [], 0, [], false⟩

/-- w0 with one pool of F4, one slot, whose versions are as listed; the header of version 1 holds the format; s4 holds v. -/
def wV (next : Nat) (vs : List (Nat × Ver)) (v : Word) : State :=
  { baseP 0x2B (coreR v) with
    ctxs := [(0, { w0.ctxOf 0 with pools := [(0, { pool0 with fmt := 3, slots := [(0, ⟨next, vs⟩)] })] })]
    mem := (baseP 0x2B (coreR v)).mem ++ [(0x9000010C, 3)] }

/-- A version that the run with logical id 9 has a private copy of, and that run on core 0; s4 asks TLOOK for the data of version 1. -/
def verPriv : Ver := { ver .sealed with priv := [(9, 0)] }
def wPriv : State :=
  { wV 2 [(1, verPriv)] 0x100000001 with
    tasks := [(0, { task0 with lid := 9, origin := .rebuild })], cores := [(0, { coreR 0x100000001 with task := some 0 })] }

/-- The pool of wV with these versions. -/
def poolV (next : Nat) (vs : List (Nat × Ver)) : TPool := { pool0 with fmt := 3, slots := [(0, ⟨next, vs⟩)] }

theorem witness_TileLooks :
    ((wV 2 [(1, ver .sealed)] 0x100000001).tileOf 0 = .ok (0, 0, 0, poolV 2 [(1, ver .sealed)]) ∧
      (wV 2 [(1, ver .sealed)] 0x100000001).verOperand 4 2 = .ok (1, 1) ∧ (wV 2 [(1, ver .sealed)] 0x200000001).verOperand 4 2 = .ok (1, 2) ∧
      (wV 2 [(1, ver .sealed)] 0x100000001).runLid = none ∧ (poolV 2 [(1, ver .sealed)]).ver 0 1 = some (ver .sealed) ∧
      (poolV 2 [(1, ver .sealed)]).ver 0 2 = none) ∧
    (wPriv.tileOf 0 = .ok (0, 0, 0, poolV 2 [(1, verPriv)]) ∧ wPriv.verOperand 4 2 = .ok (1, 1) ∧ wPriv.runLid = some 9 ∧
      (poolV 2 [(1, verPriv)]).ver 0 1 = some verPriv ∧ verPriv.priv.any (fun r => r.1 == 9) = true ∧
      (∃ r, wPriv.privateCopy 0 0 1 9 = .ok r ∧ (r.1 == 0 && !r.2.core.busy 5) = true)) := by
  refine ⟨?_, ?_, ?_, ?_, ?_, ?_, ok_of ?_⟩ <;> decide +kernel

theorem witness_TileWords :
    (ready (wV 1 [] 0) 5 ∧ (∃ r, (wV 1 [] 0).tileOf 0 = .ok r ∧ (r.1 == 0 && r.2.1 == 0) = true) ∧ (wV 1 [] 0).runLid = none ∧
      (∃ u, (wV 1 [] 0).allocate 0 0 ((wV 1 [] 0).nextOrd 0 0) { pool0 with fmt := 3, slots := [(0, ⟨1, []⟩)] } 5 = .ok u ∧
        (u.core.sreg 5 == 1) = true)) ∧
    (∃ x, (wV 2 [(1, ver .filling)] 1).planSeal 0 0 4 = .ok x ∧ (match x.which with
      | .filling => x.ext
      | _ => false) = true) ∧
    ((wV 2 [(1, ver .retired)] 0x100000001).verOperand 4 1 = .ok (1, 1) ∧ (wV 2 [(1, ver .retired)] 0x100000001).released 3 = true ∧
      (⟨2, [(1, ver .retired)]⟩ : PSlot).state 1 = some .retired ∧ (⟨2, [(1, ver .sealed)]⟩ : PSlot).state 1 = some .sealed ∧
      (wV 2 [(1, ver .sealed)] 1).atHome (poolV 2 [(1, ver .sealed)]) 0 1 (ver .sealed) = .ok () ∧
      (((wV 2 [(1, ver .sealed)] 1).touch 0 [(wV 2 [(1, ver .sealed)] 1).verHome 0 (poolV 2 [(1, ver .sealed)]) 0 1 .home]).backed 0 1).isEmpty = true) ∧
    ((wV 2 [(1, ver .sealed)] 1).verOperand 4 0 = .ok (1, 0) ∧ ({ pool0 with slots := [(0, ⟨2, [(1, ver .sealed)]⟩)] } : TPool).ver 0 1 = some (ver .sealed) ∧
      (ver .sealed).repl = .none ∧
      (((wV 2 [(1, ver .sealed)] 1).touch 0 ((wV 2 [(1, ver .sealed)] 1).verDies 0 (poolV 2 [(1, ver .sealed)]) 0 1 .home)).startRepl 0 0 0 0 1).core.busy 4 =
        false ∧ (⟨2, [(1, ver .replicated)]⟩ : PSlot).state 1 = some .replicated) ∧
    ((wV 2 [(1, ver .sealed)] 1).verOperand 4 2 = .ok (1, 0) ∧ (wV 2 [(1, ver .sealed)] 0x300000001).verOperand 4 2 = .ok (1, 3)) := by
  refine ⟨⟨ready_of (by decide +kernel) 5, ok_of (by decide +kernel), by decide +kernel, ok_of (by decide +kernel)⟩, ok_of (by decide +kernel), ?_⟩
  decide +kernel

/-- A handle of KIND 0 on 4,096 bytes of the first tier. -/
def handle0 (pa : Nat) : Handle := ⟨0, true, true, false, false, 0, 0, 0, 4096, 0x4000000000000000 + pa, [⟨pa, 4096⟩]⟩

/-- A state with handles 0 and 1, and a copy command descriptor at s1. -/
def wX (s : State) (desc : List Byte) : State :=
  withMem { s with ctxs := [(0, { s.ctxOf 0 with handles := [(0, handle0 0x5000), (1, handle0 0x6000)] })] } 0x1000 desc

/-- One row of 4 bytes from handle 0 to handle 1, with a barrier pointer; guarded when the second number is 1. -/
def desc0 (barp ctrl rows : Nat) : List Byte :=
  toLE 4 ctrl ++ toLE 2 7 ++ toLE 2 0 ++ toLE 2 1 ++ toLE 2 0 ++ toLE 4 4 ++ toLE 24 0 ++ toLE 4 rows ++ toLE 4 0 ++ toLE 8 barp ++ toLE 8 0

/-- The state a copy command enters its queue in: nothing is owed, and queue 0 stands as it stood. -/
def entered (s u : State) : Bool := !u.core.busy 4 && decide (u.ctx.cq 0 = s.ctx.cq 0)

theorem witness_CopyWords :
    (ready (wX w0 (desc0 0 0 1)) 4 ∧
      (∃ r, (wX w0 (desc0 0 0 1)).planXfer 0 4 1 0 = .ok r ∧ (r.1 == 0 && entered (wX w0 (desc0 0 0 1)) r.2.2 && (match r.2.1 with
        | some x => x.bar == none
        | none => false)) = true) ∧
      (∃ r, (wX w0 (desc0 0 0 3)).planXfer 1 4 1 0 = .ok r ∧ r.2.1.isSome = true) ∧
      (∃ r, (wX w0 (desc0 0 0 1)).planXfer 2 4 1 0 = .ok r ∧ r.2.1.isSome = true) ∧
      (∃ r, (wX w0 (desc0 0 1 0)).planXfer 0 4 1 0 = .ok r ∧ (r.2.1 == none) = true)) ∧
    (∃ r, (wX (wB core0) (desc0 0x7000000000000000 0 1)).planXfer 0 4 1 0 = .ok r ∧ (match r.2.1 with
        | some x => x.bar == some (2 ^ 56) && (match r.2.2.addPend (2 ^ 56) x.bytes with
          | some v => entered (wX (wB core0) (desc0 0x7000000000000000 0 1)) v
          | none => false)
        | none => false) = true) ∧
    (∃ r, (wX w0 (toLE 8 0 ++ toLE 8 0x5000000000001000 ++ toLE 8 0x4000000000002000)).planCkpt 4 1 0 = .ok r ∧
      (r.1 == 0 && r.2.1.isEmpty && entered (wX w0 []) (r.2.2.2.keepVers r.2.1)) = true) ∧
    (∃ r, w0.xQueue 2 = .ok r ∧ (r.1 == 3) = true) :=
  ⟨⟨ready_of (by decide +kernel) 4, ok_of (by decide +kernel), ok_of (by decide +kernel), ok_of (by decide +kernel), ok_of (by decide +kernel)⟩,
    ok_of (by decide +kernel), ok_of (by decide +kernel), ok_of (by decide +kernel)⟩

/-- A group of two packages that context 0 owns, in a state. -/
def group0 (st : CgState) (joined : List Nat) : CGroup := ⟨1, st, 1, 2, 0, 0, 0, 4096, 0, [0, 1], joined, [], [], []⟩

/-- A state with the group in entry 0, and device 3 in reach. -/
def wL (st : CgState) (joined : List Nat) (desc : List Byte) : State :=
  { wX (base (coreR 3)) desc with
    fabric := { Fabric.zero with groups := [(0, group0 st joined)], reach := [(3, 4096, 0)] } }

/-- A link descriptor of COUNT c: source handle 0, destination handle d. -/
def ldesc0 (fmt c d : Nat) : List Byte := toLE 4 fmt ++ toLE 4 c ++ toLE 2 0 ++ toLE 2 d ++ toLE 52 0

theorem witness_LinkDataWords :
    (ready (wL .active [] (ldesc0 0 64 0)) 5 ∧ (wL .active [] (ldesc0 0 64 0)).linkGroup 0 = .ok (0, group0 .active []) ∧
      (wL .active [] (ldesc0 0 64 0)).linkAllowed (some (group0 .active [])) = .ok () ∧
      (∃ r, (wL .active [] (ldesc0 0 64 0)).linkPlan false 5 1 (fun x => need (decide (x.dsto + x.count ≤ (group0 .active []).minexp)) 0x184) = .ok r ∧
        (r.1.count == 64) = true) ∧
      (∃ r, (wL .active [] (ldesc0 1 1 1)).linkPlan true 5 1 (fun _ => need (decide ((wL .active [] (ldesc0 1 1 1)).lcoreOf 0 < (group0 .active []).loc)) 0x184) = .ok r ∧
        (r.1.count == 1) = true)) ∧
    (ready (wL .active [] (ldesc0 0 4096 0)) 4 ∧ (wL .active [] (ldesc0 0 4096 0)).linkAllowed none = .ok () ∧
      (∃ r, (wL .active [] (ldesc0 0 4096 0)).linkPlan false 5 1 (fun x =>
        match (wL .active [] (ldesc0 0 4096 0)).fabric.reach.find? (fun e => e.1 == ((wL .active [] (ldesc0 0 4096 0)).core.sreg 4).toNat % 2 ^ 20) with
        | none => stop 0x183
        | some (_, len, _) => need (decide (x.dsto + x.count ≤ len)) 0x185) = .ok r ∧ (r.1.count == 4096) = true) ∧
      (wL .active [] (ldesc0 0 4096 0)).fabric.reach.find? (fun e => e.1 == 3) = some (3, 4096, 0)) :=
  ⟨⟨ready_of (by decide +kernel) 5, by decide +kernel, by decide +kernel, ok_of (by decide +kernel), ok_of (by decide +kernel)⟩,
    ready_of (by decide +kernel) 4, by decide +kernel, ok_of (by decide +kernel), by decide +kernel⟩

theorem witness_GroupWords :
    (ready (wL .forming [0] []) 5 ∧ (wL .forming [0] []).linkGroup 0 = .ok (0, group0 .forming [0]) ∧
      (wL .forming [0] []).linkAllowed (some (group0 .forming [0])) = .ok () ∧ (group0 .forming [0]).joined.contains (group0 .forming [0]).rank = true) ∧
    (group0 .forming []).joined.contains (group0 .forming []).rank = false ∧ ((wL .active [0] []).linkOps 0 0).isEmpty = true :=
  ⟨⟨ready_of (by decide +kernel) 5, by decide +kernel, by decide +kernel, by decide +kernel⟩, by decide +kernel, by decide +kernel⟩

theorem witness_ScrubWord :
    { w0 with poison := [0] }.pageOf 0 0 = some 0 ∧ { w0 with poison := [0x21] }.pageOf 0 0 = none ∧
    access { w0 with poison := [0x21] } 0 ⟨[4], none, 65536, 65536, false, 0⟩ none 0x4000000000000000 =
      .error (.cause 0x084 0x4000000000000000 0x4100) ∧
    (ready w0 5 ∧ ready w0 1 ∧ bits ((w0.core.sreg 1).toNat / 65536 * 65536) 63 60 = 4 ∧ (5 : Reg) ≠ 0 ∧
      ∃ t, access w0 w0.cur ⟨[4], none, 65536, 65536, false, 0⟩ none 0x4000000000000000 = .ok t ∧ (t.ptr == 0x4000000000000000) = true) ∧
    access { w0 with poison := [0] } 0 ⟨[4], none, 65536, 65536, false, 0⟩ none 0x4000000000000000 =
      .error (.cause 0x084 0x4000000000000000 0x4100) :=
  ⟨by decide +kernel, by decide +kernel, by decide +kernel,
    ⟨ready_w0 5, ready_w0 1, by decide +kernel, by decide, ok_of (by decide +kernel)⟩, by decide +kernel⟩

/-! ### Engine control, loads and stores -/

/-- A 96-bit word with the fields that the witnesses vary. -/
def word (d a b : Desc) (fmt : BitVec 4 := 0) (var : BitVec 2 := 0) (pred : BitVec 3 := 0) : W96 :=
  { stall := 0, pneg := false, pred := pred, fmt := fmt, rm := 0, var := var, d := d, a := a, b := b }

/-- A matrix word with the fields that the witnesses vary. -/
def mword (asrc : BitVec 2 := 0) (pred : BitVec 3 := 0) (areg : BitVec 4 := 3) (breg : BitVec 4 := 2) : W192 :=
  { stall := 0, pneg := false, pred := pred, tile := 1, afmt := 0, bfmt := 0, asrc := asrc, btr := false, acc := false, shape := 0,
    gen := false, greg := 0, gexp := 0, reissue := 0, kth := 0, areg := areg, aoff := 0, arsc := 0, breg := breg, boff := 0, geom := 0,
    kcount := 1, chk := false, retry := false }

/-- An immediate operand. -/
def imm (n : BitVec 8) (r : BitVec 6 := 0) : Desc := .reg n false r

/-- A strided operand through an address register. -/
def via (n : BitVec 4) (o : BitVec 17 := 0) : Desc := .str n 0 o

/-- Every lane. -/
def all : Mask := BitVec.allOnes 128

/-- A word of a stream of w0 that predicate register p1, which holds 0, disables. -/
def offW : W96 := word (imm 0) (imm 0) (imm 0) 0 0 1

theorem witness_PredicatedOffWords :
    (engineWord w0 offW (mword 0 1) (.vadd offW) .V (hd96 offW) (due w0 .V) ∧
      engineWord w0 offW (mword 0 1) (.mret (mword 0 1)) .M (hd192 (mword 0 1)) (dueM w0) ∧
      engineWord w0 offW (mword 0 1) (.stb offW) .S (hd96 offW) (due w0 .S) ∧ engineWord w0 offW (mword 0 1) (.ldb offW) .L (hd96 offW) (due w0 .L) ∧
      engineWord { w0 with cst := .M } offW (mword 0 1) (.endStream offW) .M (hd96 offW) (due { w0 with cst := .M } .M)) ∧
    ((due w0 .V).sm .V).active .V (hd96 offW) = 0 ∧ ((due w0 .V).sm .V).short [rg 1 1] = none ∧
    ((dueM w0).sm .M).active .M (hd192 (mword 0 1)) = 0 ∧ ((dueM w0).sm .M).short [rg 1 1] = none := by
  refine ⟨⟨?_, ?_, ?_, ?_, ?_⟩, by decide +kernel⟩ <;>
    simp [engineWord, vectorWords, matrixWords, storeWords, loadWords, controlWords]

/-- A V stream of which a result for p1 is not yet visible. -/
def pendV : Pend := ⟨1, 1, all, all, .pred 1, 5, 7⟩
def owedV : StreamSt := { StreamSt.zero with sbck := true, pend := [pendV] }

theorem witness_ScoreboardCause :
    engineWord w0 offW (mword 0 1) (.vadd offW) .V (hd96 offW) (due w0 .V) ∧
    ((due (base { core0 with vS := owedV }) .V).sm .V).short [rg 1 1] = some pendV ∧
    ((due (base { core0 with vS := owedV }) .V).sm .V).active .V (hd96 offW) = 0 := by
  refine ⟨?_, by decide +kernel⟩
  simp [engineWord, vectorWords]

/-- w0 with the V stream's queues and an event filled. -/
def wE : State :=
  { withMem (base { core0 with vS := { StreamSt.zero with boq := [true], pq := [7], run := true }, events := [(5, 1)] }) 0x100034 [4] with cst := .V }

theorem witness_EngineControlWords :
    enabled wE .V (hd96 (word (imm 5) (imm 1) (via 0 3))) (fun _ => []) all (due wE .V) ∧
    ((due wE .V).core.doAwait .V 5 1).isSome = true ∧ (due wE .V).offTarget (via 0 3) = .ok 3 ∧
    ((due wE .V).sm .V).boq = true :: [] ∧ ((due wE .V).sm .V).pq = 7 :: [] ∧ (due wE .V).core.releaseReady .V 3 = true ∧
    ((due wE .V).sm .V).loadsDone ((due wE .V).sm .V).seq = true := by
  refine ⟨⟨rfl, ?_, ?_, ?_⟩, ?_⟩ <;> decide +kernel

theorem witness_IndexAndOutcomeWords :
    enabled wE .V (hd96 (word (imm 7) (imm 7) (via 0 0))) (fun _ => [rg 2 7]) all (due wE .V) ∧
    ((due wE .V).sm .V).ireg 7 - 1 ≠ 0 ∧ (due wE .V).offTarget (via 0 0) = .ok 0 ∧
    (((due (base core0) .V).sm .V).setIreg 7 1).ireg 7 - 1 = 0 ∧
    enabled wE .V (hd96 (word (imm 3) (imm 7) (imm 0))) (fun _ => [rg 1 7]) all (due wE .V) ∧
    ((due wE .V).sm (engineOf 3)).boq.length < 32 := by
  refine ⟨⟨rfl, ?_, ?_, ?_⟩, ?_, ?_, ?_, ⟨rfl, ?_, ?_, ?_⟩, ?_⟩ <;> decide +kernel

/-- LDB of one row from window 0x4 to the W-buffer; as LDC it converts to BF16. -/
def ldbW : W96 := word (via 2) (via 1) (imm 1) 0 1

/-- LDZ of 128 rows of s2 to the A-buffer. -/
def ldzW : W96 := word (via 3) (.reg 0 true 2) (imm 128)

theorem witness_BlockLoadWords :
    enabled w0 .L (hd96 ldbW) (blockReads ldbW) all (due w0 .L) ∧ ((due w0 .L).sm .L).ldReady = true ∧
    okWith ((due w0 .L).rowPlan ((due w0 .L).blk .L ldbW.a 0) 0 1) (fun p => p.1 == [some 0] &&
      okWith ((due w0 .L).loadRows ((due w0 .L).blk .L ldbW.a 0) ((due w0 .L).blk .L ldbW.d 0) [4, 5, 6] p.1)
        (fun r => r.length == 1) &&
      okWith ((due w0 .L).loadRows ((due w0 .L).blk .L ldbW.a 0) ((due w0 .L).blk .L ldbW.d 1) [4, 5, 6] p.1)
        (fun r => r.length == 1)) = true ∧
    enabled w0 .L (hd96 ldzW) (aregReads [ldzW.d]) all (due w0 .L) ∧
    okWith ((due w0 .L).blkRows ((due w0 .L).blk .L ldzW.d 0) [1, 2] true 1 (List.range 128)) (fun l => l.length == 128) = true ∧
    enabled w0 .L (hd96 ldbW) (aregReads [ldbW.a]) all (due w0 .L) := by
  refine ⟨⟨rfl, ?_, ?_, ?_⟩, ?_, ?_, ⟨rfl, ?_, ?_, ?_⟩, ?_, ⟨rfl, ?_, ?_, ?_⟩⟩ <;> decide +kernel

/-- A shape record at s1 in state st, with one boundary. -/
def shape (st : Nat) : List Byte :=
  toLE 4 0xCA945A01 ++ toLE 1 st ++ toLE 3 0 ++ toLE 4 1 ++ toLE 4 1 ++ toLE 8 0x4000000000002000 ++ toLE 16 0 ++ toLE 8 0

/-- w0 with a shape record. -/
def wSh (st : Nat) : State := withMem w0 0x1000 (shape st)

/-- A context with a pool of F4 whose version 1 is SEALED; its data and its header are zero. -/
def wSeal : State := wV 2 [(1, ver .sealed)] 1

theorem crc64_zeros (n : Nat) : crc64 (List.replicate n 0) = 0 := by
  induction n with
  | zero => rfl
  | succ n ih =>
    have h : crcByte 0 0 = 0 := by decide
    rw [crc64, List.replicate_succ, List.foldl_cons, h]
    exact ih

theorem getBytes_far (m : List (Nat × Byte)) (a n : Nat) (h : m.all (fun e => decide (e.1 < a ∨ a + n ≤ e.1)) = true) :
    getBytes m a n = List.replicate n 0 := by
  have hl : ∀ b, a ≤ b → b < a + n → look 0 m b = 0 := by
    intro b hb hn
    induction m with
    | nil => rfl
    | cons e r ih =>
      obtain ⟨k, v⟩ := e
      simp only [List.all_cons, Bool.and_eq_true, decide_eq_true_eq] at h
      have : k ≠ b := by omega
      rw [look, if_neg this]
      exact ih (by simpa using h.2)
  clear h
  induction n generalizing a with
  | zero => rfl
  | succ n ih => rw [getBytes, hl a (Nat.le_refl a) (by omega), ih (a + 1) (fun b hb hn => hl b (by omega) (by omega)), List.replicate_succ]

/-- A gather with indexes in v1, and an LDT with the handle in s0 and the version in s4. -/
def ldgW : W96 := word (imm 0 2) (via 1) (imm 0 1)
def ldtW : W96 := word (via 3) (.reg 0 true 0) (.reg 0 true 4) 3

theorem witness_GatherTileAndShapeLoads :
    ((due w0 .L).sm .L).ldReady = true ∧ ((due w0 .L).sm .L).gathers 1 = false ∧ (due w0 .L).core.shaping 0 = false ∧ (due w0 .L).spareOf 0 = .ok nan32 ∧
    enabled w0 .L (hd96 ldgW) (aregReads [ldgW.a]) all (due w0 .L) ∧
    okWith ((due w0 .L).laneTgts .L ldgW.a 0 [4, 5, 6] false all ((due w0 .L).core.vregNew 1)) (fun g => g.length == 128) = true ∧
    (((due wSeal .L).sm .L).ldReady = true ∧ (due wSeal .L).bcReg ldtW.a = 0 ∧ (due wSeal .L).bcReg ldtW.b % 2 ^ 32 = 1 ∧
      okWith ((due wSeal .L).tilePlace 0 0 1 3) (fun r => r.1.segs == [⟨0x80002000, 8192⟩]) = true ∧
      okWith ((due wSeal .L).ldtRows ldtW) (fun l => l.length == 128) = true ∧
      enabled wSeal .L (hd96 ldtW) (aregReads [ldtW.d]) all (due wSeal .L) ∧ enabled wSeal .L (hd96 ldtW) (fun _ => []) all (due wSeal .L) ∧
      ((due wSeal .L).core.tile 0).f = false) ∧
    (enabled (wSh 1) .L (hd96 ldgW) (aregReads [ldgW.a]) all (due (wSh 1) .L) ∧ ((due (wSh 1) .L).sm .L).ldReady = true ∧
      okWith (access (due (wSh 1) .L) 0 ⟨[4], none, 256, 256, false, 0⟩ (some ((due (wSh 1) .L).core.aregOf .L 1)) 0x4000000000001000)
        (fun t => t.ptr == 0x4000000000001000) = true) := by
  refine ⟨?_, ?_, ?_, ?_, ⟨rfl, ?_, ?_, ?_⟩, ?_, ⟨?_, ?_, ?_, ?_, ?_, ⟨rfl, ?_, ?_, ?_⟩, ⟨rfl, ?_, ?_, ?_⟩, ?_⟩, ⟨rfl, ?_, ?_, ?_⟩, ?_⟩ <;> decide +kernel

/-- w0 with ring 0 of core 0: two slots of 64 bytes at offset 0 of the A-buffer; a5 points at slot 0. -/
def wRing (t h q : Nat) (tags : List (Nat × Nat)) (st : RingState := .active) : State :=
  base { core0 with rings := [(0, ⟨st, 1, 1, 0, t, h, q, tags⟩)], aregs := [(5, ⟨0x2000000000000000, 0, 0⟩)] }

/-- A ring word that names a5. -/
def ringW : W96 := word (imm 0) (imm 0) (via 5)

theorem witness_ScratchpadRingWords :
    (due (wRing 0 0 0 []) .L).core.ringOver .L = none ∧
    (enabled (wRing 0 0 0 []) .L (hd96 ringW) (fun _ => [rg 3 5]) all (due (wRing 0 0 0 []) .L) ∧
      diff32 ((due (wRing 0 0 0 []) .L).core.ring 0).t ((due (wRing 0 0 0 []) .L).core.ring 0).q < 2) ∧
    (enabled (wRing 1 0 0 [(0, 2)]) .S (hd96 ringW) (fun _ => [rg 3 5]) all (due (wRing 1 0 0 [(0, 2)]) .S) ∧
      0 < diff32 1 0 ∧ tagFull 1 0 (((due (wRing 1 0 0 [(0, 2)]) .S).core.ring 0).tag 0) = true) ∧
    ((due (wRing 1 0 0 []) .L).core.ring 0).held ((due (wRing 1 0 0 []) .L).core.aregOf .L 5).base.toNat 0 1 (tagClaimed 1) = .ok 0 ∧
    ((due (wRing 1 1 0 [(0, 2)] .draining) .S).core.ring 0).held ((due (wRing 1 1 0 [(0, 2)] .draining) .S).core.aregOf .S 5).base.toNat 0 1
      (tagFull 1) = .ok 0 ∧
    ((due (wRing 1 0 0 []) .L).sm .L).stReady = true ∧ ((due (wRing 1 0 0 []) .L).sm .L).loadsDone ((due (wRing 1 0 0 []) .L).sm .L).seq = true := by
  refine ⟨?_, ⟨⟨rfl, ?_, ?_, ?_⟩, ?_⟩, ⟨⟨rfl, ?_, ?_, ?_⟩, ?_⟩, ?_⟩ <;> decide +kernel

/-- A core whose S stream has waited at ring 0, which left ACTIVE. -/
def wOver : State := base { core0 with rwait := [(4, .over 0x044)] }

theorem witness_ScratchpadWaitsEnd :
    enabled wOver .S (hd96 ringW) (fun _ => [rg 3 5]) all (due wOver .S) ∧ (due wOver .S).core.ringOver .S = some 0x044 := by
  refine ⟨⟨rfl, ?_, ?_, ?_⟩, ?_⟩ <;> decide +kernel

/-- A store of one row of the A-buffer to window 0x4; a tile register as the source; STADD and STAXPY take the same operands. -/
def stW : W96 := word (via 1) (via 3) (imm 1)
def cvtW : W96 := word (via 1) (imm 1) (imm 128) 1

/-- A tile of zeros that is closed and valid. -/
def tileV : Tile := { Tile.zero with stat := 1 }

/-- w0 with tile t1 valid. -/
def wTile (s : CoreSt → State) : State := s { core0 with tiles := [(1, tileV)] }

theorem witness_BlockStoreWords :
    (enabled w0 .S (hd96 stW) (aregReads [stW.d, stW.a]) all (due w0 .S) ∧ ((due w0 .S).sm .S).stReady = true ∧
      okWith ((due w0 .S).storeRows ((due w0 .S).blk .S stW.a 0) ((due w0 .S).blk .S stW.d 0) 1 1) (fun l => l.1.length == 1 &&
        okWith ((due w0 .S).rowsElems (due w0 .S).numS 0 l.1) (fun e => e.1.length == 1) &&
        okWith ((due w0 .S).cvtRows stW 0 (l.1.map (fun e => (e.1, e.2.1, elems 0 e.2.2))) l.2.2 l.2.1 (fun a b c => c.cvcnt a b)
          (postUpdates (due w0 .S).core .S [stW.d, stW.a])) (fun _ => true)) = true) ∧
    (enabled (wTile base) .S (hd96 cvtW) (aregReads [cvtW.d]) all (due (wTile base) .S) ∧ tileV.fold.f = false ∧ tileV.fold.v = true ∧
      tileV.fold.int = false ∧ ((due (wTile base) .S).core.tile 1).fold.sumsOk allRows = .ok () ∧
      okWith ((due (wTile base) .S).blkRows ((due (wTile base) .S).blk .S cvtW.d 1) [4, 5, 6] true 1 (List.range 128)) (fun ds =>
        okWith ((due (wTile base) .S).cvtRows cvtW 0 (((List.range 128).zip ds).map (fun e => (128 * e.1, e.2, tileV.fold.codes e.1))) (diesOf ds) tileV.fold.cal
          (fun a b c => c.setTile 1 (tileV.fold.count a b 0)) (postUpdates (due (wTile base) .S).core .S [cvtW.d])) (fun _ => true)) = true) := by
  refine ⟨⟨⟨rfl, ?_, ?_, ?_⟩, ?_⟩, ⟨rfl, ?_, ?_, ?_⟩, ?_⟩ <;> decide +kernel

/-- wV with tile t1 valid: version 1 of a pool of F4, with the handle in s0 and the version in s4. -/
def wStt (st : VState) : State :=
  { wV 2 [(1, ver st)] 1 with cores := [(0, { coreR 1 with tiles := [(1, tileV)] })] }

/-- The same with a pool of BF16. -/
def wSttB (st : VState) : State :=
  { wStt st with
    ctxs := [(0, { w0.ctxOf 0 with pools := [(0, { pool0 with fmt := 1, slots := [(0, ⟨2, [(1, ver st)]⟩)] })] })]
    mem := (baseP 0x2B core0).mem ++ [(0x9000010C, 1)] }

/-- STT of rows of the A-buffer, and of tile t1. -/
def sttW : W96 := word (.reg 0 true 0) (.reg 0 true 4) (via 3) 3
def sttT : W96 := word (.reg 0 true 0) (.reg 0 true 4) (imm 1) 1

theorem witness_TileStoreWords :
    (enabled (wStt .filling) .S (hd96 sttW) (aregReads [sttW.b]) all (due (wStt .filling) .S) ∧ ((due (wStt .filling) .S).sm .S).stReady = true ∧
      okWith ((due (wStt .retired) .S).sttVer 0 1 3) (fun r => r.2.2 == none) = true ∧
      okWith ((due (wStt .filling) .S).blkRows ((due (wStt .filling) .S).blk .S sttW.b 3) [2] false 0 (List.range 128)) (fun rows =>
        okWith ((due (wStt .filling) .S).sttVer 0 1 3) (fun r => match r.2.2 with
          | some (fr, tag) => okWith ((due (wStt .filling) .S).sttWrite 3 r.1 r.2.1 1 fr tag
              { rows := rows.map (fun r => (due (wStt .filling) .S).readPlace 0 (fmtBytes 3 128) r.place), scales := none, sat := 0, nan := 0,
                bound := rows.foldl (fun b r => maxBound b (tagRead (due (wStt .filling) .S).core.atags r.place.aoff (fmtBytes 3 128))) 0 }
              none (diesOf rows) (postUpdates (due (wStt .filling) .S).core .S [sttW.b])) (fun _ => true)
          | none => false)) = true) ∧
    (enabled (wSttB .filling) .S (hd96 sttT) (fun _ => []) all (due (wSttB .filling) .S) ∧ (due (wSttB .filling) .S).core.tile 1 = tileV ∧
      tileV.f = false ∧ tileV.v = true ∧ tileV.int = false ∧ tileV.sumsOk allRows = .ok () ∧
      okWith ((due (wSttB .retired) .S).sttVer 0 1 1) (fun r => r.2.2 == none) = true ∧
      okWith ((due (wSttB .filling) .S).sttVer 0 1 1) (fun r => match r.2.2 with
        | some (fr, tag) => okWith (((due (wSttB .filling) .S).setCore ((due (wSttB .filling) .S).core.setTile 1
            (tileV.fold.count (tileV.fold.image 1 0).sat (tileV.fold.image 1 0).nan 0))).sttWrite 1 r.1 r.2.1 1 fr tag
              (tileV.fold.image 1 0) (some 1) [] []) (fun _ => true)
        | none => false) = true) := by
  refine ⟨⟨⟨rfl, ?_, ?_, ?_⟩, ?_⟩, ⟨rfl, ?_, ?_, ?_⟩, ?_⟩ <;> decide +kernel

/-- A scatter and an atomic add of v2 at the indexes of v1; an update of one row. -/
def scW : W96 := word (via 1) (imm 0 2) (imm 0 1)

theorem witness_ScatterAndUpdateWords :
    ((due w0 .S).sm .S).stReady = true ∧ (due w0 .S).logOn (due w0 .S).ctxNo = false ∧
    (enabled w0 .S (hd96 scW) (aregReads [scW.d]) all (due w0 .S) ∧
      okWith ((due w0 .S).laneTgts .S scW.d 0 [4, 5, 6] true all ((due w0 .S).core.vregNew 1)) (fun l => l.length == 128 &&
        l.length == 128) = true) ∧
    okWith ((due w0 .S).laneEach .S scW.d 0 ⟨[4, 5, 6], none, 4, 1, true, 5⟩ all ((due w0 .S).core.vregNew 1)
      (fun i t => ((due w0 .S).pieceElem (due w0 .S).numS i t (packElems 0 [0])).map (fun e => (i, t, e)))) (fun l =>
        l.length == 128 && l.all (fun e => e.2.2.isSome)) = true ∧
    okWith ((due w0 .S).laneEach .S scW.d 0 ⟨[4, 6, 7], none, 4, 1, true, 3⟩ all ((due w0 .S).core.vregNew 1) (fun i t => do
        noDPage 4 [(i, t)]
        (due w0 .S).atomLane 10 ((due w0 .S).core.vregNew 2) (i, t))) (fun els => els.length == 128) = true ∧
    (enabled w0 .S (hd96 stW) (aregReads [stW.d, stW.a]) all (due w0 .S) ∧
      okWith ((due w0 .S).storeRows ((due w0 .S).blk .S stW.a 0) ((due w0 .S).blk .S stW.d 0) 1 2) (fun l =>
        okWith (noDPage 4 (l.1.map (fun e => (e.1, e.2.1)))) (fun _ => true) &&
        okWith ((l.1.flatMap (fun r => ((List.range 128).zip (elems 0 r.2.2)).map (fun e => (r.1 + e.1, r.2.1.slice (e.1 * 4) 4, e.2)))).mapM
          (fun e => do
            let g ← atElem e.1 e.2.1.ptr 64 ((due w0 .S).admitAt e.2.1 0x0A0)
            (.ok (e.1, e.2.1, g.map (fun tag => (⟨e.2.1.place, .fma 0 0 0x3F800000 (fp32Of 0 nan32 e.2.2), tag, e.1⟩ : StoreElem))) :
              Res (Nat × Tgt × Option StoreElem)))) (fun els => els.length == 128)) = true) := by
  refine ⟨?_, ?_, ⟨⟨rfl, ?_, ?_, ?_⟩, ?_⟩, ?_, ?_, ⟨rfl, ?_, ?_, ?_⟩, ?_⟩ <;> decide +kernel

/-- A core whose moments lie 4 KiB above their weights. -/
def coreOpt : CoreSt := { core0 with csrs := [(0x3D1, 0x1000)] }

theorem witness_OptimiserWords :
    enabled (base coreOpt) .S (hd96 stW) (aregReads [stW.d, stW.a]) all (due (base coreOpt) .S) ∧
    ((due (base coreOpt) .S).sm .S).stReady = true ∧ ((due (base coreOpt) .S).sm .S).ldReady = true ∧
    okWith ((due (base coreOpt) .S).optRows stW true) (fun l => okWith ((optTargets l).mapM (fun e =>
      (due (base coreOpt) .S).optStore (due (base coreOpt) .S).numS e.1 e.2.1 e.2.2)) (fun els => els.length == 384)) = true ∧
    okWith ((due (base coreOpt) .S).optRows stW false) (fun l => okWith ((optTargets l).mapM (fun e =>
      (due (base coreOpt) .S).optStore (due (base coreOpt) .S).numS e.1 e.2.1 e.2.2)) (fun els => els.length == 256)) = true := by
  refine ⟨⟨rfl, ?_, ?_, ?_⟩, ?_⟩ <;> decide +kernel

theorem witness_OptimiserValues :
    (List.replicate 6 (List.replicate 128 (0 : W32))).length = (if true then 3 else 2) * 2 ∧ (1 < 2 ∧ 127 < 128) ∧
    ((⟨0, 1, 0, .opt true [] [] [] 0 [], []⟩ : LoadEnt).fin = .opt true [] [] [] 0 [] ∧
      ([] : List (List W32)) = ([] : List (List Byte)).map (fun b => (elems 0 b).map (fun c => BitVec.ofNat 32 c))) := by decide +kernel

/-! ### The vector and matrix streams -/

/-- v5 from v2 and v3; from the A-buffer and a broadcast to the A-buffer. -/
def vW (fmt : BitVec 4 := 0) (var : BitVec 2 := 0) : W96 := word (imm 0 5) (imm 0 2) (imm 0 3) fmt var
def vS (fmt : BitVec 4 := 0) (var : BitVec 2 := 0) : W96 := word (via 3 2) (via 3) (.reg 0 true 2) fmt var

/-- The state in which a V word issues in w0. -/
def dV : State := due w0 .V

/-- A vector word of w0 issues, whatever registers it reads: nothing there is owed. -/
theorem enV (w : W96) (hp : w.pred = 0 ∧ w.pneg = false) (f : Mask → List Rg) : enabled w0 .V (hd96 w) f all dV := by
  have h : (dV.sm .V).sbck = false := by decide +kernel
  refine ⟨rfl, ?_, by decide, ?_⟩
  · simp [StreamSt.active, hd96, hp, StreamSt.preg, all]
  · show StreamSt.short (dV.sm .V) _ = none
    simp [StreamSt.short, h]

theorem witness_LanewiseWords :
    ((.vfma (vW), 4, true, true, fun a b d => ffma (vW).rm.toNat a b d) ∈ laneOps (vW)) ∧
    (enabled w0 .V (hd96 (vW)) (fun m => srcRegs m (vW).a ++ srcRegs m (vW).b ++ dstRegs m (vW).d true) all dV ∧
      okWith (vsrc dV (vW).a) (fun _ => true) = true ∧ okWith (vsrc dV (vW).b) (fun _ => true) = true ∧ vdst dV (vW).d 0 = .ok none) ∧
    (enabled w0 .V (hd96 (vS)) (fun m => srcRegs m (vS).a ++ srcRegs m (vS).b ++ dstRegs m (vS).d true) all dV ∧
      okWith (vsrc dV (vS).a) (fun _ => true) = true ∧ okWith (vsrc dV (vS).b) (fun a => a.1.getD 127 0 == 3) = true ∧
      vdst dV (vS).d 0 = .ok (some 8)) := by
  refine ⟨by simp [laneOps], ⟨enV _ ⟨rfl, rfl⟩ _, ?_⟩, ⟨enV _ ⟨rfl, rfl⟩ _, ?_⟩⟩ <;> decide +kernel

theorem witness_CompareWords :
    ((.vicmpltu (vW), 2, fun a b => decide (a.toNat < b.toNat)) ∈ compareOps (vW)) ∧
    (enabled w0 .V (hd96 (vW)) (fun m => srcRegs m (vW).a ++ srcRegs m (vW).b ++ [⟨1, (vW).d.imm, m⟩]) all dV ∧
      okWith (vsrc dV (vW).a) (fun _ => true) = true ∧ okWith (vsrc dV (vS).b) (fun _ => true) = true) := by
  exact ⟨by simp [compareOps], enV _ ⟨rfl, rfl⟩ _, by decide +kernel⟩

theorem witness_ConversionWords :
    (enabled w0 .V (hd96 (vS 1)) (fun m => srcRegs m (vS 1).a ++ dstRegs m (vS 1).d false) all dV ∧
      okWith (vread dV (vS 1).a 0 [2, 3]) (fun _ => true) = true ∧ vdst dV (via 3 2) 1 = .ok (some 4)) ∧
    okWith (vread dV (via 3) 6 [2]) (fun _ => true) = true ∧ okWith (vsrc dV (vW).a) (fun _ => true) = true ∧
    enabled w0 .V (hd96 (vW 1)) (fun m => srcRegs m (vW).a ++ srcRegs m (vW).b ++ dstRegs m (vW).d true) all dV := by
  refine ⟨⟨enV _ ⟨rfl, rfl⟩ _, ?_⟩, ?_, ?_, enV _ ⟨rfl, rfl⟩ _⟩ <;> decide +kernel

theorem witness_QuantisationWords :
    enabled w0 .V (hd96 (vS 2)) (fun m => srcRegs m (vS 2).a ++ dstRegs m (vS 2).d false ++ srcRegs m (via 3)) all dV ∧
    okWith (vsrc dV (vS 2).a) (fun _ => true) = true ∧ byteOp dV (via 3) true = .ok 0 ∧ vdst dV (via 3 2) 2 = .ok (some 2) ∧
    okWith (vread dV (via 3) 2 [2, 3]) (fun _ => true) = true ∧ byteOp dV (via 3) false = .ok 0 ∧ dV.spareOf 0 = .ok nan32 := by
  exact ⟨enV _ ⟨rfl, rfl⟩ _, by decide +kernel⟩

theorem witness_ReductionAndScanWords :
    ((.vscanx (vW), fun m a => scan (vW).fmt.toNat (vW).rm.toNat true m a) ∈ reduceOps (vW)) ∧
    enabled w0 .V (hd96 (vW)) (fun m => srcRegs m (vW).a) all dV ∧ okWith (vsrc dV (vW).a) (fun _ => true) = true := by
  exact ⟨by simp [reduceOps], enV _ ⟨rfl, rfl⟩ _, by decide +kernel⟩

theorem witness_SortWords :
    enabled w0 .V (hd96 (vW)) (fun m => srcRegs m (vW).a ++ srcRegs m (vW).b) all dV ∧
    enabled w0 .V (hd96 (vW)) (fun m => [⟨0, 2, m⟩, ⟨0, 3, m⟩, ⟨0, 3, m⟩, ⟨0, 4, m⟩]) all dV ∧
    (sortPairs 5 1 (truePairs 3 [1, 2] [8, 9])).length = 2 := by
  exact ⟨enV _ ⟨rfl, rfl⟩ _, enV _ ⟨rfl, rfl⟩ _, by decide +kernel⟩

theorem witness_MoveWords :
    (∀ f, enabled w0 .V (hd96 (vW)) f all dV) ∧ okWith (vsrc dV (vW).a) (fun _ => true) = true ∧ okWith (vsrc dV (vW).b) (fun _ => true) = true :=
  ⟨fun f => enV _ ⟨rfl, rfl⟩ f, by decide +kernel, by decide +kernel⟩

theorem witness_StreamAndRandomWords :
    (∀ f, enabled w0 .V (hd96 (vW)) f all dV) ∧ ((dV.sm .V).ireg 0).toNat ≤ 128 ∧
    (((dV.sm .V).setIreg 0 128).ireg 0).toNat = 128 ∧ (((dV.sm .V).setIreg 0 256).ireg 0).toNat ≤ 256 ∧
    okWith (vsrc dV (vW).a) (fun _ => true) = true ∧ okWith (vsrc dV (vW).b) (fun _ => true) = true :=
  ⟨fun f => enV _ ⟨rfl, rfl⟩ f, by decide +kernel⟩

/-- w0 with shape slot 3, whose record with two segments stands in the blaze cache. -/
def wBlz (m : StreamSt) : State :=
  base { core0 with slots := [(3, (0x4000000000001000, 1))], vS := m, blaze := [⟨0x4000000000001000, 1, 1, 0, 0, [100, 128]⟩] }

theorem witness_SegmentWords :
    enabled (wBlz .zero) .V (hd96 (word (imm 3 5) (imm 3 2) (imm 0))) (fun m => srcRegs m (imm 3 2) ++ [rg 2 1]) all (due (wBlz .zero) .V) ∧
    (due (wBlz .zero) .V).slotRec 3 = .ok ⟨0x4000000000001000, 1, 1, 0, 0, [100, 128]⟩ ∧
    okWith (vsrc (due (wBlz .zero) .V) (imm 3 2)) (fun _ => true) = true ∧ segOf [100, 128] ((due (wBlz .zero) .V).segPos 0) = some 0 ∧
    segOf [100, 128] ((due (wBlz .zero) .V).segPos 127) = some 1 ∧
    segOf [100, 128] ((due (wBlz (StreamSt.zero.setIreg 1 1)) .V).segPos 127) = none ∧
    enabled (wBlz .zero) .V (hd96 (word (imm 3 5) (imm 3 2) (imm 0))) (fun _ => [rg 2 0, rg 2 1]) all (due (wBlz .zero) .V) := by
  refine ⟨⟨rfl, ?_, ?_, ?_⟩, ?_, ?_, ?_, ?_, ?_, ⟨rfl, ?_, ?_, ?_⟩⟩ <;> decide +kernel

/-- The state in which an M word issues in a package. -/
def dM (c : CoreSt) : State := dueM (base c)

/-- One step on tile t1, FP32 from the A-buffer and the W-buffer. -/
def mW : W192 := mword

/-- A core that stands inside a word on t1, in handler mode for a cause of its C stream, so that the M stream stops at its next stop point. -/
def coreStop : CoreSt := { core0 with tiles := [(1, { Tile.zero with stat := 5 })], hand := some handH, within := some ⟨none, none, none, none, none⟩ }

/-- The same word with A from memory: row 5 of its only step is the one it stops before, if the free value says so. -/
def mWA : W192 := mword 1 0 1

/-- A core whose a1 points at a page that is not there. -/
def coreWild : CoreSt := { core0 with aregs := [(1, ⟨0x4000000100000000, 512, 0⟩), (2, ⟨0x1000000000000000, 512, 0⟩)] }

/-- That core held before its next K-step. -/
def heldM : State :=
  dueM { base { core0 with within := some ⟨none, none, none, none, none⟩ } with dev := { Device.zero with phase := .running, hold := some 0 } }

theorem witness_TileStepWords :
    enabledM w0 (hd192 mW) (stepReads 0 mW) all (dM core0) ∧ (dM core0).stepCount mW = 1 ∧ (dM core0).core.within = none ∧
    (dM core0).stepCount { mW with kcount := 0 } = 0 ∧
    okWith ((dM core0).joinLoop mW 0 1) (fun r => (r.1.runSteps 1 r.2).2 == none) = true ∧
    ((dM { core0 with within := some ⟨none, none, none, none, none⟩ }).core.within = some ⟨none, none, none, none, none⟩ ∧
      okWith ((dM { core0 with within := some ⟨none, none, none, none, none⟩ }).checkSteps mW
        ((dM { core0 with within := some ⟨none, none, none, none, none⟩ }).mEntry mW 0 1 none)) (fun _ => true) = true ∧
      ((dM { core0 with within := some ⟨none, none, none, none, none⟩ }).runSteps 1
        ((dM { core0 with within := some ⟨none, none, none, none, none⟩ }).mEntry mW 0 1 none)).2 = none) ∧
    (okWith ((dM coreWild).joinLoop mWA 0 1) (fun r => match (r.1.runSteps 1 r.2).2 with
      | some (.cause c a _) => c == 0x080 && a == 0x4000000100000000
      | _ => false) = true) ∧
    (heldM.core.within.isSome = true ∧
      ((heldM.runSteps 1 (heldM.mEntry mW 0 1 none)).2 == some .wait) = true ∧
      (heldM.runSteps 1 (heldM.mEntry mW 0 1 none)).1.standM.dev.hold = some 0) ∧
    ((dM coreStop).stopping = true ∧ ((dM coreStop).runWord 1 ((dM coreStop).mEntry mWA 0 1 none) (some 5)).2 = some .wait ∧
      ((dM coreStop).runWord 1 ((dM coreStop).mEntry mWA 0 1 none) (some 5)).1.core.mstop = true ∧
      okWith ((dM coreStop).checkSteps mWA ((dM coreStop).mEntry mWA 0 1 none)) (fun _ => true) = true) := by
  refine ⟨⟨rfl, ?_, ?_, ?_⟩, ?_⟩ <;> decide +kernel

/-- A core whose tile t1 is given. -/
def coreTile (t : Tile) : CoreSt := { core0 with tiles := [(1, t)] }

/-- A tile in a loop that has run no step. -/
def tileF : Tile := { Tile.zero with stat := 4 }

theorem witness_TileSetupWords :
    (enabledM w0 (hd192 mW) (fun _ => []) all (dM core0) ∧ ((dM core0).tl 1).f = false ∧
      frozenOf ((dM core0).core.aregNew 3) 2 0x200000 = .ok 0 ∧ frozenOf ((dM core0).core.aregNew 2) 1 0x180000 = .ok 0 ∧
      (dM core0).plainAddr mW 8 8 false = .ok 0 ∧ leNat ((dM core0).core.aRead 0 8) < 2 ^ 48) ∧
    (((dM (coreTile tileV)).tl 1).v = true ∧ ((dM (coreTile tileV)).tl 1).f = false ∧ (dM (coreTile tileV)).plainAddr mW 4 4 false = .ok 0) ∧
    (((dM (coreTile tileF)).tl 1).f = true ∧ ((dM (coreTile tileF)).tl 1).ran = false) := by
  refine ⟨⟨⟨rfl, ?_, ?_, ?_⟩, ?_⟩, ?_⟩ <;> decide +kernel

/-- The same with more saturations than its limit. -/
def tileLim : Tile := { tileF with satl := 1, satc := 2 }

/-- A package whose tile t1 owes a replay from version 1 of slot 0, which is LOST. -/
def wOwed : State :=
  { wV 2 [(1, ver .lost)] 1 with cores := [(0, coreTile { Tile.zero with stat := 0x407, orgv := 1, ran := true })] }

theorem witness_MretWord :
    (((dueM wOwed).tl 1).f = true ∧ ((dueM wOwed).tl 1).fold.lvl = 0 ∧
      (State.mretLoop 1 0 0 6 ((dueM wOwed).setTl 1 ((dueM wOwed).tl 1).fold)).2 = some .wait ∧
      (State.mretLoop 1 0 0 6 ((dueM wOwed).setTl 1 ((dueM wOwed).tl 1).fold)).1.core.mstop = false) ∧
    enabledM (base (coreTile tileF)) (hd192 mW) (fun _ => []) all (dM (coreTile tileF)) ∧ ((dM core0).tl 1).f = false ∧
    ((dM (coreTile tileF)).tl 1).f = true ∧ ((dM (coreTile tileF)).tl 1).fold.lvl = 0 ∧
    (State.mretLoop 1 0 ((dM (coreTile tileF)).core.csr 0x3E0) 6 ((dM (coreTile tileF)).setTl 1 ((dM (coreTile tileF)).tl 1).fold)).2 = none ∧
    ((State.mretLoop 1 0 ((dM (coreTile tileF)).core.csr 0x3E0) 6 ((dM (coreTile tileF)).setTl 1 ((dM (coreTile tileF)).tl 1).fold)).1.tl 1).limitsOk
      = .ok () ∧
    (((dM (coreTile tileLim)).tl 1).f = true ∧ ((dM (coreTile tileLim)).tl 1).fold.lvl = 0 ∧
      (State.mretLoop 1 0 ((dM (coreTile tileLim)).core.csr 0x3E0) 6 ((dM (coreTile tileLim)).setTl 1 ((dM (coreTile tileLim)).tl 1).fold)).2 = none ∧
      ((State.mretLoop 1 0 ((dM (coreTile tileLim)).core.csr 0x3E0) 6 ((dM (coreTile tileLim)).setTl 1 ((dM (coreTile tileLim)).tl 1).fold)).1.tl 1).limitsOk
        = .error (.cause 0x0E1 0 0)) := by
  refine ⟨?_, ⟨rfl, ?_, ?_, ?_⟩, ?_⟩ <;> decide +kernel

/-- A state of an M word whose tile t1 is valid, and the words that move it. -/
def dT : State := dM (coreTile tileV)
def mdW : W192 := { mword with areg := 4, breg := 5 }
def drainV : State := dM { coreTile tileV with aregs := [(4, ⟨0x2000000000000000, 512, 0⟩), (5, ⟨0x2000000000020000, 0, 0⟩)] }

theorem witness_TileMoveWords :
    enabledM (base (coreTile tileV)) (hd192 mW) (fun _ => []) all dT ∧ (dT.tl 1).v = true ∧ (dT.tl 1).f = false ∧
    (dT.tl 1).fold.int = false ∧ (dT.tl 1).fold.sumsOk allRows = .ok () ∧ (dT.tl 1).fold.sumsOk (List.range' 127 1) = .ok () ∧
    okWith (allRows.mapM (fun (i : Nat) => drainV.aPlace (some (drainV.core.aregNew 4)) (fmtBytes 2 128)
        (if aStride (drainV.core.aregNew 4) 0 % (elemSize 2 : Int) ≠ 0 then 0 else strAlign 0 2) true
        (wrap64 ((strPtr (drainV.core.aregNew 4) 0 2 : Int) + (i : Int) * aStride (drainV.core.aregNew 4) 0)))) (fun os => os.length == 128) = true ∧
    okWith (drainV.aPlace (some (drainV.core.aregNew 5)) 128 1 true (wrap64 (((drainV.core.aregNew 5).base.toNat : Int)))) (fun _ => true) = true ∧
    dT.plainAddr mW 65600 64 true = .ok 0 ∧ dT.plainAddr mW 65600 64 false = .ok 0 ∧ dT.plainAddr mW 64 64 true = .ok 0 ∧
    recordOk (Tile.ofRecord .zero (dT.core.aRead 0 64)) = true ∧
    (bits (strPtr (dT.core.aregNew 2) 0 3) 59 21 = 0 ∧ winOff 1 (strPtr (dT.core.aregNew 2) 0 3) + 1 * fmtBytes 3 16384 ≤ 0x180000 ∧
      dT.checkOnly ⟨[1], none, 1 * fmtBytes 3 16384, blkAlign 0 3, false, 4⟩ (some (dT.core.aregNew 2)) (strPtr (dT.core.aregNew 2) 0 3) = .ok () ∧
      dT.core.blockSumsOk 3 0 = true) := by
  refine ⟨⟨rfl, ?_, ?_, ?_⟩, ?_⟩ <;> decide +kernel

/-! ### Events -/

/-- A core whose C stream owes s4 the 4 bytes at physical address 6. -/
def load0 : LoadEnt := ⟨0, 1, 0, .creg 4 4 (.phys 0x4000000000000006 [⟨6, 4⟩]), []⟩
def coreLd : CoreSt := { core0 with cS := { StreamSt.zero with issued := 1, seq := 1, loads := [load0] } }

/-- A load of an L stream of two rows of one byte an element to the A-buffer, of which none is bound. -/
def load2 : LoadEnt :=
  ⟨0, 1, 0, .rows 2 .copy [] [⟨some (.phys 0x4000000000001000 [⟨0x1000, 128⟩]), .abuf 0⟩, ⟨some (.phys 0x4000000000002000 [⟨0x2000, 128⟩]), .abuf 512⟩], []⟩

/-- A core whose L stream has one load in its queue. -/
def coreL (e : LoadEnt) : CoreSt := { core0 with lS := { StreamSt.zero with issued := 1, seq := 1, loads := [e] } }

theorem witness_LoadBinds :
    binds (base coreLd) 0 .C ⟨0, []⟩ load0 [] (load0.next 0) [0x1F, 0, 0, 0] ∧ plainLoad load0 = true ∧ leNat [(0x1F : Byte), 0, 0, 0] = 0x1F ∧
    binds (base (coreL load2)) 0 .L ⟨1, []⟩ load2 [] [((Place.phys 0x4000000000001000 [⟨0x1000, 128⟩]).slice 0 1, 1)] [0] ∧ plainLoad load2 = true ∧
    [(0 : Byte)].length < (load2.sources.map (fun p => p.2)).sum := by
  refine ⟨⟨?_, ?_, ?_, ?_, ?_, ?_, ?_⟩, ?_, ?_, ⟨?_, ?_, ?_, ?_, ?_, ?_, ?_⟩, ?_⟩ <;> decide +kernel

/-- An LDT of version 1 of slot 0 into tile t0, and where its data lie. -/
def placeT : Place := .phys 0x4000000080002000 [⟨0x80002000, 8192⟩]
def loadT : LoadEnt := ⟨0, 1, 0, .tile 3 placeT 0 1 [] (some 0), []⟩

/-- wSeal with that load under way; the header's CRC is c. -/
def wArr (c : Byte) : State := withMem { wSeal with cores := [(0, coreL loadT)] } 0x90000118 [c]

/-- The version's data, all zero, as the load binds them. -/
theorem bindsT (c : Byte) (h : (wArr c).mem.all (fun e => decide (e.1 < 0x80002000 ∨ 0x80002000 + 8192 ≤ e.1)) = true)
    (hl : ((wArr c).coreOf 0).strm .L = (coreL loadT).lS) (hr : ((wArr c).coreOf 0).loadReady .L loadT (loadT.next 0) = true)
    (hp : (wArr c).placePoisoned (placeT.slice 0 8192) = false) : binds (wArr c) 0 .L ⟨0, []⟩ loadT [] (loadT.next 0) (List.replicate 8192 0) := by
  have hn : loadT.next 0 = [(placeT.slice 0 8192, 8192)] := by decide +kernel
  have hs : (placeT.slice 0 8192).segs = [⟨0x80002000, 8192⟩] := by decide +kernel
  have hm : getBytes (wArr c).mem 0x80002000 8192 = List.replicate 8192 0 := getBytes_far _ _ _ h
  have he : (onto (wArr c) 0).elsewhere (placeT.slice 0 8192) = false := rfl
  have ho : (wArr c).otherBytes [(placeT.slice 0 8192, 8192)] = 0 := rfl
  refine ⟨by rw [hl]; rfl, by simp, rfl, hr, by rw [hn, ho]; rfl, by simpa [hn] using hp, ?_⟩
  rw [hn]
  simp only [State.gatherBytes, he, Bool.false_eq_true, if_false, loadT, List.nil_append, List.append_nil]
  show List.replicate 8192 0 = (onto (wArr c) 0).readSegs (placeT.slice 0 8192).segs
  rw [hs]
  simp only [State.readSegs, List.flatMap_cons, List.flatMap_nil, List.append_nil]
  exact hm.symm

/-- An LDSH of slot 3 that has bound its header, and one that has bound its table too. -/
def shapeB : List Byte := shape 1 ++ toLE 208 0
def loadS (b : List Byte) (tab : Option (Place × Nat)) : LoadEnt := ⟨0, 1, 0, .shape 3 (.phys 0x4000000000001000 [⟨0x1000, 256⟩]) tab, b⟩

/-- The table of that record, one entry at 0x2000. -/
def tabS : Place × Nat := (.phys 0x4000000000002000 [⟨0x2000, 4⟩], 4)

/-- The state in which such a load has all its bytes. -/
def wShape (e : LoadEnt) : State := withMem (base (coreL e)) 0x1000 (shape 1)

theorem witness_TileAndShapeArrive :
    (∃ got, binds (wArr 0) 0 .L ⟨0, []⟩ loadT [] (loadT.next 0) got ∧ (loadT.sources.map (fun p => p.2)).sum ≤ got.length ∧ (crc64 got).toNat = 0 ∧
      okWith ((wArr 0).tilePlace 0 0 1 3) (fun g => g.1 == placeT && fieldLE ((wArr 0).readSegs g.2) 0x18 8 == 0) = true ∧
      okWith (((onto (wArr 0) 0).setLoad .L { loadT with got := got }).tilePlace 0 0 1 3) (fun g => g.1 == placeT) = true) ∧
    (∃ got, binds (wArr 1) 0 .L ⟨0, []⟩ loadT [] (loadT.next 0) got ∧ (crc64 got).toNat = 0 ∧
      okWith ((wArr 1).tilePlace 0 0 1 3) (fun g => g.1 == placeT && fieldLE ((wArr 1).readSegs g.2) 0x18 8 == 1) = true) ∧
    (binds (wShape (loadS [] none)) 0 .L ⟨0, []⟩ (loadS [] none) [] ((loadS [] none).next 0) shapeB ∧ shapeB.length = 256 ∧
      okWith (((onto (wShape (loadS [] none)) 0).setLoad .L (loadS shapeB none)).shapeHeader 0x4000000000001000 shapeB)
        (fun y => y == some tabS) = true) ∧
    (binds (wShape (loadS shapeB (some tabS))) 0 .L ⟨0, []⟩ (loadS shapeB (some tabS)) [] ((loadS shapeB (some tabS)).next 0) (shapeB ++ [0, 0, 0, 0]) ∧
      okWith (((onto (wShape (loadS shapeB (some tabS))) 0).setLoad .L (loadS (shapeB ++ [0, 0, 0, 0]) (some tabS))).shapeHeader 0x4000000000001000 shapeB)
        (fun y => y == some tabS) = true ∧ ascending (words4 ((shapeB ++ [0, 0, 0, 0]).drop 256)) = true) := by
  refine ⟨⟨_, bindsT 0 (by decide +kernel) (by decide +kernel) (by decide +kernel) (by decide +kernel), ?_, ?_, ?_, ?_⟩,
    ⟨_, bindsT 1 (by decide +kernel) (by decide +kernel) (by decide +kernel) (by decide +kernel), ?_, ?_⟩,
    ⟨⟨?_, ?_, ?_, ?_, ?_, ?_, ?_⟩, ?_, ?_⟩, ⟨⟨?_, ?_, ?_, ?_, ?_, ?_, ?_⟩, ?_, ?_⟩⟩
  · rw [List.length_replicate]; decide +kernel
  · rw [crc64_zeros]; rfl
  · decide +kernel
  · decide +kernel
  · rw [crc64_zeros]; rfl
  all_goals decide +kernel

theorem witness_PoisonedLoad :
    (((base coreLd).coreOf 0).strm .C).loads = load0 :: [] ∧ load0.next 0 = [(.phys 0x4000000000000006 [⟨6, 4⟩], 4)] ∧
    ((base coreLd).coreOf 0).loadReady .C load0 (load0.next 0) = true ∧ (base coreLd).otherBytes (load0.next 0) = 0 ∧
    (onto { base coreLd with poison := [0] } 0).refresh 0 false load0.kind (.phys 0x4000000000000006 [⟨6, 4⟩]) =
      .error (.cause 0x084 0x4000000000000006 0x4100) ∧
    (w0.ctxOf (w0.ctxNoOf 0)).st = .running ∧ (base coreLd).core.hand = none ∧
    ((onto { base coreLd with poison := [0] } 0).setCore (({ base coreLd with poison := [0] }.coreOf 0).freeze .C 0)).owedFirst 0x084 = false := by
  decide +kernel

/-- A store of one element to a window. -/
def ent0 (win esz : Nat) (e : StoreElem) : StoreEnt := ⟨0, 1, 0, win, esz, .elems, [e], 0, [], []⟩

/-- A core whose C stream has one store to perform in a window. -/
def coreStore (win esz : Nat) (e : StoreElem) : CoreSt := { core0 with cS := { StreamSt.zero with issued := 1, seq := 1, stores := [ent0 win esz e] } }

/-- Two bytes written to the end of the first page. -/
def elemW (tag : Option VerTag) : StoreElem := ⟨.phys 0x400000000000FFFE [⟨0xFFFE, 2⟩], .write [1, 2], tag, 0⟩

/-- What every clause about a store queue asks: its element stands next, may perform, and its home is in service and not poisoned. -/
def storeGoes (s : State) (win esz n : Nat) (e : StoreElem) (p : StoreOp → Bool) : Prop :=
  nextStore s 0 .C win n p (ent0 win esz e) [e] [] ∧ e.place.segs.any (fun c => s.homeLost c.pa) = false ∧ s.placePoisoned e.place = false

/-- The place of a piece in memory that stands. -/
theorem atHome_phys {s : State} {e : StoreElem} (q : Nat) (g : List Seg) (h : e.place = .phys q g)
    (hl : e.place.segs.any (fun c => s.homeLost c.pa) = false) (hp : s.placePoisoned e.place = false) : atHome s e := ⟨⟨q, g, h⟩, hl, hp⟩

/-- An entry of two writes of two bytes each, the second at 0x20000, and a core that has it queued. -/
def elemX : StoreElem := ⟨.phys 0x4000000000020000 [⟨0x20000, 2⟩], .write [3, 4], none, 1⟩
def entX : StoreEnt := ⟨0, 1, 0, 4, 2, .elems, [elemW none, elemX], 0, [], []⟩
def coreX : CoreSt := { core0 with cS := { StreamSt.zero with issued := 1, seq := 1, stores := [entX] } }

theorem witness_StorePerforms :
    storeGoes (base (coreStore 4 4 (elemW none))) 4 4 0 (elemW none) StoreOp.isWrite ∧ atHome (base (coreStore 4 4 (elemW none))) (elemW none) ∧
    overlap [⟨0xFFFE, 2⟩] (base (coreStore 4 4 (elemW none))).imageSegs = false ∧
    (nextStore (base coreX) 0 .C 4 0 StoreOp.isWrite entX [elemW none, elemX] [] ∧ nextStore (base coreX) 0 .C 4 1 StoreOp.isWrite entX [elemW none] [elemX]) ∧
    (storeGoes (base (coreStore 4 4 (elemW (some ⟨0, 0, 0, 1, false, none⟩)))) 4 4 1 (elemW (some ⟨0, 0, 0, 1, false, none⟩)) StoreOp.isWrite ∧
      (some (⟨0, 0, 0, 1, false, none⟩ : VerTag)).all (base (coreStore 4 4 (elemW (some ⟨0, 0, 0, 1, false, none⟩)))).tagHolds = false) ∧
    (nextStore { base (coreStore 4 4 (elemW none)) with poison := [0] } 0 .C 4 1 StoreOp.isWrite (ent0 4 4 (elemW none)) [elemW none] [] ∧
      (onto { base (coreStore 4 4 (elemW none)) with poison := [0] } 0).placeNow 0 (elemW none) =
        .error (.cause 0x084 0x400000000000FFFE 0x4101)) := by
  refine ⟨⟨⟨?_, ?_, ?_⟩, ?_⟩, atHome_phys _ _ rfl ?_ ?_, ?_, ⟨⟨?_, ?_, ?_⟩, ?_, ?_, ?_⟩, ⟨⟨⟨?_, ?_, ?_⟩, ?_⟩, ?_⟩, ⟨?_, ?_, ?_⟩, ?_⟩ <;> decide +kernel

/-- An atomic add of 1 to the doubleword at 0x1000 with its old value in s4; an ordered update and a contribution of the barrier. -/
def elemA (op : Nat) : StoreElem := ⟨.phys 0x4000000000001000 [⟨0x1000, 8⟩], .atom op true 1 0 (some 4), none, 0⟩
def elemD (ph : Option Nat) : StoreElem := ⟨.phys 0x4000000000001000 [⟨0x1000, 8⟩], .dwrite (toLE 8 7) (2 ^ 56) ⟨0, 0, 0, 0, 0⟩ ph, none, 0⟩
def elemR (ph : Option Nat) : StoreElem := ⟨.phys 0x4000000000001000 [⟨0x1000, 4⟩], .ared 0 5 0 0x3F800000 (2 ^ 56) ph, none, 0⟩

theorem witness_AtomicsAndUpdatesLand :
    storeGoes (wB (coreStore 4 8 (elemA 0))) 4 8 1 (elemA 0) StoreOp.isAtomic ∧ storeGoes (wB (coreStore 4 8 (elemA 9))) 4 8 0 (elemA 9) StoreOp.isAtomic ∧
    (storeGoes (wB (coreStore 4 8 (elemD none))) 4 8 1 (elemD none) StoreOp.isHeld ∧ (wB core0).landPhase (2 ^ 56) none = some (9, false) ∧
      (wB core0).landPhase (2 ^ 56) (some 10) = some (10, true) ∧ (ent0 4 8 (elemD none)).isTile = false) ∧
    storeGoes (wB (coreStore 4 4 (elemR none))) 4 4 0 (elemR none) StoreOp.isAredo := by
  refine ⟨⟨⟨?_, ?_, ?_⟩, ?_⟩, ⟨⟨?_, ?_, ?_⟩, ?_⟩, ⟨⟨⟨?_, ?_, ?_⟩, ?_⟩, ?_⟩, ⟨?_, ?_, ?_⟩, ?_⟩ <;> decide +kernel

/-- A BARA whose release is satisfied, an RPUBL of ticket 0 of queue 0 and an RCLAIM there, as they stand in the store queue. -/
def elemB : StoreElem := ⟨.phys 0x7000000000000000 [⟨2 ^ 56, 8⟩], .arrive none 4, none, 0⟩
def elemQ : StoreElem := ⟨.phys 0x4000000000003000 [⟨0x3000, 1⟩], .qtag 0 0 false, none, 0⟩
def elemC (nw ended : Bool) : StoreElem := ⟨.phys 0x4000000000003000 [⟨0x3000, 1⟩], .qclaim 0 nw 4 ended, none, 0⟩

theorem witness_ReleasesAct :
    (storeGoes (wB (coreStore 7 8 elemB)) 7 8 1 elemB StoreOp.isAtomic ∧
      ∃ ph u, (onto (wB (coreStore 7 8 elemB)) 0).arrive (segAddr elemB.place.segs 0) 0 = .ok ph u ∧ (ph == 9) = true) ∧
    (storeGoes (wR (coreStore 4 1 elemQ) 1 1 0 0 3) 4 1 1 elemQ StoreOp.isAtomic ∧
      ((onto (wR (coreStore 4 1 elemQ) 1 1 0 0 3) 0).ringAct 0 0 false).isSome = true) ∧
    (storeGoes (wR (coreStore 4 1 elemQ) 1 1 0 0 2) 4 1 1 elemQ StoreOp.isAtomic ∧
      (onto (wR (coreStore 4 1 elemQ) 1 1 0 0 2) 0).ringAct 0 0 false = none ∧ ((wR (coreStore 4 1 elemQ) 1 1 0 0 2).queueOf 0).st = .active) := by
  refine ⟨⟨⟨⟨?_, ?_, ?_⟩, ?_⟩, arrive_of (by decide +kernel)⟩, ⟨⟨⟨?_, ?_, ?_⟩, ?_⟩, ?_⟩, ⟨⟨?_, ?_, ?_⟩, ?_⟩, ?_⟩ <;> decide +kernel

theorem witness_ClaimsAct :
    (storeGoes (wR (coreStore 4 1 (elemC true false)) 1 0 0 0 3) 4 1 1 (elemC true false) StoreOp.isAtomic ∧
      ((wR (coreStore 4 1 (elemC true false)) 1 0 0 0 3).queueOf 0).full = false ∧
      (wR (coreStore 4 1 (elemC true false)) 1 0 0 0 3).turnOf 0 0 ((wR (coreStore 4 1 (elemC true false)) 1 0 0 0 3).queueOf 0).waitC = true ∧
      okWith (State.decision (onto (wR (coreStore 4 1 (elemC true false)) 1 0 0 0 3) 0) 1 0 .C 0 0) (fun _ => true) = true) ∧
    (storeGoes (wR (coreStore 4 1 (elemC true false)) 1 2 0 0 2) 4 1 1 (elemC true false) StoreOp.isAtomic ∧
      storeGoes (wR (coreStore 4 1 (elemC false false)) 1 2 0 0 2) 4 1 1 (elemC false false) StoreOp.isAtomic ∧
      ((wR (coreStore 4 1 (elemC true false)) 1 2 0 0 2).queueOf 0).full = true ∧ ((wR (coreStore 4 1 (elemC true false)) 1 2 0 0 2).queueOf 0).st = .active) ∧
    storeGoes (wR (coreStore 4 1 (elemC false true)) 1 0 0 0 3) 4 1 1 (elemC false true) StoreOp.isAtomic := by
  refine ⟨⟨⟨⟨?_, ?_, ?_⟩, ?_⟩, ?_⟩, ⟨⟨⟨?_, ?_, ?_⟩, ?_⟩, ⟨⟨?_, ?_, ?_⟩, ?_⟩, ?_⟩, ⟨?_, ?_, ?_⟩, ?_⟩ <;> decide +kernel

/-- A marker that names no stream. -/
def mark0 : MarkEnt := ⟨2 ^ 56, 9, 1, 0, 0, 0, 0, 0, 0, [], 0⟩

/-- A V stream in a word that waits for the blaze cache, and its core with the record it wants cached or not. -/
def vWait : StreamSt := { StreamSt.zero with run := true, waiting := true }
def wantV (l : List BlzEnt) : CoreSt := { core0 with vS := vWait, want := [(.V, 0x4000000000001000, 1)], blaze := l }

/-- w0 whose first frame is poisoned. -/
def wPoison : State := { w0 with poison := [0] }

/-- What a refill of that core finds satisfies a test. -/
def refillWith (s : State) (p : Res (BlzEnt × List Nat) → Bool) : Bool := p (((onto s 0).setCore ((s.coreOf 0).noWant .V)).refillRec .V 0x4000000000001000 1)

/-- w0 with a translation of the first page in the TLB of die 0. -/
def wTlb : State := { w0 with dies := [(0, { w0.dieOf 0 with tlb := [⟨0, 4, 0, 2 ^ 31, 0x33⟩] })] }

theorem witness_WaitsEnd :
    ((wB { core0 with marks := [mark0] }).coreOf 0).marks[0]? = some mark0 ∧ (wB { core0 with marks := [mark0] }).markerReady 0 mark0 = true ∧
    ((withMem (wB core0) (2 ^ 56) [2]).barOwner (2 ^ 56) = some 0 ∧ ((withMem (wB core0) (2 ^ 56) [2]).bar (2 ^ 56)).st = 2 ∧
      ((withMem (wB core0) (2 ^ 56) [2]).bar (2 ^ 56)).pend = 0 ∧ (withMem (wB core0) (2 ^ 56) [2]).acksIn (2 ^ 56) = true) ∧
    (((base { core0 with wait := .poll (waitAt 1) }).coreOf 0).wait = .poll (waitAt 1) ∧
      wPoison.placeBad (.phys (waitAt 1).ptr [⟨(waitAt 1).pa, 8⟩]) = true ∧ w0.placeBad (.phys (waitAt 1).ptr [⟨(waitAt 1).pa, 8⟩]) = false ∧
      w0.homeLost (waitAt 1).pa = false ∧
      ((base { core0 with wait := .poll (waitAt 1) }).coreOf 0).covered .C (.phys 0 [⟨(waitAt 1).pa, 8⟩]) = false ∧
      waitHolds (waitAt 1) (BitVec.ofNat 64 (w0.readN (waitAt 1).pa 8)) = true) ∧
    ((base { core0 with sleep := some 3 }).coreOf 0).sleep = some 3 ∧
    ((w0.coreOf 0).utlb.any (fun t => t.covers 0 4 0x1000) = false ∧ ((wTlb.dieOf 0).tlb.find? (fun t => t.covers 0 4 0x1000)).isSome = true ∧
      (w0.dieOf 0).tlb.find? (fun t => t.covers 0 4 0x1000) = none ∧
      (match walkRoot w0 0 4 0x1000 false with
        | .ok l => l.pa == 0x1000 && l.size == 2 ^ 31
        | .error _ => false) = true ∧
      (w0.dieOf 0).tlb.find? (fun t => t.covers 0 4 0x100000000) = none ∧
      (match walkRoot w0 0 4 0x100000000 false with
        | .ok _ => false
        | .error _ => true) = true) ∧
    (((base (wantV [])).coreOf 0).want.find? (fun w => w.1 == .V) = some (.V, 0x4000000000001000, 1) ∧ (w0.ctxOf (w0.ctxNoOf 0)).st = .running ∧
      ((onto (base (wantV [⟨0x4000000000001000, 1, 0, 0, 0, []⟩])) 0).setCore
        (((base (wantV [⟨0x4000000000001000, 1, 0, 0, 0, []⟩])).coreOf 0).noWant .V)).core.blaze.any (fun b => b.addr == 0x4000000000001000 && b.ver == 1) = true ∧
      refillWith (withMem (base (wantV [])) 0x1000 (shape 1)) (fun r => okWith r (fun e => e.1.tab == [0])) = true ∧
      refillWith (base (wantV [])) (fun r => match r with
        | .error (.cause c p d) => c == 0x0C4 && p == 0x4000000000001000 && d == 0
        | _ => false) = true) := by
  decide +kernel

/-- w0 with one task in entry 0. -/
def wTask (t : Task) : State := { w0 with tasks := [(0, t)] }

/-- A gang of two that has claimed its pool. -/
def wClaim : State := { wTask { task0 with st := .claimed, gang := 2, cores := [], started := [] } with pools := [(0, ⟨1, 1, [0], []⟩)] }

/-- Task queue 0 with one published record, whose task is as given. -/
def wTake (t : List (Nat × Task)) : State := { wR coreSlot 0 1 0 0 2 with tasks := t }

/-- The task in entry 0 of the state in which ticket 0 has been taken. -/
def takenAt (s : State) : Option (Nat × Task) :=
  (((s.setQueueOf 0 { s.queueOf 0 with h := 1 }).qRelease 0 0).tasks.find? (fun e => e.2.origin == Origin.queue 0 0 false))

/-- A graph of context 0 with one accepted launch, which patches its block. -/
def wLaunch : State := { w0 with graphs := [(0, ⟨0, 0x4000000000002000, 64, [], [⟨[(8, 7)], [], false⟩]⟩)] }

/-- What the patches of that launch come to satisfies a test. -/
def patched (s : State) (p : Except (Nat × Nat) State → Bool) : Bool := p (State.patchAll ⟨0, 0x4000000000002000, 64, [], []⟩ [(8, 7)] s).1

theorem witness_SchedulerTakesWork :
    (0 = w0.ctxNoOf 0 ∧ (w0.ctxOf 0).st = .running ∧ w0.freeCore 0 0 = true ∧ w0.forming 0 = none) ∧
    (wClaim.freeCore 0 0 = true ∧ (wClaim.ctxOf 0).st = .running ∧ (wClaim.forming 0).map (fun e => e.1) = some 0) ∧
    (((wTake []).queueOf 0).kind = 0 ∧ ((wTake []).queueOf 0).st = .active ∧ (wTake []).qReady ((wTake []).queueOf 0) = true ∧
      ((wTake []).queueOf 0).h = 0 ∧
      (takenAt (wTake [(0, { task0 with origin := .queue 0 0 false, st := .ready })])).map (fun e => e.2.st) = some .ready ∧
      (takenAt (wTake [(0, { task0 with origin := .queue 0 0 false, st := .waiting })])).map (fun e => e.2.st) = some .waiting ∧
      takenAt (wTake []) = none) ∧
    ((wLaunch.graphOf 0).map (fun g => g.launches) = some [⟨[(8, 7)], [], false⟩] ∧ (wLaunch.ctxOf 0).st ∉ [CtxState.free, .dead, .trapped, .draining] ∧
      ((wLaunch.setCtxOf 0 { wLaunch.ctxOf 0 with st := .draining }).ctxOf 0).stop = none ∧
      patched wLaunch (fun o => match o with
        | .ok u => u.readN 0x2008 8 == 7
        | .error _ => false) = true ∧
      patched { wLaunch with poison := [0] } (fun o => match o with
        | .ok _ => false
        | .error e => e == (0x4000000000002008, 0x4101)) = true) := by decide +kernel

/-- A kernel image of one C word, TEXIT, with its SHA-256 (formed with Python's hashlib). -/
def image0 : List Byte :=
  toLE 4 0xCA940C01 ++ toLE 2 1 ++ toLE 2 1 ++ toLE 4 132 ++ toLE 4 0 ++ toLE 4 128 ++ toLE 4 1 ++ toLE 72 0 ++
    toLE 32 0xbd38e149647913bc8426bffc4195ed6ef4408fd8e36db7283af54d774130ef2a ++ toLE 4 0x90000000

/-- w0 with the image LOADED in slot 1, or zeros. -/
def wImg (b : List Byte) : State := { withMem w0 0x2000 b with kernels := [(1, ⟨.loaded, 0x2000, 132, [], 0⟩)] }

/-- A rebuild run of context 0 with logical id 9. -/
def run0 (st : TaskState) : Task := { task0 with lid := 9, origin := .rebuild, st := st, cores := [] }

/-- A lineage entry of version 1 of slot 0, of the run with logical id 9, whose mirror is as given. -/
def ent1 (m : Option Nat) : LinEnt := ⟨0, 0, [], 0, 1, 1, 0, m, false, false, 9, 0, 0, [], [], 0⟩

/-- A package whose version 1 of slot 0 the run with logical id 9 rebuilds. -/
def wRun : State := { wV 2 [(1, { ver .rebuilding with run := some 9 })] 1 with dies := [(0, ⟨false, [ent1 none], [], [], []⟩)] }

/-- Both cores of the partition run a task whose V stream waits on a version that is LOST, while a rebuild run waits for a core. -/
def wStarve : State :=
  let c : CoreSt := { core0 with task := some 1, vS := vWait, wver := [(.V, 0, 1)] }
  { wV 2 [(1, ver .lost)] 1 with tasks := [(0, run0 .rebuild)], cores := [(0, c), (1, c)] }

theorem witness_SchedulerEndsWork :
    { task0 with ended := [0] }.finished = true ∧ find? (wTask { task0 with ended := [0] }).tasks 0 = some { task0 with ended := [0] } ∧
    (((wImg image0).kernelOf 1).st = .loaded ∧ ((wImg image0).kernelOf 1).vstat = 0 ∧ getBytes (wImg image0).mem 0x2000 132 = image0 ∧
      verifyImage image0 = 0 ∧ verifyImage (List.replicate 132 0) = 1) ∧
    (wRun.rebuildRun 0 (9#64).toNat = none ∧ wRun.runEntry 0 (9#64).toNat = some (ent1 none) ∧ wRun.freeEntry = some 0 ∧
      wRun.runReady 0 (9#64).toNat = true) ∧
    ((wStarve.ctxOf 0).st = .running ∧ (run0 .rebuild).ctx = 0 ∧ (0, run0 .rebuild) ∈ wStarve.tasks ∧
      ∀ c ∈ wStarve.coresOfCtx 0, (wStarve.coreOf c.2).task.isSome = true ∧
        ∃ w ∈ (wStarve.coreOf c.2).needs, wStarve.verAway 0 w.1 w.2 = true) := by decide +kernel

/-- A copy of 4 bytes from 0x5000 to 0x6000 in queue 0, and a checkpoint to 0x6000. -/
def xfer0 (st : XState) (k : XKind) (bytes : Nat) : Xfer :=
  { num := 1, die := 0, core := 0, st := st, kind := k, dst := .phys [⟨0x6000, 256⟩], gbase := 0, rows := [(0, 0)], rowb := 4, handles := [],
    fmt := 7, bnd := 0, dbar := none, dphase := none, tags := [], bar := none, bytes := bytes, flag := 0, ftag := none, acked := false }
def wC (t : Xfer) : State := wQ ⟨1, [t], false, 0⟩
def copy0 : XKind := .copy (.phys [⟨0x5000, 256⟩])
def ckpt0 : XKind := .ckpt true 0 0 [] []

theorem witness_CopyTransfers :
    ((((wC (xfer0 .queued copy0 4)).ctxOf 0).cq 0).cmds.find? (fun t => t.die == 0 && t.st == .queued) = some (xfer0 .queued copy0 4) ∧
      ((wC (xfer0 .queued copy0 4)).dieOf 0).lost = false ∧ (wC (xfer0 .queued copy0 4)).issuedOn 0 0 < 8) ∧
    ((wC (xfer0 .issued copy0 4)).xferOf 0 0 1 = some (xfer0 .issued copy0 4) ∧ (wC (xfer0 .issued copy0 4)).xferFails 0 (xfer0 .issued copy0 4) = false ∧
      (wC (xfer0 .issued copy0 4)).inOrder 0 0 (xfer0 .issued copy0 4) = true ∧
      (wC (xfer0 .issued ckpt0 0)).xferFails 0 (xfer0 .issued ckpt0 0) = false ∧ (wC (xfer0 .issued ckpt0 0)).inOrder 0 0 (xfer0 .issued ckpt0 0) = true ∧
      (wC (xfer0 .issued ckpt0 0)).drainable 0 [] = true) ∧
    ((wC (xfer0 .issued ckpt0 1)).xferOf 0 0 1 = some (xfer0 .issued ckpt0 1) ∧ (wC (xfer0 .landed copy0 4)).xferOf 0 0 1 = some (xfer0 .landed copy0 4)) ∧
    { wC (xfer0 .issued copy0 4) with poison := [0] }.xferFails 0 (xfer0 .issued copy0 4) = true := by decide +kernel

/-- Pool 0 of context 0 whose version 1 is given; a replica device in reach; one lineage entry with or without a mirror. -/
def wRep (e : Ver) (m : Option Nat) : State :=
  { wV 2 [(1, e)] 1 with
    fabric := { Fabric.zero with replicas := [⟨7, 0, true⟩], reach := [(7, 4096, 0)] }, dies := [(0, ⟨false, [ent1 m], [], [], []⟩)] }

/-- A version that is being copied back, with a header unit whose CRC is x. -/
def verBack (x : Nat) : Ver := { ver .rebuilding with repl := .counted 7, rimg := toLE 24 0 ++ toLE 8 x ++ toLE 224 0 }

theorem witness_ReplicasAndRecovery :
    ((wRep { ver .sealed with repl := .sent 7 } none).versionAt 0 (0#64).toNat 1 = some (0, 0, { ver .sealed with repl := .sent 7 }) ∧
      (wRep { ver .sealed with repl := .sent 7 } none).devUp 7 = true ∧
      (wV 2 [(1, { ver .sealed with repl := .sent 7 })] 1).versionAt 0 (0#64).toNat 1 = some (0, 0, { ver .sealed with repl := .sent 7 }) ∧
      (wV 2 [(1, { ver .sealed with repl := .sent 7 })] 1).devUp 7 = false ∧
      (wRep { ver .replicated with repl := .counted 7 } none).versionAt 0 (0#64).toNat 1 = some (0, 0, { ver .replicated with repl := .counted 7 })) ∧
    ((wRep (verBack 0) none).versionAt 0 (0#64).toNat 1 = some (0, 0, verBack 0) ∧ (verBack 0).run = none ∧ ((wRep (verBack 0) none).poolOf 0 0).isSome = true ∧
      fieldLE ((verBack 0).rimg.take 256) 0x18 8 = (crc64 ((verBack 0).rimg.drop 256)).toNat ∧
      fieldLE ((verBack 1).rimg.take 256) 0x18 8 ≠ (crc64 ((verBack 1).rimg.drop 256)).toNat) ∧
    (((wRep (verBack 0) none).dieOf 0).lost = false ∧
      ((wRep (verBack 0) none).fabric.replicas.find? (wRep (verBack 0) none).reachable).isSome = true ∧
      ent1 none ∈ ((wRep (verBack 0) none).dieOf 0).shard ∧ (ent1 none).mdev = none ∧
      ent1 (some 7) ∈ ((wRep (verBack 0) (some 7)).dieOf 0).shard ∧ (ent1 (some 7)).handle = (0#64).toNat ∧ (ent1 (some 7)).ver = 1 ∧ (ent1 (some 7)).mdev = some 7) := by decide +kernel

/-- w0 with an exported window of 4 KiB at offset 0x2000 of window 0x4. -/
def wExp : State := { w0 with fabric := { Fabric.zero with exported := some ⟨0, 0x4000000000002000, 4096⟩ } }

theorem witness_RemoteAccesses :
    wExp.exportSegs 4088 8 false = some [⟨0x2FF8, 8⟩] ∧ wExp.exportSegs 4088 8 true = some [⟨0x2FF8, 8⟩] ∧ wExp.exportSegs 4092 4 true = some [⟨0x2FFC, 4⟩] ∧
    wExp.exportSegs 4089 8 true = none ∧ wExp.exportSegs 4089 8 false = none := by decide +kernel

/-- A LINK data word of two elements whose bytes are zero. -/
def op0 (k : LinkKind) : LinkOp := ⟨1, k, 0, 2, 0, 0, .phys 0x4000000000006000 [⟨0x6000, 8⟩], List.replicate 8 0, 0, none, none⟩

/-- A core with a LINK data word and a count of owed acknowledgements, in a package with an ACTIVE group of one core per package. -/
def wOp (k : LinkKind) (acks : Nat) : State :=
  { base { core0 with links := [op0 k], wacks := acks } with
    fabric := { Fabric.zero with groups := [(0, { group0 .active [0] with loc := 1 })], reach := [(3, 4096, 0)] } }

/-- A core whose C stream has an access of window 0x6 sent and not acknowledged, which returns to the register given. -/
def coreSent (d : Option (Nat × Bool)) : CoreSt :=
  { core0 with cS := { StreamSt.zero with issued := 1, seq := 1, stores := [⟨0, 1, 0, 6, 8, .elems, [], 0, [], [(0, d)]⟩] }, wacks := 1 }

/-- The contribution of the other package. -/
def others0 : List (Nat × Nat × List (BitVec 16 × Bool)) := [(1, 0, [(0x3F80, false), (0, false)])]

/-- Core 0's CGLEAVE waits for its record, behind nothing and before a CGJOIN. -/
def groupOwn : CGroup := { group0 .active [0] with pendJoin := [(0, 1, false), (0, 2, true)] }

theorem witness_LinkCompletions :
    ((base (coreSent none)).coreOf 0).takeAck allStrms = some (none, (((base (coreSent none)).coreOf 0).takeAck allStrms).get (by decide +kernel) |>.2) ∧
    ((base (coreSent (some (4, true)))).coreOf 0).takeAck allStrms =
      some (some ((4 : Reg).toNat, true), (((base (coreSent (some (4, true)))).coreOf 0).takeAck allStrms).get (by decide +kernel) |>.2) ∧
    (((wOp (.mcst 0) 1).coreOf 0).links.find? (fun o => o.cmd == 1) = some (op0 (.mcst 0)) ∧ (wOp (.mcst 0) 1).linkCan (op0 (.mcst 0)) .ok = true ∧
      (op0 (.mcst 0)).isMcst = true ∧ (op0 (.mcst 0)).st = none ∧ (wOp (.mcst 0) 1).linkCan (op0 (.mcst 0)) .peerAbsent = true ∧
      (wOp (.mcst 0) 1).linkCan { op0 (.mcst 0) with st := some .ok } .ok = true ∧
      (wOp (.send 3) 1).linkCan (op0 (.send 3)) .ok = true ∧ (op0 (.send 3)).isMcst = false) ∧
    ((wOp (.ldred 0 0) 0).groupAt 0 = some { group0 .active [0] with loc := 1 } ∧ (group0 .active [0]).st ≠ .broken ∧
      find? (group0 .active [0]).failed 0 = none) ∧
    ((wOp (.ldred 0 0) 0).localOps 0 0 0 1 = some [op0 (.ldred 0 0)] ∧ (group0 .active [0]).rank ∈ (group0 .active [0]).joined ∧
      sameOps [op0 (.ldred 0 0)] = true ∧ [op0 (.ldred 0 0)].any (fun o => o.st.isSome) = false ∧
      (rankOrder { group0 .active [0] with loc := 1 } 0 2 (packContribution 2 ([op0 (.ldred 0 0)].map (fun q => linkElems q.fmt q.count q.data)))
        others0).isSome = true) ∧
    (1 < (group0 .forming [0]).nmem ∧ 1 ≠ (group0 .forming [0]).rank ∧ (group0 .forming [0]).st ≠ .broken ∧
      ∀ m < (group0 .forming [0]).nmem, m = 1 ∨ m ∈ (group0 .forming [0]).joined) ∧
    groupOwn.rank < groupOwn.nmem ∧ groupOwn.pendJoin = (0, 1, false) :: [(0, 2, true)] := by decide +kernel

/-- w0 with port 23 as given after n failed attempts. -/
def wPort (l : LinkState) (n : Nat) : State := { w0 with fabric := { Fabric.zero with ports := [(23, l)], attempts := [(23, n)] } }

theorem witness_LinkAndPowerEvents :
    ((wPort .down 0).port 23 = .down ∧ ((wPort .down 0).dieOf (portDie 23)).lost = false) ∧ (wPort .training 1).port 23 = .training ∧
    look 0 (wPort .training 1).fabric.attempts 23 < 2 ∧ 2 ≤ look 0 (wPort .training 2).fabric.attempts 23 ∧ (wPort .up 0).port 23 = .up ∧
    (wPort .degraded 0).port 23 = .degraded := by decide +kernel

/-- w0 with context 0 in another state, and its partition as given. -/
def wCtx (f : Ctx → Ctx) (p : Part → Part) : State := { w0 with ctxs := [(0, f (w0.ctxOf 0))], parts := [(0, p (w0.partOf 0))] }

/-- w0 whose core runs a task under a watchdog limit. -/
def wDog : State := { base coreT with ctxs := [(0, (w0.ctxOf 0).setCsr 0x302 9)] }

/-- w0 whose context is being filled from its spill area. -/
def wFill : State := wCtx (fun c => { c with moving := some false, loc := .spill, spill := 0x4000000001000000 }) id

theorem witness_ContextSwitches :
    (((wCtx (fun c => { c with st := .draining, stop := some 0x1E0 }) id).ctxOf 0).st = .draining ∧
      ((wCtx (fun c => { c with st := .draining, stop := some 0x1E0 }) id).ctxOf 0).stop.isSome = true ∧
      (wCtx (fun c => { c with st := .draining, stop := some 0x1E0 }) id).drained 0 = true) ∧
    (((wCtx id (fun p => { p with live := none, next := some 0 })).partOf 0).live = none ∧
      ((wCtx id (fun p => { p with live := none, next := some 0 })).partOf 0).next = some 0 ∧
      ((wCtx id (fun p => { p with live := none, next := some 0 })).partOf 0).shelf ≠ some 0) ∧
    (((wCtx (fun c => { c with st := .draining }) (fun p => { p with swap := true })).partOf 0).live = some 0 ∧
      ((wCtx (fun c => { c with st := .draining }) (fun p => { p with swap := true })).partOf 0).swap = true ∧
      (wCtx (fun c => { c with st := .draining }) (fun p => { p with swap := true })).drained 0 = true ∧
      ((wCtx (fun c => { c with st := .draining }) (fun p => { p with swap := true })).ctxOf 0).stop = none ∧
      ((wCtx (fun c => { c with st := .trapped }) (fun p => { p with swap := true })).ctxOf 0).moving = none ∧
      ((wCtx (fun c => { c with st := .trapped }) (fun p => { p with swap := true })).partOf 0).next = none ∧
      ((wCtx (fun c => { c with st := .trapped }) (fun p => { p with swap := true })).ctxOf 0).st = .trapped) ∧
    (((wCtx (fun c => { c with moving := some true, loc := .shelf }) id).ctxOf 0).moving = some true ∧
      ((wCtx (fun c => { c with moving := some true, loc := .shelf }) id).ctxOf 0).loc = .shelf ∧
      (wFill.ctxOf 0).moving = some false ∧ wFill.spillBad 0 = false ∧ { wFill with poison := [0x100] }.spillBad 0 = true) ∧
    ((wDog.ctxOf 0).st = .running ∧ wDog.ctxNoOf 0 = 0 ∧ (wDog.ctxOf 0).csr 0x302 ≠ 0 ∧ (wDog.coreOf 0).task.isSome = true ∧
      (wDog.coreOf 0).ended = false) := by decide +kernel

/-- A package whose one context is SHELVED and whose partition is empty. -/
def wCool : State := wCtx (fun c => { c with st := .shelved, loc := .spill }) (fun p => { p with live := none })

theorem witness_LossesAndResets :
    (3 < 4 ∧ (w0.dieOf 3).lost = false) ∧ (2 ^ 39 - 1 < 2 ^ 39 ∧ w0.homeLost (2 ^ 39 - 1) = false) ∧
    ((wCtx (fun c => { c with loc := .spill }) id).ctxOf 0).loc = .spill ∧ ((wCtx (fun c => { c with loc := .shelf }) id).ctxOf 0).loc = .shelf ∧
    w0.dev.phase ≠ .lost ∧ (w0.ctxOf 0).st ≠ .free ∧ w0.dev.writing = none ∧
      { w0.dev with writing := some (List.replicate 128 0, true) }.writing = some (List.replicate 128 0, true) ∧
    (wCool.dev.phase = .running ∧ (∀ c ∈ wCool.ctxs, (wCool.ctxOf c.1).st ≠ .running) ∧
      ∀ p ∈ wCool.parts, p.2.live = none ∧ p.2.shelf = none) := by decide +kernel

/-! ### The Jecel port -/

/-- A command with sequence number 1. -/
def j0 : Jec := ⟨1, 7⟩

/-- A state with something else about the device. -/
def wDev (f : Device → Device) : State := { w0 with dev := f w0.dev }

theorem accepts_w0 : accepts w0 j0 := by unfold accepts comesNext; decide +kernel

/-- The device after a command with sequence number n - 1, with the answers listed. -/
def wSeq (n : Nat) (l : List (Nat × Answer)) : State := wDev (fun d => { d with expect := some n, answers := l })

theorem witness_PortProtocol :
    (Instr.run j0 0 ∈ plainCommands j0 0 0 0 0 [] .phys ⟨0, false, 0, 0, 0, 0, 0⟩ ⟨0, 0, 0, [], 0, 0, 0⟩ .remove [] [] []) ∧
    ((wSeq 2 [(1, ⟨7, .ok, []⟩)]).dev.phase = .running ∧ find? (wSeq 2 [(1, ⟨7, .ok, []⟩)]).dev.answers j0.seq = some ⟨7, .ok, []⟩) ∧
    (find? (wSeq 0 []).dev.answers j0.seq = none ∧ (wSeq 0 []).dev.expect = some 0 ∧ 0 ≠ j0.seq) ∧
    (find? (wSeq 1 []).dev.answers j0.seq = none ∧ (wSeq 1 []).inSequence j0 = true ∧ (wSeq 1 []).dev.phase = .running) ∧
    ((wDev (fun d => { d with phase := .recovery })).dev.phase = .recovery ∧ find? (wDev (fun d => { d with phase := .recovery })).dev.answers j0.seq = none ∧
      (wDev (fun d => { d with phase := .recovery })).inSequence j0 = true) ∧
    ((wDev (fun d => { d with phase := .lost })).dev.phase ≠ .running ∧ (wDev (fun d => { d with phase := .lost })).dev.phase ≠ .recovery) := by
  refine ⟨by simp [plainCommands], ?_⟩; decide +kernel

/-- A graph image of one record without successors. -/
def graph0 : List Byte :=
  toLE 4 0xCA946A01 ++ toLE 4 1 ++ toLE 8 0x4000000000002000 ++ toLE 4 64 ++ toLE 44 0 ++ toLE 4 0x40000 ++ toLE 4 1 ++ toLE 4 5 ++ toLE 52 0

theorem witness_KernelAndGraphCommands :
    accepts w0 j0 ∧ ((w0.kernelOf 4095).st = .absent ∧ 0x7FFFFF0000 % 65536 = 0 ∧ 0x7FFFFF0000 + 65536 ≤ 2 ^ 39 ∧ w0.homeLost 0x7FFFFF0000 = false ∧
      w0.meetsImage 0x7FFFFF0000 65536 = false ∧ w0.unpinnedAt 0x7FFFFF0000 65536 = false ∧
      w0.placeBad (.phys 0 [⟨0x7FFFFF0000, 65536⟩]) = false ∧ w0.meetsImage 0x100000 132 = true ∧ (baseP 0x23 core0).unpinnedAt 0x90000000 132 = true ∧
      { w0 with poison := [0x30] }.placeBad (.phys 0 [⟨0x300000, 132⟩]) = true) ∧
    ((wImg []).kernelOf 1).st = .loaded ∧ ((w0.kernelOf 0).st = .bound ∧ 0 ∈ (w0.kernelOf 0).bound) ∧
    (w0.graphOf 1023 = none ∧ w0.alive 0 = true ∧ (match w0.imageGraph 0 graph0 with
      | some g => decide ((w0.graphs.map (fun e => e.2.bytes)).sum + g.bytes ≤ Config.schedBytes)
      | none => false) = true) ∧
    wG.graphOf 0 = some ⟨0, 0, 64, [], []⟩ ∧ (match wG.acceptLaunch 0 0x4000000000001000 with
      | .ok _ => true
      | .error _ => false) = true := by
  refine ⟨accepts_w0, ?_⟩; decide +kernel

/-- A queue of kind 1 with two slots of 64 bytes, and a pool of F4 with two slots and a shadow frame, on T pages at offset 2^31. -/
def qdesc0 : List Byte := toLE 4 0x10100 ++ toLE 2 1 ++ toLE 2 0 ++ toLE 8 0x4000000000002000 ++ toLE 8 0x4000000000003000 ++ toLE 40 0
def pdesc0 : List Byte :=
  toLE 2 1 ++ toLE 1 3 ++ toLE 1 0 ++ toLE 4 1 ++ toLE 8 2 ++ toLE 8 0x4000000080000000 ++ toLE 8 0x4000000080010000 ++ toLE 8 0x4000000080020000 ++
    toLE 8 0x4000000080030000 ++ toLE 16 0

/-- w0 with pinned T pages from offset 2^31 of window 0x4. -/
def wTP : State := baseP 0x3B core0

theorem witness_ObjectCommands :
    accepts w0 j0 ∧ ((w0.queueOf 4095).st = .disabled ∧ (match queueOfDesc qdesc0 with
      | some k => w0.alive k.ctx && w0.pinned4 k.ctx k.base (2 ^ k.logn * (k.slotsz * 64)) && w0.pinned4 k.ctx k.tagp (2 ^ k.logn)
      | none => false) = true) ∧
    ((wR core0 1 0 0 0 3).queueOf 0).st ≠ .disabled ∧ ((wR core0 1 0 0 0 3).queueOf 0).st = .active ∧ (match w0.handleOfReq 0 ⟨0, true, 0, 0, 0x4000000000001000, 4096, 0⟩ with
      | .ok h => h.segs == [⟨0x1000, 4096⟩]
      | .error _ => false) = true ∧
    (((wX w0 []).ctxOf 0).copyq.any (fun q => q.2.cmds.any (fun t => t.st != .landed && t.handles.contains 0)) = false ∧
      (find? ((wX w0 []).ctxOf 0).handles 0).isSome = true) ∧
    (match poolOfDesc pdesc0 with
      | some (p, t) => wTP.poolOf 0 p == none && wTP.poolPages 0 t.dbase (t.nslot * t.vdep * t.dataLen) &&
        wTP.poolPages 0 t.hbase (t.nslot * t.vdep * 256) && decide (t.nshadow ≠ 0) &&
        wTP.poolPages 0 t.sdbase (t.nshadow * t.dataLen) && wTP.poolPages 0 t.shbase (t.nshadow * 256)
      | none => false) = true := by
  refine ⟨accepts_w0, ?_⟩; decide +kernel

/-- w0 with a partition 1 of one core. -/
def wP1 : State := { w0 with parts := (1, ⟨[(0, 5)], none, none, none, false, []⟩) :: w0.parts }

/-- A request for context 1 in partition 1, with the page table of context 0 and a spill area at offset 2^24. -/
def req0 (h : Word) : CtxReq := ⟨1, 0x200000, 0, [⟨0, 3, 7, true, true, [65472]⟩], 9, 0x4000000001000000, h⟩

/-- w0 whose context is TRAPPED by a software trap, with its state where it is said to be. -/
def wTrap (l : Where) : State := wCtx (fun c => { c with st := .trapped, stop := some 0x1E0, loc := l }) id

theorem witness_ContextCommands :
    accepts w0 j0 ∧
    ((∀ y ∈ (wCtx (fun c => { c with st := .ready }) id).boundTo 0, ((wCtx (fun c => { c with st := .ready }) id).ctxOf y).st ≠ .running ∧
        ((wCtx (fun c => { c with st := .ready }) id).ctxOf y).st ≠ .draining) ∧
      (∀ k ∈ [1], k ∈ (w0.partOf 0).cores.map (fun c => c.2)) ∧ (∀ k ∈ [255], ∀ q ∈ w0.parts, ∀ c ∈ q.2.cores, c.2 ≠ k)) ∧
    ((wP1.ctxOf 1).st = .free ∧ syncOk (req0 0).sync = true ∧ (req0 0).spill % 65536 = 0 ∧
      (wP1.setCtxOf 1 (newCtx (req0 0))).pinned4 1 (req0 0).spill (spillBytes * ((wP1.setCtxOf 1 (newCtx (req0 0))).coresOfCtx 1).length) = true ∧
      (wP1.setCtxOf 1 (newCtx (req0 0x4000000000001000))).handlerBad 1 (0x4000000000001000#64).toNat = none) ∧
    (((wCtx (fun c => { c with st := .dead }) id).ctxOf 0).st = .dead ∧
      ((wCtx (fun c => { c with st := .dead }) id).ctxOf 0).copyq.any (fun q => !q.2.cmds.isEmpty) = false) ∧
    ((wCtx (fun c => { c with st := .ready }) (fun p => { p with live := none })).ctxOf 0).st = .ready ∧
    (((wCtx (fun c => { c with st := .ready }) (fun p => { p with live := none })).giveUpMove 0).askRun 0).isSome = true ∧ (w0.ctxOf 0).st = .running ∧
    ((w0.ctxOf 0).moving = none ∧ (w0.partOf 0).next ≠ some 0 ∧ 0 ∉ (w0.partOf 0).after ∧ ((wCtx (fun c => { c with st := .shelved, loc := .shelf }) id).ctxOf 0).loc ≠ .spill ∧
      ((wCtx (fun c => { c with st := .trapped, loc := .spill }) id).ctxOf 0).loc = .spill) ∧
    (((wCtx (fun c => { c with st := .spilled, loc := .spill }) id).ctxOf 0).st = .spilled ∧ (w0.partOf 0).shelf = none ∧
      ((wCtx (fun c => { c with st := .spilled, loc := .spill }) id).ctxOf 0).moving = none) ∧
    ((wTrap .cores).heldByLoss 0 = false ∧ ((wTrap .cores).ctxOf 0).st = .trapped ∧ ((wTrap .cores).ctxOf 0).stop ≠ some 0x1A2 ∧
      (((wTrap .cores).giveUpMove 0).ctxOf 0).loc = .cores ∧ (((wTrap .cores).giveUpMove 0).partOf 0).next = none ∧
      (wTrap .shelf).heldByLoss 0 = false ∧ (((wTrap .shelf).giveUpMove 0).ctxOf 0).loc ≠ .cores) ∧
    w0.alive 0 = true := by
  refine ⟨accepts_w0, ?_⟩; decide +kernel

/-- A checkpoint image of the header record and the launch number 9; its CRC was formed with Python from R380's definition. -/
def ckA : List Byte := toLE 4 0 ++ toLE 4 64 ++ toLE 4 0xCA94C701
def ckB : List Byte := toLE 4 3 ++ toLE 4 4 ++ toLE 4 9
def ckBody : List Byte := ckA ++ toLE 60 0 ++ ckB ++ toLE 60 0 ++ (toLE 4 0xFFFFFFFF ++ toLE 4 8)
def ckImage0 : List Byte := ckBody ++ toLE 8 0xBAAED6F6B87BD03A

theorem ckBody_crc : crc64 ckBody = 0xBAAED6F6B87BD03A#64 := by
  have h1 : ckA.foldl crcByte 0 = 0x41ABD7CD86E76302#64 := by decide +kernel
  have h2 : (toLE 60 0).foldl crcByte 0x41ABD7CD86E76302#64 = 0x49A082B37AD639D4#64 := by decide +kernel
  have h3 : ckB.foldl crcByte 0x49A082B37AD639D4#64 = 0x639732C83BC74ABC#64 := by decide +kernel
  have h4 : (toLE 60 0).foldl crcByte 0x639732C83BC74ABC#64 = 0x92DC6E4CF066C03E#64 := by decide +kernel
  have h5 : (toLE 4 0xFFFFFFFF ++ toLE 4 8).foldl crcByte 0x92DC6E4CF066C03E#64 = 0xBAAED6F6B87BD03A#64 := by decide +kernel
  simp only [crc64, ckBody, List.foldl_append] at h5 ⊢
  rw [h1, h2, h3, h4, h5]

theorem ckImage_restores : w0.restorable 0 ckImage0 = some [(0, toLE 4 0xCA94C701 ++ toLE 60 0), (3, toLE 4 9)] := by
  have hr : imageRecords ckImage0 (ckImage0.length / 8 + 1) 0 = some ([(0, toLE 4 0xCA94C701 ++ toLE 60 0), (3, toLE 4 9)], 152) := by decide +kernel
  have ht : ckImage0.take 152 = ckBody := by decide +kernel
  have hf : fieldLE ckImage0 152 8 = 0xBAAED6F6B87BD03A := by decide +kernel
  have ha : ([(0, toLE 4 0xCA94C701 ++ toLE 60 0), (3, toLE 4 9)] : List (Nat × List Byte)).all (w0.recordFits 0) = true := by decide +kernel
  simp [State.restorable, hr, ht, hf, ha, ckBody_crc]

/-- An MWRITE of two bytes at 0x5000 that still has to perform, and what its bytes need. -/
def pw0 (l : List (Option (Option VerTag))) : PortWrite := ⟨1, 7, 0, [⟨0x5000, 2⟩], [1, 2], l⟩
def wPw (l : List (Option (Option VerTag))) : State := wDev (fun d => { d with pwrite := some (pw0 l) })

theorem witness_PortWrites : (wPw [some none, some none]).dev.pwrite = some (pw0 [some none, some none]) ∧
    (pw0 [some none, some none]).admits = (pw0 [some none, some none]).data.map (fun _ => some none) ∧
    (pw0 [none, none]).admits = (pw0 [none, none]).data.map (fun _ => none) ∧ (pw0 []).segs = [⟨0x5000, (pw0 []).data.length⟩] ∧
    overlap (pw0 []).segs w0.imageSegs = false ∧ w0.placeBad (.phys 0 (pw0 []).segs) = false := by decide +kernel

/-- What a write of two bytes from the port at a pointer of context 0 comes to at each of its bytes satisfies a test. -/
def portAsks (s : State) (a : Nat) (p : List Admit → Bool) : Bool :=
  match s.portRange (.ctx 0) a 2 true with
  | some l => !l.any (fun c => bit c.leaf 2) && p (s.portAdmits 0 (bits a 55 0) l)
  | none => false

theorem witness_MemoryCommands :
    accepts w0 j0 ∧ (w0.portRange .phys (2 ^ 39 - 16) 16 false).isSome = true ∧ w0.portRange .phys (2 ^ 39 - 16) 17 false = none ∧
    (w0.portRange .phys 0x5000 2 true).isSome = true ∧ (w0.portRange (.ctx 0) 0x400000000000FFFF 2 false).isSome = true ∧
    portAsks w0 0x400000000000FFFF (fun l => l.all (fun r => !(r == .refuse))) = true ∧
    portAsks (wV 2 [(1, ver .lost)] 0) 0x4000000090001000 (fun l => l.any (fun r => r == .refuse)) = true ∧
    (w0.alive 0 = true ∧ w0.tasks.any (fun t => t.2.ctx == 0 && !t.2.over) = false ∧ w0.restorable 0 [] = none ∧
      w0.restorable 0 ckImage0 = some [(0, toLE 4 0xCA94C701 ++ toLE 60 0), (3, toLE 4 9)] ∧
      (([(0, toLE 4 0xCA94C701 ++ toLE 60 0), (3, toLE 4 9)] : List (Nat × List Byte)).filter (fun r => r.1 == 3)).map (fun r => r.2) = [toLE 4 9]) := by
  refine ⟨accepts_w0, ?_, ?_, ?_, ?_, ?_, ?_, ?_, ?_, ?_, ckImage_restores, ?_⟩ <;> decide +kernel

/-- A group record of one package. -/
def grec0 : List Byte := toLE 4 1 ++ toLE 2 1023 ++ toLE 1 0 ++ toLE 1 64 ++ toLE 4 1 ++ toLE 4 0 ++ toLE 48 0

theorem witness_FabricCommands :
    accepts w0 j0 ∧ ((0x10000 : Nat) ≤ 2 ^ 40 ∧ bits (0x4000000000000000#64).toNat 63 60 = 4 ∧
      allPages w0 0 (0x4000000000000000#64).toNat 0x10000 (fun e => bit e 4 && !bit e 2 && !bit e 3) = true) ∧
    (groupOk grec0 [Config.deviceNumber.toNat] = true ∧ w0.groupAt (groupOfRecord grec0).1 = none) ∧ (wOp (.send 3) 0).groupAt 0 ≠ none ∧
    ((wPort .down 0).port 23 = .down ∧ (wPort .up 0).port 23 = .up ∧ (wPort .degraded 0).port 23 = .degraded ∧ (wPort .fenced 0).port 23 = .fenced ∧
      ((wPort .fenced 0).dieOf (portDie 23)).lost = false) := by
  have h : groupOk grec0 [Config.deviceNumber.toNat] = true := by
    have hn := Config.deviceNumber.isLt
    simp only [groupOk, List.all_cons, List.all_nil, Bool.and_true, Bool.and_eq_true, decide_eq_true_eq]
    refine ⟨⟨?_, ?_⟩, hn⟩
    · decide +kernel
    · have : fieldLE grec0 12 4 = 0 := by decide +kernel
      simp [this]
  refine ⟨accepts_w0, ?_, ⟨h, ?_⟩, ?_⟩ <;> decide +kernel

theorem witness_DeviceCommands :
    acceptsAlways w0 j0 ∧ acceptsAlways (wDev (fun d => { d with phase := .recovery })) j0 ∧ 2 ^ 255 < 2 ^ 256 ∧
    (wDev (fun d => { d with fenced := [255] })).dev.fenced.filter (fun k => bit (2 ^ 255) k && !(w0.dieOf (dieOfCore k)).lost) = [255] ∧
    (List.replicate 32 (0 : Byte)).length = 32 ∧
    (wCtx (fun c => { c with st := .dead }) id).ctxs.any (fun x => x.2.st != .free && x.2.st != .dead) = false := by
  unfold acceptsAlways comesNext; decide +kernel

/-! ### Frames, causes and handlers -/

theorem witness_TransferFrame :
    ((Instr.jal (3#26), (31 : Reg), true, pcOff w0 (3#26).toInt) ∈ transferWords w0 4 1 2 0 (3#26) ∧ inCode w0 (pcOff w0 (3#26).toInt) ∧
      ∃ t, exec (.jal 3) w0 = .next t ∧ (t.core.sreg 31 == 1) = true) ∧
    ((Instr.beq 1 2 (4#16), (0 : Reg), decide (w0.core.sreg 1 = w0.core.sreg 2), pcOff w0 (4#16).toInt) ∈ transferWords w0 4 1 2 4 (3#26) ∧
      decide (w0.core.sreg 1 = w0.core.sreg 2) = false ∧ ¬inCode w0 (pcOff w0 (4#16).toInt) ∧
      ∃ t, exec (.beq 1 2 4) w0 = .next t ∧ (t.c.pc == 1) = true) := by
  refine ⟨⟨by simp [transferWords], ?_, next_of (by decide +kernel)⟩, by simp [transferWords], ?_, ?_, next_of (by decide +kernel)⟩
  · unfold inCode pcOff; decide +kernel
  · decide +kernel
  · unfold inCode pcOff; decide +kernel

theorem witness_MemoryWordsIssueFrame :
    (ready w0 4 ∧ ready w0 1 ∧ w0.c.ldReady = true ∧ w0.c.stReady = true ∧ w0.core.sreg 1 + (0#16).signExtend 64 = 0x4000000000001000#64) ∧
    (∃ t, access w0 w0.cur ⟨[4, 5, 6, 7], none, 8, 8, false, 0⟩ none 0x4000000000001000 = .ok t ∧ (t.ptr == 0x4000000000001000) = true) ∧
    (∃ t, access w0 w0.cur ⟨[4, 5, 6, 7], none, 8, 8, true, 1⟩ none 0x4000000000001000 = .ok t ∧
      (decide (w0.recordOf t = none) && okWith (w0.admitAt t 0x0A0) (fun g => g.isSome) &&
        okWith (w0.writeOp t (toLE 8 0) (w0.streamKey .C (w0.c.issued + 1) 0)) (fun _ => true)) = true) ∧
    (∃ t, access w0 w0.cur ⟨[4, 6, 7], none, 8, 8, true, 3⟩ none 0x4000000000001000 = .ok t ∧
      (decide (w0.recordOf t = none) && okWith (w0.admitAt t 0x0A0) (fun _ => true) && !t.dpage) = true) ∧
    w0.logOn w0.ctxNo = false ∧ (atomForms 0 4 1 2 true).isSome = true ∧ nextWith (exec (.ldd 4 1 0) w0) (fun u => u.core.cS.loads.length == 1) = true ∧
    nextWith (exec (.std 4 1 0) w0) (fun u => u.core.cS.stores.length == 1) = true ∧
    nextWith (exec (.aadd 4 1 2 true) w0) (fun u => u.core.cS.stores.length == 1) = true := by
  refine ⟨⟨rfl, rfl, ?_⟩, ok_of ?_, ok_of ?_, ok_of ?_, ?_⟩ <;> decide +kernel

theorem witness_EngineIssueFrame : ∃ e : Eff, e.lat = some 4 ∧ (State.issueEngine .V (hd96 (vW)) e).core.vS.sigma = 1 :=
  ⟨{ s := w0, lat := some 4 }, rfl, by decide +kernel⟩

/-- w0 with a handler table at offset 0x8000 of window 0x4, whose entry of class 15 has its save area at 0xA000 and DATA = 0xB000. -/
def wHand : State :=
  { withMem w0 (0x8000 + 15 * 32) (toLE 8 0x4000000000009000 ++ toLE 8 0x400000000000A000 ++ toLE 8 0x400000000000B000) with
    ctxs := [(0, (w0.ctxOf 0).setCsr 0x301 0x4000000000008000)] }

theorem witness_TrapEntersHandlerOrStops :
    (wHand.ctxNo = 0 ∧ (wHand.ctxOf 0).st = .running ∧ wHand.core.hand = none ∧
      wHand.handlerEntry 0 15 = some (0x4000000000009000, 0x400000000000A000, 0x400000000000B000) ∧ wHand.entryBad 0 15 = none ∧
      wHand.core.owes = false ∧ wHand.saveLines 0 0x400000000000A000 = (List.range 4).map (fun i => ([⟨0xA000 + 64 * i, 64⟩], .done)) ∧
      overlap [⟨0xA000, 256⟩] wHand.imageSegs = false) ∧
    { wHand with poison := [0] }.entryBad 0 15 = some (0x084, 0x40000000000081E0, 0x4100) ∧
    (w0.ctxNo = 0 ∧ w0.handlerEntry 0 15 = none ∧ w0.entryBad 0 15 = none) := by decide +kernel

/-- A handler that runs for a cause of the C stream. -/
def wIn : State := { wHand with cores := [(0, { core0 with hand := some ⟨0x4000000000009000, 0x400000000000A000, .C, 0, none, 0, 0, none, .none, .none, none⟩ })] }

theorem witness_CauseInHandlerKills :
    wIn.ctxNo = 0 ∧ (wIn.ctxOf 0).st = .running ∧ wIn.core.hand.isSome = true ∧ (32 ≤ 0x060 ∧ 0x060 / 32 ≠ 13 ∧ 0x060 / 32 ≠ 14) ∧
    nextWith (exec (.trap 0) wIn) (fun t => (t.ctxOf 0).stop == some 0x1A3) = true ∧
    nextWith (caused wIn true 0x060 5) (fun t => (t.ctxOf 0).stop == some 0x1A3) = true := by decide +kernel

theorem witness_AccessChecksInOrder :
    (ready w0 4 ∧ ready w0 1 ∧ ready w0 2 ∧ w0.c.ldReady = true ∧ w0.c.stReady = true ∧ (atomForms 0 4 1 2 true).isSome = true) ∧
    ((0xFFF : Nat) / 2 ^ 60 = 0 ∧ 8 ≤ 0x8000000000000000 / 2 ^ 60) ∧ (1 ≤ 0x3FFFFFFFFFFFFFFF / 2 ^ 60 ∧ 0x3FFFFFFFFFFFFFFF / 2 ^ 60 ≤ 3) ∧
    (4 ≤ 0x5000000000000000 / 2 ^ 60 ∧ 0x5000000000000000 / 2 ^ 60 ≤ 7 ∧ 0x5000000000000000 / 2 ^ 60 ∉ [4, 6, 7]) ∧
    (0x40FFFFFFFFFFFFFC / 2 ^ 60 ∈ [4, 5, 6, 7] ∧ ¬inWindow 0x40FFFFFFFFFFFFFC 8 ∧ inWindow 0x40FFFFFFFFFFFFFC 4 ∧
      ¬inWindow 0x7000001000000000 4 ∧ inWindow 0x7000000FFFFFFFF8 8 ∧ ¬inWindow 0x600000FFFFFFFFFC 8 ∧ inWindow 0x6FFFFFFFFFFFFFF8 8) ∧
    (0x40FFFFFFFFFFFFF4 / 2 ^ 60 ∈ [4, 5, 6, 7] ∧ inWindow 0x40FFFFFFFFFFFFF4 8 ∧ 0x40FFFFFFFFFFFFF4 % 8 ≠ 0) := by
  refine ⟨⟨rfl, rfl, rfl, by decide +kernel⟩, by decide, by decide, by decide, ?_, ?_⟩ <;> simp [inWindow]

theorem witness_LimitCheck :
    ((⟨0x100, 0, 16⟩ : AReg).limit ≠ 0 ∧ (∀ i, i < 8 → 0 ≤ distance 0x100 (0x108 + i) ∧ distance 0x100 (0x108 + i) < 16) ∧
      ¬(0 ≤ distance 0x100 (0x109 + 7) ∧ distance 0x100 (0x109 + 7) < 16) ∧ ¬(0 ≤ distance 0x100 0xFF ∧ distance 0x100 0xFF < 16)) ∧
    ∃ t, access w0 0 ⟨[4], none, 8, 8, false, 0⟩ (some ⟨0x4000000000001000, 0, 16⟩) 0x4000000000001008 = .ok t ∧
      (t.ptr == 0x4000000000001008) = true := by
  refine ⟨?_, ok_of (by decide +kernel)⟩
  decide +kernel

theorem witness_EndPredicate : (word (imm 0) (imm 0) (imm 0) 0 0 1).pred ≠ 0 := by decide

theorem witness_MinimumAndMaximum :
    isNaN32 0x7F800001 = true ∧ isNaN32 0xFFC00000 = true ∧ isNaN32 0x80000000 = false ∧ isNaN32 0x00000000 = false ∧
    fpOrder 0x80000000 < fpOrder 0x00000000 ∧ fpOrder 0xFF800000 < fpOrder 0xFF7FFFFF := by decide

/-! ### Words written out from the encoding tables -/

/-- Whether C words decode to their instructions. The words are formed from the match words and fields of the opcode table (Tables 2-5, 2-8, R53, R54). -/
noncomputable def readsC (l : List (Nat × Instr)) : Bool := l.all (fun e => decode .C (toLE 4 e.1) == .ok e.2)

theorem test_decode_c1 : readsC
    [(0x02AA9800, .add 21 10 19), (0x02AA9820, .sub 21 10 19), (0x02AA9840, .mul 21 10 19), (0x02AA9860, .mulh 21 10 19),
     (0x02AA9880, .mulhu 21 10 19), (0x02AA98A0, .div 21 10 19), (0x02AA98C0, .divu 21 10 19), (0x02AA98E0, .rem 21 10 19),
     (0x02AA9900, .remu 21 10 19), (0x02AA9920, .and 21 10 19), (0x02AA9940, .or 21 10 19), (0x02AA9960, .xor 21 10 19),
     (0x02AA9980, .shl 21 10 19), (0x02AA99A0, .shr 21 10 19), (0x02AA99C0, .sra 21 10 19), (0x02AA99E0, .min 21 10 19),
     (0x02AA9A00, .max 21 10 19), (0x02AA9A20, .minu 21 10 19), (0x02AA9A40, .maxu 21 10 19), (0x02AA9A60, .slt 21 10 19),
     (0x02AA9A80, .sltu 21 10 19), (0x02AA9AA0, .seq 21 10 19), (0x02AA02C0, .clz 21 10), (0x02AA02E0, .popc 21 10),
     (0x06AAB0A3, .addi 21 10 45219), (0x0AAAB0A3, .andi 21 10 45219), (0x0EAAB0A3, .ori 21 10 45219), (0x12AAB0A3, .xori 21 10 45219),
     (0x16AA002D, .shli 21 10 45), (0x1AAA002D, .shri 21 10 45), (0x1EAA002D, .srai 21 10 45), (0x22AAB0A3, .slti 21 10 45219),
     (0x26AAB0A3, .sltiu 21 10 45219), (0x2AA0B0A3, .lui 21 45219), (0x2EAAB0A3, .ldw 21 10 45219), (0x32AAB0A3, .ldd 21 10 45219),
     (0x36AAB0A3, .stw 21 10 45219), (0x3AAAB0A3, .std 21 10 45219), (0x3D2A9800, .seta 9 10 19), (0x412A0000, .setk 9 10),
     (0x46A91000, .geta 21 9 2), (0x4953F005, .beq 10 19 61445), (0x4D53F005, .bne 10 19 61445), (0x5153F005, .blt 10 19 61445)] = true := by decide +kernel

theorem test_decode_c2 : readsC
    [(0x5553F005, .bge 10 19 61445), (0x5953F005, .bltu 10 19 61445), (0x5D53F005, .bgeu 10 19 61445), (0x62F0F0F5, .j 49344757),
     (0x66F0F0F5, .jal 49344757), (0x6AAAB0A3, .jalr 21 10 45219), (0x6D53F005, .loopc 10 19 61445), (0x70000005, .fork 5),
     (0x74000005, .rdv 5), (0x7800A955, .post 42 341), (0x7C00A955, .await 42 341), (0x800A0002, .boqp 10 2), (0x840A0002, .qput 10 2),
     (0x8AAA9800, .spawn 21 10 19), (0x8C0A0000, .jdec 10), (0x90000001, .texit true), (0x96AAB0A3, .bksel 21 10 45219),
     (0x9AAA0001, .rclaim 21 10 true), (0x9EAA0000, .rpubl 21 10), (0xA2AA0001, .rtake 21 10 true), (0xA6AA0000, .rrels 21 10),
     (0xAAA0804D, .tlrd 21 true 77), (0xAC0A004D, .tlwait 10 77), (0xB0000000, .mark), (0xB40A0055, .phmark 10 85),
     (0xBAAA9810, .aadd 21 10 19 true), (0xB80A9830, .aaddq 10 19 true), (0xBAAA9850, .amin 21 10 19 true),
     (0xB80A9870, .aminq 10 19 true), (0xBAAA9890, .amax 21 10 19 true), (0xB80A98B0, .amaxq 10 19 true),
     (0xBAAA98D0, .aminu 21 10 19 true), (0xB80A98F0, .aminuq 10 19 true), (0xBAAA9910, .amaxu 21 10 19 true),
     (0xB80A9930, .amaxuq 10 19 true), (0xBAAA9950, .aand 21 10 19 true), (0xB80A9970, .aandq 10 19 true),
     (0xBAAA9990, .aor 21 10 19 true), (0xB80A99B0, .aorq 10 19 true), (0xBAAA99D0, .axor 21 10 19 true), (0xB80A99F0, .axorq 10 19 true),
     (0xBAAA9A10, .axchg 21 10 19 true), (0xB80A9A30, .axchgq 10 19 true), (0xBAAA9A50, .acas 21 10 19 true)] = true := by decide +kernel

theorem test_decode_c3 : readsC
    [(0xBAAA9A70, .acasq 21 10 19 true), (0xBAAA9A80, .afadd 21 10 19), (0xB80A9AA0, .afaddq 10 19), (0xBAAA9AC0, .afmin 21 10 19),
     (0xB80A9AE0, .afminq 10 19), (0xBAAA9B00, .afmax 21 10 19), (0xB80A9B20, .afmaxq 10 19), (0xBEAA9800, .aredo 21 10 19),
     (0xC2AA9800, .waita 21 10 19), (0xC6AA0000, .wake 21 10), (0xCAAA0000, .baraDevice 21 10), (0xCAA08009, .baraGroup 21 9),
     (0xCEAA0000, .barwDevice 21 10), (0xCEA08009, .barwGroup 21 9), (0xD2AA0000, .barawDevice 21 10), (0xD2A08009, .barawGroup 21 9),
     (0xD6AA0000, .talloc 21 10), (0xDAAA9800, .tseal 21 10 19), (0xDC0A9800, .tretire 10 19), (0xE2AA9800, .trepl 21 10 19),
     (0xE6AA9800, .tlook 21 10 19), (0xEAAA9800, .ckpt 21 10 19), (0xEEAA9800, .xcopy 21 10 19), (0xEEAA9820, .xcopy2 21 10 19),
     (0xEEAA9840, .xfill 21 10 19), (0xEEA09860, .xstat 21 19), (0xF2AA9800, .lkmcst 21 10 19), (0xF2AA9820, .lkldred 21 10 19),
     (0xF2AA9840, .lksend 21 10 19), (0xF00A0060, .cgjoin 10), (0xF00A0080, .cgleave 10), (0xF2AA00A0, .cgstat 21 10), (0xF4000000, .nop),
     (0xF400A820, .trap 21), (0xF4000040, .eret), (0xF6B52860, .csrr 21 677), (0xF6B52880, .csrw 21 677), (0xF40320A0, .fence 3 4),
     (0xF40A00C0, .sleep 10), (0xF40000E0, .halt), (0xF6A00100, .dlogp 21), (0xF6AA0120, .scrub 21 10)] = true := by decide +kernel

/-- The fields below the opcode of the worked example of R35, `(!p2) VADD.F32 v3, v4, [a4+32]+ ~3`, with a variant. -/
def exampleBits (var : Nat) : Nat := 0x3A00000003000004A20020 + var * 2 ^ 72
def exampleW (var : Nat) : W96 := ⟨3, true, 2, 0, 0, BitVec.ofNat 2 var, .reg 0 false 3, .reg 0 false 4, .str 4 1 32⟩

/-- Whether words with these opcodes (Tables 2-9 and 2-10, R57) and variants decode to their instructions, with every field of the example. -/
noncomputable def reads96 (t : Strm) (l : List (Nat × Nat × (W96 → Instr))) : Bool :=
  l.all (fun e => decode t (toLE 12 (e.1 * 2 ^ 88 + exampleBits e.2.1)) == .ok (e.2.2 (exampleW e.2.1)))

theorem test_decode_load : reads96 .L
    [(0x00, 0, .ldb), (0x01, 0, .ldtBuffer), (0x01, 1, .ldtTile), (0x02, 0, .ldg), (0x03, 0, .ldz), (0x04, 0, .ldc), (0x05, 0, .ldsh),
     (0x06, 0, .lpref), (0x07, 0, .lwfree), (0x08, 0, .lpubl)] = true := by decide +kernel

theorem test_decode_store : reads96 .S
    [(0x00, 0, .stb), (0x01, 0, .sttBuffer), (0x01, 1, .sttTile), (0x02, 0, .stsc), (0x03, 0, .stadd), (0x04, 0, .staxpy),
     (0x05, 0, .stopt), (0x05, 1, .stoptAdam), (0x06, 0, .stcvt), (0x06, 1, .stcvtTile), (0x07, 0, .satom), (0x08, 0, .swfill),
     (0x09, 0, .srels)] = true := by decide +kernel

theorem test_decode_vector1 : reads96 .V
    [(0x00, 0, .vadd), (0x01, 0, .vsub), (0x02, 0, .vmul), (0x03, 0, .vfma), (0x04, 0, .vfms), (0x05, 0, .vmin), (0x06, 0, .vmax),
     (0x07, 0, .vabs), (0x08, 0, .vneg), (0x09, 0, .vcpys), (0x0A, 0, .vrcp), (0x0B, 0, .vrsq), (0x0C, 0, .vsqrt), (0x0D, 0, .vexp2),
     (0x0E, 0, .vlog2), (0x0F, 0, .vexpd), (0x10, 0, .vtanh), (0x11, 0, .vsigm), (0x12, 0, .vcmpeq), (0x13, 0, .vcmplt),
     (0x14, 0, .vcmple), (0x15, 0, .vcmpun), (0x16, 0, .vclass), (0x40, 0, .viadd), (0x41, 0, .visub), (0x42, 0, .vimul),
     (0x43, 0, .vimad), (0x44, 0, .vand), (0x45, 0, .vor), (0x46, 0, .vxor), (0x47, 0, .vandn), (0x48, 0, .vshl), (0x49, 0, .vshr),
     (0x4A, 0, .vsra), (0x4B, 0, .vimin), (0x4C, 0, .vimax), (0x4D, 0, .viminu), (0x4E, 0, .vimaxu), (0x4F, 0, .vicmpeq)] = true := by decide +kernel

theorem test_decode_vector2 : reads96 .V
    [(0x50, 0, .vicmplt), (0x51, 0, .vicmpltu), (0x52, 0, .vpcnt), (0x53, 0, .vclz), (0x60, 0, .vcvt), (0x61, 0, .vqnt), (0x62, 0, .vdqnt),
     (0x63, 0, .vscale), (0x64, 0, .vpack), (0x65, 0, .vunpk), (0x70, 0, .vrsum), (0x71, 0, .vrmax), (0x72, 0, .vrmin), (0x73, 0, .vrarg),
     (0x74, 0, .vscan), (0x75, 0, .vscanx), (0x76, 0, .vsort), (0x77, 0, .vtopk), (0x78, 0, .vmrg), (0x79, 0, .vperm), (0x7A, 0, .vbcst),
     (0x7B, 0, .vrot), (0x7C, 0, .vsel), (0x7D, 0, .vmov), (0x7E, 0, .vldi), (0x7F, 0, .vlane), (0x7F, 1, .vlaneAddress),
     (0x90, 0, .vpushc), (0x91, 0, .vpopc), (0x92, 0, .vrebal), (0x93, 0, .vcount), (0xA0, 0, .vsred), (0xA1, 0, .vsscan),
     (0xA2, 0, .vsnorm), (0xA3, 0, .vsmask), (0xA4, 0, .vslen), (0xA5, 0, .vblz), (0xB0, 0, .vrng), (0xB1, 0, .vrngu)] = true := by decide +kernel

theorem test_decode_control : reads96 .L
    [(0xF0, 0, .engineNop), (0xF1, 0, .enginePost), (0xF2, 0, .engineAwait), (0xF3, 0, .engineMark), (0xF4, 0, .jmp), (0xF5, 0, .boqb),
     (0xF5, 1, .boqbPush), (0xF5, 2, .boqbPushall), (0xF6, 0, .loop), (0xF7, 0, .iaddi), (0xF8, 0, .iset), (0xF9, 0, .ipop),
     (0xFA, 0, .engineFence), (0xFB, 0, .trapx), (0xFC, 0, .endStream)] = true := by decide +kernel

/-- The fields below the opcode of the worked example of R35, `(p1) MMA.D8.D8 t2, [a1+0], [a2+0] k=8 shape=3 check`, with acc given. -/
def exampleM (acc : Bool) : W192 := ⟨0, false, 1, 2, 2, 2, 0, false, acc, 3, false, 0, 0, 0, 0, 1, 0, 0, 2, 0, 0, 8, true, false⟩

/-- Whether matrix words with these opcodes (Table 2-10) decode to their instructions; MDRAIN to a register is the form with acc = 1 (R208). -/
noncomputable def reads192 (l : List (Nat × Bool × (W192 → Instr))) : Bool :=
  l.all (fun e => decode .M (toLE 24 (e.1 * 2 ^ 184 + 0x000122200C00000020000000200000000008800000000000 + (if e.2.1 then 2 ^ 160 else 0))) ==
    .ok (e.2.2 (exampleM e.2.1)))

theorem test_decode_matrix : reads192
    [(0x00, true, .mma), (0x01, false, .mmat), (0x02, true, .mmas), (0x03, false, .mzero), (0x04, true, .minit), (0x05, false, .mdrain),
     (0x05, true, .mdrainRegister), (0x06, true, .mret), (0x07, false, .mcal), (0x08, true, .msetk), (0x09, false, .mwide),
     (0x0A, true, .mchk), (0x0B, false, .mspill), (0x0C, true, .mfill), (0x0D, false, .mstat)] = true := by decide +kernel

/-- A word of the engine-control group in the M stream lies in bits [191:96] (R35). -/
theorem test_decode_control_m : decode .M (toLE 24 (0xFC * 2 ^ 184)) = .ok (.endStream ⟨0, false, 0, 0, 0, 0, .reg 0 false 0, .reg 0 false 0, .reg 0 false 0⟩) ∧
    decode .M (toLE 24 (0xFC * 2 ^ 184 + 1)) = .error 0x021 := by decide +kernel

/-- Unassigned opcodes and reserved bits are refused by their causes (Table 2-11). -/
theorem test_decode_refuses : decode .C (toLE 4 0xF8000000) = .error 0x020 ∧ decode .C (toLE 4 0x00000300) = .error 0x020 ∧
    decode .C (toLE 4 0xB80002B0) = .error 0x020 ∧ decode .C (toLE 4 0x00000001) = .error 0x021 ∧ decode .V (toLE 12 (0x17 * 2 ^ 88)) = .error 0x020 ∧
    decode .L (toLE 12 (0x09 * 2 ^ 88)) = .error 0x020 ∧ decode .S (toLE 12 (0xFD * 2 ^ 88)) = .error 0x020 ∧
    decode .M (toLE 24 (0x0E * 2 ^ 184)) = .error 0x020 ∧ decode .M (toLE 24 1) = .error 0x021 ∧ decode .V (toLE 12 0x10000) = .error 0x021 := by
  decide +kernel

/-! ### One ill-formed term for each check of WellFormed -/

/-- Whether each of these instructions breaks a check, with this lowest cause (R59). -/
noncomputable def breaks (l : List (Instr × Nat)) : Bool := l.all (fun e => e.1.cause == some e.2 && !e.1.wf)

/-- Operand positions and the fields fmt, rm and var (R30, R32, Table 2-11). -/
theorem test_wf_operands : breaks
    [(.engineNop (word (imm 1) (imm 0) (imm 0)), 0x021), (.ldg (word (imm 1 5) (via 1) (imm 0 1)), 0x021), (.ldg (word (.reg 0 true 5) (via 1) (imm 0 1)), 0x023),
      (.vsort (word (imm 0 5) (imm 0 2) (imm 0 3)), 0x022), (.ldz (word (via 2) (imm 0 2) (imm 1)), 0x023), (.vrng (word (imm 0 5) (imm 1 2) (imm 0 3)), 0x021),
      (.vadd (word (imm 0 5) (imm 1 2) (imm 0 3)), 0x021), (.vadd (word (.reg 0 true 5) (imm 0 2) (imm 0 3)), 0x023), (.ldb (word (imm 0 2) (via 1) (imm 1)), 0x023),
      (.lwfree (word (imm 1) (imm 0) (via 5 8)), 0x022), (.iset (word (imm 16) (imm 0) (via 0 3)), 0x022), (.iset (word (imm 1 1) (imm 0) (via 0 3)), 0x021),
      (.boqbPush (word (.reg 0 true 0) (imm 0) (imm 0) 0 1), 0x023), (.jmp (word (imm 0) (imm 0) (via 3 3)), 0x021), (.jmp (word (imm 0) (imm 0) (imm 0)), 0x023),
      (.engineNop (word (imm 0) (imm 0) (imm 0) 1), 0x021), (.vadd (word (imm 0 5) (imm 0 2) (imm 0 3) 1), 0x040), (.vperm (word (imm 0 5) (imm 0 2) (imm 0 3) 0 2), 0x022),
      (.vadd (word (imm 0 5) (imm 0 2) (imm 0 3) 0 1), 0x021), (.vmin { word (imm 0 5) (imm 0 2) (imm 0 3) with rm := 1 }, 0x021),
      (.ldb (word (via 2) (via 1) (imm 129)), 0x022)] = true := by decide +kernel

/-- Rules that look at several fields (R39, R167, R171, R176, R183, R250, R252). -/
theorem test_wf_together : breaks
    [(.endStream (word (imm 0) (imm 0) (imm 0) 0 0 1), 0x022), (.satom (word (via 1) (imm 0 2) (imm 8 3) 5), 0x022), (.satom (word (via 1) (imm 0 2) (imm 9 3) 0), 0x022),
      (.vcvt (word (imm 0 5) (imm 0 2) (imm 8)), 0x040), (.vcvt (word (imm 0 5) (imm 0 2) (imm 1)), 0x040), (.vpack (word (imm 2 5) (imm 0 2) (imm 0 3) 2), 0x022),
      (.vunpk (word (imm 4 5) (imm 0 2) (imm 0) 2), 0x022), (.vsort (word (imm 0 4) (imm 0 2) (imm 0 3) 0 2), 0x022), (.vtopk (word (imm 1 4) (imm 0 2) (imm 0 3) 0 3), 0x022),
      (.vmrg (word (imm 0 4) (imm 0 2) (imm 0 8) 0 2), 0x022), (.vpopc (word (imm 1 5) (imm 1 4) (imm 0)), 0x022),
      (.vsred { word (imm 1 5) (imm 0 2) (imm 1) with rm := 1 }, 0x021), (.vsscan { word (imm 1 5) (imm 0 2) (imm 0) 5 with rm := 1 }, 0x021)] = true := by
  decide +kernel

/-- Matrix words (R34, R193, R195, Table 7-4) and C words (R50, R58). -/
theorem test_wf_matrix_and_control : breaks
    [(.mma (mword 3), 0x022), (.mma { mword with geom := 2 }, 0x022), (.mma { mword with gen := true }, 0x022), (.mma { mword with greg := 1 }, 0x022),
      (.mma { mword with bfmt := 1 }, 0x040), (.mma { mword with afmt := 2, bfmt := 2 }, 0x022), (.mma { mword with kth := 1 }, 0x021), (.mmas mword, 0x022),
      (.minit { mword with kcount := 0, aoff := 1 }, 0x021), (.mdrain { mword with kcount := 0 }, 0x021), (.mdrain { mword with kcount := 0, breg := 0, afmt := 6 }, 0x040),
      (.mdrainRegister { mword with areg := 0, breg := 0, acc := true, aoff := 64 * 128 }, 0x021),
      (.mdrainRegister { mword with areg := 0, breg := 0, acc := true, aoff := 63, kcount := 2 }, 0x022),
      (.mdrainRegister { mword with areg := 0, breg := 0, acc := true, afmt := 8 }, 0x040), (.mwide { mword with areg := 0, breg := 0, kcount := 0, reissue := 3 }, 0x022),
      (.mchk { mword with tile := 0, areg := 0, bfmt := 5 }, 0x040), (.mchk { mword with tile := 0, areg := 0, kcount := 0 }, 0x022), (.geta 1 2 3, 0x022), (.post 1 0, 0x022),
      (.await 0 0, 0x022), (.tlrd 1 false 5, 0x022), (.tlwait 1 63, 0x022), (.phmark 1 0, 0x022), (.fence 4 0, 0x022), (.fence 1 5, 0x022), (.csrr 1 0x000, 0x024),
      (.csrw 1 0x3F9, 0x024)] = true := by decide +kernel

/-! ### Results worked out in the spec -/

/-- Table 4-6: division by 0, and of −2^63 by −1; the remainder has the sign of a. -/
theorem test_division : divS 7 0 = BitVec.allOnes 64 ∧ divS (BitVec.ofInt 64 (-2 ^ 63)) (BitVec.ofInt 64 (-1)) = BitVec.ofInt 64 (-2 ^ 63) ∧
    remS (BitVec.ofInt 64 (-7)) 2 = BitVec.ofInt 64 (-1) ∧ remS (BitVec.ofInt 64 (-2 ^ 63)) (BitVec.ofInt 64 (-1)) = 0 ∧ remS 7 0 = 7 := by decide +kernel

/-- R107: ADDI s6, s0, 4 and SHLI s6, s6, 60 on s6 = 4; LUI s7, 0x12. -/
theorem test_constant : nextWith (exec (.shli 6 6 60) (base { core0 with sregs := [(6, 4)] })) (fun t => t.core.sreg 6 == 0x4000000000000000) = true ∧
    nextWith (exec (.lui 7 0x12) w0) (fun t => t.core.sreg 7 == 0x120000) = true ∧
    nextWith (exec (.lui 7 0x8000) w0) (fun t => t.core.sreg 7 == 0xFFFFFFFF80000000) = true := by decide +kernel

/-- Table 15-9: the walk of 0x4000_5051_A587_1234, its leaf without W, and the 2 MiB leaf that is not aligned. -/
def walkMem (leaf l2 : Nat) : State :=
  let s := withMem (withMem (withMem (withMem w0 0x2000000028 (toLE 8 0x2000010001)) 0x2000010518 (toLE 8 0x2000020001)) 0x2000020960 (toLE 8 l2)) 0x2000030038 (toLE 8 leaf)
  { s with ctxs := [(0, { w0.ctxOf 0 with csrs := [(0x3E8, 0x2000000000)] })] }

theorem test_walk :
    okWith (xlate (walkMem 0x4A12300023 0x2000030001) .tables 0 4 0x5051A5871234 4 true 1) (fun l => l.map (fun c => c.seg) == [⟨0x4A12301234, 4⟩]) = true ∧
    xlate (walkMem 0x4A12300021 0x2000030001) .tables 0 4 0x5051A5871234 4 true 1 = .error (.cause 0x081 0x40005051A5871234 0x4301) ∧
    okWith (xlate (walkMem 0 0x4A12200023) .tables 0 4 0x5051A5871234 4 true 1) (fun l => l.map (fun c => c.seg) == [⟨0x4A12271234, 4⟩]) = true ∧
    xlate (walkMem 0 0x4A12300023) .tables 0 4 0x5051A5871234 4 true 1 = .error (.cause 0x082 0x40005051A5871234 0x4201) ∧ homeDie 0x4A12301234 = some 2 := by
  decide +kernel

/-- Table 3-3: D8 codes as FP32, and back. -/
theorem test_d8 : [(0x00, 0x00000000), (0x80, 0x7FC00000), (0x01, 0x39800000), (0x2D, 0x3E500000), (0x7F, 0x40780000), (0x3F, 0x41700000), (0x18, 0x41800000),
      (0x1F, 0x42600000), (0x0F, 0x43400000), (0x07, 0x44000000), (0x03, 0x44800000), (0xE0, 0xBF800000)].all (fun e =>
    fp32Of 2 nan32 e.1 == BitVec.ofNat 32 e.2 && (convElem 0 2 0 nan32 e.2).code == e.1) = true := by decide +kernel

/-- Table 3-5 and R75: F4 codes of 0.25 (a tie to the even code 0), 2.5 (a tie to 2), −0 and 7. -/
theorem test_f4 : (convElem 0 3 0 nan32 0x3E800000).code = 0 ∧ (convElem 0 3 0 nan32 0x40200000).code = 4 ∧ (convElem 0 3 0 nan32 0x80000000).code = 0 ∧
    (convElem 0 3 0 nan32 0x40E00000).code = 7 ∧ (convElem 0 3 0 nan32 0x40E00000).sat = true ∧ fp32Of 3 nan32 0xF = 0xC0C00000 := by decide +kernel

/-- A vector of the worked example of Table 9-7. -/
def exampleV : Vec := [0x40000000, 0xFF800000, 0x3F800000, 0x3F800000, 0x3F800000] ++ List.replicate 123 0x40E00000
def exampleSegs : List (Option Nat) := (List.range 128).map (fun i => segOf [2, 2, 5] i)

theorem test_softmax : (perSegment all exampleSegs (fun l => softmax l exampleV)).take 5 = [0x3F800000, 0, 0x3EAAAAAB, 0x3EAAAAAB, 0x3EAAAAAB] := by decide +kernel

theorem test_segments : segRed 1 0 0 (segLanes all exampleSegs 0) exampleV = 0x40000000 ∧ segRed 1 0 0 (segLanes all exampleSegs 1) exampleV = 0xFF800000 ∧
    segRed 3 0 0 (segLanes all exampleSegs 2) exampleV = 3 ∧
    (perSegment all exampleSegs (fun l => scan 0 0 false l exampleV)).take 5 = [0x40000000, 0xFF800000, 0x3F800000, 0x40000000, 0x40400000] := by decide +kernel

/-- Table 12-9: the tags of a queue with four slots through steps 3, 5, 7, 8 and 11. -/
theorem test_tags : tagPublish 2 1 3 false = 2 ∧ tagFull 2 1 2 = true ∧ tagFull 2 0 3 = false ∧ tagRelease 2 1 2 = 0 ∧ tagPublish 2 4 0 false = 1 ∧
    tagFull 2 4 1 = true ∧ tagFull 2 4 0 = false := by decide +kernel

/-- The walk-through of R182 (Table 6-9): the window after two pushes holds 137 values, of which a full pop releases 128 and leaves 9. -/
theorem test_pop : nextWith (exec (.vpopc (word (imm 3 30) (imm 5 20) (imm 0) 0 1))
      (base { core0 with vS := StreamSt.zero.setIreg 5 137, vregs := [(20, vecOf (fun i => BitVec.ofNat 32 (i + 1))), (21, vecOf (fun i => BitVec.ofNat 32 (i + 129)))] }))
    (fun t => t.core.vS.pend.any (fun p => p.file == 2 && p.num == 5 && p.val == .idx 9) &&
      t.core.vS.pend.any (fun p => p.file == 0 && p.num == 20 && match p.val with
        | .vec v => lane v 0 == 129 && lane v 8 == 137
        | _ => false)) = true := by decide +kernel

/-- The atomics read and write the home's value: AADD of 64 bits wraps, AMINU compares without sign (Table 11-1). -/
theorem test_atomic : atomNew 0 64 (2 ^ 64 - 1) 1 0 = 0 ∧ atomNew 3 32 0x80000000 1 0 = 1 ∧ atomNew 1 32 0x80000000 1 0 = 0x80000000 ∧
    atomNew 9 32 5 7 5 = 7 := by decide +kernel

end Sys2Proof.Tests
end

/-! ## Registers of control and status: the CSRW word and the writes that act (O19) -/

namespace Sys2Proof.Machine

open Claims

/-! ### The CSRR and CSRW words -/

section
variable {s t : State} {d : Reg} {n : Nat}

/-- A CSRW of an implemented register by a readable register has the outcome of the write. -/
theorem csrw_ready (hd : s.core.busy d = false) (hn : csrExists n = true) : csrw d n s = finish false (s.csrWrite n (s.core.sreg d)) s := by
  simp [csrw, hn, State.rd_ready hd]

theorem csrw_retired (hd : s.core.busy d = false) (hn : csrExists n = true) (hw : s.csrWrite n (s.core.sreg d) = .ok t) :
    csrw d n s = retired t := by
  rw [csrw_ready hd hn, hw, finish_ok, retired]

theorem csrw_caused {c : Nat} (hd : s.core.busy d = false) (hn : csrExists n = true) (hw : s.csrWrite n (s.core.sreg d) = stop c) :
    csrw d n s = caused s false c 0 := by
  rw [csrw_ready hd hn, hw, stop, finish_cause, caused]

theorem csrw_absent (hn : csrExists n = false) : csrw d n s = caused s false 0x024 0 := by
  simp [csrw, hn, need, stop, caused]

theorem execCsrr_wrote {c : BitVec 10} (hd : s.core.busy d = false) (hn : csrExists c.toNat = true) (hc : c.toNat ≠ 0x3F4) :
    execCsrr d c s = wrote s d (s.csrRead c.toNat) := by
  simp [execCsrr, hn, hc, State.wr_ready _ hd, wrote]

theorem execCsrr_absent {c : BitVec 10} (hn : csrExists c.toNat = false) : execCsrr d c s = caused s false 0x024 0 := by
  simp [execCsrr, hn, need, stop, caused]

/-- An acquire of the C stream owes no register a value. -/
theorem busy_acquire (s : State) (d : Reg) : (s.setC s.c.acquire).core.busy d = s.core.busy d := by
  simp only [State.setC, State.setSm, State.core_setCore]
  rfl

theorem csrRead_dlogw (s : State) : s.csrRead 0x3F4 = s.ctx.csr 0x3F4 := rfl

/-- A CSRR of DLOGW acquires, and reads the register as it stands (R340). -/
theorem execCsrr_dlogw {c : BitVec 10} (hd : s.core.busy d = false) (hc : c.toNat = 0x3F4) :
    execCsrr d c s = retired (withReg (s.setC s.c.acquire) d (s.ctx.csr 0x3F4)) := by
  have hx : csrExists 0x3F4 = true := rfl
  have hw := State.wr_ready (s.ctx.csr 0x3F4) ((busy_acquire s d).trans hd)
  simp only [execCsrr, hc, hx, need_true, res_ok_bind, reduceIte, csrRead_dlogw, hw, finish_ok, retired, withReg]

theorem execDlogp_wrote (hd : s.core.busy d = false) {m : Nat} (hm : m = (s.ctx.csr 0x3F3).toNat % 4) :
    execDlogp d s = wrote s d (if m = 1 then s.ctx.csr 0x3F4 else if m = 2 then s.ctx.csr 0x3F5 else 0) := by
  subst hm
  simp only [execDlogp, State.wr_ready _ hd, finish_ok, wrote]
  split <;> simp_all
end

/-! ### The forms of CSRW that act on one kind of value -/

section
variable {s : State} {d : Reg} {n : BitVec 4}

theorem csrwWhen_of {m : Nat} {f : Nat → Bool} (h : f (s.core.sreg d).toNat = true) : csrwWhen d m f s = csrw d m s := if_pos h

theorem execTlbivaRange_eq (h : (s.core.sreg d).toNat % 4 ≠ 3) : execTlbivaRange d s = csrw d 0x3EA s := csrwWhen_of (by simpa using h)

theorem execTlbivaAll_eq (h : (s.core.sreg d).toNat % 4 = 3) : execTlbivaAll d s = csrw d 0x3EA s := csrwWhen_of (by simpa using h)

theorem execHndbInstall_eq (h : s.core.sreg d ≠ 0) : execHndbInstall d s = csrw d 0x301 s := by
  have hn : (s.core.sreg d).toNat ≠ 0 := fun h0 => h (BitVec.eq_of_toNat_eq h0)
  exact csrwWhen_of (by simpa using hn)

theorem execHndbRemove_eq (h : s.core.sreg d = 0) : execHndbRemove d s = csrw d 0x301 s := csrwWhen_of (by simp [h])

theorem execRingcfEnable_eq (h : bits (s.core.sreg d).toNat 49 48 = 1) : execRingcfEnable n d s = csrw d (0x3A0 + n.toNat) s :=
  csrwWhen_of (by simpa using h)

theorem execRingcfConfigure_eq (h : bits (s.core.sreg d).toNat 49 48 = 0) (hst : (s.core.ring n.toNat).st = .disabled) :
    execRingcfConfigure n d s = csrw d (0x3A0 + n.toNat) s := csrwWhen_of (by simp [h, hst])

theorem execRingcfDrain_eq (h : bits (s.core.sreg d).toNat 49 48 = 2) : execRingcfDrain n d s = csrw d (0x3A0 + n.toNat) s :=
  csrwWhen_of (by simpa using h)

theorem execRingcfDisable_eq (h : bits (s.core.sreg d).toNat 49 48 = 0) (hst : (s.core.ring n.toNat).st ≠ .disabled) :
    execRingcfDisable n d s = csrw d (0x3A0 + n.toNat) s := csrwWhen_of (by simp [h, hst])

theorem execDlogcOff_eq (h : (s.core.sreg d).toNat % 4 = 0) : execDlogcOff d s = csrw d 0x3F3 s := csrwWhen_of (by simpa using h)

theorem execDlogcRecord_eq (h : (s.core.sreg d).toNat % 4 = 1) : execDlogcRecord d s = csrw d 0x3F3 s := csrwWhen_of (by simpa using h)

theorem execDlogcReplay_eq (h : (s.core.sreg d).toNat % 4 = 2) : execDlogcReplay d s = csrw d 0x3F3 s := csrwWhen_of (by simpa using h)
end

/-! ### The effect of a write, register by register -/

section
variable {s : State} {v : Word}

/-- KSLOT, TASKID, LCORE and STRMS store nothing of a write (Table 4-4). -/
theorem csrWrite_readOnly {c : BitVec 10} (hc : c ∈ [0x010#10, 0x011#10, 0x012#10, 0x013#10]) :
    csrExists c.toNat = true ∧ s.csrWrite c.toNat v = .ok s := by
  simp only [List.mem_cons, List.not_mem_nil, or_false] at hc
  rcases hc with rfl | rfl | rfl | rfl <;> exact ⟨rfl, rfl⟩

theorem csrWrite_hndb : s.csrWrite 0x301 v = s.writeHndb v := rfl

theorem csrExists_ring (n : BitVec 4) : csrExists (0x3A0 + n.toNat) = true := by
  have h : 0x3A0 + n.toNat ≤ 0x3C1 := by omega
  simp [csrExists, h]

theorem csrWrite_ring (n : BitVec 4) : s.csrWrite (0x3A0 + n.toNat) v = s.writeRing n.toNat v := by
  rw [State.csrWrite, if_neg (by omega), if_neg (by omega), if_neg (by omega), if_pos (by omega), Nat.add_sub_cancel_left]

theorem csrWrite_redlim : s.csrWrite 0x3D8 v = .ok (s.setCore (s.core.setCsr 0x3D8 (redlimStored v))) := rfl

theorem csrExists_kth (n : BitVec 2) : csrExists (0x3E0 + n.toNat) = true := by
  have h : 0x3E0 + n.toNat ≤ 0x3E3 := by omega
  simp [csrExists, h]

theorem csrWrite_kth (n : BitVec 2) :
    s.csrWrite (0x3E0 + n.toNat) v = .ok (s.setCore (s.core.setCsr (0x3E0 + n.toNat) (kthStored v))) := by
  rw [State.csrWrite, if_neg (by omega), if_neg (by omega), if_neg (by omega), if_neg (by omega), if_neg (by omega), if_pos (by omega)]

theorem csrWrite_tlbiva : s.csrWrite 0x3EA v = s.writeTlbiva v := rfl

theorem csrWrite_trigger : s.csrWrite 0x3F0 v = s.writeTrigger v := rfl

theorem csrWrite_dlogc : s.csrWrite 0x3F3 v = s.writeDlog 0x3F3 v := rfl

theorem csrWrite_dlogw : s.csrWrite 0x3F4 v = s.writeDlog 0x3F4 v := rfl

theorem csrWrite_dlogr : s.csrWrite 0x3F5 v = s.writeDlog 0x3F5 v := rfl

/-- A field of the low half of a word. -/
theorem bits_setWidth {hi lo : Nat} (hl : lo ≤ hi) (hh : hi < 32) : bits (v.setWidth 32).toNat hi lo = bits v.toNat hi lo := by
  have h32 : 2 ^ 32 = 2 ^ lo * 2 ^ (32 - lo) := by rw [← Nat.pow_add]; congr 1; omega
  have hd : 2 ^ (hi + 1 - lo) ∣ 2 ^ (32 - lo) := Nat.pow_dvd_pow 2 (by omega)
  rw [bits, bits, BitVec.toNat_setWidth, h32, Nat.mod_mul_right_div_self, Nat.mod_mod_of_dvd _ hd]

/-- KTH keeps REL and VAL, and REL with +0 when the sign bit of VAL is set or VAL is a NaN (R225; log entry 81 for -0). -/
theorem kthStored_eq : kthStored v =
    if v.getLsbD 31 ∨ (bits v.toNat 30 23 = 255 ∧ bits v.toNat 22 0 ≠ 0) then v &&& 0x100000000#64 else v &&& 0x1FFFFFFFF#64 := by
  have hm : (v.setWidth 32).msb = v.getLsbD 31 := by simp [BitVec.msb_eq_getLsbD_last]
  have he : bits (v.setWidth 32).toNat 30 23 = bits v.toNat 30 23 := bits_setWidth (by omega) (by omega)
  have hf : bits (v.setWidth 32).toNat 22 0 = bits v.toNat 22 0 := bits_setWidth (by omega) (by omega)
  simp only [kthStored, hm, he, hf]
end

/-! ### TRIGGER and HNDB -/

section
variable {s t : State} {v : Word}

theorem writeTrigger_ok (hr : s.released 3 = true) (ht : s.acceptLaunch s.ctxNo v.toNat = .ok t) : s.writeTrigger v = .ok t := by
  simp [State.writeTrigger, hr, ht]

/-- No core of the context stands in a handler. -/
theorem any_hand_eq_false (h : (s.coresOfCtx s.ctxNo).all (fun c => (s.coreOf c.2).hand.isNone) = true) :
    (s.coresOfCtx s.ctxNo).any (fun c => (s.coreOf c.2).hand.isSome) = false := by
  simpa using h

theorem writeHndb_install (h : (s.coresOfCtx s.ctxNo).all (fun c => (s.coreOf c.2).hand.isNone) = true) (hv : v ≠ 0)
    (hr : s.released 3 = true) (hb : s.handlerBad s.ctxNo v.toNat = none) :
    s.writeHndb v = .ok (((s.setCtxCsr 0x301 v).measureHandlers s.ctxNo v.toNat).touchHandlers s.ctxNo v.toNat) := by
  simp only [State.writeHndb, any_hand_eq_false h, Bool.false_eq_true, if_neg hv, hr, hb, await_true, res_ok_bind, reduceIte]

theorem writeHndb_remove (h : (s.coresOfCtx s.ctxNo).all (fun c => (s.coreOf c.2).hand.isNone) = true) :
    s.writeHndb 0 = .ok (s.setCtxCsr 0x301 0) := by
  simp only [State.writeHndb, any_hand_eq_false h, Bool.false_eq_true, reduceIte]
end

/-! ### TLBIVA -/

/-- t holds the translations and the memory that s holds. -/
structure State.SameTlbs (s t : State) : Prop where
  utlb : ∀ k, (t.coreOf k).utlb = (s.coreOf k).utlb
  tlb : ∀ d, (t.dieOf d).tlb = (s.dieOf d).tlb
  mem : t.mem = s.mem

theorem State.SameTlbs.refl (s : State) : s.SameTlbs s := ⟨fun _ => rfl, fun _ => rfl, rfl⟩

theorem State.SameTlbs.trans {s t u : State} (h : s.SameTlbs t) (k : t.SameTlbs u) : s.SameTlbs u :=
  ⟨fun c => (k.utlb c).trans (h.utlb c), fun d => (k.tlb d).trans (h.tlb d), k.mem.trans h.mem⟩

theorem State.forEach_sameTlbs {α : Type} (l : List α) (f : α → State → State) (s : State) (h : ∀ a s, State.SameTlbs s (f a s)) :
    s.SameTlbs (s.forEach l f) := by
  induction l generalizing s with
  | nil => exact .refl s
  | cons a r ih => exact (h a s).trans (ih (f a s))

theorem State.forN_sameTlbs (n : Nat) (f : Nat → State → State) (s : State) (h : ∀ i s, State.SameTlbs s (f i s)) :
    s.SameTlbs (s.forN n f) := State.forEach_sameTlbs (List.range n) f s h

theorem State.setDieOf_sameTlbs (s : State) (d : Nat) (x : Die) (hx : x.tlb = (s.dieOf d).tlb) : s.SameTlbs (s.setDieOf d x) where
  utlb _ := rfl
  tlb e := by
    rw [State.dieOf_setDieOf]
    split
    next he => rw [he, hx]
    next => rfl
  mem := rfl

theorem State.setCoreOf_sameTlbs (s : State) (k : Nat) (c : CoreSt) (hc : c.utlb = (s.coreOf k).utlb) : s.SameTlbs (s.setCoreOf k c) where
  utlb j := by
    rw [State.coreOf_setCoreOf]
    split
    next hj => rw [hj, hc]
    next => rfl
  tlb _ := rfl
  mem := rfl

theorem State.SameTlbs.ite {s t : State} {b : Bool} (h : s.SameTlbs t) : s.SameTlbs (if b then t else s) := by
  cases b
  · exact .refl s
  · exact h

/-- Waits that stop leave every translation where it is. -/
theorem State.stopWaits_sameTlbs (s : State) (x : Nat) (r : Option (Nat × Nat × Nat)) : s.SameTlbs (s.stopWaits x r) := by
  unfold State.stopWaits
  refine .trans (State.forN_sameTlbs 4 _ s fun d s => ?_) (State.forEach_sameTlbs _ _ _ fun c s => ?_)
  · exact .ite (s.setDieOf_sameTlbs d _ rfl)
  · exact .ite (s.setCoreOf_sameTlbs c.2 _ rfl)

theorem State.dropTlb_mem (s : State) (x : Nat) (r : Option (Nat × Nat × Nat)) : (s.dropTlb x r).mem = s.mem := rfl

theorem State.coreOf_dropTlb_utlb (s : State) (x : Nat) (r : Option (Nat × Nat × Nat)) (k : Nat) :
    ((s.dropTlb x r).coreOf k).utlb = tlbWithout x r (s.coreOf k).utlb := by
  simp only [State.coreOf, State.dropTlb, find?_mapVals]
  cases find? s.cores k <;> rfl

theorem State.dieOf_dropTlb_tlb (s : State) (x : Nat) (r : Option (Nat × Nat × Nat)) (d : Nat) :
    ((s.dropTlb x r).dieOf d).tlb = tlbWithout x r (s.dieOf d).tlb := by
  simp only [State.dieOf, State.dropTlb, find?_mapVals]
  cases find? s.dies d <;> rfl

/-- The translations that a write of TLBIVA drops: those of context x that overlap the range, or all of them (R365). -/
def tlbCut (x : Nat) (r : Option (Nat × Nat × Nat)) (e : TlbEnt) : Prop :=
  match r with
  | none => e.ctx = x
  | some (w, b, n) => e.ctx = x ∧ e.win = w ∧ e.base < b + n ∧ b < e.base + e.size

theorem mem_tlbWithout (x : Nat) (r : Option (Nat × Nat × Nat)) (l : List TlbEnt) (e : TlbEnt) :
    e ∈ tlbWithout x r l ↔ e ∈ l ∧ ¬tlbCut x r e := by
  match r with
  | none => simp [tlbWithout, tlbCut]
  | some (w, b, n) =>
    simp only [tlbWithout, tlbCut, List.mem_filter, Bool.not_eq_true', ← Bool.not_eq_true, Bool.and_eq_true, beq_iff_eq, decide_eq_true_eq,
      and_assoc]

/-- A write of TLBIVA flushes the translations it cuts. -/
theorem writeTlbiva_ok {s : State} {v : Word} {r : Option (Nat × Nat × Nat)} (hr : tlbivaRangeOf v.toNat = .ok r)
    (hs : s.released 3 = true) (hh : s.holdsAddrs s.ctxNo r = false) :
    ∃ t, s.writeTlbiva v = .ok t ∧ flushed s t (tlbCut s.ctxNo r) := by
  obtain ⟨hu, ht, hm⟩ := s.stopWaits_sameTlbs s.ctxNo r
  refine ⟨(s.stopWaits s.ctxNo r).dropTlb s.ctxNo r, ?_, fun k e => ?_, fun d e => ?_, (State.dropTlb_mem ..).trans hm⟩
  · simp [State.writeTlbiva, hr, hs, hh]
  · rw [State.coreOf_dropTlb_utlb, mem_tlbWithout, hu]
  · rw [State.dieOf_dropTlb_tlb, mem_tlbWithout, ht]

/-- SIZE 11 names every translation. -/
theorem tlbivaRangeOf_all {v : Nat} (hv : v % 4 = 3) (hz : bits v 15 2 = 0) : tlbivaRangeOf v = .ok none := by
  simp [tlbivaRangeOf, hz, hv]

/-! ### RINGCF -/

section
variable {s : State} {n : Nat} {v : Word} {k : Ring}

/-- The configuration that a write of RINGCF with value v names for ring r. -/
def Ring.configured (r : Ring) (v : Nat) : Ring := { r with logn := bits v 47 44, slotsz := bits v 43 32, base := bits v 14 0 }

theorem writeRing_enable (hst : (s.core.ring n).st = .disabled) (hv : bits v.toNat 49 48 = 1) (hk : k = (s.core.ring n).configured v.toNat)
    (hz : 1 ≤ k.slotsz) (hl : k.logn ≤ 8) (hf : k.base * 64 + 2 ^ k.logn * k.slotsz * 64 ≤ 0x200000) :
    s.writeRing n v = .ok (ringMoved s n { k with st := .active, t := 0, h := 0, q := 0, tags := [] } []) := by
  subst hk
  simp only [Ring.configured] at hz hl hf
  simp [State.writeRing, hst, hv, Ring.configured, hz, hl, hf, CoreSt.moveRing, ringMoved]

theorem writeRing_configure (hst : (s.core.ring n).st = .disabled) (hv : bits v.toNat 49 48 = 0) :
    s.writeRing n v = .ok (ringMoved s n ((s.core.ring n).configured v.toNat) [.L, .S]) := by
  simp [State.writeRing, hst, hv, Ring.configured, CoreSt.moveRing, ringMoved]

theorem writeRing_drain (hst : (s.core.ring n).st = .active) (hv : bits v.toNat 49 48 = 2) (hk : (s.core.ring n).configured v.toNat = s.core.ring n) :
    s.writeRing n v = .ok (if (s.core.ring n).q = (s.core.ring n).t then ringMoved s n { s.core.ring n with st := .disabled } [.L, .S]
      else ringMoved s n { s.core.ring n with st := .draining } [.L]) := by
  unfold Ring.configured at hk
  simp only [State.writeRing, hv, hk]
  by_cases hq : (s.core.ring n).q = (s.core.ring n).t <;> simp [hst, hq, Ring.settled, CoreSt.moveRing, ringMoved]

theorem writeRing_disable (hst : (s.core.ring n).st = .active ∧ (s.core.ring n).t = (s.core.ring n).q ∨ (s.core.ring n).st = .faulted)
    (hv : bits v.toNat 49 48 = 0) (hk : (s.core.ring n).configured v.toNat = s.core.ring n) :
    s.writeRing n v = .ok (ringMoved s n { s.core.ring n with st := .disabled } [.L, .S]) := by
  unfold Ring.configured at hk
  rcases hst with ⟨hst, ht⟩ | hst
  · simp only [State.writeRing, hv, hk]
    simp [hst, ht, CoreSt.moveRing, ringMoved]
  · simp only [State.writeRing, hv, hk]
    simp [hst, CoreSt.moveRing, ringMoved]
end

/-! ### DLOGC, DLOGW and DLOGR -/

section
variable {s : State} {v : Word}

theorem logFits_iff {w r lg : Nat} : logFits w r lg = true ↔ r ≤ w ∧ w - r ≤ 2 ^ lg := by
  simp [logFits]

/-- The ring that a recording or a replay needs: aligned, in window 0x4, on PINNED pages (R339, R361). -/
def State.logPinned (s : State) (lg : Nat) : Prop :=
  bits (s.ctx.csr 0x3F2).toNat 63 60 = 4 ∧ (s.ctx.csr 0x3F2).toNat % 4096 = 0 ∧ pinned s s.ctxNo (s.ctx.csr 0x3F2).toNat (2 ^ lg * 32) = true

/-- The test by which a write of DLOGC finds such a ring. -/
theorem State.logPinned_iff {lg : Nat} : s.logPinned lg ↔ (bits (s.ctx.csr 0x3F2).toNat 63 60 == 4 && (s.ctx.csr 0x3F2).toNat % 4096 == 0 &&
    pinned s s.ctxNo (s.ctx.csr 0x3F2).toNat (2 ^ lg * 32)) = true := by
  simp [State.logPinned, and_assoc]

/-- A write of DLOGC within the bounds of the log stores the mode and the size. -/
theorem writeDlog_dlogc_ok {c lg : Nat} (hc : c = (s.ctx.csr 0x3F3).toNat) (hlg : lg = bits v.toNat 15 8) (hm : v.toNat % 4 ≠ 3) (h8 : 8 ≤ lg)
    (h24 : lg ≤ 24) (hsize : c % 4 = 0 ∨ lg = bits c 15 8) (hfit : logFits (s.ctx.csr 0x3F4).toNat (s.ctx.csr 0x3F5).toNat lg = true)
    (hring : c % 4 = 0 → v.toNat % 4 ≠ 0 → s.logPinned lg) :
    s.writeDlog 0x3F3 v = .ok (s.setCtxCsr 0x3F3 (v &&& 0xFF07#64)) := by
  subst hc hlg
  simp only [State.writeDlog, hfit]
  refine if_neg ?_
  rintro (h | h | h | ⟨h, h'⟩ | h | ⟨h, h', h''⟩)
  · exact hm h
  · omega
  · omega
  · exact hsize.elim h h'
  · simp at h
  · simp [State.logPinned_iff.mp (hring h h')] at h''

/-- A write of DLOGC that takes MODE away from 00 is refused without such a ring. -/
theorem writeDlog_dlogc_refused (hc : (s.ctx.csr 0x3F3).toNat % 4 = 0) (hv : v.toNat % 4 ≠ 0) (hring : ¬s.logPinned (bits v.toNat 15 8)) :
    s.writeDlog 0x3F3 v = stop 0x022 := by
  rw [State.logPinned_iff, Bool.not_eq_true] at hring
  exact if_pos (.inr (.inr (.inr (.inr (.inr ⟨hc, hv, by rw [hring]; rfl⟩)))))

theorem writeDlog_dlogw_ok (h : logFits v.toNat (s.ctx.csr 0x3F5).toNat (bits (s.ctx.csr 0x3F3).toNat 15 8) = true) :
    s.writeDlog 0x3F4 v = .ok (s.setCtxCsr 0x3F4 v) := if_pos h

theorem writeDlog_dlogr_ok (h : logFits (s.ctx.csr 0x3F4).toNat v.toNat (bits (s.ctx.csr 0x3F3).toNat 15 8) = true) :
    s.writeDlog 0x3F5 v = .ok (s.setCtxCsr 0x3F5 v) := if_pos h
end

/-! ### The obligation -/

theorem csrWords_holds : Claims.csrWords := by
  intro s d c hd
  refine ⟨fun hx hc => execCsrr_wrote hd hx hc, execCsrr_dlogw hd rfl, fun t hx hw => csrw_retired hd hx hw, fun hc => ?_,
    fun hx => ⟨execCsrr_absent hx, csrw_absent hx⟩, fun m hm => execDlogp_wrote hd hm⟩
  obtain ⟨hx, hw⟩ := csrWrite_readOnly (s := s) (v := s.core.sreg d) hc
  exact csrw_retired hd hx hw

theorem actingCsrWrites_holds : Claims.actingCsrWrites := by
  rintro s d v hd rfl
  refine ⟨fun t hr ht => ?trigger, fun w b n hv hrange hr hh => ?range, fun hv hz hr hh => ?all,
    fun hfree => ⟨fun hv hr hb => ?install, fun hv => ?remove⟩, fun n => ?kth, ?redlim⟩
  case trigger => exact csrw_retired hd rfl (csrWrite_trigger.trans (writeTrigger_ok hr ht))
  case range =>
    obtain ⟨t, ht, hf⟩ := writeTlbiva_ok hrange hr hh
    exact ⟨t, (execTlbivaRange_eq hv).trans (csrw_retired hd rfl (csrWrite_tlbiva.trans ht)), hf⟩
  case all =>
    obtain ⟨t, ht, hf⟩ := writeTlbiva_ok (tlbivaRangeOf_all hv hz) hr hh
    exact ⟨t, (execTlbivaAll_eq hv).trans (csrw_retired hd rfl (csrWrite_tlbiva.trans ht)), hf⟩
  case install => exact (execHndbInstall_eq hv).trans (csrw_retired hd rfl (csrWrite_hndb.trans (writeHndb_install hfree hv hr hb)))
  case remove => exact (execHndbRemove_eq hv).trans (csrw_retired hd rfl (csrWrite_hndb.trans (hv ▸ writeHndb_remove hfree)))
  case kth => exact csrw_retired hd (csrExists_kth n) (kthStored_eq (v := s.core.sreg d) ▸ csrWrite_kth n)
  case redlim => exact csrw_retired hd rfl csrWrite_redlim

theorem csrw_ring_retired {s t : State} {d : Reg} {n : BitVec 4} (hd : s.core.busy d = false) (hw : s.writeRing n.toNat (s.core.sreg d) = .ok t) :
    csrw d (0x3A0 + n.toNat) s = retired t :=
  csrw_retired hd (csrExists_ring n) ((csrWrite_ring n).trans hw)

theorem csrw_dlogc_retired {s : State} {d : Reg} {c lg : Nat} (hd : s.core.busy d = false) (hc : c = (s.ctx.csr 0x3F3).toNat)
    (hlg : lg = bits (s.core.sreg d).toNat 15 8) (h8 : 8 ≤ lg) (h24 : lg ≤ 24) (hsize : c % 4 = 0 ∨ lg = bits c 15 8)
    (hfit : logFits (s.ctx.csr 0x3F4).toNat (s.ctx.csr 0x3F5).toNat lg = true)
    (hring : c % 4 = 0 → (s.core.sreg d).toNat % 4 ≠ 0 → s.logPinned lg) (hm : (s.core.sreg d).toNat % 4 ≠ 3) :
    csrw d 0x3F3 s = retired (s.setCtxCsr 0x3F3 (s.core.sreg d &&& 0xFF07#64)) :=
  csrw_retired hd rfl (csrWrite_dlogc.trans (writeDlog_dlogc_ok hc hlg hm h8 h24 hsize hfit hring))

theorem csrw_dlogc_refused {s : State} {d : Reg} (hd : s.core.busy d = false) (hc : (s.ctx.csr 0x3F3).toNat % 4 = 0)
    (hring : ¬s.logPinned (bits (s.core.sreg d).toNat 15 8)) (hm : (s.core.sreg d).toNat % 4 ≠ 0) : csrw d 0x3F3 s = caused s false 0x022 0 :=
  csrw_caused hd rfl (csrWrite_dlogc.trans (writeDlog_dlogc_refused hc hm hring))

theorem ringAndLogWrites_holds : Claims.ringAndLogWrites := by
  rintro s d n v r k hd rfl rfl rfl
  refine ⟨fun hst hb hz hl hf => ?enable, fun hst hb => ?configure, fun hst hb hk hq => ?drain, fun hst hb hk hq => ?drained,
    fun hst hb hk => ?disable, ?log⟩
  case enable => exact (execRingcfEnable_eq hb).trans (csrw_ring_retired hd (writeRing_enable hst hb rfl hz hl hf))
  case configure => exact (execRingcfConfigure_eq hb hst).trans (csrw_ring_retired hd (writeRing_configure hst hb))
  case drain => exact (execRingcfDrain_eq hb).trans (csrw_ring_retired hd ((writeRing_drain hst hb hk).trans (by rw [if_neg hq])))
  case drained => exact (execRingcfDrain_eq hb).trans (csrw_ring_retired hd ((writeRing_drain hst hb hk).trans (by rw [if_pos hq])))
  case disable =>
    have hne : (s.core.ring n.toNat).st ≠ .disabled := by rcases hst with ⟨h, -⟩ | h <;> simp [h]
    exact (execRingcfDisable_eq hb hne).trans (csrw_ring_retired hd (writeRing_disable hst hb hk))
  case log =>
    rintro c w q lg rfl rfl rfl rfl
    refine ⟨fun h8 h24 hsize hle hlen hring t ht => ?stores, fun o ho hc hring => ?refused, fun hle hlen => ?dlogw, fun hle hlen => ?dlogr⟩
    case stores =>
      subst ht
      have hw := csrw_dlogc_retired hd rfl rfl h8 h24 hsize (logFits_iff.mpr ⟨hle, hlen⟩) fun hc hm => by
        obtain ⟨o, rfl, h⟩ := hring hc hm
        exact h
      exact ⟨fun hm => (execDlogcOff_eq hm).trans (hw (by omega)), fun hm => (execDlogcRecord_eq hm).trans (hw (by omega)),
        fun hm => (execDlogcReplay_eq hm).trans (hw (by omega))⟩
    case refused =>
      subst ho
      have hw := csrw_dlogc_refused hd hc hring
      exact ⟨fun hm => (execDlogcRecord_eq hm).trans (hw (by omega)), fun hm => (execDlogcReplay_eq hm).trans (hw (by omega))⟩
    case dlogw => exact csrw_retired hd rfl (csrWrite_dlogw.trans (writeDlog_dlogw_ok (logFits_iff.mpr ⟨hle, hlen⟩)))
    case dlogr => exact csrw_retired hd rfl (csrWrite_dlogr.trans (writeDlog_dlogr_ok (logFits_iff.mpr ⟨hle, hlen⟩)))

/-- Settles O19: each form of CSRW has the outcome of its register's write, and each write is worked out on its own. -/
theorem csrWordsAndWrites : Obligations.CsrWordsAndWrites := ⟨csrWords_holds, actingCsrWrites_holds, ringAndLogWrites_holds⟩

end Sys2Proof.Machine

/-! ## Words that streams issue, losses, links and power (O1, O45) -/

namespace Sys2Proof.Machine

/-! ### The word that a stream issues (R13, R26, R59) -/

section
variable {s : State} {k : Nat} {t : Strm} {i : Instr}

/-- A word inside its array, whole on dies in service and in no poisoned frame, is fetched as it decodes. -/
theorem State.fetch_ok (hpc : ((s.coreOf k).strm t).pc < (s.codeArray k t).2)
    (hg : ∀ g, g = s.codeSegs k t ((s.codeArray k t).1 + ((s.coreOf k).strm t).pc * wordLen t) (wordLen t) →
      g.any (fun c => s.homeLost c.pa) = false ∧ s.placeBad (.phys 0 g) = false)
    (hd : decode t (s.wordAt k t ((s.coreOf k).strm t).pc) = .ok i) (hi : i.wf = true) : s.fetch k t = .ok i := by
  obtain ⟨hlost, hbad⟩ := hg _ rfl
  have hc : i.cause = none := beq_iff_eq.mp hi
  simp only [State.fetch, if_neg (Nat.not_le.mpr hpc), hlost, hbad, hd, hc, Bool.false_eq_true, if_false]

theorem State.word_exec (hm : s.mayIssue k t = true) (hl : s.lateNow k = false) (hf : s.fetch k t = .ok i) :
    s.word k t = exec i (s.issuing k t) := by
  simp only [State.word, hm, hl, hf, Bool.not_true, Bool.false_eq_true, if_false]

theorem step_word {r : List Move} (h : s.script = .word k t :: r) : step s = ({ s with script := r } : State).word k t := by
  rw [step, h]
  rfl
end

/-- Settles O1: the fetch answers the decoded word, and the move executes it. -/
theorem stepRunsDecodedWord : Obligations.StepRunsDecodedWord := by
  rintro s u k t r i hscript rfl hissue hlate hpc hgood hdecode hwf
  rw [step_word hscript, State.word_exec hissue hlate (State.fetch_ok hpc hgood hdecode hwf)]
  rfl

/-! ### What running over a list keeps -/

theorem State.forEach_inv {α : Type} {P : State → Prop} {l : List α} {f : α → State → State} {s : State} (hs : P s)
    (h : ∀ a ∈ l, ∀ u, P u → P (f a u)) : P (s.forEach l f) :=
  List.foldlRecOn l (fun s a => f a s) hs (fun u hu a ha => h a ha u hu)

theorem State.forN_inv {P : State → Prop} {n : Nat} {f : Nat → State → State} {s : State} (hs : P s)
    (h : ∀ i < n, ∀ u, P u → P (f i u)) : P (s.forN n f) :=
  State.forEach_inv hs (fun i hi => h i (List.mem_range.mp hi))

theorem mem_of_find? {α : Type} {m : List (Nat × α)} {a : Nat} {v : α} (h : find? m a = some v) : (a, v) ∈ m := by
  induction m with
  | nil => cases h
  | cons e r ih =>
    simp only [find?] at h
    split at h
    next hk => simp [← hk, ← Option.some.inj h]
    next => exact List.mem_cons_of_mem _ (ih h)

/-! ### Links (R426, R428) -/

section
variable {s : State} {p : Nat}

theorem execLinkTrainingRequest_down (hp : p < 24) (hd : s.port p = .down) (hl : (s.dieOf (portDie p)).lost = false) :
    execLinkTrainingRequest p s = .next (s.startTraining p) := if_pos ⟨hp, hd, by simp [hl]⟩

theorem execLinkTrainingResult_full (h : s.port p = .training) :
    execLinkTrainingResult p .full s = .next ((s.setPort p .up).setAttempts p 0) := if_neg (not_not_intro h)

theorem execLinkTrainingResult_half (h : s.port p = .training) :
    execLinkTrainingResult p .half s = .next ((s.setPort p .degraded).setAttempts p 0) := if_neg (not_not_intro h)

theorem execLinkTrainingResult_failed (h : s.port p = .training) {n : Nat} (hn : n = look 0 s.fabric.attempts p) :
    execLinkTrainingResult p .failed s = .next (if 2 ≤ n then (s.setPort p .down).setAttempts p 0 else s.setAttempts p (n + 1)) := by
  subst hn
  refine (if_neg (not_not_intro h)).trans ?_
  simp only [Nat.reduceLeDiff, apply_ite Host.Outcome.next]

theorem execLinkRetryExhausted_trained (h : s.port p = .up ∨ s.port p = .degraded) (third : Bool) :
    execLinkRetryExhausted p third s = .next (if third then (s.retrainPort p).fencePort p else s.retrainPort p) := by
  rw [execLinkRetryExhausted, if_neg (by tauto)]
  split <;> rfl
end

/-! ### The almanac (R451) -/

/-- t differs from s in the free values taken and the device alone, and there in none of the almanac's counters but TEMPH and VOLTH. -/
structure State.HoursOnly (s t : State) : Prop where
  frame : t = { s with fresh := t.fresh, dev := t.dev }
  counters : ∀ n, n / 65536 ≠ 11 → n / 65536 ≠ 12 → look 0 t.dev.almanac n = look 0 s.dev.almanac n

theorem State.HoursOnly.count {s t : State} (h : s.HoursOnly t) {kind idx n : Nat} (hk : kind = 11 ∨ kind = 12) (hi : idx < 65536) :
    s.HoursOnly (t.count kind idx n) where
  frame := by rw [State.count, h.frame]
  counters m h11 h12 := by
    have hne : m ≠ kind * 65536 + idx := by omega
    simp only [State.count, look_put, if_neg hne, h.counters m h11 h12]

theorem State.HoursOnly.takeFree {s t : State} (h : s.HoursOnly t) (n : Nat) : s.HoursOnly { t with fresh := n } :=
  ⟨by rw [h.frame], h.counters⟩

theorem State.hourPassed_hoursOnly (s : State) : s.HoursOnly s.hourPassed :=
  State.forN_inv ⟨rfl, fun _ _ _ => rfl⟩ fun _ hd _ hu => ((hu.takeFree _).count (.inl rfl) (by omega)).count (.inr rfl) (by omega)

theorem State.HoursOnly.flushAlmanac {s t : State} (h : s.HoursOnly t) : s.HoursOnly t.flushAlmanac :=
  ⟨by rw [State.flushAlmanac, h.frame], h.counters⟩

theorem linkAndPowerEvents_holds : Claims.linkAndPowerEvents := by
  intro s p b
  refine ⟨execLinkTrainingRequest_down, fun htr => ?result, fun hup => ?retry, rfl, rfl, ?flush⟩
  case result =>
    refine ⟨execLinkTrainingResult_full htr, execLinkTrainingResult_half htr, fun hn => ?_, fun hn => ?_⟩
    · rw [exec_linkTrainingResult, execLinkTrainingResult_failed htr rfl, if_neg (Nat.not_le.mpr hn)]
    · rw [exec_linkTrainingResult, execLinkTrainingResult_failed htr rfl, if_pos hn]
  case retry =>
    have h := execLinkRetryExhausted_trained hup
    exact ⟨h false, h true⟩
  case flush =>
    obtain ⟨hframe, hcounters⟩ := s.hourPassed_hoursOnly.flushAlmanac
    exact ⟨_, rfl, rfl, hframe, hcounters⟩

/-! ### Dies in service and ports

What follows the loss of a die marks contexts, tasks, transfers and groups; it takes no die out of service, puts none back and moves no port. -/

/-- t has the dies in service and the ports that s has. -/
structure State.SameService (s t : State) : Prop where
  lost : ∀ d, (t.dieOf d).lost = (s.dieOf d).lost
  ports : t.fabric.ports = s.fabric.ports

theorem State.SameService.refl (s : State) : s.SameService s := ⟨fun _ => rfl, rfl⟩

theorem State.SameService.after {s t u : State} (k : t.SameService u) (h : s.SameService t) : s.SameService u :=
  ⟨fun d => (k.lost d).trans (h.lost d), k.ports.trans h.ports⟩

theorem State.SameService.update {s t u : State} (h : s.SameService t) (hd : u.dies = t.dies) (hf : u.fabric.ports = t.fabric.ports) :
    s.SameService u :=
  ⟨fun d => by rw [State.dieOf, hd, ← h.lost, State.dieOf], hf.trans h.ports⟩

theorem State.SameService.of_eq {s t : State} (hd : t.dies = s.dies) (hf : t.fabric.ports = s.fabric.ports) : s.SameService t :=
  (State.SameService.refl s).update hd hf

theorem State.SameService.ite {s t u : State} {c : Prop} [Decidable c] (ht : s.SameService t) (hu : s.SameService u) :
    s.SameService (if c then t else u) := by
  split
  · exact ht
  · exact hu

theorem State.forEach_sameService {α : Type} {l : List α} {f : α → State → State} {s : State} (h : ∀ a s, State.SameService s (f a s)) :
    s.SameService (s.forEach l f) := State.forEach_inv (.refl s) fun a _ u hu => (h a u).after hu

theorem State.forN_sameService {n : Nat} {f : Nat → State → State} {s : State} (h : ∀ i s, State.SameService s (f i s)) :
    s.SameService (s.forN n f) := State.forEach_sameService h

theorem State.setDieOf_sameService {s : State} {d : Nat} {x : Die} (h : x.lost = (s.dieOf d).lost) : s.SameService (s.setDieOf d x) where
  lost e := by
    rw [State.dieOf_setDieOf]
    split
    next he => rw [he, h]
    next => rfl
  ports := rfl

theorem State.setCoreOf_sameService (s : State) (k : Nat) (c : CoreSt) : s.SameService (s.setCoreOf k c) := .of_eq rfl rfl

theorem State.setCtxOf_sameService (s : State) (x : Nat) (c : Ctx) : s.SameService (s.setCtxOf x c) := .of_eq rfl rfl

theorem State.send_sameService (s : State) (o : Out) : s.SameService (s.send o) := by
  unfold State.send
  exact .ite (.of_eq rfl rfl) (.of_eq rfl rfl)

theorem State.sendFirst_sameService (s : State) (c : Ctx) (x code : Nat) : s.SameService (s.sendFirst c x code) :=
  .ite (s.send_sameService _) (.refl s)

theorem State.touch_sameService (s : State) (x : Nat) (ds : List Nat) : s.SameService (s.touch x ds) := .ite (.refl s) (.of_eq rfl rfl)

theorem State.onSaved_sameService (s : State) (x l : Nat) (f : CoreSt → CoreSt) : s.SameService (s.onSaved x l f) := by
  unfold State.onSaved
  dsimp only
  split
  next => split <;> exact .of_eq rfl rfl
  next => exact .ite (.of_eq rfl rfl) (.refl s)
  next => exact .ite (.of_eq rfl rfl) (.refl s)
  next => exact .of_eq rfl rfl

theorem State.inform_sameService (s : State) (x core code : Nat) : s.SameService (s.inform x core code) :=
  .after (State.send_sameService _ _) (.after (State.setCtxOf_sameService _ x _) (s.onSaved_sameService x _ _))

/-! #### Writes that perform -/

theorem State.sendWakes_sameService (s : State) (ws : List WaitEnt) : s.SameService (s.sendWakes ws) := by
  unfold State.sendWakes
  extract_lets off on val t u
  have ht : s.SameService t := State.forEach_sameService fun w v => v.setCoreOf_sameService w.core _
  have hu : t.SameService u := State.forEach_sameService fun w v => v.setCoreOf_sameService w.core _
  exact .ite ht ((hu.after ht).update rfl rfl)

theorem State.evalWaits_sameService (s : State) (g : List Seg) : s.SameService (s.evalWaits g) :=
  State.forN_sameService fun _ u => .ite (.refl u) (.after (State.sendWakes_sameService _ _) (State.setDieOf_sameService rfl))

theorem State.perform_sameService (s : State) (g : List Seg) (bs : List Byte) : s.SameService (s.perform g bs) :=
  .after (State.evalWaits_sameService _ g) (.of_eq rfl rfl)

theorem State.sysAct_sameService (s : State) (x : Nat) (r : List Seg × SysOut) (bs : List Byte) : s.SameService (s.sysAct x r bs) := by
  unfold State.sysAct
  split
  next => exact .after (State.touch_sameService _ _ _) (s.perform_sameService _ _)
  next => exact .of_eq rfl rfl
  next => exact .refl s

theorem State.flagUpdate_sameService (s : State) (x core p : Nat) (tag : Option VerTag) (f : Nat → Nat) :
    s.SameService (s.flagUpdate x core p tag f) := by
  unfold State.flagUpdate
  refine .ite (.refl s) ?_
  split
  next => exact s.inform_sameService x core 6
  next g _ =>
    dsimp only
    split
    next => exact .ite (.after (State.touch_sameService _ _ _) (s.perform_sameService g _)) (.of_eq rfl rfl)
    next =>
      split
      next => exact s.inform_sameService x core 6
      next => exact s.sysAct_sameService x _ _

/-! #### Barriers, transfers and links -/

theorem State.writeN_sameService (s : State) (pa n v : Nat) : s.SameService (s.writeN pa n v) := .of_eq rfl rfl

theorem State.putBar_sameService (s : State) (b : Nat) (r : Bar) : s.SameService (s.putBar b r) :=
  .after (State.writeN_sameService ..) <| .after (State.writeN_sameService ..) <| .after (State.writeN_sameService ..) <|
    .after (State.writeN_sameService ..) <| .after (State.writeN_sameService ..) <| .after (State.writeN_sameService ..) (s.writeN_sameService ..)

theorem State.barWaits_sameService (s : State) (b : Nat) : s.SameService (s.barWaits b) := s.evalWaits_sameService _

theorem State.setBar_sameService (s : State) (b : Nat) (r : Bar) : s.SameService (s.setBar b r) :=
  .after (State.barWaits_sameService _ b) (s.putBar_sameService b r)

theorem State.breakBar_sameService (s : State) (b : Nat) : s.SameService (s.breakBar b) := by
  unfold State.breakBar
  extract_lets r u
  have hu : s.SameService u := s.setBar_sameService b _
  clear_value u
  exact .ite (hu.update rfl rfl) (.refl s)

theorem State.breakFor_sameService (s : State) (x : Nat) : s.SameService (s.breakFor x) :=
  State.forEach_sameService fun b u => u.breakBar_sameService b

theorem State.setVer_sameService (s : State) (x p n v : Nat) (e : Ver) : s.SameService (s.setVer x p n v e) := by
  unfold State.setVer
  split <;> exact .of_eq rfl rfl

theorem State.letGo_sameService (s : State) (x : Nat) (t : Xfer) : s.SameService (s.letGo x t) := by
  unfold State.letGo
  split
  next =>
    refine State.forEach_sameService fun e u => ?_
    split
    next =>
      split
      next => exact u.setVer_sameService ..
      next => exact .refl u
    next => exact .refl u
  next => exact .refl s

theorem State.faultXfer_sameService (s : State) (x q : Nat) (quiet : Bool) (t : Xfer) : s.SameService (s.faultXfer x q quiet t) := by
  refine .after (State.send_sameService _ _) (.after (State.inform_sameService _ x t.core 4) (.after (State.setCtxOf_sameService _ x _) ?_))
  refine .after (State.letGo_sameService _ x t) (.after (.ite (.refl _) (State.flagUpdate_sameService _ x t.core t.flag t.ftag _)) ?_)
  cases t.bar with
  | none => exact .refl s
  | some b => exact .after (State.breakBar_sameService _ b) (s.setBar_sameService b _)

theorem State.settleLinks_sameService (s : State) (x l : Nat) (f : LinkOp → Option LinkStatus) : s.SameService (s.settleLinks x l f) :=
  State.forEach_sameService fun _ _ => .of_eq rfl rfl

theorem State.breakGroup_sameService (s : State) (l : Nat) : s.SameService (s.breakGroup l) := by
  unfold State.breakGroup
  split
  next => exact .refl s
  next => exact .ite (.refl s) (.after (State.settleLinks_sameService _ _ l _) (.of_eq rfl rfl))

/-! #### Tasks and contexts -/

theorem State.enterPool_sameService (s : State) (i : Nat) : s.SameService (s.enterPool i) := by
  unfold State.enterPool
  split <;> exact .of_eq rfl rfl

theorem State.replacePooled_sameService (s : State) (d : Nat) : s.SameService (s.replacePooled d) := by
  refine .after (State.forEach_sameService fun k u => ?_) (State.forN_sameService fun p u => .ite (.refl u) (.of_eq rfl rfl))
  split
  next => exact .after (State.enterPool_sameService _ k.2) (.of_eq rfl rfl)
  next => exact .refl u

theorem State.endGroupWaits_sameService (s : State) (i : Nat) (t : Task) : s.SameService (s.endGroupWaits i t) := by
  unfold State.endGroupWaits
  split
  next => exact .refl s
  next => exact State.forEach_sameService fun _ _ => .of_eq rfl rfl

theorem State.breakTask_sameService (s : State) (i : Nat) (st : Option GroupState) : s.SameService (s.breakTask i st) := by
  unfold State.breakTask
  split
  next => exact .refl s
  next =>
    split
    next => exact .refl s
    next => exact .after (State.endGroupWaits_sameService _ i _) (.of_eq rfl rfl)

theorem State.breakGroups_sameService (s : State) (x : Nat) : s.SameService (s.breakGroups x) :=
  State.forEach_sameService fun i u => u.breakTask_sameService i none

theorem State.setAside_sameService (s : State) (core : Nat) : s.SameService (s.setAside core) := by
  unfold State.setAside
  dsimp only
  split <;> exact .of_eq rfl rfl

theorem State.dropSend_sameService (s : State) (core : Nat) : s.SameService (s.dropSend core) := .of_eq rfl rfl

theorem State.dropWaits_sameService (s : State) (core : Nat) : s.SameService (s.dropWaits core) := by
  unfold State.dropWaits
  extract_lets c w u v y
  have hu : s.SameService u := s.setCoreOf_sameService core _
  have hv : u.SameService v := u.setAside_sameService core
  have hy : v.SameService y :=
    .after (State.dropSend_sameService _ core) (State.forN_sameService fun d _ => State.setDieOf_sameService rfl)
  exact (hy.after (hv.after hu)).update rfl rfl

theorem State.stopCtx_sameService (s : State) (x code : Nat) : s.SameService (s.stopCtx x code) := by
  refine .after (State.sendFirst_sameService _ _ x code) (.after (State.setCtxOf_sameService _ x _) ?_)
  refine .after (State.forEach_sameService fun c u => u.dropWaits_sameService c.2) (.after (State.breakGroups_sameService _ x) ?_)
  exact .ite (s.breakFor_sameService x) (.refl s)

theorem State.raiseCtx_sameService (s : State) (x code addr detail lcore : Nat) : s.SameService (s.raiseCtx x code addr detail lcore) := by
  have written : s.SameService (if (s.ctxOf x).stop.isSome then s
      else s.onSaved x 0 (fun c => c.record lcore ⟨6, 0, 0, 0, 0⟩ code addr detail false)) := .ite (.refl s) (s.onSaved_sameService x 0 _)
  refine .ite (.refl s) (.ite (.after (State.stopCtx_sameService _ x code) written) ?_)
  refine .after (State.sendFirst_sameService _ _ x code) (.after (State.setCtxOf_sameService _ x _) (.after (State.breakGroups_sameService _ x) ?_))
  exact .after (.ite (State.breakFor_sameService _ x) (.refl _)) written

theorem State.checkHeads_sameService (s : State) (x : Nat) : s.SameService (s.checkHeads x) :=
  .ite (s.raiseCtx_sameService x 0x14B 0 0 0) (.refl s)

/-! ### The loss of a die (R15, R16) -/

/-- The six ports of a die fenced, each reported (R448). -/
def State.fencePorts (s : State) (d : Nat) : State :=
  s.forEach (List.range' (6 * d) 6) (fun p s => (s.setPort p .fenced).send (.linkLost p))

theorem State.port_eq_of_ports {s t : State} (h : t.fabric.ports = s.fabric.ports) (p : Nat) : t.port p = s.port p := by
  rw [State.port, State.port, h]

theorem State.port_setPort (s : State) (p q : Nat) (l : LinkState) : (s.setPort p l).port q = if q = p then l else s.port q := by
  simp only [State.port, State.setPort, find?_setKey]
  split <;> rfl

theorem State.port_fenceSend (s : State) (p q : Nat) :
    ((s.setPort p .fenced).send (.linkLost p)).port q = if q = p then .fenced else s.port q := by
  rw [State.port_eq_of_ports (State.send_sameService _ _).ports, State.port_setPort]

/-- Fencing some ports fences each of them. -/
theorem State.forEach_fenced {l : List Nat} {s : State} {p : Nat} (h : p ∈ l ∨ s.port p = .fenced) :
    (s.forEach l (fun p s => (s.setPort p .fenced).send (.linkLost p))).port p = .fenced := by
  induction l generalizing s with
  | nil => simpa [State.forEach] using h
  | cons q r ih =>
    refine ih ?_
    rw [State.port_fenceSend]
    rcases eq_or_ne p q with rfl | hq
    · exact .inr (if_pos rfl)
    · rw [if_neg hq]
      exact h.imp_left (List.mem_of_ne_of_mem hq)

theorem State.fencePorts_port {s : State} {d p : Nat} (hp : p ∈ List.range' (6 * d) 6) : (s.fencePorts d).port p = .fenced :=
  State.forEach_fenced (.inl hp)

theorem State.fencePorts_lost (s : State) (d e : Nat) : ((s.fencePorts d).dieOf e).lost = (s.dieOf e).lost :=
  State.forEach_inv (P := fun u => (u.dieOf e).lost = (s.dieOf e).lost) rfl fun _ _ _ hu => ((State.send_sameService _ _).lost e).trans hu

theorem State.dropDie_lost (s : State) (d : Nat) (saved : List Nat × List Nat) : ((s.dropDie d saved).dieOf d).lost = true := by
  have h : (s.dropDie d saved).dieOf d =
      (s.setDieOf d ⟨true, (s.dieOf d).shard.filter (fun e => e.mack), [], [], []⟩).dieOf d := rfl
  rw [h, State.dieOf_setDieOf, if_pos rfl]

/-- A die in service that is lost is dropped, its ports are fenced, and what follows moves no die and no port. -/
theorem execDieLoss_fenced {s : State} {d : Nat} (hd : d < 4) (hl : (s.dieOf d).lost = false) : ∃ u v : State,
    execDieLoss d s = .next (v.send (.dieLost d)).askReplace.flushAlmanac ∧ (u.dieOf d).lost = true ∧ (u.fencePorts d).SameService v := by
  unfold execDieLoss
  rw [if_neg (by simp [hl, hd])]
  extract_lets saved queues unversioned raised unqueued disbanded xfers dropped faulted placed fenced broken checked
  have hfaulted : dropped.SameService faulted := State.forEach_sameService fun t u => u.faultXfer_sameService ..
  have hplaced : faulted.SameService placed := faulted.replacePooled_sameService d
  have hbroken : fenced.SameService broken := State.forEach_sameService fun l u => u.breakGroup_sameService l
  have hchecked : broken.SameService checked := State.forEach_sameService fun x u => u.checkHeads_sameService x
  exact ⟨placed, checked, rfl, ((hplaced.after hfaulted).lost d).trans (State.dropDie_lost disbanded d saved), hchecked.after hbroken⟩

theorem State.askReplace_sameService (s : State) : s.SameService s.askReplace := .after (State.send_sameService _ _) (.of_eq rfl rfl)

theorem State.flushAlmanac_sameService (s : State) : s.SameService s.flushAlmanac := .of_eq rfl rfl

theorem execDieLoss_outcome {s : State} {d : Nat} (hd : d < 4) (hl : (s.dieOf d).lost = false) :
    ∃ t, execDieLoss d s = .next t ∧ (t.dieOf d).lost = true ∧ t.dev.replace = true ∧ t.dev.almFlash = t.dev.almanac ∧
      ∀ p ∈ List.range' (6 * d) 6, t.port p = .fenced := by
  obtain ⟨u, v, hexec, hlost, hv⟩ := execDieLoss_fenced hd hl
  have ht := State.SameService.after (State.flushAlmanac_sameService _) (.after (State.askReplace_sameService _)
    (.after (State.send_sameService _ (.dieLost d)) hv))
  refine ⟨_, hexec, ?_, rfl, rfl, fun p hp => ?_⟩
  · rw [ht.lost, State.fencePorts_lost, hlost]
  · rw [State.port_eq_of_ports ht.ports, State.fencePorts_port hp]

/-! ### The loss of the I/O die, resets and power -/

theorem execIoDieLoss_dead {s t : State} (h : execIoDieLoss s = .next t) {y : Nat} (hy : (s.ctxOf y).st ≠ .free) : (t.ctxOf y).st = .dead := by
  obtain rfl := Host.Outcome.next.inj h
  simp only [State.ctxOf, find?_mapVals] at hy ⊢
  cases hf : find? s.ctxs y with
  | none => rw [hf] at hy; exact absurd rfl hy
  | some c => rw [hf] at hy; simp [show c.st ≠ .free from hy]

/-- t keeps what the boot ROM finds once memory is cleared: memory, contexts, the flash with MINFW, and the phase. -/
structure State.SameBoot (s t : State) : Prop where
  mem : t.mem = s.mem
  ctxs : t.ctxs = s.ctxs
  flash : t.dev.flash = s.dev.flash
  minfw : t.dev.minfw = s.dev.minfw
  phase : t.dev.phase = s.dev.phase

theorem State.SameBoot.send {s t : State} (h : s.SameBoot t) (o : Out) : s.SameBoot (t.send o) := by
  unfold State.send
  split <;> exact ⟨h.mem, h.ctxs, h.flash, h.minfw, h.phase⟩

theorem State.SameBoot.fence {s t : State} (h : s.SameBoot t) (d : Nat) (x : Die) : s.SameBoot (t.setDieOf d x).askReplace.flushAlmanac := by
  have asked : s.SameBoot { t.setDieOf d x with dev := { t.dev with replace := true } } := ⟨h.mem, h.ctxs, h.flash, h.minfw, h.phase⟩
  obtain ⟨hmem, hctxs, hflash, hminfw, hphase⟩ := asked.send .replace
  exact ⟨hmem, hctxs, hflash, hminfw, hphase⟩

/-- The boot ROM leaves the reset device running the firmware of the flash, or in recovery mode; only dies, the measurement log and what it reports
change after that. -/
theorem execPowerOnReset_boots {s : State} (h : s.dev.phase ≠ .lost) : ∃ t, execPowerOnReset s = .next t ∧
    (s.flashDone.afterReset (if fwOk s.flashDone.dev.minfw s.flashDone.dev.flash then .running else .recovery)
      s.flashDone.dev.almanac).SameBoot t := by
  unfold execPowerOnReset
  rw [if_neg h]
  extract_lets w image u dev versioned measured fenced
  have hfw : image = w.dev.flash := rfl
  rw [hfw]
  cases fwOk w.dev.minfw w.dev.flash with
  | false => exact ⟨_, rfl, rfl, rfl, rfl, rfl, rfl⟩
  | true =>
    have hmeasured : u.SameBoot measured := ⟨rfl, rfl, rfl, rfl, rfl⟩
    have hfenced : u.SameBoot fenced := State.forN_inv hmeasured fun d _ v hv => by
      split
      · exact hv.fence d _
      · exact hv
    exact ⟨_, rfl, hfenced.send _⟩

theorem execPowerOnReset_outcome {s : State} (h : s.dev.phase ≠ .lost) : ∃ t, execPowerOnReset s = .next t ∧ t.mem = [] ∧
    t.dev.flash = s.flashDone.dev.flash ∧ t.dev.minfw = s.flashDone.dev.minfw ∧ (∀ y, (t.ctxOf y).st = .free) ∧
    t.dev.phase = if fwOk s.flashDone.dev.minfw s.flashDone.dev.flash then .running else .recovery := by
  obtain ⟨t, hexec, hmem, hctxs, hflash, hminfw, hphase⟩ := execPowerOnReset_boots h
  exact ⟨t, hexec, hmem, hflash, hminfw, fun y => by rw [State.ctxOf, hctxs]; rfl, hphase⟩

theorem State.flashCut_idle {s : State} (h : s.dev.writing = none) : s.flashCut = s := by simp only [State.flashCut, h]

/-- The flash that is left of an image being written holds its header alone (R445). -/
theorem State.flashCut_writing {s : State} {b : List Byte} {burn : Bool} (h : s.dev.writing = some (b, burn)) :
    s.flashCut.dev.flash = b.take 64 := by
  simp only [State.flashCut, h]

theorem execPowerLoss_outcome {s : State} (h : s.dev.phase ≠ .lost) : ∃ t, execPowerLoss s = .next t ∧ t.mem = [] ∧ t.dev.phase = .off ∧
    t.dev.almanac = s.dev.almFlash ∧ (∀ y, (t.ctxOf y).st = .free) ∧ (s.dev.writing = none → t.dev.flash = s.dev.flash) ∧
    ∀ b n, s.dev.writing = some (b, n) → t.dev.flash = b.take 64 := by
  refine ⟨_, if_neg h, rfl, rfl, rfl, fun _ => rfl, fun hw => ?idle, fun b n hw => ?writing⟩
  case idle => exact congrArg (fun u => u.dev.flash) (State.flashCut_idle hw)
  case writing => exact State.flashCut_writing hw

/-! ### Thermal shutdown (R449) -/

/-- No context is live or shelved on any partition. -/
def State.PartsEmpty (s : State) : Prop := ∀ n, (s.partOf n).live = none ∧ (s.partOf n).shelf = none

theorem State.partsEmpty_of_parts {s : State} (h : ∀ p ∈ s.parts, p.2.live = none ∧ p.2.shelf = none) : s.PartsEmpty := by
  intro n
  rw [State.partOf]
  cases hf : find? s.parts n with
  | none => exact ⟨rfl, rfl⟩
  | some p => exact h (n, p) (mem_of_find? hf)

/-- A partition without contexts has nothing to save. -/
theorem State.emptyPart_empty {s : State} (h : s.PartsEmpty) (n : Nat) : (s.emptyPart n).PartsEmpty ∧ (s.emptyPart n).mem = s.mem := by
  have hfree : s.freeShelf n 256 = s := by simp only [State.freeShelf, (h n).2]
  have hempty : s.emptyPart n = s.setPartOf n { s.partOf n with next := none, swap := false, after := [] } := by
    simp only [State.emptyPart, hfree, (h n).1]
  rw [hempty]
  refine ⟨fun m => ?_, rfl⟩
  rw [State.partOf_setPartOf]
  split
  · exact h n
  · exact h m

theorem State.quietPart_of_live {s : State} {p : Part} (h : p.live = none) : s.quietPart p = true := by simp only [State.quietPart, h]

theorem execThermalShutdown_outcome {s : State} (hrun : s.dev.phase = .running) (hctx : ∀ c ∈ s.ctxs, (s.ctxOf c.1).st ≠ .running)
    (hparts : ∀ p ∈ s.parts, p.2.live = none ∧ p.2.shelf = none) :
    ∃ t, execThermalShutdown s = .next t ∧ t.dev.phase = .recovery ∧ t.mem = s.mem := by
  have hdrain : s.forEach (s.ctxs.map (fun x => x.1)) (fun x s => if (s.ctxOf x).st = .running then s.drainCtx x else s) = s :=
    State.forEach_inv (P := fun u => u = s) rfl fun x hx u hu => by
      obtain ⟨c, hc, rfl⟩ := List.mem_map.mp hx
      rw [hu, if_neg (hctx c hc)]
  have hquiet : s.parts.all (fun p => s.quietPart p.2) = true :=
    List.all_eq_true.mpr fun p hp => State.quietPart_of_live (hparts p hp).1
  have hemptied : (s.forEach (s.parts.map (fun p => p.1)) (fun p s => s.emptyPart p)).PartsEmpty ∧
      (s.forEach (s.parts.map (fun p => p.1)) (fun p s => s.emptyPart p)).mem = s.mem :=
    State.forEach_inv (P := fun u => u.PartsEmpty ∧ u.mem = s.mem) ⟨State.partsEmpty_of_parts hparts, rfl⟩ fun p _ u ⟨he, hm⟩ =>
      ⟨(State.emptyPart_empty he p).1, (State.emptyPart_empty he p).2.trans hm⟩
  unfold execThermalShutdown
  rw [if_neg (not_not_intro hrun), hdrain, if_pos hquiet]
  exact ⟨_, rfl, rfl, hemptied.2⟩

/-! ### The obligation -/

theorem execMemoryUncorrectableError_poisons {s : State} {pa : Nat} (hpa : pa < 2 ^ 39) (hl : s.homeLost pa = false) :
    execMemoryUncorrectableError pa s = .next (s.poisonFrame (pa / 65536)) := if_neg (by simpa [hl] using hpa)

theorem lossesAndResets_holds : Claims.lossesAndResets := by
  intro s d x pa
  exact ⟨execDieLoss_outcome, ⟨_, rfl, rfl, rfl, fun _ => execIoDieLoss_dead rfl⟩, execMemoryUncorrectableError_poisons, rfl, fun h => if_pos h,
    fun h => ⟨execPowerOnReset_outcome h, execPowerLoss_outcome h⟩, execThermalShutdown_outcome⟩

/-- Settles O45: links, power and heat event by event; a die that is lost stays so through everything its loss brings about, for nothing of that
touches a die's service or a port. -/
theorem linkPowerAndLossEvents : Obligations.LinkPowerAndLossEvents := ⟨linkAndPowerEvents_holds, lossesAndResets_holds⟩

end Sys2Proof.Machine

/-! ## Words: what decodes, what every engine word shares, address registers and engine control (O2, O7, O8, O9, O13, O27, O28, O53, O56) -/

namespace Sys2Proof.Machine

open Claims

/-! ### The word that a stream cannot issue (R59, R114, R415, R419) -/

section
variable {s : State} {k : Nat} {t : Strm} {c : Nat}

theorem State.fetch_outside (hpc : (s.codeArray k t).2 ≤ ((s.coreOf k).strm t).pc) : s.fetch k t = .error 0x025 := if_pos hpc

/-- A word inside its array, whole on dies in service and in no poisoned frame, that breaks a decode check is fetched as its lowest cause. -/
theorem State.fetch_badWord (hpc : ((s.coreOf k).strm t).pc < (s.codeArray k t).2)
    (hg : ∀ g, g = s.codeSegs k t ((s.codeArray k t).1 + ((s.coreOf k).strm t).pc * wordLen t) (wordLen t) →
      g.any (fun c => s.homeLost c.pa) = false ∧ s.placeBad (.phys 0 g) = false)
    (hd : decode t (s.wordAt k t ((s.coreOf k).strm t).pc) = .error c ∨
      ∃ i : Instr, decode t (s.wordAt k t ((s.coreOf k).strm t).pc) = .ok i ∧ i.cause = some c) : s.fetch k t = .error c := by
  obtain ⟨hlost, hbad⟩ := hg _ rfl
  simp only [State.fetch, if_neg (Nat.not_le.mpr hpc), hlost, hbad, Bool.false_eq_true, if_false]
  rcases hd with hd | ⟨i, hd, hc⟩
  · rw [hd]
  · rw [hd]; simp only [hc]

theorem State.word_late (hm : s.mayIssue k t = true) (hl : s.lateNow k = true) :
    s.word k t = .next ({ s with cur := k } : State).raiseLate := by
  simp only [State.word, hm, hl, Bool.not_true, Bool.false_eq_true, if_false, if_true]

theorem State.word_raise (hm : s.mayIssue k t = true) (hl : s.lateNow k = false) (hf : s.fetch k t = .error c) :
    s.word k t = .next ((s.issuing k t).raise t ((s.issuing k t).siteOf t) c 0 0) := by
  simp only [State.word, hm, hl, hf, Bool.not_true, Bool.false_eq_true, if_false]
end

/-- Settles O2: the move takes the cause its core owes, and otherwise the cause that its fetch answers. -/
theorem stepBadWordTakesCause : Obligations.StepBadWordTakesCause := by
  rintro s u v k t r c hscript rfl rfl hissue
  rw [step_word hscript]
  exact ⟨State.word_late hissue, fun hlate hpc => State.word_raise hissue hlate (State.fetch_outside hpc),
    fun hlate hpc hgood hword => State.word_raise hissue hlate (State.fetch_badWord hpc hgood hword)⟩

/-- Settles O8. -/
theorem decodesTableWords : Obligations.DecodesTableWords := by
  unfold Obligations.DecodesTableWords
  decide +kernel

/-- Settles O9: R49, register by register. -/
theorem hardwiredRegisters : Obligations.HardwiredRegisters := by
  refine ⟨CoreSt.sreg_zero, CoreSt.setSreg_zero, StreamSt.preg_zero, fun _ _ => rfl, fun c r v hr => ?_, fun m k v hk => ?_⟩
  · rw [CoreSt.sreg_setSreg, if_pos rfl]
    exact if_neg hr
  · rw [StreamSt.preg_setPreg, if_pos ⟨rfl, hk⟩]

theorem lowest_le_of_mem {l : List Nat} {x : Nat} (h : x ∈ l) : ∃ c, lowest l = some c ∧ c ≤ x := by
  induction l with
  | nil => cases h
  | cons y l ih =>
    rw [lowest]
    rcases List.mem_cons.mp h with rfl | h
    · cases lowest l with
      | none => exact ⟨x, rfl, le_rfl⟩
      | some d => exact ⟨min x d, rfl, min_le_left x d⟩
    · obtain ⟨c, hc, hle⟩ := ih h
      rw [hc]
      exact ⟨min y c, rfl, (min_le_right y c).trans hle⟩

/-! ### END (R39) -/

section
variable {w : W96}

theorem endStream_cause (h : w.pred ≠ 0 ∨ w.pneg = true) :
    (Instr.endStream w).cause = lowest (Form.causes ⟨.no, .no, .no, [], false, []⟩ w ++ [0x022]) := by
  simp only [Instr.cause, Instr.form, Instr.mcauses, Instr.ccauses, if_pos h, List.append_nil]

theorem endStream_cause_le (h : w.pred ≠ 0 ∨ w.pneg = true) : ∃ c, (Instr.endStream w).cause = some c ∧ c ≤ 0x022 := by
  rw [endStream_cause h]
  exact lowest_le_of_mem (by simp)
end

/-- Settles O56: the cause of a predicate stands in the list of an END word's causes, whatever its other fields hold. -/
theorem endPredicate : Obligations.EndPredicate := by
  intro w h
  obtain ⟨c, hc, hle⟩ := endStream_cause_le h
  refine ⟨by rw [Instr.wf, hc]; rfl, fun hfmt hrm hvar hd ha hb => ?_, c, hc, hle⟩
  rw [endStream_cause h]
  simp [Form.causes, Opd.causes, hfmt, hrm, hvar, hd, ha, hb, lowest]

/-! ### Address registers (R48, R110) -/

/-- A pending result that may write address register n. -/
abbrev Pend.reaches (p : Pend) (n : Nat) : Prop := p.file = 3 ∧ p.num = n ∧ p.wr ≠ 0#128

/-- Address register n with a pending result of it applied: the step by which its newest value is found (R48). -/
def AReg.withPend (n : Nat) (a : AReg) (p : Pend) : AReg :=
  if p.reaches n then (match p.val with
    | .base b => { a with base := b }
    | .addr v => v
    | _ => a) else a

theorem CoreSt.aregNew_eq (c : CoreSt) (n : Nat) :
    c.aregNew n = [c.lS, c.vS, c.mS, c.sS].foldl (fun a m => m.pend.foldl (AReg.withPend n) a) (c.areg n) := rfl

theorem AReg.withPend_other {n : Nat} {p : Pend} (h : ¬p.reaches n) (a : AReg) : a.withPend n p = a := if_neg h

/-- A pending result after a write of part of address register n, f being what the write does to the results that may reach it. -/
def Pend.onAddr (n : Nat) (f : Pend → Pend) (p : Pend) : Pend := if p.reaches n then f p else p

theorem CoreSt.aregNew_mapAddr_setAreg (c : CoreSt) (n k : Nat) (f : Pend → Pend) (a : AReg) : ((c.mapAddr n f).setAreg n a).aregNew k =
    [c.lS, c.vS, c.mS, c.sS].foldl (fun x m => m.pend.foldl (fun y p => y.withPend k (p.onAddr n f)) x) (if k = n then a else c.areg k) := by
  have harea : ((c.mapAddr n f).setAreg n a).areg k = if k = n then a else c.areg k := CoreSt.areg_setAreg ..
  rw [CoreSt.aregNew_eq, harea]
  simp only [List.foldl_cons, List.foldl_nil, ← List.foldl_map]
  rfl

/-- A write E of part of an address register that does to every pending result what it does to the register changes the newest value by E. -/
theorem CoreSt.aregNew_of_part {c : CoreSt} {n : Nat} {f : Pend → Pend} {E : AReg → AReg}
    (h : ∀ (a : AReg) (p : Pend), p.reaches n → (E a).withPend n (f p) = E (a.withPend n p)) :
    ((c.mapAddr n f).setAreg n (E (c.areg n))).aregNew n = E (c.aregNew n) := by
  have hstep (a : AReg) (p : Pend) : (E a).withPend n (p.onAddr n f) = E (a.withPend n p) := by
    unfold Pend.onAddr
    split
    next hp => exact h a p hp
    next hp => rw [AReg.withPend_other hp, AReg.withPend_other hp]
  rw [CoreSt.aregNew_mapAddr_setAreg, if_pos rfl, CoreSt.aregNew_eq]
  exact List.foldl_hom E fun a m => List.foldl_hom E hstep

theorem CoreSt.aregNew_of_other {c : CoreSt} {n k : Nat} {f : Pend → Pend} (hf : ∀ p, (f p).num = p.num) (hk : k ≠ n) (a : AReg) :
    ((c.mapAddr n f).setAreg n a).aregNew k = c.aregNew k := by
  have hstep (y : AReg) (p : Pend) : y.withPend k (p.onAddr n f) = y.withPend k p := by
    unfold Pend.onAddr
    split
    next hp => 
      rw [AReg.withPend_other fun h => hk (by rw [← h.2.1, hf, hp.2.1]), AReg.withPend_other fun h => hk (h.2.1.symm.trans hp.2.1)]
    next => rfl
  rw [CoreSt.aregNew_mapAddr_setAreg, if_neg hk, CoreSt.aregNew_eq]
  simp only [hstep]

/-- A write of part of address register n is a write of that register alone. -/
theorem aregWrote_mapAddr {s : State} {n : Nat} {f : Pend → Pend} {E : AReg → AReg} (hf : ∀ p, (f p).num = p.num)
    (h : ∀ (a : AReg) (p : Pend), p.reaches n → (E a).withPend n (f p) = E (a.withPend n p)) :
    aregWrote s n (E (s.core.aregNew n)) (retired (s.setCore ((s.core.mapAddr n f).setAreg n (E (s.core.areg n))))) :=
  ⟨_, rfl, CoreSt.aregNew_of_part h, fun _ hk => CoreSt.aregNew_of_other hf hk _, fun _ => rfl, fun _ => rfl, rfl⟩

theorem aregWrote_putBase (s : State) (n : Nat) (b : Word) (st : W32) :
    aregWrote s n { s.core.aregNew n with base := b, stride := st } (retired (s.setCore (s.core.putBase n b st))) := by
  refine aregWrote_mapAddr (E := fun a => { a with base := b, stride := st }) (fun p => ?_) fun a p hp => ?_
  · split <;> rfl
  · obtain ⟨hfile, hnum, hwr⟩ := hp
    cases hv : p.val <;> simp [AReg.withPend, Pend.reaches, hfile, hnum, hwr, hv]

theorem aregWrote_putLimit (s : State) (n : Nat) (l : W32) :
    aregWrote s n { s.core.aregNew n with limit := l } (retired (s.setCore (s.core.putLimit n l))) := by
  refine aregWrote_mapAddr (E := fun a => { a with limit := l }) (fun p => ?_) fun a p hp => ?_
  · split <;> rfl
  · obtain ⟨hfile, hnum, hwr⟩ := hp
    cases hv : p.val <;> simp [AReg.withPend, Pend.reaches, hfile, hnum, hwr, hv]

/-- Settles O13: SETA and SETK do to every pending result of the register what they do to the register itself. -/
theorem addressRegisterWords : Obligations.AddressRegisterWords := by
  intro s n d a b hd ha hb
  have hbase : exec (.seta n a b) s = retired (s.setCore (s.core.putBase n.toNat (s.core.sreg a) ((s.core.sreg b).truncate 32))) := by
    simp [execSeta, State.rd_ready ha, State.rd_ready hb, retired]
  have hlimit : exec (.setk n a) s = retired (s.setCore (s.core.putLimit n.toNat ((s.core.sreg a).truncate 32))) := by
    simp [execSetk, State.rd_ready ha, retired]
  have hget (v : Word) : finish false (s.wr d v) s = wrote s d v := by rw [State.wr_ready v hd]; rfl
  exact ⟨hbase ▸ aregWrote_putBase .., hlimit ▸ aregWrote_putLimit .., hget _, hget _, hget _⟩

/-! ### The issue of an engine word (R36, R41, R42, R130) -/

/-- The stream of an engine word once its number is taken and its schedule position and macro-PC have moved. -/
def StreamSt.issue (m : StreamSt) (h : Hd) (e : Eff) : StreamSt :=
  let k := match e.taken with
    | some n => m.finishNum n
    | none => if e.opened then m.takeNum else m.countNum
  { k with sigma := k.sigma + 1 + h.stall, pc := e.next.getD (m.pc + 1), waiting := false }

/-- The core of an engine word that has issued, before the word's results reach it. -/
def Eff.issueCore (e : Eff) (t : Strm) (h : Hd) : CoreSt := (e.s.core.noWant t).setStrm t ((e.s.sm t).issue h e)

/-- The results of an effect that write anything: p0 is hard-wired (R49). -/
def Eff.results (e : Eff) : List Wr := e.res.filter (fun r => r.mask != 0 && !(r.file == 1 && r.num == 0))

/-- A result that is visible at once, written to the core. -/
def CoreSt.takeWr (t : Strm) (c : CoreSt) (r : Wr) : CoreSt :=
  match r.file, r.val with
  | 3, .base b => c.moveBase r.num b
  | 3, .addr a => c.putAreg r.num a
  | _, v => (c.setStrm t { c.strm t with pend := cutLanes r.file r.num r.mask (c.strm t).pend }).writeRes t r.file r.num r.mask v

@[simp] theorem State.sm_setCore (s : State) (c : CoreSt) (t : Strm) : (s.setCore c).sm t = c.strm t := by rw [State.sm, State.core_setCore]

section
variable {t : Strm} {h : Hd} {e : Eff}

/-- A word of fixed latency leaves its results pending. -/
theorem State.issueEngine_fixed {l : Nat} (hl : e.lat = some l) {m : StreamSt} (hm : m = (e.s.sm t).issue h e) :
    State.issueEngine t h e = e.s.setCore ((e.issueCore t h).setStrm t { m with
      pend := m.pend ++ e.results.map (fun r => ⟨r.file, r.num, r.mask, r.mask, r.val, m.sigma - 1 - h.stall + l, (e.s.sm t).pc⟩) }) := by
  subst hm
  unfold State.issueEngine
  simp only [hl, State.setSm, State.core_setCore, State.setCore_setCore]
  cases t <;> rfl

/-- An interlocked word writes its results at once. -/
theorem State.issueEngine_interlocked (hl : e.lat = none) : State.issueEngine t h e =
    e.s.setCore (e.results.foldl (CoreSt.takeWr t) (e.issueCore t h)) := by
  unfold State.issueEngine
  simp only [hl, State.setSm, State.core_setCore, State.setCore_setCore]
  rfl
end

/-- d keeps what the results of an engine word of stream t never touch: the scalar registers, CSRs, events, tiles, buffers and rings of c, and
the macro-PC and schedule position of the stream. -/
structure CoreSt.KeptByResults (t : Strm) (c d : CoreSt) : Prop where
  sregs : d.sregs = c.sregs
  csrs : d.csrs = c.csrs
  events : d.events = c.events
  tiles : d.tiles = c.tiles
  wbuf : d.wbuf = c.wbuf
  abuf : d.abuf = c.abuf
  rings : d.rings = c.rings
  pc : (d.strm t).pc = (c.strm t).pc
  sigma : (d.strm t).sigma = (c.strm t).sigma

section
variable {t : Strm} {c d : CoreSt}

theorem CoreSt.KeptByResults.refl (t : Strm) (c : CoreSt) : c.KeptByResults t c := ⟨rfl, rfl, rfl, rfl, rfl, rfl, rfl, rfl, rfl⟩

theorem CoreSt.KeptByResults.after {x : CoreSt} (k : d.KeptByResults t x) (h : c.KeptByResults t d) : c.KeptByResults t x :=
  ⟨k.sregs.trans h.sregs, k.csrs.trans h.csrs, k.events.trans h.events, k.tiles.trans h.tiles, k.wbuf.trans h.wbuf, k.abuf.trans h.abuf,
    k.rings.trans h.rings, k.pc.trans h.pc, k.sigma.trans h.sigma⟩

theorem CoreSt.setStrm_kept {m : StreamSt} (hpc : m.pc = (c.strm t).pc) (hs : m.sigma = (c.strm t).sigma) : c.KeptByResults t (c.setStrm t m) := by
  constructor <;> simp [hpc, hs]

theorem CoreSt.mapAddr_kept (t : Strm) (c : CoreSt) (n : Nat) (f : Pend → Pend) : c.KeptByResults t (c.mapAddr n f) := by
  cases t <;> exact ⟨rfl, rfl, rfl, rfl, rfl, rfl, rfl, rfl, rfl⟩

theorem CoreSt.dropPend_kept (t : Strm) (c : CoreSt) (f n : Nat) : c.KeptByResults t (c.dropPend f n) := by
  cases t <;> exact ⟨rfl, rfl, rfl, rfl, rfl, rfl, rfl, rfl, rfl⟩

theorem CoreSt.setAreg_kept (t : Strm) (c : CoreSt) (n : Nat) (a : AReg) : c.KeptByResults t (c.setAreg n a) := by
  cases t <;> exact ⟨rfl, rfl, rfl, rfl, rfl, rfl, rfl, rfl, rfl⟩

theorem CoreSt.setVreg_kept (t : Strm) (c : CoreSt) (n : Nat) (v : Vec) : c.KeptByResults t (c.setVreg n v) := by
  cases t <;> exact ⟨rfl, rfl, rfl, rfl, rfl, rfl, rfl, rfl, rfl⟩

theorem CoreSt.moveBase_kept (t : Strm) (c : CoreSt) (n : Nat) (b : Word) : c.KeptByResults t (c.moveBase n b) := by
  unfold CoreSt.moveBase
  extract_lets d k
  have hk : c.KeptByResults t k := CoreSt.mapAddr_kept t c n _
  split
  · exact hk
  · exact (CoreSt.setAreg_kept t k n _).after hk

theorem StreamSt.setPreg_pc (m : StreamSt) (n : Nat) (v : Mask) : (m.setPreg n v).pc = m.pc := by unfold StreamSt.setPreg; split <;> rfl

theorem StreamSt.setPreg_sigma (m : StreamSt) (n : Nat) (v : Mask) : (m.setPreg n v).sigma = m.sigma := by unfold StreamSt.setPreg; split <;> rfl

theorem CoreSt.writeRes_kept (t : Strm) (c : CoreSt) (file n : Nat) (m : Mask) (v : PVal) : c.KeptByResults t (c.writeRes t file n m v) := by
  cases v with
  | vec x => exact CoreSt.setVreg_kept ..
  | pred x => exact CoreSt.setStrm_kept (StreamSt.setPreg_pc ..) (StreamSt.setPreg_sigma ..)
  | idx x => exact CoreSt.setStrm_kept rfl rfl
  | base b => exact CoreSt.setAreg_kept ..
  | addr a =>
    simp only [CoreSt.writeRes]
    split
    · exact CoreSt.setAreg_kept ..
    · exact .refl t c

theorem CoreSt.takeWr_kept (t : Strm) (c : CoreSt) (r : Wr) : c.KeptByResults t (c.takeWr t r) := by
  unfold CoreSt.takeWr
  split
  · exact CoreSt.moveBase_kept ..
  · exact (CoreSt.setAreg_kept ..).after (CoreSt.dropPend_kept ..)
  · exact (CoreSt.writeRes_kept ..).after (CoreSt.setStrm_kept rfl rfl)

theorem CoreSt.takeWrs_kept (t : Strm) (c : CoreSt) (rs : List Wr) : c.KeptByResults t (rs.foldl (CoreSt.takeWr t) c) := by
  induction rs generalizing c with
  | nil => exact .refl t c
  | cons r rs ih => exact (ih _).after (CoreSt.takeWr_kept t c r)
end

section
variable {t : Strm} {h : Hd} {e : Eff}

/-- An engine word that issues changes its core alone, and there its results keep what KeptByResults says. -/
theorem State.issueEngine_core : ∃ d, State.issueEngine t h e = e.s.setCore d ∧ (e.issueCore t h).KeptByResults t d := by
  cases hl : e.lat with
  | some l => exact ⟨_, State.issueEngine_fixed hl rfl, CoreSt.setStrm_kept (by simp [Eff.issueCore]) (by simp [Eff.issueCore])⟩
  | none => exact ⟨_, State.issueEngine_interlocked hl, CoreSt.takeWrs_kept ..⟩

theorem Eff.issueCore_eq (e : Eff) (t : Strm) (h : Hd) :
    ∃ l, e.issueCore t h = ({ e.s.core with want := l } : CoreSt).setStrm t ((e.s.sm t).issue h e) := by
  unfold Eff.issueCore CoreSt.noWant
  split <;> exact ⟨_, rfl⟩

theorem StreamSt.issue_pc (m : StreamSt) : (m.issue h e).pc = e.next.getD (m.pc + 1) := rfl

theorem StreamSt.issue_sigma (m : StreamSt) : (m.issue h e).sigma = m.sigma + 1 + h.stall := by
  unfold StreamSt.issue
  cases e.taken <;> cases e.opened <;> rfl

theorem StreamSt.issue_preds (m : StreamSt) : (m.issue h e).preds = m.preds := by
  unfold StreamSt.issue
  cases e.taken <;> cases e.opened <;> rfl

theorem StreamSt.issue_iregs (m : StreamSt) : (m.issue h e).iregs = m.iregs := by
  unfold StreamSt.issue
  cases e.taken <;> cases e.opened <;> rfl

/-- A word of fixed latency changes no register, since its results stand pending. -/
theorem State.issueEngine_fixed_regs {l : Nat} (hl : e.lat = some l) {u : State} (hu : u = State.issueEngine t h e) :
    u.core.vregs = e.s.core.vregs ∧ u.core.aregs = e.s.core.aregs ∧ (u.sm t).preds = (e.s.sm t).preds ∧ (u.sm t).iregs = (e.s.sm t).iregs := by
  obtain ⟨w, hcore⟩ := e.issueCore_eq t h
  rw [hu, State.issueEngine_fixed hl rfl, State.sm_setCore, State.core_setCore, hcore]
  simp [StreamSt.issue_preds, StreamSt.issue_iregs]
end

/-- Settles O53. -/
theorem engineIssueFrame : Obligations.EngineIssueFrame := by
  rintro t h e u rfl
  have hfixed (l : Nat) (hl : e.lat = some l) := State.issueEngine_fixed_regs (t := t) (h := h) hl rfl
  obtain ⟨d, hu, hd⟩ := State.issueEngine_core (t := t) (h := h) (e := e)
  obtain ⟨w, hcore⟩ := e.issueCore_eq t h
  obtain ⟨hsregs, hcsrs, hevents, htiles, hwbuf, habuf, hrings, hpc, hsigma⟩ := hcore ▸ hd
  simp only [CoreSt.strm_setStrm, if_true, StreamSt.issue_pc, StreamSt.issue_sigma] at hpc hsigma
  rw [hu] at hfixed ⊢
  rw [State.sm_setCore, State.core_setCore] at hfixed ⊢
  exact ⟨rfl, by simpa using hsregs, by simpa using hcsrs, by simpa using hevents, by simpa using htiles, by simpa using hwbuf,
    by simpa using habuf, by simpa using hrings, hpc, hsigma, hfixed⟩

/-! ### What every engine word shares (R36, R37, R44) -/

/-- A stream with a pending result of a register holds one of any more registers. -/
theorem StreamSt.short_of_subset {m : StreamSt} {rs qs : List Rg} {p : Pend} (hs : rs ⊆ qs) (h : m.short rs = some p) :
    ∃ q, m.short qs = some q := by
  unfold StreamSt.short at h ⊢
  split at h
  next hb =>
    rw [if_pos hb, ← Option.isSome_iff_exists, List.getLast?_isSome]
    have hp := List.mem_filter.mp (List.mem_of_getLast? h)
    refine List.ne_nil_of_mem (a := p) (List.mem_filter.mpr ⟨hp.1, ?_⟩)
    obtain ⟨r, hr, hrp⟩ := List.any_eq_true.mp hp.2
    exact List.any_eq_true.mpr ⟨r, hs hr, hrp⟩
  next => cases h

/-- The detail that names a register whose result is not yet visible, and the word that writes it (Table 2-13). -/
def Pend.detail (p : Pend) : Nat := p.xpc % 2 ^ 32 + p.num * 2 ^ 32 + p.file * 2 ^ 40

/-- The outcome o is that of an engine word of stream t with head h that issues in the state u: a word that its predicate disables does nothing
but issue, and a predicate that is not yet visible gives cause 0x120. -/
structure HeadOutcome (u : State) (t : Strm) (h : Hd) (o : Out1) : Prop where
  off : (u.sm t).active t h = 0 → (u.sm t).short [rg 1 h.pred] = none → o = .next (State.issueEngine t h { s := u })
  short : ∀ p, (u.sm t).short [rg 1 h.pred] = some p → ∃ d, o = .next (u.raise t (u.siteE t 0) 0x120 0 d) ∧
    ((u.sm t).active t h = 0 → d = p.detail)

/-- The registers that a word reads in the lanes m besides its predicate: none in no lane. -/
def readsIn (m : Mask) (rs : List Rg) : List Rg := if m = 0 then [] else rs

/-- An outcome that checks the scoreboard of its predicate together with the registers it reads is that of an engine word. -/
theorem headOutcome_of {u : State} {t : Strm} {h : Hd} {o : Out1} (rs : List Rg)
    (hshort : ∀ q, (u.sm t).short (rg 1 h.pred :: readsIn ((u.sm t).active t h) rs) = some q →
      o = .next (u.raise t (u.siteE t 0) 0x120 0 q.detail))
    (hoff : (u.sm t).active t h = 0 → (u.sm t).short [rg 1 h.pred] = none → o = .next (State.issueEngine t h { s := u })) :
    HeadOutcome u t h o where
  off := hoff
  short p hp := by
    obtain ⟨q, hq⟩ := StreamSt.short_of_subset (List.cons_subset_cons (rg 1 h.pred) (List.nil_subset (readsIn ((u.sm t).active t h) rs))) hp
    refine ⟨q.detail, hshort q hq, fun ha => ?_⟩
    rw [readsIn, if_pos ha, hp] at hq
    rw [Option.some.inj hq]

section
variable {s u : State} {t : Strm} {h : Hd} {w : W96} {x : W192} {i : Instr}

theorem engineWith_head (reads : Mask → List Rg) (onWait : State → State) (onCause : Nat → State → State) (body : Mask → State → Res Eff) :
    HeadOutcome (due s t) t h (engineWith t h reads onWait onCause body s) := by
  refine headOutcome_of (reads (((due s t).sm t).active t h)) (fun q hq => ?_) (engineWith_off rfl)
  rw [readsIn, due] at hq
  simp only [engineWith, hq]
  rfl

theorem matrixWord_head (reads : State → List Rg) (onWait : State → State) (body : State → MRes) :
    HeadOutcome (dueM s) .M (hd192 x) (matrixWord x reads onWait body s) := by
  refine headOutcome_of (reads (dueM s)) (fun q hq => ?_) fun ha hr => ?_
  · rw [readsIn, dueM] at hq
    simp only [matrixWord, hq]
    rfl
  · rw [dueM] at ha hr
    simp only [matrixWord, ha, ↓reduceIte, hr]
    rfl

theorem engine_head (reads : Mask → List Rg) (onWait : State → State) (body : Mask → State → Res Eff) :
    HeadOutcome (due s t) t h (engine t h reads onWait body s) := engineWith_head ..

theorem vword_head (f : Nat) (reads : Mask → List Rg) (onWait : State → State) (body : Mask → State → Res Eff) :
    HeadOutcome (due s .V) .V (hd96 w) (vword w f reads onWait body s) := engine_head ..

theorem loadWords_head : ∀ i ∈ loadWords w, HeadOutcome (due s .L) .L (hd96 w) (exec i s) := by
  simp [loadWords, execLdb, execLdtBuffer, execLdtTile, execLdg, execLdz, execLdc, execLdsh, execLpref, execLwfree, execLpubl, ringWord,
    engine_head, engineWith_head]

theorem storeWords_head : ∀ i ∈ storeWords w, HeadOutcome (due s .S) .S (hd96 w) (exec i s) := by
  simp [storeWords, execStb, execSttBuffer, execSttTile, execStsc, execStadd, execStaxpy, execStopt, execStoptAdam, execStcvt,
    execStcvtTile, execSatom, execSwfill, execSrels, ringWord, addWord, optWord, engine_head, engineWith_head]

theorem vectorWords_head : ∀ i ∈ vectorWords w, HeadOutcome (due s .V) .V (hd96 w) (exec i s) := by
  simp [vectorWords, execVadd, execVsub, execVmul, execVfma, execVfms, execVmin, execVmax, execVabs, execVneg, execVcpys, execVrcp,
    execVrsq, execVsqrt, execVexp2, execVlog2, execVexpd, execVtanh, execVsigm, execVcmpeq, execVcmplt, execVcmple, execVcmpun,
    execVclass, execViadd, execVisub, execVimul, execVimad, execVand, execVor, execVxor, execVandn, execVshl, execVshr, execVsra,
    execVimin, execVimax, execViminu, execVimaxu, execVicmpeq, execVicmplt, execVicmpltu, execVpcnt, execVclz, execVcvt, execVqnt,
    execVdqnt, execVscale, execVpack, execVunpk, execVrsum, execVrmax, execVrmin, execVrarg, execVscan, execVscanx, execVsort, execVtopk,
    execVmrg, execVperm, execVbcst, execVrot, execVsel, execVmov, execVldi, execVlane, execVlaneAddress, execVpushc, execVpopc,
    execVrebal, execVcount, execVsred, execVsscan, execVsnorm, execVsmask, execVslen, execVblz, execVrng, execVrngu, lanewise, compare,
    reducing, gathering, segword, random, vword_head, engine_head]

theorem matrixWords_head : ∀ i ∈ matrixWords x, HeadOutcome (dueM s) .M (hd192 x) (exec i s) := by
  simp only [matrixWords, List.forall_mem_cons, List.not_mem_nil, false_implies, implies_true, exec_mma, exec_mmat, exec_mmas,
    exec_mzero, exec_minit, exec_mdrain, exec_mdrainRegister, exec_mret, exec_mcal, exec_msetk, exec_mwide, exec_mchk, exec_mspill,
    exec_mfill, exec_mstat, execMma, execMmat, execMmas, execMzero, execMinit, execMdrain, execMdrainRegister, execMret, execMcal,
    execMsetk, execMwide, execMchk, execMspill, execMfill, execMstat, tileStep, plainMatrix, matrixWord_head, and_self]

theorem control_head (body : State → Res Eff) : HeadOutcome (due s s.cst) s.cst (hd96 w) (control w body s) := engine_head ..

theorem boqbPush_head (f : Mask → Bool) : HeadOutcome (due s s.cst) s.cst (hd96 w) (boqbPush w f s) := engine_head ..

theorem controlWords_head : ∀ i ∈ controlWords w, i ≠ .enginePost w → i ≠ .engineFence w →
    HeadOutcome (due s s.cst) s.cst (hd96 w) (exec i s) := by
  simp [controlWords, execEngineNop, execEngineAwait, execEngineMark, execJmp, execBoqb, execBoqbPush, execBoqbPushall, execLoop, execIaddi,
    execIset, execIpop, execTrapx, execEndStream, control_head, boqbPush_head, engine_head]

/-- POST and FENCE raise POSTs once they have issued or taken their cause (R137). -/
theorem controlWords_head_posts (hi : i ∈ controlWords w) :
    ∃ o, HeadOutcome (due s s.cst) s.cst (hd96 w) o ∧ (exec i s = o ∨ exec i s = thenPosts o) := by
  by_cases hpost : i = .enginePost w
  · exact hpost ▸ ⟨_, control_head _, .inr rfl⟩
  by_cases hfence : i = .engineFence w
  · exact hfence ▸ ⟨_, control_head _, .inr rfl⟩
  exact ⟨_, controlWords_head i hi hpost hfence, .inl rfl⟩

theorem engineWord_head (hw : engineWord s w x i t h u) : ∃ o, HeadOutcome u t h o ∧ (exec i s = o ∨ exec i s = thenPosts o) := by
  rcases hw with ⟨rfl, rfl, ⟨rfl, hi⟩ | ⟨rfl, hi⟩ | ⟨rfl, hi⟩ | ⟨rfl, hi⟩⟩ | ⟨rfl, rfl, rfl, hi⟩
  · exact controlWords_head_posts hi
  · exact ⟨_, loadWords_head i hi, .inl rfl⟩
  · exact ⟨_, storeWords_head i hi, .inl rfl⟩
  · exact ⟨_, vectorWords_head i hi, .inl rfl⟩
  · exact ⟨_, matrixWords_head i hi, .inl rfl⟩

theorem engineWord_mem (hw : engineWord s w x i t h u) : u.mem = s.mem := by
  rcases hw with ⟨-, rfl, -⟩ | ⟨-, rfl, -⟩ <;> rfl
end

theorem predicatedOffWords_holds : Claims.predicatedOffWords := by
  rintro s s' v w x i t h hw hoff hvis rfl
  obtain ⟨o, ho, hexec⟩ := engineWord_head hw
  obtain ⟨d, hv, -⟩ := State.issueEngine_core (t := t) (h := h) (e := { s := s' })
  have hmem : (State.issueEngine t h { s := s' }).mem = s.mem := by rw [hv, ← engineWord_mem hw]; rfl
  rw [ho.off hoff hvis] at hexec
  rcases hexec with hexec | hexec
  · exact ⟨_, hexec, .inl rfl, hmem⟩
  · exact ⟨_, hexec, .inr rfl, hmem⟩

theorem scoreboardCause_holds : Claims.scoreboardCause := by
  intro s u w x i t h p hw hp
  obtain ⟨o, ho, hexec⟩ := engineWord_head hw
  obtain ⟨d, rfl, hd⟩ := ho.short p hp
  rcases hexec with hexec | hexec
  · exact ⟨_, d, hexec, .inl rfl, hd⟩
  · exact ⟨_, d, hexec, .inr rfl, hd⟩

/-- Settles O27: every engine word is made by one of two shared operations, which look at the predicate before anything else. -/
theorem disabledEngineWords : Obligations.DisabledEngineWords := ⟨predicatedOffWords_holds, scoreboardCause_holds⟩

/-! ### The engine-control group (R57, R114, R136 to R140) -/

section
variable {s s' : State} {t : Strm} {h : Hd} {w : W96} {m : Mask}

theorem enabled_cst {reads : Mask → List Rg} (he : enabled s t h reads m s') : s'.cst = s.cst := by
  obtain ⟨rfl, -⟩ := he
  rfl

/-- An enabled word whose body answers issues with its effect. -/
theorem engine_issued {reads : Mask → List Rg} {onWait : State → State} {body : Mask → State → Res Eff} {e : Eff}
    (he : enabled s t h reads m s') (hb : body m s' = .ok e) : engine t h reads onWait body s = issued t h e := by
  obtain ⟨hs, ha, hm, hr⟩ := he
  exact engineWith_ok hs ha hm hr hb

theorem control_issued {body : State → Res Eff} {e : Eff} (he : enabled s s.cst (hd96 w) (fun _ => []) m s') (hb : body s' = .ok e) :
    control w body s = issued s.cst (hd96 w) e := engine_issued he hb

theorem control_caused {body : State → Res Eff} {c a d : Nat} (he : enabled s s.cst (hd96 w) (fun _ => []) m s')
    (hb : body s' = .error (.cause c a d)) : control w body s = .next (s'.raise s.cst (s'.siteE s.cst 0) c a d) := by
  obtain ⟨hs, ha, hm, hr⟩ := he
  exact engineWith_cause (reads := fun _ => []) (body := fun _ => body) (onCause := fun _ s => s) hs ha hm hr hb
end


/-- A transfer that a word makes on a condition, before the rest f of its body. -/
theorem branch_ok {c : Prop} [Decidable c] {x : Res Nat} {n : Option Nat} {f : Option Nat → Res Eff}
    (h : (if c then x.map some else .ok none) = .ok n) : (if c then x.map some >>= f else f none) = f n := by
  split at h
  next hc => rw [if_pos hc, h, res_ok_bind]
  next hc => rw [if_neg hc, ← Except.ok.inj h]

theorem thenPosts_issued (t : Strm) (h : Hd) (e : Eff) : thenPosts (issued t h e) = .next (State.issueEngine t h e).flushPosts := rfl

section
variable {s s' : State} {w : W96} {m : Mask}

theorem execEngineNop_issued (he : enabled s s.cst (hd96 w) (fun _ => []) m s') : execEngineNop w s = issued s.cst (hd96 w) { s := s' } :=
  control_issued he rfl

theorem execEnginePost_issued (he : enabled s s.cst (hd96 w) (fun _ => []) m s') : execEnginePost w s =
    .next (State.issueEngine s.cst (hd96 w) { s := s'.pushPost s.cst w.d.imm w.a.imm ((s'.sm s.cst).issued + 1) }).flushPosts := by
  rw [execEnginePost, control_issued he rfl, thenPosts_issued, enabled_cst he]

theorem execEngineAwait_issued {c : CoreSt} (he : enabled s s.cst (hd96 w) (fun _ => []) m s')
    (hc : s'.core.doAwait s.cst w.d.imm w.a.imm = some c) : execEngineAwait w s = issued s.cst (hd96 w) { s := s'.setCore c } :=
  engine_issued he (by simp only [enabled_cst he, hc])

theorem execEngineMark_issued (he : enabled s s.cst (hd96 w) (fun _ => []) m s') :
    execEngineMark w s = issued s.cst (hd96 w) { s := s'.setSm s.cst (s'.sm s.cst).doMark } := by
  rw [execEngineMark, control_issued he rfl, enabled_cst he]

theorem execJmp_issued {n : Nat} (he : enabled s s.cst (hd96 w) (fun _ => []) m s') (hn : s'.offTarget w.b = .ok n) :
    execJmp w s = issued s.cst (hd96 w) { s := s', next := some n } :=
  control_issued he (by simp only [hn, res_ok_bind])

theorem execBoqb_issued {b : Bool} {r : List Bool} {n : Option Nat} (he : enabled s s.cst (hd96 w) (fun _ => []) m s')
    (hq : (s'.sm s.cst).boq = b :: r) (hn : (if b then (s'.offTarget w.b).map some else .ok none) = .ok n) :
    execBoqb w s = issued s.cst (hd96 w) { s := s'.setSm s.cst { s'.sm s.cst with boq := r }, next := n } :=
  control_issued he (by simp only [enabled_cst he, hq]; exact branch_ok hn)

theorem execIset_issued (he : enabled s s.cst (hd96 w) (fun _ => []) m s') :
    execIset w s = issued s.cst (hd96 w) { s := s', res := idxRes w.d.imm (offValue w.b), lat := some 1 } := control_issued he rfl

theorem execIpop_issued {v : W32} {r : List W32} (he : enabled s s.cst (hd96 w) (fun _ => []) m s') (hq : (s'.sm s.cst).pq = v :: r) :
    execIpop w s = issued s.cst (hd96 w) { s := s'.setSm s.cst { s'.sm s.cst with pq := r }, res := idxRes w.d.imm v } :=
  control_issued he (by simp only [enabled_cst he, hq])

theorem execEngineFence_issued (he : enabled s s.cst (hd96 w) (fun _ => []) m s')
    (hf : w.a.imm = 1 ∨ s'.core.releaseReady s.cst w.d.imm = true) : execEngineFence w s =
    .next (State.issueEngine s.cst (hd96 w) { s := s'.setSm s.cst ((s'.sm s.cst).fence w.d.imm w.a.imm) }).flushPosts := by
  rw [execEngineFence, control_issued (e := { s := s'.setSm s.cst ((s'.sm s.cst).fence w.d.imm w.a.imm) }) he
    (by simp only [enabled_cst he, hf, decide_true, await_true, res_ok_bind]), thenPosts_issued]

theorem execTrapx_caused (he : enabled s s.cst (hd96 w) (fun _ => []) m s') :
    execTrapx w s = .next (s'.raise s.cst (s'.siteE s.cst 0) (0x1E0 + w.d.imm) 0 0) := control_caused he rfl

theorem execEndStream_issued (he : enabled s s.cst (hd96 w) (fun _ => []) m s') (hl : (s'.sm s.cst).loadsDone (s'.sm s.cst).seq = true) :
    execEndStream w s = issued s.cst (hd96 w) { s := s'.setSm s.cst { s'.sm s.cst with run := false } } :=
  control_issued he (by simp only [enabled_cst he, hl, await_true, res_ok_bind])

theorem execLoop_issued {n : Option Nat} (he : enabled s s.cst (hd96 w) (fun _ => [rg 2 w.d.imm]) m s')
    (hn : (if (s'.sm s.cst).ireg w.d.imm - 1 ≠ 0 then (s'.offTarget w.b).map some else .ok none) = .ok n) :
    execLoop w s = issued s.cst (hd96 w) { s := s', res := idxRes w.d.imm ((s'.sm s.cst).ireg w.d.imm - 1), lat := some 1, next := n } :=
  engine_issued he (by simp only [enabled_cst he]; exact branch_ok hn)

theorem execIaddi_issued (he : enabled s s.cst (hd96 w) (fun _ => [rg 2 w.d.imm]) m s') : execIaddi w s =
    issued s.cst (hd96 w) { s := s', res := idxRes w.d.imm ((s'.sm s.cst).ireg w.d.imm + offValue w.b), lat := some 1 } :=
  engine_issued he (by simp only [enabled_cst he])

/-- BOQB push and pushall, f being the test of the predicate's lanes in the V stream. -/
theorem boqbPush_issued {f : Mask → Bool} {x : Strm} {p : Mask} (he : enabled s s.cst (hd96 w) (fun _ => [rg 1 w.a.imm]) m s')
    (hx : x = engineOf w.d.imm) (hp : p = (s'.sm s.cst).preg w.a.imm) (hq : (s'.sm x).boq.length < 32) :
    boqbPush w f s = issued s.cst (hd96 w) { s := s'.setSm x { s'.sm x with
      boq := (s'.sm x).boq ++ [if s.cst = .V then f p else p.getLsbD 0] } } := by
  subst hx hp
  exact engine_issued he (by simp only [enabled_cst he, State.pushBoq, if_neg (Nat.not_le.mpr hq), res_ok_bind])
end

theorem engineControlWords_holds : Claims.engineControlWords := by
  rintro s s' t w m k rfl he rfl
  exact ⟨execEngineNop_issued he, execEnginePost_issued he, fun _ => execEngineAwait_issued he, execEngineMark_issued he, fun _ => execJmp_issued he,
    fun _ _ _ => execBoqb_issued he, execIset_issued he, fun _ _ => execIpop_issued he, execEngineFence_issued he, execTrapx_caused he,
    execEndStream_issued he⟩

theorem indexAndOutcomeWords_holds : Claims.indexAndOutcomeWords := by
  rintro s s' t w m k rfl rfl
  refine ⟨fun he => ⟨fun v n hv hn => ?loop, execIaddi_issued he⟩, fun he x p hx hp hq => ?push⟩
  case loop =>
    subst hv
    exact execLoop_issued he hn
  case push => exact ⟨boqbPush_issued (f := fun p => p != 0) he hx hp hq, boqbPush_issued (f := fun p => p == BitVec.allOnes 128) he hx hp hq⟩

/-- Settles O28. -/
theorem engineControlGroup : Obligations.EngineControlGroup := ⟨engineControlWords_holds, indexAndOutcomeWords_holds⟩

/-! ### Decoding what was encoded (R33, R208) -/

/-- The fields of an MDRAIN whose acc bit is set. R208 keeps acc = 1 for the register form, and no decode check of the model forbids it in a term of
the A-buffer form. -/
def drainWithAcc : W192 :=
  { stall := 0, pneg := false, pred := 0, tile := 0, afmt := 0, bfmt := 0, asrc := 0, btr := false, acc := true, shape := 0, gen := false, greg := 0,
    gexp := 0, reissue := 0, kth := 0, areg := 0, aoff := 0, arsc := 0, breg := 0, boff := 0, geom := 0, kcount := 0, chk := false, retry := false }

theorem drainWithAcc_wf : (Instr.mdrain drainWithAcc).wf = true := by decide +kernel

theorem decode_drainWithAcc :
    decode .M (toLE 24 (joinM 0x05 drainWithAcc).toNat) = .ok (.mdrainRegister drainWithAcc) := by decide +kernel

/-- Refutes O7: an MDRAIN of the A-buffer form with acc = 1 is well-formed in the model, and its word is read as the register form. -/
theorem not_decodeEncode : ¬ Obligations.DecodeEncode := by
  intro h
  have hd := h .M (.mdrain drainWithAcc) _ drainWithAcc_wf rfl
  rw [decode_drainWithAcc] at hd
  cases hd

end Sys2Proof.Machine

/-! ## Numbers of the vector stream: conversion, quantisation, reductions, sorts, minimum and maximum (O32, O33, O57) -/

namespace Sys2Proof.Machine

open Claims

/-! ### The completion of a vector word (R13, R346) -/

section
variable {s s' u : State} {w : W96} {m : Mask}

/-- An enabled vector word whose body answers completes with the body's results. -/
theorem vword_vectored {f : Nat} {reads : Mask → List Rg} {onWait : State → State} {body : Mask → State → Res Eff} {res : List Wr}
    {lat : Option Nat} (he : enabled s .V (hd96 w) reads m s') (hb : body m s' = .ok { s := u, res := res, lat := lat }) :
    vword w f reads onWait body s = vectored w f s' u res lat :=
  engine_issued he (by rw [hb]; rfl)

/-- A choice between two answers, each followed by the same rest of a body. -/
theorem ite_bind_ok {α β : Type} {c : Prop} [Decidable c] {x y : Res α} {a : α} {f : α → Res β} (h : (if c then x else y) = .ok a) :
    (if c then x >>= f else y >>= f) = f a := by
  rw [← res_ok_bind a f, ← h]
  split <;> rfl

theorem reducing_vectored {f : Mask → Vec → Vec} {a : Vec × Nat} (he : enabled s .V (hd96 w) (fun m => srcRegs m w.a) m s')
    (ha : vsrc s' w.a = .ok a) :
    reducing w f s = vectored w 0 s' s' (⟨0, w.d.num, m, .vec (f m a.1)⟩ :: postUpdates s'.core .V [w.a]) (vlat 10 [a.2]) :=
  vword_vectored he (by rw [ha, res_ok_bind])

theorem exec_reduceOps : ∀ p ∈ reduceOps w, exec p.1 s = reducing w p.2 s := by
  simp only [reduceOps, List.forall_mem_cons, List.not_mem_nil, false_implies, implies_true, and_true]
  exact ⟨rfl, rfl, rfl, rfl, rfl, rfl⟩

end

/-! ### Conversion and block quantisation (R167 to R172) -/

theorem conversionWords_holds : Claims.conversionWords := by
  rintro s s' w m g src rfl rfl
  refine ⟨?vcvt, ?vscale, ?vpack, ?vunpk⟩
  case vcvt =>
    rintro a o cs ps k he ha ho rfl rfl rfl
    refine ⟨_, rfl, (exec_vcvt w s).trans (vword_vectored he ?_)⟩
    simp only [ha, ho, res_ok_bind]
  case vscale =>
    rintro a b o r he ha hb ho rfl
    refine (exec_vscale w s).trans (vword_vectored he ?_)
    simp only [ha, hb, ho, res_ok_bind]
  case vpack =>
    rintro x y cx cy k l q n he hx hy rfl rfl rfl rfl rfl rfl
    refine (exec_vpack w s).trans (vword_vectored he ?_)
    simp only [hx, hy, res_ok_bind]
  case vunpk =>
    rintro a he ha
    refine (exec_vunpk w s).trans (vword_vectored he ?_)
    simp only [ha, res_ok_bind]

/-- The scale of VQNT and VDQNT and the spare value of VDQNT come from one of two places each; what follows does not depend on which. -/
theorem quantisationWords_holds : Claims.quantisationWords := by
  rintro s s' w m g rfl
  refine ⟨?vqnt, ?vdqnt⟩
  case vqnt =>
    rintro a o bo xs sc cs ps k he ha hbyte ho rfl rfl rfl rfl rfl
    refine ⟨_, _, _, rfl, rfl, rfl, (exec_vqnt w s).trans (vword_vectored he ?_)⟩
    simp only [ha, res_ok_bind]
    refine (ite_bind_ok hbyte).trans ?_
    simp only [ho, res_ok_bind]
  case vdqnt =>
    rintro a sc sp v ps sat nan he ha hscale hspare rfl rfl rfl rfl
    refine (exec_vdqnt w s).trans (vword_vectored he ?_)
    simp only [ha, res_ok_bind]
    exact (ite_bind_ok hscale).trans (ite_bind_ok hspare)

/-- Settles O32: with the operands checked, the body of each word answers the claimed effect. -/
theorem conversionAndQuantisationWords : Obligations.ConversionAndQuantisationWords := ⟨conversionWords_holds, quantisationWords_holds⟩

/-! ### Reductions, scans, sorts and merges (R173 to R178) -/

theorem reductionAndScanWords_holds : Claims.reductionAndScanWords := by
  intro s s' i w f m a hi he ha
  rw [exec_reduceOps (i, f) hi, reducing_vectored he ha]

theorem sortWords_holds : Claims.sortWords := by
  intro s s' w m l
  refine ⟨?sort, ?merge⟩
  case sort =>
    rintro he rfl
    exact ⟨(exec_vsort w s).trans (engine_issued he rfl), (exec_vtopk w s).trans (engine_issued he rfl)⟩
  case merge =>
    rintro he rfl
    exact (exec_vmrg w s).trans (engine_issued he rfl)

/-- Settles O33: reductions and scans are one shared operation, and sorts and merges read their registers without a check. -/
theorem reductionScanAndSortWords : Obligations.ReductionScanAndSortWords := ⟨reductionAndScanWords_holds, sortWords_holds⟩

/-! ### Minimum and maximum (R69, Table 11-1) -/

theorem xor_two_pow_of_lt {x n : Nat} (h : x < 2 ^ n) : x ^^^ 2 ^ n = x + 2 ^ n := by
  have hdiv : (x ^^^ 2 ^ n) / 2 ^ n = 1 := by
    rw [Nat.xor_div_two_pow, Nat.div_eq_of_lt h, Nat.div_self (Nat.two_pow_pos n), Nat.zero_xor]
  have hmod : (x ^^^ 2 ^ n) % 2 ^ n = x := by rw [Nat.xor_mod_two_pow, Nat.mod_eq_of_lt h, Nat.mod_self, Nat.xor_zero]
  rw [← Nat.div_add_mod (x ^^^ 2 ^ n) (2 ^ n), hdiv, hmod, Nat.mul_one, Nat.add_comm]

/-- The key of R94 is the order of R69, moved to start at 0. -/
theorem orderKey_eq_fpOrder (a : W32) : (orderKey a : Int) = fpOrder a + 2 ^ 31 := by
  have hlt := a.isLt
  unfold orderKey fpOrder
  cases hm : a.msb
  case true =>
    have hneg := BitVec.msb_eq_true_iff_two_mul_ge.mp hm
    simp only [↓reduceIte, BitVec.toNat_not]
    omega
  case false =>
    have hpos := BitVec.msb_eq_false_iff_two_mul_lt.mp hm
    have hkey : (a ^^^ 0x80000000).toNat = a.toNat + 2 ^ 31 := (BitVec.toNat_xor ..).trans (xor_two_pow_of_lt (n := 31) (by omega))
    rw [if_neg Bool.false_ne_true, if_neg Bool.false_ne_true, hkey]
    omega

theorem orderKey_lt_iff (a b : W32) : orderKey a < orderKey b ↔ fpOrder a < fpOrder b := by
  have ha := orderKey_eq_fpOrder a
  have hb := orderKey_eq_fpOrder b
  omega

/-- Settles O57: the key that minimum and maximum compare rises with the order of the claim. -/
theorem minimumAndMaximum : Obligations.MinimumAndMaximum := by
  intro a b
  refine ⟨fun ha hb => ?bothNaN, fun ha hb => ?firstNaN, fun ha hb => ?secondNaN, fun ha hb => ?numbers, ?afmin, ?afmax⟩
  case numbers => simp only [fmin, fmax, ha, hb, orderKey_lt_iff, and_self]
  case afmin => simp only [atomNew, BitVec.ofNat_toNat, BitVec.setWidth_eq]
  case afmax => simp only [atomNew, BitVec.ofNat_toNat, BitVec.setWidth_eq]
  all_goals simp only [fmin, fmax, ha, hb, and_self]

end Sys2Proof.Machine

/-! ## The C stream: arithmetic, transfers, memory words, handlers and system words (O6, O10, O11, O12, O14, O15, O16, O17, O18, O21, O51, O52, O58) -/

namespace Sys2Proof.Machine

open Claims

/-! ### Reset (R444) -/

/-- Settles O6: nothing is listed right after reset, so every accessor answers the value of an unlisted object. -/
theorem resetState : Obligations.ResetState := by
  refine ⟨rfl, rfl, rfl, fun _ => rfl, fun _ => rfl, fun _ => rfl, rfl, rfl, rfl, rfl, fun k r => ?_, fun k t => ?_⟩
  · exact ite_self _
  · cases t <;> rfl

/-! ### ALU and immediate words (R106, R107, R109) -/

section
variable {s : State} {d a b : Reg}

theorem alu2_wrote (f : Word → Word → Word) (hd : ready s d) (ha : ready s a) (hb : ready s b) :
    finish false (alu2 d a b f s) s = wrote s d (f (s.core.sreg a) (s.core.sreg b)) := by
  rw [alu2, State.rd_ready ha, State.rd_ready hb]
  exact congrArg (finish false · s) (State.wr_ready _ hd)

theorem alu1_wrote (f : Word → Word) (hd : ready s d) (ha : ready s a) :
    finish false (alu1 d a f s) s = wrote s d (f (s.core.sreg a)) := by
  rw [alu1, State.rd_ready ha]
  exact congrArg (finish false · s) (State.wr_ready _ hd)

theorem ltS_iff (x y : Word) : ltS x y = true ↔ x.toInt < y.toInt := BitVec.slt_iff_toInt_lt

theorem ltU_iff (x y : Word) : ltU x y = true ↔ x.toNat < y.toNat := by simp [ltU, BitVec.ult]

theorem divS_eq (x y : Word) : divS x y = if y = 0 then BitVec.allOnes 64 else x.sdiv y := by
  have h : BitVec.ofInt 64 (x.toInt.tdiv y.toInt) = x.sdiv y :=
    BitVec.eq_of_toInt_eq (by rw [BitVec.toInt_ofInt, BitVec.toInt_sdiv])
  rw [divS, h]

theorem divU_eq (x y : Word) : divU x y = if y = 0 then BitVec.allOnes 64 else x / y := by rw [divU, BitVec.udiv_def]

theorem remU_eq (x y : Word) : remU x y = if y = 0 then x else x % y := by rw [remU, BitVec.umod_def]

theorem remS_eq (x y : Word) : remS x y = if y = 0 then x else x.srem y := by
  rw [remS, ← BitVec.toInt_srem, BitVec.ofInt_toInt]

/-- The smaller and the larger of two values, by a comparison that the model takes the other way round. -/
theorem ite_lt_eq_ite_le {α β : Type} [LinearOrder β] {c : Bool} {m n : β} {x y : α} (h : c = true ↔ m < n) :
    (if c then x else y) = if n ≤ m then y else x := by
  by_cases hn : n ≤ m
  · rw [if_pos hn, if_neg (mt h.mp (not_lt.mpr hn))]
  · rw [if_neg hn, if_pos (h.mpr (not_le.mp hn))]

theorem flag_eq {c : Bool} {p : Prop} [Decidable p] (h : c = true ↔ p) : flag c = if p then 1 else 0 := if_congr h rfl rfl
end

theorem aluRegisterWords_holds : Claims.aluRegisterWords := by
  rintro s d a b x y hd ha hb rfl rfl
  have two (f : Word → Word → Word) := alu2_wrote f hd ha hb
  have val {f : Word → Word → Word} {v : Word} (h : f (s.core.sreg a) (s.core.sreg b) = v) :
      finish false (alu2 d a b f s) s = wrote s d v := h ▸ two f
  exact ⟨two _, two _, two _, two _, two _, val (divS_eq ..), val (divU_eq ..), val (remS_eq ..), val (remU_eq ..), two _, two _, two _, two _, two _, two _,
    val (ite_lt_eq_ite_le (ltS_iff ..)), val (ite_lt_eq_ite_le (ltS_iff ..)), val (ite_lt_eq_ite_le (ltU_iff ..)),
    val (ite_lt_eq_ite_le (ltU_iff ..)), val (flag_eq (ltS_iff ..)), val (flag_eq (ltU_iff ..)), val (flag_eq beq_iff_eq),
    alu1_wrote _ hd ha, alu1_wrote _ hd ha⟩

theorem immediateWords_holds : Claims.immediateWords := by
  rintro s d a im sh x hd ha rfl
  have one (f : Word → Word) := alu1_wrote f hd ha
  have val {f : Word → Word} {v : Word} (h : f (s.core.sreg a) = v) : finish false (alu1 d a f s) s = wrote s d v := h ▸ one f
  exact ⟨one _, one _, one _, one _, one _, one _, one _, val (flag_eq (ltS_iff ..)), val (flag_eq (ltU_iff ..)),
    congrArg (finish false · s) (State.wr_ready _ hd)⟩

/-- Settles O10: each word is one of two shared operations, with the value of its table. -/
theorem arithmeticWords : Obligations.ArithmeticWords := ⟨aluRegisterWords_holds, immediateWords_holds⟩

/-! ### What a word that writes one scalar register leaves (R106, R107, R111) -/

/-- The state after a C word that gives register d the value v and goes on at word n. -/
def State.wroteAt (s : State) (d : Reg) (v : Word) (n : Nat) : State :=
  s.setCore { s.core.setSreg d v with cS := { s.core.cS with pc := n, waiting := false } }

section
variable {s t : State} {d a b : Reg}

theorem State.jump_setSreg (s : State) (d : Reg) (v : Word) (n : Nat) : (s.setCore (s.core.setSreg d v)).jump n = s.wroteAt d v n := by
  simp [State.jump, State.setC, State.setSm, State.c, State.wroteAt, CoreSt.setStrm]

theorem State.jump_eq (s : State) (n : Nat) : s.jump n = s.wroteAt 0 0 n := rfl

theorem wrote_eq (s : State) (d : Reg) (v : Word) : wrote s d v = .next (s.wroteAt d v (s.c.pc + 1)) := by
  rw [← State.jump_setSreg]
  simp [wrote, State.retire, State.jump, State.c]

/-- The state of a stream that stands waiting, whether a version it waited for was noted or not. -/
theorem State.park_eq (s : State) (t : Strm) : s.park t = s.setCore { s.core.setStrm t { s.sm t with waiting := true } with
    wver := s.core.wver.filter (fun e => e.1 != t) } := by
  unfold State.park
  simp only [State.setSm, State.core_setCore, CoreSt.setStrm_wver, State.setCore_setCore]
  split
  next => rfl
  next h =>
    have hf : s.core.wver.filter (fun e => e.1 != t) = s.core.wver := List.filter_eq_self.mpr fun e he => by
      simpa using fun heq => h (List.any_eq_true.mpr ⟨e, he, beq_iff_eq.mpr heq⟩)
    rw [hf]
    cases t <;> rfl

theorem coreOnly_setCore (s : State) (c : CoreSt) : coreOnly s (s.setCore c) := ⟨rfl, fun _ hk => by rw [State.setCore, State.coreOf_setCoreOf, if_neg hk]⟩

theorem scalarOnly_park (s : State) (d : Reg) : scalarOnly s (s.park .C) d := by
  rw [State.park_eq, scalarOnly, State.core_setCore]
  exact ⟨rfl, fun _ _ => rfl⟩

theorem scalarOnly_wroteAt (s : State) (d : Reg) (v : Word) (n : Nat) : scalarOnly s (s.wroteAt d v n) d := by
  rw [State.wroteAt, scalarOnly, State.core_setCore]
  refine ⟨?_, fun r hr => ?_⟩
  · unfold CoreSt.setSreg
    split <;> rfl
  · exact (CoreSt.sreg_setSreg s.core d r v).trans (if_neg hr)

theorem csr_of_scalarOnly (h : scalarOnly s t d) (n : Nat) : t.core.csr n = s.core.csr n := by rw [h.1]; rfl

/-- A word that waits, or writes register d and goes on, has the frame of the arithmetic and transfer words. -/
theorem scalarFrame (h : t = s.park .C ∨ ∃ v n, t = s.wroteAt d v n) :
    coreOnly s t ∧ scalarOnly s t d ∧ sameMem s t ∧ (∀ n, t.core.csr n = s.core.csr n) ∧ t.ctxs = s.ctxs := by
  have hscalar : scalarOnly s t d := by
    rcases h with rfl | ⟨v, n, rfl⟩
    · exact scalarOnly_park s d
    · exact scalarOnly_wroteAt s d v n
  obtain ⟨c, rfl⟩ : ∃ c, t = s.setCore c := by
    rcases h with rfl | ⟨v, n, rfl⟩
    · exact ⟨_, s.park_eq .C⟩
    · exact ⟨_, rfl⟩
  exact ⟨coreOnly_setCore s c, hscalar, fun _ => rfl, csr_of_scalarOnly hscalar, rfl⟩

theorem State.rd_cases (s : State) (r : Reg) : s.rd r = .error .wait ∨ s.rd r = .ok (s.core.sreg r) := by
  unfold State.rd
  split
  · exact .inl rfl
  · exact .inr rfl

theorem State.wr_cases (s : State) (r : Reg) (v : Word) : s.wr r v = .error .wait ∨ s.wr r v = .ok (s.setCore (s.core.setSreg r v)) := by
  unfold State.wr
  split
  · exact .inl rfl
  · exact .inr rfl

/-- The outcome of a write of a register as the end of a C word. -/
theorem finish_wr_cases (s : State) (d : Reg) (v : Word) (h : finish false (s.wr d v) s = .next t) :
    t = s.park .C ∨ ∃ v n, t = s.wroteAt d v n := by
  rcases s.wr_cases d v with hw | hw
  · rw [hw] at h
    exact .inl (Host.Outcome.next.inj h).symm
  · rw [hw] at h
    exact .inr ⟨v, _, (Host.Outcome.next.inj ((wrote_eq s d v).symm.trans h)).symm⟩

theorem alu2_cases {f : Word → Word → Word} (h : finish false (alu2 d a b f s) s = .next t) :
    t = s.park .C ∨ ∃ v n, t = s.wroteAt d v n := by
  rw [alu2] at h
  rcases s.rd_cases a with ha | ha
  · rw [ha] at h
    exact .inl (Host.Outcome.next.inj h).symm
  · rcases s.rd_cases b with hb | hb
    · rw [ha, hb] at h
      exact .inl (Host.Outcome.next.inj h).symm
    · rw [ha, hb] at h
      exact finish_wr_cases s d _ h

theorem alu1_cases {f : Word → Word} (h : finish false (alu1 d a f s) s = .next t) : t = s.park .C ∨ ∃ v n, t = s.wroteAt d v n := by
  rw [alu1] at h
  rcases s.rd_cases a with ha | ha
  · rw [ha] at h
    exact .inl (Host.Outcome.next.inj h).symm
  · rw [ha] at h
    exact finish_wr_cases s d _ h

/-- Every ALU and immediate word waits, or writes its destination. -/
theorem aluWords_cases (im : BitVec 16) (sh : BitVec 6) : ∀ i ∈ aluWords d a b im sh, exec i s = .next t →
    t = s.park .C ∨ ∃ v n, t = s.wroteAt d v n := by
  simp only [aluWords, List.cons_append, List.nil_append, List.forall_mem_cons, List.not_mem_nil, false_implies, implies_true, and_true]
  exact ⟨alu2_cases, alu2_cases, alu2_cases, alu2_cases, alu2_cases, alu2_cases, alu2_cases, alu2_cases, alu2_cases, alu2_cases, alu2_cases,
    alu2_cases, alu2_cases, alu2_cases, alu2_cases, alu2_cases, alu2_cases, alu2_cases, alu2_cases, alu2_cases, alu2_cases, alu2_cases,
    alu1_cases, alu1_cases, alu1_cases, alu1_cases, alu1_cases, alu1_cases, alu1_cases, alu1_cases, alu1_cases, alu1_cases, alu1_cases,
    finish_wr_cases s d _⟩
end

/-- Settles O11. -/
theorem aluWordsFrame : Obligations.AluWordsFrame := by
  intro s t i d a b im sh hi h
  obtain ⟨hcore, hscalar, hmem, hcsr, hctxs⟩ := scalarFrame (aluWords_cases im sh i hi h)
  exact ⟨hcore, hscalar, hmem, hcsr, by rw [State.ctxOf, hctxs]; rfl⟩
end Sys2Proof.Machine

namespace Sys2Proof.Machine

open Claims

/-! ### What a translation depends on (R354 to R359) -/

/-- t holds what a translation that Skatas itself makes depends on as s holds it: memory, what of it is poisoned or lost, kernel images, and the
tables and sync maps of contexts. -/
structure State.SameTables (s t : State) : Prop where
  mem : t.mem = s.mem
  poison : t.poison = s.poison
  dies : t.dies = s.dies
  kernels : t.kernels = s.kernels
  csrs : ∀ x, (t.ctxOf x).csrs = (s.ctxOf x).csrs
  sync : ∀ x, (t.ctxOf x).sync = (s.ctxOf x).sync

section
variable {s t : State}

theorem State.SameTables.trans {u : State} (h : s.SameTables t) (k : t.SameTables u) : s.SameTables u :=
  ⟨k.mem.trans h.mem, k.poison.trans h.poison, k.dies.trans h.dies, k.kernels.trans h.kernels, fun x => (k.csrs x).trans (h.csrs x),
    fun x => (k.sync x).trans (h.sync x)⟩

theorem State.touch_sameTables (s : State) (x : Nat) (ds : List Nat) : s.SameTables (s.touch x ds) := by
  unfold State.touch
  split
  · exact ⟨rfl, rfl, rfl, rfl, fun _ => rfl, fun _ => rfl⟩
  · refine ⟨rfl, rfl, rfl, rfl, fun y => ?_, fun y => ?_⟩ <;>
    · rw [State.ctxOf_setCtxOf]
      split
      next hy => rw [hy]
      next => rfl

theorem State.setCore_sameTables (s : State) (c : CoreSt) : s.SameTables (s.setCore c) := ⟨rfl, rfl, rfl, rfl, fun _ => rfl, fun _ => rfl⟩

theorem State.SameTables.homeLost (h : s.SameTables t) (pa : Nat) : t.homeLost pa = s.homeLost pa := by
  simp only [State.homeLost, State.dieOf, h.dies]

theorem State.SameTables.poisoned (h : s.SameTables t) (pa : Nat) : t.poisoned pa = s.poisoned pa := by
  simp only [State.poisoned, h.poison]

theorem State.SameTables.readSegs (h : s.SameTables t) (g : List Seg) : t.readSegs g = s.readSegs g := by
  simp only [State.readSegs, h.mem]

theorem State.SameTables.leafAccess (h : s.SameTables t) (lv va k leaf : Nat) (wr : Bool) :
    leafAccess t lv va k leaf wr = leafAccess s lv va k leaf wr := by
  simp only [Machine.leafAccess, State.imageAt, h.kernels, h.poisoned]
  rfl

theorem State.SameTables.walk (h : s.SameTables t) (win va : Nat) (wr : Bool) (tb : Nat) (l : List (Nat × Nat × Nat × Option Nat)) :
    walk t win va wr tb l = walk s win va wr tb l := by
  induction l generalizing tb with
  | nil => rfl
  | cons e r ih =>
    simp only [Machine.walk, h.homeLost, h.poisoned, h.leafAccess, State.readN, h.mem, ih]
    rfl

theorem State.SameTables.translate (h : s.SameTables t) (x win va : Nat) (wr : Bool) :
    translate t .tables x win va wr = translate s .tables x win va wr := by
  simp only [Machine.translate, walkRoot, State.cached, Ctx.csr, h.csrs, h.sync, h.walk]
  rfl

theorem State.SameTables.stretches (h : s.SameTables t) (x win : Nat) (wr : Bool) (kind fuel va n : Nat) :
    stretches t .tables x win wr kind fuel va n = stretches s .tables x win wr kind fuel va n := by
  induction fuel generalizing va n with
  | zero => rfl
  | succ fuel ih => simp only [Machine.stretches, h.translate, ih]

theorem State.SameTables.xlate (h : s.SameTables t) (x win va n : Nat) (wr : Bool) (kind : Nat) :
    xlate t .tables x win va n wr kind = xlate s .tables x win va n wr kind := by
  simp only [Machine.xlate, h.stretches, h.homeLost]

theorem State.SameTables.segsAt (h : s.SameTables t) (x va n : Nat) : t.segsAt x va n = s.segsAt x va n := by
  simp only [State.segsAt, h.xlate]

theorem State.touch_cur (s : State) (x : Nat) (ds : List Nat) : (s.touch x ds).cur = s.cur := by unfold State.touch; split <;> rfl

theorem State.touch_cores (s : State) (x : Nat) (ds : List Nat) : (s.touch x ds).cores = s.cores := by unfold State.touch; split <;> rfl

theorem State.touch_parts (s : State) (x : Nat) (ds : List Nat) : (s.touch x ds).parts = s.parts := by unfold State.touch; split <;> rfl

theorem State.touch_kernels (s : State) (x : Nat) (ds : List Nat) : (s.touch x ds).kernels = s.kernels := by unfold State.touch; split <;> rfl

theorem State.touch_coreOf (s : State) (x : Nat) (ds : List Nat) (k : Nat) : (s.touch x ds).coreOf k = s.coreOf k := by
  rw [State.coreOf, State.touch_cores]; rfl

theorem State.touch_core (s : State) (x : Nat) (ds : List Nat) : (s.touch x ds).core = s.core := by
  rw [State.core, State.touch_coreOf, State.touch_cur]; rfl

theorem State.touch_c (s : State) (x : Nat) (ds : List Nat) : (s.touch x ds).c = s.c := congrArg CoreSt.cS (s.touch_core x ds)

theorem State.touch_ctxNoOf (s : State) (x : Nat) (ds : List Nat) (k : Nat) : (s.touch x ds).ctxNoOf k = s.ctxNoOf k := by
  simp only [State.ctxNoOf, State.partOfCore, State.partOf, State.touch_parts]

/-- A touched die changes no code. -/
theorem State.touch_codeArray (s : State) (x : Nat) (ds : List Nat) (k : Nat) (t : Strm) : (s.touch x ds).codeArray k t = s.codeArray k t := by
  simp only [State.codeArray, State.imageBytes, State.kernelOf, State.touch_coreOf, State.touch_mem, State.touch_kernels, State.touch_ctxNoOf,
    (s.touch_sameTables x ds).readSegs, (s.touch_sameTables x ds).segsAt]

theorem State.touch_target (s : State) (x : Nat) (ds : List Nat) (t : Strm) (n : Int) : (s.touch x ds).target t n = s.target t n := by
  simp only [State.target, State.touch_codeArray, State.touch_cur]
end
end Sys2Proof.Machine

namespace Sys2Proof.Machine

open Claims

/-! ### Transfers of control (R111, R119) -/

section
variable {s t : State} {a b d : Reg} {n : Int}

theorem State.target_inCode (h : inCode s n) : s.target .C n = .ok n.toNat := if_pos h

theorem State.target_outside (h : ¬inCode s n) : s.target .C n = stop 0x025 := if_neg h

theorem branch_ready {o : BitVec 16} (f : Word → Word → Bool) (ha : ready s a) (hb : ready s b) :
    branch a b o f s = if f (s.core.sreg a) (s.core.sreg b) then s.target .C (pcOff s o.toInt) >>= fun n => .ok (s, n)
      else .ok (s, s.c.pc + 1) := by
  rw [branch, State.rd_ready ha, State.rd_ready hb]
  rfl

/-- A transfer that is made goes to its target, or takes 0x025 when that lies outside the array. -/
theorem finishJump_target {u : State} (hn : inCode s n) : finishJump (s.target .C n >>= fun m => .ok (u, m)) s = jumped u n.toNat := by
  rw [State.target_inCode hn]
  rfl

theorem finishJump_outside {f : Nat → Res (State × Nat)} (hn : ¬inCode s n) : finishJump (s.target .C n >>= f) s = caused s false 0x025 0 := by
  rw [State.target_outside hn]
  rfl

theorem branch_taken {o : BitVec 16} {f : Word → Word → Bool} (ha : ready s a) (hb : ready s b)
    (hf : f (s.core.sreg a) (s.core.sreg b) = true) (hn : inCode s (pcOff s o.toInt)) :
    finishJump (branch a b o f s) s = jumped s (pcOff s o.toInt).toNat := by
  rw [branch_ready f ha hb, if_pos hf, finishJump_target hn]

theorem branch_outside {o : BitVec 16} {f : Word → Word → Bool} (ha : ready s a) (hb : ready s b)
    (hf : f (s.core.sreg a) (s.core.sreg b) = true) (hn : ¬inCode s (pcOff s o.toInt)) :
    finishJump (branch a b o f s) s = caused s false 0x025 0 := by
  rw [branch_ready f ha hb, if_pos hf, finishJump_outside hn]

theorem branch_notTaken {o : BitVec 16} {f : Word → Word → Bool} (ha : ready s a) (hb : ready s b)
    (hf : f (s.core.sreg a) (s.core.sreg b) = false) : finishJump (branch a b o f s) s = jumped s (s.c.pc + 1) := by
  rw [branch_ready f ha hb, hf]
  rfl

theorem ltS_eq (x y : Word) : ltS x y = decide (x.toInt < y.toInt) := Bool.eq_iff_iff.mpr ((ltS_iff x y).trans decide_eq_true_iff.symm)

theorem ltU_eq (x y : Word) : ltU x y = decide (x.toNat < y.toNat) := Bool.eq_iff_iff.mpr ((ltU_iff x y).trans decide_eq_true_iff.symm)

/-- The conditional branches, each with its condition on the two registers it reads (Table 4-9). -/
def branchWords (a b : Reg) (o : BitVec 16) (x y : Word) : List (Instr × Bool) :=
  [(.beq a b o, decide (x = y)), (.bne a b o, decide (x ≠ y)), (.blt a b o, decide (x.toInt < y.toInt)), (.bge a b o, decide (y.toInt ≤ x.toInt)),
    (.bltu a b o, decide (x.toNat < y.toNat)), (.bgeu a b o, decide (y.toNat ≤ x.toNat))]

/-- Every conditional branch is one shared operation, with its own condition. -/
theorem exec_branchWords (s : State) (a b : Reg) (o : BitVec 16) : ∀ p ∈ branchWords a b o (s.core.sreg a) (s.core.sreg b),
    ∃ f, exec p.1 s = finishJump (branch a b o f s) s ∧ f (s.core.sreg a) (s.core.sreg b) = p.2 := by
  simp only [branchWords, List.forall_mem_cons, List.not_mem_nil, false_implies, implies_true, and_true]
  exact ⟨⟨_, rfl, rfl⟩, ⟨_, rfl, by simp only [bne, beq_eq_decide, decide_not, ne_eq]⟩, ⟨_, rfl, ltS_eq ..⟩,
    ⟨_, rfl, by simp only [ltS_eq, ← decide_not, not_lt]⟩, ⟨_, rfl, ltU_eq ..⟩, ⟨_, rfl, by simp only [ltU_eq, ← decide_not, not_lt]⟩⟩
end

theorem conditionalBranches_holds : Claims.conditionalBranches := by
  rintro s a b o i p x y ha hb rfl rfl h
  have hmem : (i, p) ∈ branchWords a b o (s.core.sreg a) (s.core.sreg b) := by
    simpa only [branchWords, List.mem_cons, List.not_mem_nil, or_false, Prod.mk.injEq] using h
  obtain ⟨f, hi, hf⟩ := exec_branchWords s a b o (i, p) hmem
  rw [hi]
  exact ⟨fun hp => branch_taken ha hb (hf.trans hp), fun hp => branch_notTaken ha hb (hf.trans hp)⟩

section
variable {s : State} {a b d : Reg} {o : BitVec 16}

theorem execJalr_ready (ha : ready s a) : execJalr d a o s = finishJump (s.target .C ((s.core.sreg a + o.signExtend 64).toNat : Int) >>=
    fun n => s.wr d (BitVec.ofNat 64 (s.c.pc + 1)) >>= fun u => .ok (u, n)) s := by
  rw [execJalr, State.rd_ready ha]
  rfl

theorem execLoopc_ready {u : State} (ha : ready s a) (hb : ready s b) (hu : u = s.setCore (s.core.setSreg a (s.core.sreg a + 1))) :
    execLoopc a b o s = finishJump (if s.core.sreg a + 1 ≠ u.core.sreg b then s.target .C (pcOff s o.toInt) >>= fun n => .ok (u, n)
      else .ok (u, s.c.pc + 1)) s := by
  subst hu
  rw [execLoopc, State.rd_ready ha, State.rd_ready hb]
  simp only [res_ok_bind, State.wr_ready _ ha]
  rfl
end

theorem jumpWords_holds : Claims.jumpWords := by
  rintro s d a b o im link rfl
  refine ⟨fun hn => ?j, fun hn h31 => ?jal, ?jalr, fun ha hb u hu => ⟨fun hne hn => ?loops, fun heq => ?ends⟩⟩
  case j => exact finishJump_target hn
  case jal =>
    rw [exec_jal, execJal, State.wr_ready _ h31]
    exact finishJump_target hn
  case jalr =>
    rintro n rfl hn ha hd
    rw [exec_jalr, execJalr_ready ha, State.wr_ready _ hd]
    exact finishJump_target hn
  case loops => rw [exec_loopc, execLoopc_ready ha hb hu, if_pos hne, finishJump_target hn]
  case ends =>
    rw [exec_loopc, execLoopc_ready ha hb hu, if_neg (not_not_intro heq)]
    rfl

/-- Settles O14. -/
theorem controlTransferWords : Obligations.ControlTransferWords := ⟨conditionalBranches_holds, jumpWords_holds⟩

/-- The state in which BKSEL has read its table of cnt entries at ta, and writes v to register d and the slack w to CSR 0x014 (R119). -/
def State.bucketed (s : State) (ta cnt : Nat) (d : Reg) (v w : Word) : State :=
  let u := s.touchC ta (8 + 8 * cnt)
  u.setCore ((u.core.setCsr 0x014 w).setSreg d v)

section
variable {s : State} {d a : Reg} {o : BitVec 16} {ta cnt : Nat} {h bs : List Byte}

theorem bucketed_wr {v w : Word} (hd : ready s d) : (let u := s.touchC ta (8 + 8 * cnt)
    (u.setCore (u.core.setCsr 0x014 w)).wr d v) = .ok (s.bucketed ta cnt d v w) := by
  have hb : ((s.touchC ta (8 + 8 * cnt)).core.setCsr 0x014 w).busy d = false := by
    rw [State.touchC, State.touch_core]
    exact hd
  rw [State.wr_ready v (by rw [State.core_setCore]; exact hb), State.core_setCore, State.setCore_setCore]
  rfl

theorem bucketed_c (w : Word) : (let u := s.touchC ta (8 + 8 * cnt)
    (u.setCore (u.core.setCsr 0x014 w)).c) = s.c := by
  rw [State.c, State.core_setCore, State.touchC, State.touch_core]
  rfl

/-- BKSEL of a table that is in order: it goes to the target of the first bucket that is large enough, or to the next word. -/
theorem execBksel_table (hd : ready s d) (ha : ready s a) (hta : ta = (s.core.sreg d + o.signExtend 64).toNat)
    (hh : s.readC ta 8 8 0x04A = .ok h) (hcnt : cnt = fieldLE h 0 4) (h1 : 1 ≤ cnt) (h64 : cnt ≤ 64) (h0 : fieldLE h 4 4 = 0)
    (hbs : s.readC (wrap64 (ta + 8)) (8 * cnt) 8 0x04A = .ok bs) (hr : rising (buckets bs cnt) = true) :
    (∀ e, (buckets bs cnt).find? (fun e => decide ((s.core.sreg a).toNat ≤ e.1)) = some e → execBksel d a o s =
      finishJump (s.target .C (e.2 : Int) >>= fun n =>
        .ok (s.bucketed ta cnt d (BitVec.ofNat 64 e.1) (BitVec.ofNat 64 e.1 - s.core.sreg a), n)) s) ∧
    ((buckets bs cnt).find? (fun e => decide ((s.core.sreg a).toNat ≤ e.1)) = none →
      execBksel d a o s = jumped (s.bucketed ta cnt d 0 0) (s.c.pc + 1)) := by
  subst hta hcnt
  have hn : decide (1 ≤ fieldLE h 0 4 ∧ fieldLE h 0 4 ≤ 64 ∧ fieldLE h 4 4 = 0) = true := decide_eq_true ⟨h1, h64, h0⟩
  have hw (v w : Word) := bucketed_wr (s := s) (d := d) (ta := (s.core.sreg d + o.signExtend 64).toNat) (cnt := fieldLE h 0 4) (v := v)
    (w := w) hd
  refine ⟨fun e he => ?found, fun he => ?none⟩
  case found =>
    simp only [execBksel, State.rd_ready ha, State.rd_ready hd, res_ok_bind, hh, hbs, hn, hr, need_true, he, hw]
    rw [State.touchC, State.touch_target]
  case none =>
    simp only [execBksel, State.rd_ready ha, State.rd_ready hd, res_ok_bind, hh, hbs, hn, hr, need_true, he, hw]
    rw [bucketed_c]
    rfl
end

/-- Settles O15: in every word the target is found before anything is written. -/
theorem transferOutsideCode : Obligations.TransferOutsideCode := by
  rintro s d a b o w x y ha hb rfl rfl
  refine ⟨fun hn => ⟨finishJump_outside hn, finishJump_outside hn⟩, fun hn => ?jalr, fun hn => ?offset, ?bksel⟩
  case jalr => rw [exec_jalr, execJalr_ready ha, finishJump_outside hn]
  case offset =>
    have hbranch {i : Instr} {p : Bool} (hi : (i, p) ∈ branchWords a b o (s.core.sreg a) (s.core.sreg b)) (hp : p = true) :
        exec i s = caused s false 0x025 0 := by
      obtain ⟨f, hf, hv⟩ := exec_branchWords s a b o _ hi
      rw [hf, branch_outside ha hb (hv.trans hp) hn]
    refine ⟨fun h => hbranch (.head _) (decide_eq_true h), fun h => hbranch (.tail _ (.head _)) (decide_eq_true h),
      fun h => hbranch (.tail _ (.tail _ (.head _))) (decide_eq_true h), fun h => hbranch (.tail _ (.tail _ (.tail _ (.head _)))) (decide_eq_true h),
      fun h => hbranch (.tail _ (.tail _ (.tail _ (.tail _ (.head _))))) (decide_eq_true h),
      fun h => hbranch (.tail _ (.tail _ (.tail _ (.tail _ (.tail _ (.head _)))))) (decide_eq_true h), fun h => ?loopc⟩
    rw [exec_loopc, execLoopc_ready ha hb rfl, State.core_setCore, if_pos h, finishJump_outside hn]
  case bksel =>
    rintro ta h bs cnt e hd hta hh hcnt h1 h64 h0 hbs hr he hn
    obtain ⟨hfound, -⟩ := execBksel_table hd ha hta hh hcnt h1 h64 h0 hbs hr
    rw [exec_bksel, hfound e he, finishJump_outside hn]

/-! ### What a transfer leaves (R111) -/

section
variable {s t : State} {a b d : Reg} {o : BitVec 16} {n : Int}

/-- A transfer that does not leave the array waits, or writes register d and goes on at some word. -/
theorem finishJump_wr_cases {v : Word} (hn : inCode s n)
    (h : finishJump (s.target .C n >>= fun m => s.wr d v >>= fun u => .ok (u, m)) s = .next t) : t = s.park .C ∨ ∃ v n, t = s.wroteAt d v n := by
  rw [State.target_inCode hn, res_ok_bind] at h
  rcases s.wr_cases d v with hw | hw
  · rw [hw] at h
    exact .inl (Host.Outcome.next.inj h).symm
  · rw [hw, res_ok_bind, finishJump_ok, State.jump_setSreg] at h
    exact .inr ⟨_, _, (Host.Outcome.next.inj h).symm⟩

theorem branch_cases {f : Word → Word → Bool} (hn : f (s.core.sreg a) (s.core.sreg b) = true → inCode s (pcOff s o.toInt))
    (h : finishJump (branch a b o f s) s = .next t) : t = s.park .C ∨ ∃ v n, t = s.wroteAt 0 v n := by
  by_cases ha : s.core.busy a = true
  · rw [branch, State.rd, if_pos ha] at h
    exact .inl (Host.Outcome.next.inj h).symm
  · by_cases hb : s.core.busy b = true
    · rw [branch, State.rd_ready (Bool.eq_false_iff.mpr ha), State.rd, if_pos hb] at h
      exact .inl (Host.Outcome.next.inj h).symm
    · have ha' := Bool.eq_false_iff.mpr ha
      have hb' := Bool.eq_false_iff.mpr hb
      cases hf : f (s.core.sreg a) (s.core.sreg b) with
      | true => exact .inr ⟨0, _, (Host.Outcome.next.inj ((branch_taken ha' hb' hf (hn hf)).symm.trans h)).symm⟩
      | false => exact .inr ⟨0, _, (Host.Outcome.next.inj ((branch_notTaken ha' hb' hf).symm.trans h)).symm⟩

theorem execJalr_cases (hn : inCode s ((s.core.sreg a + o.signExtend 64).toNat : Int)) (h : execJalr d a o s = .next t) :
    t = s.park .C ∨ ∃ v n, t = s.wroteAt d v n := by
  by_cases ha : s.core.busy a = true
  · rw [execJalr, State.rd, if_pos ha] at h
    exact .inl (Host.Outcome.next.inj h).symm
  · rw [execJalr_ready (Bool.eq_false_iff.mpr ha)] at h
    exact finishJump_wr_cases hn h

theorem execLoopc_cases (hn : s.core.sreg a + 1 ≠ (s.core.setSreg a (s.core.sreg a + 1)).sreg b → inCode s (pcOff s o.toInt))
    (h : execLoopc a b o s = .next t) : t = s.park .C ∨ ∃ v n, t = s.wroteAt a v n := by
  by_cases ha : s.core.busy a = true
  · rw [execLoopc, State.rd, if_pos ha] at h
    exact .inl (Host.Outcome.next.inj h).symm
  · by_cases hb : s.core.busy b = true
    · rw [execLoopc, State.rd_ready (Bool.eq_false_iff.mpr ha), State.rd, if_pos hb] at h
      exact .inl (Host.Outcome.next.inj h).symm
    · rw [execLoopc_ready (Bool.eq_false_iff.mpr ha) (Bool.eq_false_iff.mpr hb) rfl, State.core_setCore] at h
      split at h
      next hne =>
        rw [finishJump_target (hn hne), jumped, State.jump_setSreg] at h
        exact .inr ⟨_, _, (Host.Outcome.next.inj h).symm⟩
      next =>
        rw [finishJump_ok, State.jump_setSreg] at h
        exact .inr ⟨_, _, (Host.Outcome.next.inj h).symm⟩

/-- Every transfer word that does not leave the array waits, or writes its register and goes on at some word. -/
theorem transferWords_cases {w : BitVec 26} : ∀ e ∈ transferWords s d a b o w, (e.2.2.1 = true → inCode s e.2.2.2) →
    exec e.1 s = .next t → t = s.park .C ∨ ∃ v n, t = s.wroteAt e.2.1 v n := by
  have hbranch {i : Instr} {p : Bool} (hi : (i, p) ∈ branchWords a b o (s.core.sreg a) (s.core.sreg b))
      (hp : p = true → inCode s (pcOff s o.toInt)) (h : exec i s = .next t) : t = s.park .C ∨ ∃ v n, t = s.wroteAt 0 v n := by
    obtain ⟨f, hf, hv⟩ := exec_branchWords s a b o _ hi
    rw [hf] at h
    exact branch_cases (fun hx => hp (hv.symm.trans hx)) h
  simp only [transferWords, List.forall_mem_cons, List.not_mem_nil, false_implies, implies_true, and_true]
  refine ⟨hbranch (.head _), hbranch (.tail _ (.head _)), hbranch (.tail _ (.tail _ (.head _))), hbranch (.tail _ (.tail _ (.tail _ (.head _)))),
    hbranch (.tail _ (.tail _ (.tail _ (.tail _ (.head _))))), hbranch (.tail _ (.tail _ (.tail _ (.tail _ (.tail _ (.head _)))))),
    fun hn h => ?j, fun hn h => finishJump_wr_cases (hn trivial) h, fun hn h => execJalr_cases (hn trivial) h,
    fun hn h => execLoopc_cases (fun hne => hn (decide_eq_true hne)) h⟩
  exact .inr ⟨0, _, (Host.Outcome.next.inj ((finishJump_target (hn trivial)).symm.trans h)).symm⟩
end

/-- Settles O51. -/
theorem transferFrame : Obligations.TransferFrame := by
  intro s t i d a b r o w taken n hi hn h
  obtain ⟨hcore, hscalar, hmem, hcsr, -⟩ := scalarFrame (transferWords_cases _ hi hn h)
  exact ⟨hcore, hscalar, hmem, hcsr⟩

end Sys2Proof.Machine

namespace Sys2Proof.Machine

open Claims

/-! ### Loads, stores and atomics of the C stream (R108, R109, R282 to R286) -/

section
variable {s : State} {d a b : Reg} {im : BitVec 16} {n : Nat} {t : Tgt}

theorem loadC_of_access (hd : ready s d) (ha : ready s a) (hl : s.c.ldReady = true) : loadC n d a im s =
    access s s.cur (accC n false) none (s.core.sreg a + im.signExtend 64).toNat >>= fun t => .ok (loadQueued s d n t) := by
  simp only [loadC, State.rd_ready ha, hl, show s.core.busy d = false from hd, Bool.not_false, await_true, res_ok_bind]
  rfl

theorem loadC_queued (hd : ready s d) (ha : ready s a) (hl : s.c.ldReady = true)
    (ht : access s s.cur (accC n false) none (s.core.sreg a + im.signExtend 64).toNat = .ok t) :
    finish false (loadC n d a im s) s = retired (loadQueued s d n t) := by
  rw [loadC_of_access hd ha hl, ht]
  rfl

/-- What a C store does once its address has passed its checks. -/
def State.storeTo (s : State) (n : Nat) (v : Word) (t : Tgt) : Res State :=
  match s.recordOf t with
  | some r => await (s.c.stores.all (fun e => e.win != 7)) >>= fun _ =>
    match s.storeBar r (segAddr t.place.segs 0 - r) (toLE n v.toNat) with
    | some u => .ok ((u.touch u.ctxNo t.place.dies).setC (u.touch u.ctxNo t.place.dies).c.countNum)
    | none => .error (.cause 0x148 t.ptr 0)
  | none => s.admitAt t 0x0A0 >>= fun g =>
    match g with
    | none => .ok ((s.setC s.c.countNum).stale s.ctxNo 1)
    | some g => s.writeOp t (toLE n v.toNat) (s.streamKey .C (s.c.issued + 1) 0) >>= fun op => .ok (storeQueued s n t op g)

theorem storeC_of_access (hd : ready s d) (ha : ready s a) (hs : s.c.stReady = true) : storeC n d a im s =
    access s s.cur (accC n true) none (s.core.sreg a + im.signExtend 64).toNat >>= fun t => s.storeTo n (s.core.sreg d) t := by
  simp only [storeC, State.rd_ready ha, State.rd_ready hd, hs, await_true, res_ok_bind]
  rfl

/-- The outcome of STW and STD. -/
theorem exec_store {i : Instr} (hi : n = 4 ∧ i = .stw d a im ∨ n = 8 ∧ i = .std d a im) : exec i s = finish true (storeC n d a im s) s := by
  rcases hi with ⟨rfl, rfl⟩ | ⟨rfl, rfl⟩ <;> rfl

theorem storeTo_queued {g : Option VerTag} {op : StoreOp} {v : Word} (hr : s.recordOf t = none) (hg : s.admitAt t 0x0A0 = .ok (some g))
    (hop : s.writeOp t (toLE n v.toNat) (s.streamKey .C (s.c.issued + 1) 0) = .ok op) : s.storeTo n v t = .ok (storeQueued s n t op g) := by
  simp only [State.storeTo, hr, hg, hop, res_ok_bind]

end

theorem loadWordsIssue_holds : Claims.loadWordsIssue :=
  fun _ _ _ _ _ hd ha hl => ⟨loadC_queued hd ha hl, loadC_queued hd ha hl⟩

theorem storeWordsIssue_holds : Claims.storeWordsIssue := by
  intro s d a im n i t hd ha hs hi ht
  have hexec : exec i s = finish true (s.storeTo n (s.core.sreg d) t) s := by
    rw [exec_store hi, storeC_of_access hd ha hs]
    exact congrArg (fun r => finish true (r >>= fun t => s.storeTo n (s.core.sreg d) t) s) ht
  rw [hexec]
  refine ⟨fun g op hr hg hop => ?queued, fun hr hg => ?dropped, fun r u v hr hw hu hv => ?record⟩
  case queued => rw [storeTo_queued hr hg hop]; rfl
  case dropped => simp only [State.storeTo, hr, hg, res_ok_bind, finish_ok, retired]
  case record =>
    subst hv
    simp only [State.storeTo, hr, hw, hu, await_true, res_ok_bind, finish_ok, retired]

/-- Settles O12. -/
theorem loadAndStoreWords : Obligations.LoadAndStoreWords := ⟨loadWordsIssue_holds, storeWordsIssue_holds⟩

/-! ### Atomics (R282 to R286) -/

section
variable {s : State} {op : Nat} {d a b : Reg} {w : Bool} {t : Tgt} {i q : Instr}

/-- The two forms of an atomic are one shared operation; the float atomics have no wide form, and ACAS alone takes an expected value. -/
theorem exec_atomForms (h : atomForms op d a b w = some (i, q)) :
    exec i s = finish true (atomC op (w && decide (op < 10)) (some d) (if op = 9 then some d else none) a b s) s ∧
      exec q s = finish true (atomC op (w && decide (op < 10)) none (if op = 9 then some d else none) a b s) s := by
  unfold atomForms at h
  split at h <;> cases h <;> cases w <;> exact ⟨rfl, rfl⟩

/-- A register that an atomic may name owes nothing. -/
abbrev readyOpt (s : State) (r : Option Reg) : Prop := ∀ d ∈ r, ready s d

theorem readyOpt_none : readyOpt s none := fun _ h => by cases h

theorem readyOpt_some (hd : ready s d) : readyOpt s (some d) := fun _ h => Option.some.inj h ▸ hd

theorem readyOpt_expected (hd : ready s d) : readyOpt s (if op = 9 then some d else none) := by
  split
  · exact readyOpt_some hd
  · exact readyOpt_none

section
variable {wide : Bool} {dst cmp : Option Reg}

theorem atomC_refused {e : Stop} (hdst : readyOpt s dst) (hcmp : readyOpt s cmp) (ha : ready s a) (hb : ready s b) (hs : s.c.stReady = true)
    (he : access s s.cur (accAtom wide) none (s.core.sreg a).toNat = .error e) : atomC op wide dst cmp a b s = .error e := by
  have hbusy (r : Reg) (hr : dst = some r) : s.core.busy r = false := hdst r hr
  have hread (r : Reg) (hr : cmp = some r) : s.rd r = .ok (s.core.sreg r) := State.rd_ready (hcmp r hr)
  cases dst <;> cases cmp <;>
    simp only [atomC, State.rd_ready ha, State.rd_ready hb, hbusy, hread, hs, he, Bool.not_false, await_true, res_ok_bind,
      res_error_bind]

theorem touch_ctxNo (s : State) (x : Nat) (ds : List Nat) : (s.touch x ds).ctxNo = s.ctxNo := by
  rw [State.ctxNo, State.touch_ctxNoOf, State.touch_cur]; rfl

theorem logOn_touched (s : State) (t : Tgt) (c : CoreSt) :
    ((s.touch s.ctxNo t.place.dies).setCore c).logOn ((s.touch s.ctxNo t.place.dies).setCore c).ctxNo = s.logOn s.ctxNo := by
  have hno : ((s.touch s.ctxNo t.place.dies).setCore c).ctxNo = s.ctxNo := touch_ctxNo s _ _
  have hcsrs := (s.touch_sameTables s.ctxNo t.place.dies).csrs s.ctxNo
  simp only [State.logOn, hno, Ctx.csr]
  rw [← hcsrs]
  rfl

/-- An atomic whose address passes its checks stands in the store queue when the decision log is off. -/
theorem atomC_queued {g : Option (Option VerTag)} (hdst : readyOpt s dst) (hcmp : readyOpt s cmp) (ha : ready s a) (hb : ready s b)
    (hs : s.c.stReady = true) (ht : access s s.cur (accAtom wide) none (s.core.sreg a).toNat = .ok t)
    (hd : (t.dpage && (dst.isSome || op == 8 || op == 9 || op == 10)) = false) (hr : s.recordOf t = none) (hg : s.admitAt t 0x0A0 = .ok g)
    (hl : s.logOn s.ctxNo = false) :
    atomC op wide dst cmp a b s = .ok (atomQueued s t ⟨t.place, .atom op wide (s.core.sreg b) ((cmp.map s.core.sreg).getD 0)
      (dst.map (fun r => r.toNat)), g.getD (some (noVersion s.ctxNo)), 0⟩) := by
  have hbusy (r : Reg) (hr : dst = some r) : s.core.busy r = false := hdst r hr
  have hread (r : Reg) (hr : cmp = some r) : s.rd r = .ok (s.core.sreg r) := State.rd_ready (hcmp r hr)
  have hrec : (s.recordOf t == none) = true := by rw [hr]; rfl
  cases dst <;> cases cmp <;>
  · simp only [atomC, State.rd_ready ha, State.rd_ready hb, hbusy, hread, hs, ht, hd, hrec, hg, logOn_touched, hl, Bool.not_false,
      await_true, needAt_true, res_ok_bind, Bool.false_eq_true, false_and, if_false]
    rfl
end
end

/-- Settles O21. -/
theorem atomicWords : Obligations.AtomicWords := by
  rintro s op d a b w t i q g e hform hd ha hb hs ht hr hg hl rfl
  obtain ⟨hi, hq⟩ := exec_atomForms (s := s) hform
  have hval : ((if op = 9 then some d else none).map s.core.sreg).getD 0 = if op = 9 then s.core.sreg d else 0 := by split <;> rfl
  rw [hi, hq, ← hval]
  refine ⟨fun hp => ?returning, fun hp => ?quiet⟩
  case returning =>
    rw [atomC_queued (readyOpt_some hd) (readyOpt_expected hd) ha hb hs ht (by rw [hp, Bool.false_and]) hr hg hl]
    rfl
  case quiet =>
    have hquiet : (t.dpage && ((none : Option Reg).isSome || op == 8 || op == 9 || op == 10)) = false := by
      rcases hp with hp | hp | hp
      · rw [hp, Bool.false_and]
      all_goals simp; omega
    rw [atomC_queued readyOpt_none (readyOpt_expected hd) ha hb hs ht hquiet hr hg hl]
    rfl

/-! ### What a word that issues leaves (R109, R261) -/

/-- u holds the registers, CSRs, tiles, buffers and events of the current core, the other cores and memory as s holds them. -/
def onlyQueues (s u : State) : Prop :=
  sameMem s u ∧ (∀ r, u.core.sreg r = s.core.sreg r) ∧ (∀ n, u.core.csr n = s.core.csr n) ∧ u.core.aregs = s.core.aregs ∧
    u.core.vregs = s.core.vregs ∧ u.core.tiles = s.core.tiles ∧ u.core.wbuf = s.core.wbuf ∧ u.core.abuf = s.core.abuf ∧
    u.core.events = s.core.events ∧ ∀ k, k ≠ s.cur → u.coreOf k = s.coreOf k

theorem onlyQueues_of {s : State} (x : Nat) (ds : List Nat) (m : StreamSt) (n : Nat) :
    onlyQueues s ((s.touch x ds).setCore { s.core with cS := m, wacks := n }) := by
  rw [onlyQueues, State.core_setCore]
  refine ⟨fun a => congrArg (look 0 · a) (State.touch_mem ..), fun _ => rfl, fun _ => rfl, rfl, rfl, rfl, rfl, rfl, rfl, fun k hk => ?_⟩
  rw [State.setCore, State.coreOf_setCoreOf, State.touch_cur, if_neg hk, State.touch_coreOf]

theorem CoreSt.sent_eq (c : CoreSt) (t : Tgt) : ∃ n, c.sent t = { c with wacks := n } := by
  unfold CoreSt.sent
  split <;> exact ⟨_, rfl⟩

section
variable {s : State} {d : Reg} {n : Nat} {t : Tgt}

theorem onlyQueues_loadQueued : onlyQueues s (loadQueued s d n t).retire := by
  have h := onlyQueues_of (s := s) s.ctxNo t.place.dies
    { s.c.pushLoad 0 s.c.pc (.creg d n t.place) with pc := s.c.pc + 1, waiting := false } s.core.wacks
  simp only [loadQueued, State.retire, State.setC, State.setSm, State.c, State.touch_core, State.core_setCore, State.setCore_setCore]
  exact h

/-- A word that has entered the store queue, with its timeline number and its count of acknowledgements. -/
theorem onlyQueues_stored (m : StreamSt → StreamSt) : onlyQueues s ((
    let u := s.touch s.ctxNo t.place.dies
    let u := u.setCore (u.core.sent t)
    u.setC (m u.c)).retire) := by
  obtain ⟨w, hw⟩ := s.core.sent_eq t
  have h := onlyQueues_of (s := s) s.ctxNo t.place.dies { m s.c with pc := (m s.c).pc + 1, waiting := false } w
  simp only [State.retire, State.setC, State.setSm, State.c, State.touch_core, State.core_setCore, State.setCore_setCore, hw]
  exact h
end

/-- Settles O52: each of these words has entered a queue, and nothing else of it is done at issue. -/
theorem memoryWordsIssueFrame : Obligations.MemoryWordsIssueFrame := by
  rintro s u i d a b im n t x hd ha hb rfl hcase hu
  change onlyQueues s u
  rcases hcase with ⟨hi, hl, ht⟩ | ⟨hi, hs, ht, hr, g, op, hg, hop⟩ | ⟨op, w, r, q, g, hform, hi, rfl, hs, ht, hr, hg, hl⟩
  · have hx : exec i s = retired (loadQueued s d n t) := by
      rcases hi with ⟨rfl, rfl⟩ | ⟨rfl, rfl⟩ <;> exact loadC_queued hd ha hl ht
    rw [← Host.Outcome.next.inj (hx.symm.trans hu)]
    exact onlyQueues_loadQueued
  · obtain ⟨hx, -, -⟩ := storeWordsIssue_holds s d a im n i t hd ha hs hi ht
    rw [← Host.Outcome.next.inj ((hx g op hr hg hop).symm.trans hu)]
    exact onlyQueues_stored fun m => m.takeNum.pushStore _ _ _ _
  · obtain ⟨hret, hquiet⟩ := atomicWords s op d a b w t r q g _ hform hd ha hb hs ht hr hg hl rfl
    rcases hi with ⟨rfl, hp⟩ | ⟨rfl, hp⟩
    · rw [← Host.Outcome.next.inj ((hret hp).symm.trans hu)]
      exact onlyQueues_stored fun m => m.takeNum.pushStore _ _ _ _
    · rw [← Host.Outcome.next.inj ((hquiet hp).symm.trans hu)]
      exact onlyQueues_stored fun m => m.takeNum.pushStore _ _ _ _
end Sys2Proof.Machine

namespace Sys2Proof.Machine

open Claims

/-! ### The checks of a C access, in their order (R125) -/

section
variable {s : State} {core n p : Nat} {ws : List Nat} {wr : Bool} {k : Nat}

/-- The window code of a pointer. -/
theorem bits_window {p : Nat} (hp : p < 2 ^ 64) : bits p 63 60 = p / 2 ^ 60 := Nat.mod_eq_of_lt (by omega)

/-- The last byte of a C access, which the checks of the extent look at beside the first. -/
theorem extent_iff_inWindow {q : Nat} (hp : p < 2 ^ 64) (hn : 1 ≤ n) (hn8 : n ≤ 8) (h4 : 4 ≤ p / 2 ^ 60) (h7 : p / 2 ^ 60 ≤ 7)
    (hq : q = (p + (n - 1)) % 2 ^ 64) :
    (bits q 63 60 ≠ p / 2 ^ 60 ∨ !inExtent (p / 2 ^ 60) p ∨ !inExtent (p / 2 ^ 60) q ∨
      ((p / 2 ^ 60 = 3 ∨ p / 2 ^ 60 = 6) ∧ winOff (p / 2 ^ 60) q < winOff (p / 2 ^ 60) p) ∨ (p / 2 ^ 60 = 6 ∧ bits p 59 40 ≠ bits q 59 40)) ↔
    ¬inWindow p n := by
  have hw : p / 2 ^ 60 = 4 ∨ p / 2 ^ 60 = 5 ∨ p / 2 ^ 60 = 6 ∨ p / 2 ^ 60 = 7 := by omega
  have hq' : q = p + (n - 1) := by omega
  subst hq'
  rcases hw with hw | hw | hw | hw <;> simp only [inWindow, hw, inExtent, winOff, bits] <;> simp <;> omega

theorem access_refused {a : Acc} {lim : Option AReg} {e : Stop} (h : checkPtr s core a p = .error e) : access s core a lim p = .error e := by
  rw [access, h, res_error_bind]

/-- The checks of an access that may use windows 0x4 to 0x7 alone. -/
theorem checkPtr_eq (hws : ∀ w ∈ ws, 4 ≤ w ∧ w ≤ 7) (hp : p < 2 ^ 64) (hn : 1 ≤ n) (hn8 : n ≤ 8) [Decidable (inWindow p n)] :
    checkPtr s core ⟨ws, none, n, n, wr, k⟩ p =
      if p / 2 ^ 60 = 0 ∨ 8 ≤ p / 2 ^ 60 then .error (.cause 0x060 p 0)
      else if p / 2 ^ 60 ∉ ws then .error (.cause (if p / 2 ^ 60 ≤ 3 then 0x041 else 0x064) p 0)
      else if ¬inWindow p n then .error (.cause 0x061 p 0)
      else if p % n ≠ 0 then .error (.cause 0x062 p 0)
      else .ok () := by
  simp only [checkPtr, bits_window hp, Bool.not_eq_true', List.contains_eq_mem, decide_eq_false_iff_not, Option.getD_none]
  by_cases h0 : p / 2 ^ 60 = 0 ∨ 8 ≤ p / 2 ^ 60
  · rw [if_pos h0, if_pos h0]
  by_cases hmem : p / 2 ^ 60 ∉ ws
  · rw [if_neg h0, if_neg h0, if_pos hmem, if_pos hmem]
  obtain ⟨h4, h7⟩ := hws _ (not_not.mp hmem)
  rw [if_neg h0, if_neg h0, if_neg hmem, if_neg hmem, if_neg (fun h => by omega)]
  simp only [← extent_iff_inWindow hp hn hn8 h4 h7 rfl, Bool.not_eq_true']

/-- Where the address checks of an access decide the outcome of a word, they do so in their order. -/
theorem accessCauses_of {num : Bool} {o : Out1} (hws : ∀ w ∈ ws, 4 ≤ w ∧ w ≤ 7) (hp : p < 2 ^ 64) (hn : 1 ≤ n) (hn8 : n ≤ 8)
    (h : ∀ e, access s s.cur ⟨ws, none, n, n, wr, k⟩ none p = .error e → o = finish num (.error e) s) : accessCauses s ws num n p o := by
  classical
  have hcheck {c : Nat} (hc : checkPtr s s.cur ⟨ws, none, n, n, wr, k⟩ p = .error (.cause c p 0)) : o = caused s num c p :=
    h _ (access_refused hc)
  have heq := checkPtr_eq (s := s) (core := s.cur) (wr := wr) (k := k) hws hp hn hn8
  have hvalid (hw : p / 2 ^ 60 ∈ ws) : ¬(p / 2 ^ 60 = 0 ∨ 8 ≤ p / 2 ^ 60) := by
    have := hws _ hw
    omega
  have hout (hw : p / 2 ^ 60 ≤ 3) : p / 2 ^ 60 ∉ ws := fun hmem => by
    have := hws _ hmem
    omega
  refine ⟨fun h0 => hcheck ?reserved, fun hw => hcheck ?buffer, fun hw hmem => hcheck ?window, fun hmem hin => hcheck ?extent,
    fun hmem hin ha => hcheck ?aligned⟩
  case reserved => rw [heq, if_pos h0]
  case buffer => rw [heq, if_neg (by omega), if_pos (hout hw.2), if_pos hw.2]
  case window => rw [heq, if_neg (by omega), if_pos hmem, if_neg (by omega)]
  case extent => rw [heq, if_neg (hvalid hmem), if_neg (not_not_intro hmem), if_pos hin]
  case aligned => rw [heq, if_neg (hvalid hmem), if_neg (not_not_intro hmem), if_neg (not_not_intro hin), if_pos ha]
end

/-- Settles O58: in each word the checks of the access come before everything else that its address decides. -/
theorem accessChecksInOrder : Obligations.AccessChecksInOrder := by
  rintro s d a b im x hd ha hb rfl
  have hws : ∀ w ∈ [4, 5, 6, 7], 4 ≤ w ∧ w ≤ 7 := by decide
  have hatom : ∀ w ∈ [4, 6, 7], 4 ≤ w ∧ w ≤ 7 := by decide
  have hload {n : Nat} (hn : 1 ≤ n) (hn8 : n ≤ 8) (hl : s.c.ldReady = true) :
      accessCauses s [4, 5, 6, 7] false n (s.core.sreg a + im.signExtend 64).toNat (finish false (loadC n d a im s) s) :=
    accessCauses_of hws (BitVec.isLt _) hn hn8 fun e he => by
      rw [loadC_of_access hd ha hl]
      exact congrArg (fun r => finish false (r >>= fun t => .ok (loadQueued s d n t)) s) he
  have hstore {n : Nat} (hn : 1 ≤ n) (hn8 : n ≤ 8) (hs : s.c.stReady = true) :
      accessCauses s [4, 5, 6, 7] true n (s.core.sreg a + im.signExtend 64).toNat (finish true (storeC n d a im s) s) :=
    accessCauses_of hws (BitVec.isLt _) hn hn8 fun e he => by
      rw [storeC_of_access hd ha hs]
      exact congrArg (fun r => finish true (r >>= fun t => s.storeTo n (s.core.sreg d) t) s) he
  refine ⟨fun hl => ⟨hload (by omega) (by omega) hl, hload (by omega) le_rfl hl⟩, fun hs => ⟨hstore (by omega) (by omega) hs,
    hstore (by omega) le_rfl hs, fun op w i q n hform hn => ?_⟩⟩
  obtain ⟨hi, hq⟩ := exec_atomForms (s := s) hform
  have hforms {dst : Option Reg} (hdst : readyOpt s dst) : accessCauses s [4, 6, 7] true n (s.core.sreg a).toNat
      (finish true (atomC op (w && decide (op < 10)) dst (if op = 9 then some d else none) a b s) s) := by
    subst hn
    refine accessCauses_of (wr := true) (k := 3) hatom (BitVec.isLt _) (by split <;> omega) (by split <;> omega) fun e he => ?_
    rw [atomC_refused hdst (readyOpt_expected hd) ha hb hs he]
  rw [hi, hq]
  exact ⟨hforms (readyOpt_some hd), hforms readyOpt_none⟩

end Sys2Proof.Machine

namespace Sys2Proof.Machine

open Claims

/-! ### FORK and RDV (R112, R113, R129, R266) -/

theorem maskStrms_nodup (m : BitVec 4) : (maskStrms m).Nodup := List.Nodup.filter _ (by decide)

theorem C_notMem_maskStrms (m : BitVec 4) : Strm.C ∉ maskStrms m := fun h => by simpa using List.mem_of_mem_filter h

section
variable {f : CoreSt → Strm → CoreSt} {l : List Strm} {c : CoreSt} {t : Strm}

/-- A change of each stream of a list leaves the other streams. -/
theorem foldl_strm_of_notMem (hf : ∀ c t u, u ≠ t → (f c t).strm u = c.strm u) (ht : t ∉ l) : (l.foldl f c).strm t = c.strm t :=
  List.foldlRecOn (motive := fun d => d.strm t = c.strm t) l f rfl
    fun _ hd a ha => (hf _ a t fun h => ht (h.symm ▸ ha)).trans hd

/-- In a list without repetition each stream is changed once, as it stood. -/
theorem foldl_strm_of_mem {g : CoreSt → Strm → StreamSt} (hf : ∀ c t u, u ≠ t → (f c t).strm u = c.strm u) (hg : ∀ c t, (f c t).strm t = g c t)
    (hl : l.Nodup) (ht : t ∈ l) : ∃ d : CoreSt, d.strm t = c.strm t ∧ (l.foldl f c).strm t = g d t := by
  induction l generalizing c with
  | nil => cases ht
  | cons x r ih =>
    obtain ⟨hx, hr⟩ := List.nodup_cons.mp hl
    rcases List.mem_cons.mp ht with rfl | hmem
    · exact ⟨c, rfl, (foldl_strm_of_notMem hf hx).trans (hg c t)⟩
    · obtain ⟨d, hd, hres⟩ := ih (c := f c x) hr hmem
      exact ⟨d, hd.trans (hf _ _ _ fun h => hx (h ▸ hmem)), hres⟩

/-- What a change of streams keeps of every other field, it keeps when it is made for each stream of a list. -/
theorem foldl_field {α : Type} (p : CoreSt → α) (hf : ∀ c t, p (f c t) = p c) : p (l.foldl f c) = p c :=
  List.foldlRecOn (motive := fun d => p d = p c) l f rfl fun _ hd a _ => (hf _ a).trans hd
end

/-- m' is m whose stores below its sequence number have performed at core scope. -/
def StreamSt.performedTo (m m' : StreamSt) : Prop :=
  m' = { m with stores := m'.stores } ∧ m'.stores.map (fun e => e.elems) = m.stores.map (fun e => e.elems) ∧
    ∀ e ∈ m'.stores, e.seq < m.seq → 2 ≤ e.level

theorem CoreSt.strm_markCore_ne (c : CoreSt) {t u : Strm} (n : Nat) (h : u ≠ t) : (c.markCore t n).strm u = c.strm u := by
  rw [CoreSt.markCore, CoreSt.strm_setStrm, if_neg h]

/-- A stream whose earlier stores are all plain has performed them at core scope once it is marked. -/
theorem CoreSt.markCore_performedTo (c : CoreSt) {t : Strm} (h : (c.strm t).postReady (c.strm t).seq = true) :
    (c.strm t).performedTo ((c.markCore t (c.strm t).seq).strm t) := by
  have hplain : ∀ e ∈ (c.strm t).stores, e.seq < (c.strm t).seq → e.plain = true := by
    intro e he hlt
    simp only [StreamSt.postReady, Bool.and_eq_true, List.all_eq_true, Bool.or_eq_true, decide_eq_true_eq] at h
    exact (h.1.1.2 e he).resolve_left (Nat.not_le.mpr hlt)
  rw [CoreSt.markCore, CoreSt.strm_setStrm, if_pos rfl]
  refine ⟨rfl, ?_, ?_⟩
  · rw [List.map_map]
    refine List.map_congr_left fun e _ => ?_
    simp only [Function.comp_apply]
    split <;> rfl
  · simp only [List.forall_mem_map]
    intro e he hlt
    by_cases h2 : e.level < 2
    · have hseq : e.seq < (c.strm t).seq := by split at hlt <;> exact hlt
      rw [if_pos (by simp [hseq, hplain e he hseq, h2])]
    · rw [if_neg (by simp [h2])]
      omega

/-- The core when RDV has joined some streams. -/
def CoreSt.rendezvous (c : CoreSt) (l : List Strm) : CoreSt := l.foldl (fun c t => c.markCore t (c.strm t).seq) c

/-- The core when FORK has started some streams, the earlier stores of the C stream performed at core scope. -/
noncomputable def CoreSt.forked (c : CoreSt) (l : List Strm) (sb : Bool) : CoreSt :=
  let d := l.foldl (fun c t => c.setStrm t ((c.strm t).start sb)) (c.markCore .C c.cS.seq)
  if l.contains .M then { d with cost := 0 } else d

section
variable {c : CoreSt} {l : List Strm} {t : Strm} {sb : Bool}

theorem CoreSt.rendezvous_mem (hl : l.Nodup) (ht : t ∈ l) (h : (c.strm t).postReady (c.strm t).seq = true) :
    (c.strm t).performedTo ((c.rendezvous l).strm t) := by
  obtain ⟨d, hd, hres⟩ := foldl_strm_of_mem (f := fun c t => c.markCore t (c.strm t).seq) (c := c)
    (fun c t u hu => c.strm_markCore_ne _ hu) (fun _ _ => rfl) hl ht
  rw [CoreSt.rendezvous, hres, ← hd]
  exact d.markCore_performedTo (by rw [hd]; exact h)

theorem CoreSt.rendezvous_notMem (ht : t ∉ l) : (c.rendezvous l).strm t = c.strm t :=
  foldl_strm_of_notMem (fun c _ _ hu => c.strm_markCore_ne _ hu) ht

theorem CoreSt.sreg_rendezvous (r : Reg) : (c.rendezvous l).sreg r = c.sreg r :=
  foldl_field (fun c => c.sreg r) fun c t => CoreSt.sreg_setStrm c t _ r

theorem CoreSt.strm_forked : (c.forked l sb).strm t = (l.foldl (fun c t => c.setStrm t ((c.strm t).start sb))
    (c.markCore .C c.cS.seq)).strm t := by
  unfold CoreSt.forked
  split
  · cases t <;> rfl
  · rfl

theorem CoreSt.forked_mem (hl : l.Nodup) (hC : .C ∉ l) (ht : t ∈ l) : (c.forked l sb).strm t = (c.strm t).start sb := by
  obtain ⟨d, hd, hres⟩ := foldl_strm_of_mem (f := fun c t => c.setStrm t ((c.strm t).start sb)) (g := fun c t => (c.strm t).start sb)
    (c := c.markCore .C c.cS.seq) (fun c t u hu => by rw [CoreSt.strm_setStrm, if_neg hu]) (fun c t => by rw [CoreSt.strm_setStrm, if_pos rfl])
    hl ht
  have hne : t ≠ .C := fun h => hC (h ▸ ht)
  rw [CoreSt.strm_forked, hres, hd, CoreSt.strm_markCore_ne _ _ hne]

theorem CoreSt.forked_notMem (ht : t ∉ l) : (c.forked l sb).strm t = (c.markCore .C c.cS.seq).strm t := by
  rw [CoreSt.strm_forked, foldl_strm_of_notMem (fun c t u hu => by rw [CoreSt.strm_setStrm, if_neg hu]) ht]

theorem CoreSt.sreg_forked (r : Reg) : (c.forked l sb).sreg r = c.sreg r := by
  have h : (l.foldl (fun c t => c.setStrm t ((c.strm t).start sb)) (c.markCore .C c.cS.seq)).sreg r = c.sreg r :=
    foldl_field (fun c => c.sreg r) fun c t => CoreSt.sreg_setStrm c t _ r
  unfold CoreSt.forked
  split <;> exact h
end

section
variable {s : State} {m : BitVec 4}

theorem execRdv_retired (h : ∀ t ∈ maskStrms m, (s.sm t).run = false ∧ (s.sm t).postReady (s.sm t).seq = true) :
    execRdv m s = retired (s.setCore (s.core.rendezvous (maskStrms m))) := by
  have hall : (maskStrms m).all (fun t => !(s.sm t).run && (s.sm t).postReady (s.sm t).seq) = true :=
    List.all_eq_true.mpr fun t ht => by simp [h t ht]
  simp only [execRdv, hall, await_true, res_ok_bind]
  rfl

theorem execFork_retired (hidle : ∀ t ∈ maskStrms m, (s.sm t).run = false) (hpresent : ∀ t ∈ maskStrms m, s.present t = true)
    (howes : s.core.owes = false) (hpost : s.c.postReady s.c.seq = true) :
    execFork m s = retired (s.setCore (s.core.forked (maskStrms m) (s.ctx.csr 0x300 &&& 1 != 0))) := by
  have hany : (maskStrms m).any (fun t => (s.sm t).run) = false := List.any_eq_false.mpr fun t ht => by simp [hidle t ht]
  have hall : (maskStrms m).all (fun t => s.present t) = true := List.all_eq_true.mpr hpresent
  simp only [execFork, hany, hall, howes, hpost, Bool.not_false, Bool.and_self, need_true, await_true, res_ok_bind]
  rfl
end

theorem forkAndRdv_holds : Claims.forkAndRdv := by
  intro s m hidle
  have hnodup := maskStrms_nodup m
  have hC := C_notMem_maskStrms m
  refine ⟨fun hready => ⟨_, execRdv_retired fun t ht => ⟨hidle t ht, hready t ht⟩, rfl, ?rdv⟩,
    fun hpresent howes hpost => ⟨_, execFork_retired hidle hpresent howes hpost, rfl, ?fork⟩⟩
  case rdv =>
    rw [State.core_setCore]
    exact ⟨fun r => CoreSt.sreg_rendezvous r, CoreSt.rendezvous_notMem hC, fun t ht => CoreSt.rendezvous_mem hnodup ht (hready t ht),
      fun t ht => CoreSt.rendezvous_notMem ht⟩
  case fork =>
    rw [State.core_setCore]
    obtain ⟨hstores, -, hlevel⟩ := s.core.markCore_performedTo (t := .C) hpost
    have hcS : (s.core.forked (maskStrms m) (s.ctx.csr 0x300 &&& 1 != 0)).cS = (s.core.markCore .C s.core.cS.seq).cS :=
      CoreSt.forked_notMem (t := .C) hC
    refine ⟨fun r => CoreSt.sreg_forked r, fun t ht => ?_, fun t ht hne => ?_, ?_, ?_⟩
    · rw [CoreSt.forked_mem hnodup hC ht]
      exact ⟨rfl, rfl, rfl⟩
    · rw [CoreSt.forked_notMem ht, CoreSt.strm_markCore_ne _ _ hne]
    · rw [hcS]
      exact hstores
    · rw [hcS]
      exact hlevel

theorem eventAndQueueWords_holds : Claims.eventAndQueueWords := by
  intro s e n a x hn
  refine ⟨?post, fun c hc => ?taken, fun hc => ?waits, ?queues⟩
  case post =>
    have hneed : need (n ≠ 0) 0x022 = .ok () := by rw [decide_eq_true hn, need_true]
    simp only [exec_post, execPost, hneed, res_ok_bind, finish_ok, thenPosts]
  case taken => simp only [exec_await, execAwait, if_neg hn, hc, finish_ok, retired]
  case waits => simp only [exec_await, execAwait, if_neg hn, hc]
  case queues =>
    rintro t m rfl rfl ha
    refine ⟨fun hb => ?boqp, fun hp => ?qput⟩
    case boqp => simp only [exec_boqp, execBoqp, State.rd_ready ha, res_ok_bind, State.pushBoq, if_neg (Nat.not_le.mpr hb), finish_ok, retired]
    case qput => simp only [exec_qput, execQput, State.rd_ready ha, res_ok_bind, decide_eq_true hp, await_true, finish_ok, retired]

/-- Settles O16. -/
theorem forkEventAndQueueWords : Obligations.ForkEventAndQueueWords := ⟨forkAndRdv_holds, eventAndQueueWords_holds⟩

/-! ### NOP, TRAP, HALT, ERET and SLEEP (R104, R120, R419) -/

section
variable {s u : State} {h : HandlerSt}

/-- An ERET whose work is done: it meets a lost or poisoned save area, or restores the core. -/
theorem execEret_ready (hh : s.core.hand = some h) (howes : s.core.owes = false) (hpost : s.c.postReady s.c.seq = true)
    (hu : u = s.setCore (s.core.markCore .C s.c.seq)) :
    (∀ c e k, u.areaBad u.ctxNo h.save 256 = some (c, e, k) → exec .eret s = .next (u.raise .C (u.siteC false) c e k)) ∧
    (u.areaBad u.ctxNo h.save 256 = none → u.core.blockedNow .C (.phys 0 (u.segsAt u.ctxNo (bits h.save 55 0) 256)) = false →
      exec .eret s = .next (u.eret h).flushPosts) := by
  subst hu
  have hgo : ¬(s.core.owes = true ∨ (!s.c.postReady s.c.seq) = true) := by simp [howes, hpost]
  refine ⟨fun c e k hbad => ?_, fun hbad hblock => ?_⟩
  · simp only [exec_eret, execEret, hh, if_neg hgo, hbad, finish_cause]
  · simp only [exec_eret, execEret, hh, if_neg hgo, hbad, hblock, Bool.false_eq_true, if_false, thenPosts]
end

/-- Settles O17. -/
theorem systemWords : Obligations.SystemWords := by
  intro s
  refine ⟨rfl, fun d => rfl, rfl, fun hh => ?eret, fun h u hh howes hpost hu => execEret_ready hh howes hpost hu, fun a ha hs h0 => ?none,
    fun a ha hs h0 => ?starts, fun a hs => ?ends⟩
  case eret => rw [exec_eret, execEret, hh]; rfl
  case none => simp only [exec_sleep, execSleep, hs, State.rd_ready ha, if_pos h0, retired]
  case starts => simp only [exec_sleep, execSleep, hs, State.rd_ready ha, if_neg h0]
  case ends => simp only [exec_sleep, execSleep, hs, if_true, retired]

/-! ### What ERET restores (R104, R301, R366, R419) -/

/-- d holds what a program sees of c, and what its waiting words hold; the queues of its streams may differ. -/
structure CoreSt.SameProgram (c d : CoreSt) : Prop where
  sregs : d.sregs = c.sregs
  csrs : d.csrs = c.csrs
  events : d.events = c.events
  hand : d.hand = c.hand
  sleep : d.sleep = c.sleep
  wait : d.wait = c.wait
  bwait : d.bwait = c.bwait
  pc : ∀ t, (d.strm t).pc = (c.strm t).pc

section
variable {c d e : CoreSt}

theorem CoreSt.SameProgram.refl (c : CoreSt) : c.SameProgram c := ⟨rfl, rfl, rfl, rfl, rfl, rfl, rfl, fun _ => rfl⟩

theorem CoreSt.SameProgram.trans (h : c.SameProgram d) (k : d.SameProgram e) : c.SameProgram e :=
  ⟨k.sregs.trans h.sregs, k.csrs.trans h.csrs, k.events.trans h.events, k.hand.trans h.hand, k.sleep.trans h.sleep, k.wait.trans h.wait,
    k.bwait.trans h.bwait, fun t => (k.pc t).trans (h.pc t)⟩

theorem CoreSt.setStrm_sameProgram {t : Strm} {m : StreamSt} (hm : m.pc = (c.strm t).pc) : c.SameProgram (c.setStrm t m) := by
  constructor
  case pc =>
    intro u
    rw [CoreSt.strm_setStrm]
    split
    next hu => rw [hm, hu]
    next => rfl
  all_goals simp

theorem StreamSt.closeNum_pc (m : StreamSt) (n : Nat) : (m.closeNum n).pc = m.pc := by unfold StreamSt.closeNum; split <;> rfl

theorem StreamSt.closeNums_pc {α : Type} (f : α → Nat) (l : List α) (m : StreamSt) : (l.foldl (fun m a => m.closeNum (f a)) m).pc = m.pc :=
  List.foldlRecOn (motive := fun k : StreamSt => k.pc = m.pc) l _ rfl fun _ hk a _ => (StreamSt.closeNum_pc _ (f a)).trans hk

theorem StreamSt.putBack_pc (m : StreamSt) (f : Frozen) : (m.putBack f).finishSent.pc = m.pc := by
  unfold StreamSt.finishSent
  exact StreamSt.closeNums_pc (fun e : StoreEnt => e.tl) ..

theorem CoreSt.thaw_sameProgram (c : CoreSt) (f : Frozen → Bool) : c.SameProgram (c.thaw f) := by
  unfold CoreSt.thaw
  refine List.foldlRecOn (motive := fun d => c.SameProgram d) _ _ ⟨rfl, rfl, rfl, rfl, rfl, rfl, rfl, fun t => by cases t <;> rfl⟩
    fun d hd e _ => hd.trans ?_
  have h := CoreSt.setStrm_sameProgram (c := d) (t := e.strm) (StreamSt.putBack_pc (d.strm e.strm) e)
  exact ⟨h.sregs, h.csrs, h.events, h.hand, h.sleep, h.wait, h.bwait, fun t => by rw [← h.pc t]; cases t <;> rfl⟩

theorem CoreSt.forget_sameProgram (c : CoreSt) (t : Strm) : c.SameProgram (c.forget t) := by
  have h := CoreSt.setStrm_sameProgram (c := c) (t := t) (StreamSt.closeNums_pc (fun n => n) ((c.frozen.filter (fun e => e.strm == t)).flatMap
    (fun e => e.loads.map (fun l => l.tl) ++ e.stores.map (fun l => l.tl))) (c.strm t))
  exact ⟨h.sregs, h.csrs, h.events, h.hand, h.sleep, h.wait, h.bwait, fun u => by rw [← h.pc u]; cases u <;> rfl⟩

theorem CoreSt.leaveRing_sameProgram (c : CoreSt) (t : Strm) : c.SameProgram (c.leaveRing t) :=
  ⟨rfl, rfl, rfl, rfl, rfl, rfl, rfl, fun u => by cases u <;> rfl⟩
end

theorem look_puts (f : Nat → Word) (l : List Nat) (m : List (Nat × Word)) (n : Nat) :
    look 0 (l.foldl (fun m n => put 0 m n (f n)) m) n = if n ∈ l then f n else look 0 m n := by
  induction l generalizing m with
  | nil => rfl
  | cons x r ih =>
    rw [List.foldl_cons, ih, look_put]
    by_cases hx : n = x <;> simp [hx]

theorem CoreSt.leaveWord_sameProgram (c : CoreSt) : c.SameProgram c.leaveWord := by
  unfold CoreSt.leaveWord
  split <;> exact ⟨rfl, rfl, rfl, rfl, rfl, rfl, rfl, fun t => by cases t <;> rfl⟩

/-- The core with the waits of its C word taken up again when the macro-PC pc of the save area is the one saved there; `same` says that the failing
stream goes on where it was stopped. -/
def HandlerSt.takeUp (h : HandlerSt) (pc : Nat) (same : Bool) (c : CoreSt) : CoreSt :=
  let c := if pc = h.cpc then
    { c with sleep := h.sleep, bwait := h.bwait, wait := h.wait, rwait := (h.ringEnd.map (fun n => (0, .over n))).toList ++ c.rwait } else c
  if h.strm = .C ∧ same then { c with cS := { c.cS with pc := h.cont.getD c.cS.pc } } else c

/-- The core with its failing engine stream sent to where it goes on, with TRAPW4 = mpc. -/
def HandlerSt.sendEngine (h : HandlerSt) (mpc : Nat) (c : CoreSt) : CoreSt :=
  if h.strm = .C then c
  else
    let c := c.setStrm h.strm { c.strm h.strm with pc := if mpc = h.mpc then h.cont.getD mpc else mpc }
    if h.strm = .M ∧ mpc ≠ h.mpc then { c.leaveWord with tiles := mapVals (fun _ t => { t with prog := 0, pend := 0 }) c.tiles } else c

section
variable {h : HandlerSt} {pc mpc : Nat} {c : CoreSt}

/-- A core with the macro-PC of one stream replaced holds the same for a program, but for that macro-PC. -/
theorem CoreSt.setStrm_samePcs {t u : Strm} {m : StreamSt} (hu : u ≠ t) : ((c.setStrm t m).strm u).pc = (c.strm u).pc := by
  rw [CoreSt.strm_setStrm, if_neg hu]

/-- Sending the engine on changes the macro-PC of its stream alone, of what a program sees. -/
theorem HandlerSt.sendEngine_spec : (h.sendEngine mpc c).sregs = c.sregs ∧ (h.sendEngine mpc c).csrs = c.csrs ∧ (h.sendEngine mpc c).events = c.events ∧
    (h.sendEngine mpc c).hand = c.hand ∧ (h.sendEngine mpc c).sleep = c.sleep ∧ (h.sendEngine mpc c).bwait = c.bwait ∧
    (h.sendEngine mpc c).wait = c.wait ∧ (h.sendEngine mpc c).cS.pc = c.cS.pc ∧
    (h.strm ≠ .C → ((h.sendEngine mpc c).strm h.strm).pc = if mpc = h.mpc then h.cont.getD mpc else mpc) := by
  unfold HandlerSt.sendEngine
  by_cases hC : h.strm = .C
  · rw [if_pos hC]
    exact ⟨rfl, rfl, rfl, rfl, rfl, rfl, rfl, rfl, fun hn => absurd hC hn⟩
  rw [if_neg hC]
  generalize hd : c.setStrm h.strm { c.strm h.strm with pc := if mpc = h.mpc then h.cont.getD mpc else mpc } = d
  have hpc : (d.strm h.strm).pc = if mpc = h.mpc then h.cont.getD mpc else mpc := by rw [← hd, CoreSt.strm_setStrm, if_pos rfl]
  have hcpc : (d.strm .C).pc = (c.strm .C).pc := by rw [← hd]; exact CoreSt.setStrm_samePcs (Ne.symm hC)
  have hc : d.sregs = c.sregs ∧ d.csrs = c.csrs ∧ d.events = c.events ∧ d.hand = c.hand ∧ d.sleep = c.sleep ∧ d.bwait = c.bwait ∧ d.wait = c.wait := by
    rw [← hd]; simp
  obtain ⟨hsregs, hcsrs, hevents, hhand, hsleep, hbwait, hwait⟩ := hc
  by_cases hM : h.strm = .M ∧ mpc ≠ h.mpc
  · have k := CoreSt.leaveWord_sameProgram d
    simp only [if_pos hM]
    exact ⟨k.sregs.trans hsregs, k.csrs.trans hcsrs, k.events.trans hevents, k.hand.trans hhand, k.sleep.trans hsleep, k.bwait.trans hbwait,
      k.wait.trans hwait, (k.pc .C).trans hcpc, fun _ => (congrArg StreamSt.pc (by cases h.strm <;> rfl)).trans ((k.pc h.strm).trans hpc)⟩
  · simp only [if_neg hM]
    exact ⟨hsregs, hcsrs, hevents, hhand, hsleep, hbwait, hwait, hcpc, fun _ => hpc⟩

/-- The waits of the C word stand as they did exactly when the macro-PC is the saved one; the registers stay. -/
theorem HandlerSt.takeUp_spec : (h.takeUp pc same c).sregs = c.sregs ∧ (h.takeUp pc same c).csrs = c.csrs ∧ (h.takeUp pc same c).events = c.events ∧
    (h.takeUp pc same c).hand = c.hand ∧ (h.takeUp pc same c).sleep = (if pc = h.cpc then h.sleep else c.sleep) ∧
    (h.takeUp pc same c).bwait = (if pc = h.cpc then h.bwait else c.bwait) ∧ (h.takeUp pc same c).wait = (if pc = h.cpc then h.wait else c.wait) ∧
    (h.takeUp pc same c).cS.pc = if h.strm = .C ∧ same then h.cont.getD c.cS.pc else c.cS.pc := by
  unfold HandlerSt.takeUp
  by_cases hp : pc = h.cpc <;> by_cases hC : h.strm = .C ∧ same = true <;> simp [hp, hC]
end

/-- The core as ERET reads it back, before its queues and waits: registers regs, macro-PC pc. -/
def CoreSt.reload (c : CoreSt) (regs : List (Nat × Word)) (pc : Nat) : CoreSt :=
  { c with sregs := regs, hand := none, mstop := false, sleep := none, bwait := .none, wait := .none, cS := { c.cS with pc := pc, waiting := false } }

@[simp] theorem CoreSt.reload_sregs (c : CoreSt) (regs : List (Nat × Word)) (pc : Nat) : (c.reload regs pc).sregs = regs := rfl

@[simp] theorem CoreSt.reload_csrs (c : CoreSt) (regs : List (Nat × Word)) (pc : Nat) : (c.reload regs pc).csrs = c.csrs := rfl

@[simp] theorem CoreSt.reload_events (c : CoreSt) (regs : List (Nat × Word)) (pc : Nat) : (c.reload regs pc).events = c.events := rfl

/-- s1 to s31 as the bytes of a save area give them (R419). -/
def savedRegs (img : List Byte) : List (Nat × Word) :=
  (List.range' 1 31).foldl (fun m n => put 0 m n (BitVec.ofNat 64 (fieldLE img (8 * n) 8))) []

theorem look_savedRegs (img : List Byte) {r : Reg} (hr : r ≠ 0) : look 0 (savedRegs img) r.toNat = BitVec.ofNat 64 (fieldLE img (8 * r.toNat) 8) := by
  have hmem : r.toNat ∈ List.range' 1 31 := by
    have h0 : r.toNat ≠ 0 := fun h => hr (BitVec.eq_of_toNat_eq h)
    exact List.mem_range'_1.2 ⟨by omega, r.isLt⟩
  rw [savedRegs, look_puts, if_pos hmem]

/-- The core with what the queues of its streams set aside put back: for stream t only when it goes on where it was stopped (`same`). -/
def CoreSt.requeue (c : CoreSt) (t : Strm) (same : Bool) : CoreSt :=
  ((if same then c else c.forget t).thaw (fun _ => true)).leaveRing .C

theorem CoreSt.requeue_sameProgram (c : CoreSt) (t : Strm) (same : Bool) : c.SameProgram (c.requeue t same) := by
  have h : c.SameProgram (if same then c else c.forget t) := by
    cases same
    · exact c.forget_sameProgram t
    · exact .refl c
  exact (h.trans (CoreSt.thaw_sameProgram ..)).trans (CoreSt.leaveRing_sameProgram ..)

theorem CoreSt.csr_congr {c d : CoreSt} (h : d.csrs = c.csrs) (n : Nat) : d.csr n = c.csr n := by unfold CoreSt.csr; rw [h]

theorem CoreSt.event_congr {c d : CoreSt} (h : d.events = c.events) (e : Nat) : d.event e = c.event e := by unfold CoreSt.event; rw [h]

/-- Whether ERET takes the failing stream up where it was stopped: the handler has left its macro-PC, pc or mpc, as it was. -/
def HandlerSt.unmoved (h : HandlerSt) (pc mpc : Nat) : Bool := if h.strm = .C then pc == h.cpc else mpc == h.mpc

/-- ERET reads the core back, puts what its queues set aside into them again, and takes up its waits. -/
theorem State.eret_eq {s : State} {h : HandlerSt} {img : List Byte} {pc mpc : Nat} (himg : img = s.readSegs (s.segsAt s.ctxNo (bits h.save 55 0) 256))
    (hpc : pc = fieldLE img 0 8) (hmpc : mpc = (s.core.csr 0x30C).toNat) :
    s.eret h = s.setCore (h.sendEngine mpc (h.takeUp pc (h.unmoved pc mpc)
      ((s.core.reload (savedRegs img) pc).requeue h.strm (h.unmoved pc mpc)))) := by
  subst himg hmpc hpc
  unfold State.eret
  extract_lets img c regs m c1 mpc same c2 c3 c4 n c5 e c6 c7 c8
  have h3 : c3 = (s.core.reload (savedRegs img) (fieldLE img 0 8)).requeue h.strm same := rfl
  have h5 : c5 = h.takeUp (fieldLE img 0 8) same c3 := rfl
  have h8 : c8 = h.sendEngine mpc c5 := rfl
  have hm : mpc = (s.core.csr 0x30C).toNat := congrArg BitVec.toNat (CoreSt.csr_congr (c := s.core) (d := c1) rfl 0x30C)
  have hs : same = h.unmoved (fieldLE img 0 8) mpc := rfl
  rw [h8, h5, h3, hs, hm]

/-- Settles O18. -/
theorem eretRestores : Obligations.EretRestores := by
  intro s u h img pc hh howes hpost hu hbad hblock himg hpc
  have hexec := (execEret_ready hh howes hpost hu).2 hbad hblock
  refine ⟨u.eret h, hexec, ?_⟩
  have hcore : u.core = s.core.markCore .C s.c.seq := by rw [hu, State.core_setCore]
  have hcsrs : u.core.csrs = s.core.csrs := by rw [hcore]; rfl
  have hevs : u.core.events = s.core.events := by rw [hcore]; rfl
  have hmpc : (s.core.csr 0x30C).toNat = (u.core.csr 0x30C).toNat := by rw [CoreSt.csr_congr hcsrs]
  rw [State.eret_eq himg hpc hmpc, State.core_setCore]
  generalize (s.core.csr 0x30C).toNat = mpc at *
  have k := (u.core.reload (savedRegs img) pc).requeue_sameProgram h.strm (h.unmoved pc mpc)
  generalize (u.core.reload (savedRegs img) pc).requeue h.strm (h.unmoved pc mpc) = d at k
  obtain ⟨hsregs, hcs, hevents, hhand, hsleep, hbwait, hwait, hpcC⟩ := HandlerSt.takeUp_spec (h := h) (pc := pc) (same := h.unmoved pc mpc) (c := d)
  obtain ⟨hsregs', hcs', hevents', hhand', hsleep', hbwait', hwait', hpcC', hpcE⟩ :=
    HandlerSt.sendEngine_spec (h := h) (mpc := mpc) (c := h.takeUp pc (h.unmoved pc mpc) d)
  have hn : h.unmoved pc mpc = true → h.strm = .C → pc = h.cpc := fun hs hC => by simpa [HandlerSt.unmoved, hC] using hs
  have hdpc : d.cS.pc = pc := k.pc .C
  refine ⟨?hand, ?mem, fun hor => ?pcC, fun hC hp => ?pcCont, fun r hr => ?regs, fun n => ?csr, fun e => ?event, fun hp => ?waits, fun hp => ?noWaits,
    fun hC hp => ?moved, fun hC hp => ?same⟩
  case hand => rw [hhand', hhand, k.hand]; rfl
  case mem => rw [hu]; rfl
  case pcC => rw [hpcC', hpcC, if_neg (fun hs => hor.elim (absurd hs.1) (absurd (hn hs.2 hs.1))), hdpc]
  case pcCont =>
    have hs : h.unmoved pc mpc = true := by simp [HandlerSt.unmoved, hC, hp]
    rw [hpcC', hpcC, if_pos ⟨hC, hs⟩, hdpc]
  case regs =>
    have hregs := hsregs'.trans (hsregs.trans k.sregs)
    rw [CoreSt.sreg, if_neg hr, hregs, CoreSt.reload_sregs]
    exact look_savedRegs img hr
  case csr => exact CoreSt.csr_congr (hcs'.trans (hcs.trans (k.csrs.trans ((CoreSt.reload_csrs ..).trans hcsrs)))) n
  case event => exact CoreSt.event_congr (hevents'.trans (hevents.trans (k.events.trans ((CoreSt.reload_events ..).trans hevs)))) e
  case waits => rw [hsleep', hsleep, hbwait', hbwait, hwait', hwait, if_pos hp, if_pos hp, if_pos hp]; exact ⟨rfl, rfl, rfl⟩
  case noWaits =>
    rw [hsleep', hsleep, hbwait', hbwait, hwait', hwait, if_neg hp, if_neg hp, if_neg hp, k.sleep, k.bwait, k.wait]; exact ⟨rfl, rfl, rfl⟩
  case moved => rw [hpcE hC, if_neg hp]
  case same => rw [hpcE hC, if_pos hp, hp]

end Sys2Proof.Machine

/-! ## Rings, tasks, tiles, copies and SCRUB (O24, O25) -/

namespace Sys2Proof.Machine

open Claims

/-! ### Rings in memory (R310 to R318) -/

theorem State.touch_queues (s : State) (x : Nat) (ds : List Nat) : (s.touch x ds).queues = s.queues := by unfold State.touch; split <;> rfl

theorem State.touch_tasks (s : State) (x : Nat) (ds : List Nat) : (s.touch x ds).tasks = s.tasks := by unfold State.touch; split <;> rfl

theorem State.touch_queueOf (s : State) (x : Nat) (ds : List Nat) (q : Nat) : (s.touch x ds).queueOf q = s.queueOf q := by
  unfold State.queueOf; rw [State.touch_queues]

theorem State.queueOf_congr {s t : State} (h : t.queues = s.queues) (q : Nat) : t.queueOf q = s.queueOf q := by unfold State.queueOf; rw [h]

/-- A C stream that waits stands where it stood. -/
theorem State.park_c (s : State) : (s.park .C).c.waiting = true ∧ (s.park .C).c.pc = s.c.pc := by
  rw [State.park_eq, State.c, State.core_setCore]; exact ⟨rfl, rfl⟩

theorem State.park_queues (s : State) (t : Strm) : (s.park t).queues = s.queues := by rw [State.park_eq]; rfl

theorem mem_joinWait (l : List Nat) (k : Nat) : k ∈ joinWait l k := by
  unfold joinWait
  split
  next h => simpa using h
  next => exact List.mem_append_right l (List.mem_singleton.mpr rfl)

section
variable {s u : State} {d a b : Reg} {nw : Bool} {q : Nat}

theorem execRclaim_issued {k : Queue} (hd : ready s d) (ha : ready s a) (hs : s.c.stReady = true) (hq : s.ringQueue (s.core.sreg a) false 1 = .ok q)
    (hk : k = s.queueOf q) : execRclaim d a nw s = retired ((s.touchQueue q).setC (s.c.pushStore 0 4 1
      [⟨.phys k.tagp (s.qSegs k k.tagp 1), .qclaim q nw d.toNat false, none, 0⟩])) := by
  subst hk
  simp only [execRclaim, State.rd_ready ha, show s.core.busy d = false from hd, hs, hq, Bool.not_false, await_true, res_ok_bind, finish_ok, retired]

/-- RPUBL or RRELS of a ticket that its slot holds and that no store of the stream names yet. -/
theorem ringHeld_issued {rel : Bool} {k : Queue} {j tag : Nat} (hd : ready s d) (ha : ready s a) (hs : s.c.stReady = true)
    (hq : s.ringQueue (s.core.sreg a) true 1 = .ok q) (hk : k = s.queueOf q) (htag : tag = k.tagp + j % 2 ^ k.logn)
    (hj : s.heldBy k (s.core.sreg d).toNat rel = some j) (hno : s.c.hasRing q j rel = false) :
    ringHeld d a rel s = retired ((s.touchQueue q).setC (s.c.pushStore 0 4 1 [⟨.phys tag (s.qSegs k tag 1), .qtag q j rel, none, 0⟩])) := by
  subst hk htag
  simp only [ringHeld, State.rd_ready ha, State.rd_ready hd, hs, hq, await_true, res_ok_bind, hj, Option.filter_some, hno, Bool.not_false, if_true,
    finish_ok, retired]

/-- A ring word that waits has its place among those that wait at the queue. -/
theorem State.parkAt_take (s : State) (q : Nat) : s.cur ∈ ((s.parkAt q false).queueOf q).waitT ∧ (s.parkAt q false).c.waiting = true ∧
    (s.parkAt q false).c.pc = s.c.pc := by
  unfold State.parkAt
  obtain ⟨hw, hpc⟩ := State.park_c ((s.setQueueOf q { s.queueOf q with waitT := joinWait (s.queueOf q).waitT s.cur }).touchQueue q)
  refine ⟨?_, hw, hpc.trans ?_⟩
  · rw [State.queueOf_congr (State.park_queues ..), State.touchQueue, State.touch_queueOf]
    simp only [Bool.false_eq_true, if_false, State.queueOf_setQueueOf, if_true]
    exact mem_joinWait ..
  · rw [State.touchQueue, State.touch_c]; rfl

/-- RTAKE of a queue that its VOID slots have been skipped of, in state u. -/
theorem ringTake_skipped {h : Queue} {l : List Nat} (hd : ready s d) (ha : ready s a) (hl : s.c.ldReady = true) (hdone : s.c.loadsDone s.c.seq = true)
    (hq : s.ringQueue (s.core.sreg a) true 1 = .ok q) (hu : u = State.qSkipVoid q (2 ^ (s.queueOf q).logn) s) (hh : h = u.queueOf q)
    (hwl : l = h.waitT.filter (fun c => c != u.cur)) : ringTake d a nw s =
      if h.st ≠ .active ∧ h.st ≠ .draining then finish false (stop 0x090) u
      else if ¬u.qReady h then (if nw then finish false (((u.setQueueOf q { h with waitT := l }).touchQueue q).wr d 0) u else .next (u.parkAt q false))
      else if ¬u.myTurn h.waitT then .next (u.parkAt q false)
      else match u.decision 2 q .C 0 0 with
        | .error .wait => .next (u.parkAt q false)
        | .error e => finish false (.error e) s
        | .ok t => finish false (
          let t := t.setQueueOf q { h with h := (h.h + 1) % 2 ^ 32, takes := (h.h, t.taskNo) :: h.takes, waitT := l }
          ((t.touchQueue q).setC t.c.acquire).wr d (BitVec.ofNat 64 (h.slotPtr h.h))) t := by
  subst hwl hh hu
  simp only [ringTake, State.rd_ready ha, show s.core.busy d = false from hd, hl, hdone, Bool.and_self, hq, Bool.not_false, await_true, res_ok_bind] <;> rfl

/-- An RTAKE that is served gives the head slot's pointer and takes the head ticket. -/
theorem ringTake_takes {v : State} {h : Queue} {l : List Nat} (hd : ready v d) :
    ∃ t, finish false (
        let t := v.setQueueOf q { h with h := (h.h + 1) % 2 ^ 32, takes := (h.h, v.taskNo) :: h.takes, waitT := l }
        ((t.touchQueue q).setC t.c.acquire).wr d (BitVec.ofNat 64 (h.slotPtr h.h))) v = retired t ∧
      (d ≠ 0 → t.core.sreg d = BitVec.ofNat 64 (h.slotPtr h.h)) ∧ t.mem = v.mem ∧
      t.queueOf q = { h with h := (h.h + 1) % 2 ^ 32, takes := (h.h, v.taskNo) :: h.takes, waitT := l } := by
  generalize hk : ({ h with h := (h.h + 1) % 2 ^ 32, takes := (h.h, v.taskNo) :: h.takes, waitT := l } : Queue) = k
  have hb : (((v.setQueueOf q k).touchQueue q).setC (v.setQueueOf q k).c.acquire).core.busy d = false := by
    have hc : ((v.setQueueOf q k).touchQueue q).c = (v.setQueueOf q k).c := State.touch_c ..
    rw [← hc, busy_acquire, State.touchQueue, State.touch_core]
    exact hd
  refine ⟨_, by rw [State.wr_ready _ hb]; rfl, fun h0 => ?_, ?_, ?_⟩
  · rw [State.core_setCore, CoreSt.sreg_setSreg, if_pos rfl]; exact if_neg h0
  · exact (State.touch_sameTables ..).mem
  · exact (State.touch_queueOf ..).trans (by rw [State.queueOf_setQueueOf, if_pos rfl])
end

theorem ringWords_holds : Claims.ringWords := by
  rintro s d a nw q k hd ha rfl
  refine ⟨fun hs hq => execRclaim_issued hd ha hs hq rfl, fun u h l hover hl hdone hq hu hh hwl => ?take,
    fun j tag hs hq htag => ⟨fun hj hno => ?publ, fun hj hno => ?rels⟩⟩
  case publ => exact ringHeld_issued hd ha hs hq rfl htag hj hno
  case rels => exact ringHeld_issued hd ha hs hq rfl htag hj hno
  case take =>
    have hexec (nw : Bool) : exec (.rtake d a nw) s = ringTake d a nw s := by rw [exec_rtake, execRtake, ringEnded, hover]
    refine ⟨fun hn hn' => ?disabled, fun hst => ⟨fun v hr ht hv hvd => ?takes, fun hr hud => ?empty, fun hor => ?waits⟩⟩
    case disabled =>
      rw [hexec, ringTake_skipped hd ha hl hdone hq hu hh hwl, if_pos ⟨hn, hn'⟩]
      rfl
    all_goals
      have hgo : ¬(h.st ≠ .active ∧ h.st ≠ .draining) := fun hn => hst.elim hn.1 hn.2
      rw [hexec, ringTake_skipped hd ha hl hdone hq hu hh hwl, if_neg hgo]
    case takes =>
      have hr' : ¬¬u.qReady h = true := not_not_intro hr
      have ht' : ¬¬u.myTurn h.waitT = true := not_not_intro ht
      rw [if_neg hr', if_neg ht', hv]
      exact ringTake_takes hvd
    case empty =>
      have hr' : ¬u.qReady h = true := by simp [hr]
      rw [if_pos hr', if_pos rfl, State.wr_ready _ (by rw [State.touchQueue, State.touch_core]; exact hud)]
      rfl
    case waits =>
      have hpark := u.parkAt_take q
      rcases hor with ⟨hr, rfl⟩ | ⟨hr, ht⟩
      · exact ⟨_, by rw [if_pos (by simp [hr]), if_neg Bool.false_ne_true], hpark⟩
      · exact ⟨_, by rw [if_neg (not_not_intro hr), if_pos (by simp [ht])], hpark⟩

theorem queueWaitsEnd_holds : Claims.queueWaitsEnd := by
  intro s d a b nw i code hi hover
  rcases List.mem_cons.1 hi with rfl | hi
  · rw [exec_rtake, execRtake, ringEnded, hover]
    rfl
  · rw [List.mem_singleton.1 hi, exec_spawn, execSpawn, ringEnded, hover]
    rfl

/-! ### SPAWN, JDEC, TEXIT and BKSEL (R102, R116 to R119) -/

/-- t holds the queues and the dependency table of s. -/
structure State.SameObjects (s t : State) : Prop where
  queues : t.queues = s.queues
  tasks : t.tasks = s.tasks

theorem State.SameObjects.trans {s t u : State} (h : s.SameObjects t) (k : t.SameObjects u) : s.SameObjects u :=
  ⟨k.queues.trans h.queues, k.tasks.trans h.tasks⟩

theorem State.forEach_sameObjects {α : Type} (l : List α) (f : α → State → State) (s : State) (h : ∀ (a : α) (s : State), s.SameObjects (f a s)) :
    s.SameObjects (s.forEach l f) :=
  State.forEach_inv (P := fun t => s.SameObjects t) ⟨rfl, rfl⟩ fun a _ t ht => ht.trans (h a t)

theorem State.sendWakes_sameObjects (s : State) (ws : List WaitEnt) : s.SameObjects (s.sendWakes ws) := by
  have hwake (f : State → WaitEnt → Word) (l : List WaitEnt) (t : State) : t.SameObjects (t.forEach l (fun w u => u.wake w.core (f u w))) :=
    State.forEach_sameObjects _ _ _ fun _ _ => ⟨rfl, rfl⟩
  unfold State.sendWakes
  dsimp only
  split
  · exact hwake ..
  · have hsend := State.forEach_sameObjects (ws.filter (fun w => s.logOn w.ctx))
      (fun w u => u.setCoreOf w.core { u.coreOf w.core with wait := .sending (BitVec.ofNat 64 (u.readN w.pa 8)) })
      (s.forEach (ws.filter (fun w => !s.logOn w.ctx)) (fun w u => u.wake w.core (BitVec.ofNat 64 (u.readN w.pa 8)))) fun _ _ => ⟨rfl, rfl⟩
    exact (hwake ..).trans ⟨hsend.queues, hsend.tasks⟩

/-- Polls that a write ends are no matter of the queues. -/
theorem State.evalWaits_sameObjects (s : State) (g : List Seg) : s.SameObjects (s.evalWaits g) := by
  unfold State.evalWaits
  refine State.forEach_sameObjects _ _ _ fun d t => ?_
  dsimp only
  split
  · exact ⟨rfl, rfl⟩
  · have h := State.sendWakes_sameObjects
    exact ⟨(h ..).queues, (h ..).tasks⟩

theorem State.sysAct_sameObjects (s : State) (x : Nat) (r : List Seg × SysOut) (bs : List Byte) : s.SameObjects (s.sysAct x r bs) := by
  unfold State.sysAct
  split
  · have h := State.evalWaits_sameObjects { s with mem := storeAround s.mem s.imageSegs r.1 bs } r.1
    exact ⟨(State.touch_queues ..).trans h.queues, (State.touch_tasks ..).trans h.tasks⟩
  · exact ⟨rfl, rfl⟩
  · exact ⟨rfl, rfl⟩

theorem State.sysAct_mem_done (s : State) (x : Nat) (g : List Seg) (bs : List Byte) :
    (s.sysAct x (g, .done) bs).mem = storeAround s.mem s.imageSegs g bs :=
  (State.touch_sameTables ..).mem.trans (s.perform_mem g bs)

theorem State.qPublish_tasks (s : State) (q j : Nat) (void : Bool) : (s.qPublish q j void).tasks = s.tasks := (State.sysAct_sameObjects ..).tasks

theorem State.qPublish_t (s : State) (q j : Nat) (void : Bool) : ((s.qPublish q j void).queueOf q).t = (s.queueOf q).t := by
  unfold State.qPublish
  rw [State.queueOf_setQueueOf, if_pos rfl]

theorem mem_setKey {α : Type} {m : List (Nat × α)} {k : Nat} {v : α} {e : Nat × α} (h : e ∈ setKey m k v) : e = (k, v) ∨ e ∈ m := by
  induction m with
  | nil => exact .inl (List.mem_singleton.1 h)
  | cons x r ih =>
    obtain ⟨n, w⟩ := x
    unfold setKey at h
    split_ifs at h <;> grind

theorem notMem_of_freeFrom {used : List Nat} {i j : Nat} : ∀ {n : Nat}, freeFrom used i n = some j → j ∉ used := by
  intro n
  induction n generalizing i with
  | zero => intro h; cases h
  | succ n ih =>
    intro h
    unfold freeFrom at h
    split at h
    · exact ih h
    next hc =>
      cases h
      simpa using hc

/-- The entry a SPAWN takes stands for no task yet. -/
theorem State.notMem_of_freeEntry {s : State} {i : Nat} {t : Task} (h : s.freeEntry = some i) : (i, t) ∉ s.tasks := by
  unfold State.freeEntry at h
  simp only [Option.ite_none_left_eq_some] at h
  have hno := notMem_of_freeFrom h.2
  intro hm
  exact hno (List.mem_eraseDups.2 (List.mem_append_left _ (List.mem_map.2 ⟨_, hm, rfl⟩)))

end Sys2Proof.Machine

namespace Sys2Proof.Machine

open Claims

theorem State.touch_logOn (s : State) (x : Nat) (ds : List Nat) (y : Nat) : (s.touch x ds).logOn y = s.logOn y := by
  simp only [State.logOn, Ctx.csr, (s.touch_sameTables x ds).csrs y]

theorem State.touch_myTurn (s : State) (x : Nat) (ds l : List Nat) : (s.touch x ds).myTurn l = s.myTurn l := by
  unfold State.myTurn State.turnOf
  simp only [touch_ctxNo, State.touch_cur, Ctx.csr, (s.touch_sameTables x ds).csrs]

/-- A state whose decision log is off decides at once. -/
theorem State.decision_off {s : State} (h : s.logOn s.ctxNo = false) (kind loc : Nat) (t : Strm) (elem num : Nat) :
    s.decision kind loc t elem num = .ok s := by
  have hm : bits ((s.ctxOf s.ctxNo).csr 0x3F3).toNat 1 0 = 0 := by simpa [State.logOn] using h
  simp only [State.decision, hm]

/-- Raising rebuild runs leaves an entry that stands for none. -/
theorem State.find_raiseRebuilds {s : State} {i x : Nat} {t : Task} (h : find? s.tasks i = some t)
    (hi : ∀ e ∈ s.tasks, e.1 = i → e.2.st ≠ .rebuild) : find? (s.raiseRebuilds x).tasks i = some t := by
  unfold State.raiseRebuilds
  refine State.forEach_inv (P := fun u => find? u.tasks i = some t) h fun e he u hu => ?_
  obtain ⟨hmem, hst⟩ := List.mem_filter.1 he
  have hne : i ≠ e.1 := fun heq => hi e hmem heq.symm (by simpa using (Bool.and_eq_true_iff.1 hst).2)
  dsimp only
  split
  · split <;> simpa [State.setTask, State.setRpool, hne] using hu
  · exact hu

/-- A task that waits for nothing any more is READY. -/
theorem State.find_makeReady {s : State} {i : Nat} {t : Task} (h : find? s.tasks i = some t) (hst : t.st = .waiting) (ht : t.taken = false)
    (hi : ∀ e ∈ s.tasks, e.1 = i → e.2.st ≠ .rebuild) : ∃ m, find? (s.makeReady i).tasks i = some m ∧ m.st = .ready ∧ m.lid = t.lid := by
  have hno : ¬t.st = .rebuild := by rw [hst]; exact fun h => by cases h
  simp only [State.makeReady, h, if_neg hno]
  rw [if_neg (by exact fun hk => Bool.false_ne_true (ht.symm.trans hk))]
  refine ⟨{ t with st := .ready, die := s.placeDie t.ctx t.lid t.tiles, level := max t.level t.prio },
    State.find_raiseRebuilds (by rw [State.setTask, find?_setKey, if_pos rfl]) fun e he hei => ?_, rfl, rfl⟩
  rcases mem_setKey he with rfl | he
  · exact fun hk => by cases hk
  · exact hi e he hei

section
variable {s w v p n o : State} {d a b : Reg} {q i : Nat} {k : Queue} {r : List Byte}

/-- A SPAWN that is served: the record goes into the claimed slot, and a task for it into entry i of the dependency table. -/
theorem spawnWord_served {x : State} (hd : ready s d) (ha : ready s a) (hb : ready s b) (hdone : s.c.storesDone s.c.seq = true)
    (hr : s.readC (s.core.sreg a).toNat 64 64 0x050 = .ok r) (hq : s.ringQueue (s.core.sreg b) false 0 = .ok q) (hk : k = s.queueOf q)
    (hok : s.recordOk r = true) (hi : s.freeEntry = some i) (hfull : k.full = false) (hturn : s.myTurn k.waitC = true) (hlog : s.logOn s.ctxNo = false)
    (hw : w = ((s.touchC (s.core.sreg a).toNat 64).touchQueue q).setQueueOf q
      { k with t := (k.t + 1) % 2 ^ 32, waitC := k.waitC.filter (fun c => c != s.cur) })
    (hp : p = (w.sysWrite k.ctx (k.slotPtr k.t) w.runLid r).1.qPublish q k.t false)
    (hn : n = p.newTask i (taskOfRecord p.ctxNo r (.queue q k.t false)))
    (hx : x = if fieldLE r 4 4 = 0 then (n.makeReady i).checkHeads n.ctxNo else n) (hxd : ready x d) :
    spawnWord d a b s = wrote x d (BitVec.ofNat 64 (x.handleOf i x.ctxNo)) := by
  subst hk
  generalize hu : (s.touchC (s.core.sreg a).toNat 64).touchQueue q = u at hw
  have hqu : u.queueOf q = s.queueOf q := by rw [← hu, State.touchQueue, State.touch_queueOf, State.touchC, State.touch_queueOf]
  have hcur : u.cur = s.cur := by rw [← hu, State.touchQueue, State.touch_cur, State.touchC, State.touch_cur]
  have hturn' : u.myTurn (s.queueOf q).waitC = true := by
    rw [← hu, State.touchQueue, State.touch_myTurn, State.touchC, State.touch_myTurn, hturn]
  have hlog' : u.logOn u.ctxNo = false := by
    rw [← hu, State.touchQueue, touch_ctxNo, State.touch_logOn, State.touchC, touch_ctxNo, State.touch_logOn, hlog]
  have hgo : ¬((s.queueOf q).full = true ∨ ¬u.myTurn (s.queueOf q).waitC = true) := by simp [hfull, hturn']
  simp only [spawnWord, State.rd_ready ha, State.rd_ready hb, show s.core.busy d = false from hd, Bool.not_false, hdone, await_true, hr, hq, hok,
    need_true, hi, res_ok_bind, hu, hqu, if_neg hgo, State.decision_off hlog', hcur]
  rw [← hw, ← hp, ← hn, ← hx, State.wr_ready _ hxd]
  rfl

/-- The task that a served SPAWN has put into its entry, and the ticket it has claimed. -/
theorem spawned (hi : s.freeEntry = some i) (hws : w.tasks = s.tasks) (hwm : s.SameTables w) (hwq : (w.queueOf q).t = (k.t + 1) % 2 ^ 32)
    (hv : v = (w.sysWrite k.ctx (k.slotPtr k.t) w.runLid r).1) (hp : p = v.qPublish q k.t false)
    (hn : n = p.newTask i (taskOfRecord p.ctxNo r (.queue q k.t false))) :
    (∀ g, w.sysPlan k.ctx (k.slotPtr k.t) r.length w.runLid = (g, .done) → v.mem = storeAround s.mem s.imageSegs g r) ∧
    find? n.tasks i = some (taskOfRecord p.ctxNo r (.queue q k.t false)) ∧ (n.queueOf q).t = (k.t + 1) % 2 ^ 32 ∧
    (∃ m, find? (n.makeReady i).tasks i = some m ∧ m.st = .ready ∧ m.lid = fieldLE r 8 8) := by
  have htask : find? n.tasks i = some (taskOfRecord p.ctxNo r (.queue q k.t false)) := by rw [hn, State.newTask]; simp
  have hvw : w.SameObjects v := by rw [hv]; exact State.sysAct_sameObjects ..
  refine ⟨fun g hg => ?_, htask, ?_, ?_⟩
  · rw [hv, State.sysWrite, hg, State.sysAct_mem_done, hwm.mem, State.imageSegs, State.imageSegs, hwm.kernels]
  · rw [hn, State.newTask]
    exact (hp ▸ State.qPublish_t ..).trans ((congrArg Queue.t (State.queueOf_congr hvw.queues q)).trans hwq)
  · refine State.find_makeReady htask rfl rfl fun e he hei => ?_
    have hntasks : n.tasks = setKey s.tasks i (taskOfRecord p.ctxNo r (.queue q k.t false)) := by
      rw [hn, State.newTask, hp, State.qPublish_tasks, hvw.tasks, hws]
    rcases mem_setKey (hntasks ▸ he) with rfl | he
    · exact fun hk => by cases hk
    · exact absurd (show (i, e.2) ∈ s.tasks from hei ▸ he) (State.notMem_of_freeEntry hi)
end

theorem execJdec_done {s u : State} {a : Reg} {j : Nat} {o : Bool} (ha : ready s a) (hr : s.released 3 = true)
    (hj : s.taskOf s.ctxNo (s.core.sreg a).toNat = some j) (hdec : s.decJoin j = (.ok o, u)) :
    execJdec a s = retired (if o then (u.makeReady j).checkHeads u.ctxNo else u) := by
  simp only [execJdec, State.rd_ready ha, hr, await_true, res_ok_bind, hj, hdec]
  cases o <;> rfl

/-- Ending the waits of a task's group barriers changes waits of cores alone. -/
theorem State.endGroupWaits_leaves (s : State) (i : Nat) (t : Task) : (s.endGroupWaits i t).core.ended = s.core.ended ∧
    (s.endGroupWaits i t).mem = s.mem ∧ (s.endGroupWaits i t).tasks = s.tasks := by
  unfold State.endGroupWaits
  split
  · exact ⟨rfl, rfl, rfl⟩
  · suffices h : ∀ u : State, u = State.forEach _ _ s → u.cur = s.cur ∧ u.core.ended = s.core.ended ∧ u.mem = s.mem ∧ u.tasks = s.tasks from (h _ rfl).2
    rintro u rfl
    refine State.forEach_inv (P := fun u => u.cur = s.cur ∧ u.core.ended = s.core.ended ∧ u.mem = s.mem ∧ u.tasks = s.tasks) ⟨rfl, rfl, rfl, rfl⟩
      fun k _ u hu => ⟨hu.1, ?_, hu.2.2⟩
    rw [State.core, State.coreOf_setCoreOf]
    split
    next hk => exact (congrArg (fun n => (u.coreOf n).ended) hk.symm).trans hu.2.1
    next => exact hu.2.1

/-- The state in which the current core has ended and its C stream waits for nothing. -/
def State.ended (s : State) : State :=
  (s.setCore { s.core with ended := true }).setC { (s.setCore { s.core with ended := true }).c with waiting := false }

theorem State.ended_core (s : State) : s.ended.core.ended = true ∧ s.ended.core.task = s.core.task := by
  rw [State.ended, State.setC, State.setSm, State.core_setCore, State.core_setCore]
  exact ⟨rfl, rfl⟩

/-- TEXIT of a core whose work is done: its member of the task has ended. -/
theorem execTexit_ends {s : State} {ab : Bool} {j : Nat} {t t' : Task} (hidle : ∀ x ∈ [Strm.L, .V, .M, .S], (s.sm x).run = false)
    (hdr : s.core.drained = true) (hlink : s.core.linkCause = none) (ht : taskHere s j t)
    (ht' : t' = { t with ended := t.ended ++ [s.cur], aband := t.aband || ab }) :
    ∃ u, execTexit ab s = .next u ∧ u.core.ended = true ∧ u.mem = s.mem ∧
      find? u.tasks j = some { t' with group := t'.group.map (fun g => { g with bars := mapVals (fun _ b => b.close t'.live 2) g.bars }) } := by
  have hrun : [Strm.L, .V, .M, .S].any (fun t => (s.sm t).run) = false := List.any_eq_false.2 fun x hx => by simp [hidle x hx]
  obtain ⟨htask, hfind⟩ := ht
  obtain ⟨hended, htask'⟩ := s.ended_core
  have hhere : s.ended.core.task.bind (fun i => (find? s.ended.tasks i).map (fun t => (i, t))) = some (j, t) := by
    rw [htask', htask]
    exact congrArg (Option.map (fun t => (j, t))) hfind
  have hgo : ¬([Strm.L, .V, .M, .S].any (fun t => (s.sm t).run) = true ∨ ¬s.core.drained = true) := by rw [hrun, hdr]; simp
  have hexec : execTexit ab s = .next (s.ended.setClosed j t') := by
    rw [execTexit, if_neg hgo, hlink]
    show Host.Outcome.next (match s.ended.core.task.bind (fun i => (find? s.ended.tasks i).map (fun t => (i, t))) with
        | some (i, t) => s.ended.setClosed i { t with ended := t.ended ++ [s.ended.cur], aband := t.aband || ab }
        | none => s.ended) = _
    rw [hhere, ht']
    rfl
  obtain ⟨hleft, hmem, htasks⟩ := State.endGroupWaits_leaves (s.ended.setTask j
    { t' with group := t'.group.map (fun g => { g with bars := mapVals (fun _ b => b.close t'.live 2) g.bars }) }) j
    { t' with group := t'.group.map (fun g => { g with bars := mapVals (fun _ b => b.close t'.live 2) g.bars }) }
  refine ⟨_, hexec, hleft.trans hended, hmem, ?_⟩
  rw [State.setClosed, htasks, State.setTask, find?_setKey, if_pos rfl]

/-- What BKSEL writes: register d and CSR 0x014. -/
theorem State.bucketed_leaves (s : State) (ta cnt : Nat) (d : Reg) (v w : Word) : (s.bucketed ta cnt d v w).core.sreg d = (if d = 0 then 0 else v) ∧
    (s.bucketed ta cnt d v w).core.csr 0x014 = w ∧ (s.bucketed ta cnt d v w).mem = s.mem := by
  refine ⟨?_, ?_, (State.touch_sameTables ..).mem⟩
  · rw [State.bucketed, State.core_setCore, CoreSt.sreg_setSreg, if_pos rfl]; rfl
  · rw [State.bucketed, State.core_setCore, CoreSt.csr_congr (c := (s.touchC ta (8 + 8 * cnt)).core.setCsr 0x014 w)]
    · simp [CoreSt.csr, CoreSt.setCsr]
    · unfold CoreSt.setSreg; split <;> rfl

theorem taskAndTableWords_holds : Claims.taskAndTableWords := by
  intro s d a b q i im ab r k hd ha hb
  refine ⟨fun w v p n o hover hdone hr hq hk hok hi hfull hturn hlog hw hv hp hn ho => ?spawn, fun j u hr hj => ⟨fun hdec => ?ready, fun hdec => ?waits⟩,
    fun j t t' hidle hdr hlink ht ht' => execTexit_ends hidle hdr hlink ht ht', fun ta h bs cnt l hta hh hcnt h1 h64 h0 hbs hl hrise => ?bksel⟩
  case ready => exact execJdec_done ha hr hj hdec
  case waits => exact execJdec_done ha hr hj hdec
  case spawn =>
    have hexec : exec (.spawn d a b) s = spawnWord d a b s := by rw [exec_spawn, execSpawn, ringEnded, hover]
    have hserved {x : State} (hx : x = if fieldLE r 4 4 = 0 then o else n) (hxd : ready x d) :=
      spawnWord_served hd ha hb hdone hr hq hk hok hi hfull hturn hlog hw (hv ▸ hp) hn (ho ▸ hx) hxd
    have hwq : (w.queueOf q).t = (k.t + 1) % 2 ^ 32 := by rw [hw, State.queueOf_setQueueOf, if_pos rfl]
    have hwm : s.SameTables w := by
      have htouched : s.SameTables ((s.touchC (s.core.sreg a).toNat 64).touchQueue q) :=
        (State.touch_sameTables ..).trans (State.touch_sameTables ..)
      exact hw ▸ ⟨htouched.mem, htouched.poison, htouched.dies, htouched.kernels, htouched.csrs, htouched.sync⟩
    have hwt : w.tasks = s.tasks := by rw [hw]; exact (State.touch_tasks ..).trans (State.touch_tasks ..)
    exact ⟨fun hne hnd => hexec.trans (hserved (if_neg hne).symm hnd), fun heq hod => hexec.trans (hserved (if_pos heq).symm hod),
      spawned hi hwt hwm hwq hv hp hn⟩
  case bksel =>
    subst hl
    obtain ⟨hfound, hnone⟩ := execBksel_table hd ha hta hh hcnt h1 h64 h0 hbs hrise
    refine ⟨fun e he hin => ⟨_, by rw [exec_bksel, hfound e he, State.target_inCode hin]; rfl, ?_⟩, fun he => ⟨_, hnone he, ?_⟩⟩
    · obtain ⟨hsreg, hcsr, hmem⟩ := s.bucketed_leaves ta cnt d (BitVec.ofNat 64 e.1) (BitVec.ofNat 64 e.1 - s.core.sreg a)
      exact ⟨fun hne => hsreg.trans (if_neg hne), hcsr, hmem⟩
    · obtain ⟨hsreg, hcsr, hmem⟩ := s.bucketed_leaves ta cnt d 0 0
      exact ⟨hsreg.trans (ite_self _), hcsr, hmem⟩

/-- Settles O24. -/
theorem ringAndTaskWords : Obligations.RingAndTaskWords := ⟨ringWords_holds, queueWaitsEnd_holds, taskAndTableWords_holds⟩

end Sys2Proof.Machine

namespace Sys2Proof.Machine

open Claims

/-! ### Tile words (R385 to R389) -/

section
variable {s : State} {d a b : Reg} {h p n v sel : Nat} {t : TPool}

/-- TLOOK of a pointer outside a rebuild run. -/
theorem execTlook_home (hd : ready s d) (ha : s.tileOf a = .ok (h, p, n, t)) (hb : s.verOperand b 2 = .ok (v, sel)) (hsel : sel = 1 ∨ sel = 2)
    (hr : s.runLid = none) : execTlook d a b s = wrote s d (if (t.slot n).state v = none ∨ (t.slot n).state v = some .retired then 0
        else BitVec.ofNat 64 (4 * 2 ^ 60 + if sel = 1 then (t.frameAddr n v (((t.ver n v).map (fun e => e.frame)).getD .home)).1
          else (t.frameAddr n v (((t.ver n v).map (fun e => e.frame)).getD .home)).2)) := by
  rcases hsel with rfl | rfl <;>
  · simp only [execTlook, ha, hb, show s.core.busy d = false from hd, hr, Bool.not_false, await_true, res_ok_bind, Option.filter_none, State.wr_ready _ hd]
    rfl

/-- TLOOK of a pointer to the copy of its rebuild run. -/
theorem execTlook_runCopy {lid k : Nat} {u : State} {e : Ver} (hd : ready s d) (ha : s.tileOf a = .ok (h, p, n, t)) (hb : s.verOperand b 2 = .ok (v, sel))
    (hsel : sel = 1 ∨ sel = 2) (hr : s.runLid = some lid) (hv : t.ver n v = some e) (hown : e.priv.any (fun r => r.1 == lid) = true)
    (hk : s.privateCopy p n v lid = .ok (k, u)) (hu : ready u d) :
    execTlook d a b s = wrote u d (if (t.slot n).state v = none ∨ (t.slot n).state v = some .retired then 0
        else BitVec.ofNat 64 (4 * 2 ^ 60 + if sel = 1 then (t.frameAddr n v (.shadow k)).1 else (t.frameAddr n v (.shadow k)).2)) := by
  rcases hsel with rfl | rfl <;>
  · simp only [execTlook, ha, hb, show s.core.busy d = false from hd, hr, hv, hown, hk, Bool.not_false, await_true, res_ok_bind, Option.filter_some,
      Option.map_some, Option.getD_some, Bool.true_or, if_true, Except.map, State.wr_ready _ hu]
    rfl

end

theorem tileWords_holds : Claims.tileWords := by
  intro s d a b h p n v sel t hd ha
  refine ⟨?look, ?alloc, ?seals, ?retire, ?repl, ?replicated, ?state, ?next⟩
  case look =>
    rintro f k u e rfl hb hsel
    refine ⟨fun hr hv => ?_, fun hr hv => ?_, fun lid hr hv hown hk hu => execTlook_runCopy hd ha hb hsel hr hv hown hk hu⟩
    · rw [exec_tlook, execTlook_home hd ha hb hsel hr, hv]; rfl
    · rw [exec_tlook, execTlook_home hd ha hb hsel hr, hv]; rfl
  case alloc =>
    intro u hr hu
    simp only [exec_talloc, execTalloc, ha, show s.core.busy d = false from hd, hr, hu, Bool.not_false, await_true, res_ok_bind, Option.bind_none]
    rfl
  case seals =>
    rintro x u hx rfl hw
    simp only [exec_tseal, execTseal, hx, hw]
    rfl
  case retire =>
    intro st hb hrel hst
    refine ⟨?_, fun e u hne hv hh hu hbk => ?_⟩
    · rintro rfl
      simp only [exec_tretire, execTretire, ha, hb, hrel, hst, await_true, res_ok_bind]
      rfl
    · subst hu
      cases st with
      | retired => exact absurd rfl hne
      | _ =>
        simp only [exec_tretire, execTretire, ha, hb, hrel, hst, hv, await_true, res_ok_bind, hh, if_pos hbk]
        rfl
  case repl =>
    rintro e hb hst hv he w u rfl rfl hu
    simp only [exec_trepl, execTrepl, ha, hb, show s.core.busy d = false from hd, hst, hv, he, Bool.not_false, await_true, res_ok_bind, State.wr_ready _ hu]
    rfl
  case replicated =>
    intro hb hst
    simp only [exec_trepl, execTrepl, ha, hb, show s.core.busy d = false from hd, hst, Bool.not_false, await_true, res_ok_bind, State.wr_ready _ hd]
    rfl
  case state =>
    intro hb
    simp only [exec_tlook, execTlook, ha, hb, show s.core.busy d = false from hd, Bool.not_false, await_true, res_ok_bind, State.wr_ready _ hd]
    rfl
  case next =>
    intro hb
    simp only [exec_tlook, execTlook, ha, hb, show s.core.busy d = false from hd, Bool.not_false, await_true, res_ok_bind, State.wr_ready _ hd]
    rfl

end Sys2Proof.Machine

namespace Sys2Proof.Machine

open Claims

/-! ### Copy words (R369, R370, R373, R390) -/

/-- A copy command takes number n of queue q: the queue stands as c, and the core counts the queue among its own. -/
def State.numbered (s : State) (q : Nat) (c : CopyQ) : State :=
  let s := s.setCq s.ctxNo q c
  if s.core.xq.contains q then s else s.setCore { s.core with xq := q :: s.core.xq }

/-- A done word leaves in its destination what it wrote there. -/
theorem sreg_withReg_retire (s : State) (d : Reg) (v : Word) : (withReg s d v).retire.core.sreg d = if d = 0 then 0 else v := by
  have h : (withReg s d v).retire = s.wroteAt d v (s.c.pc + 1) := Host.Outcome.next.inj (wrote_eq s d v)
  rw [h, State.wroteAt, State.core_setCore]
  exact (CoreSt.sreg_setSreg ..).trans (if_pos rfl)

section
variable {s v : State} {d b : Reg} {q : Nat} {c : CopyQ} {t : Option Xfer}

theorem State.cq_setCq (s : State) (q : Nat) (c : CopyQ) : (s.setCq s.ctxNo q c).ctx.cq q = c := by
  have h : (s.setCq s.ctxNo q c).ctx = { s.ctxOf s.ctxNo with copyq := setKey (s.ctxOf s.ctxNo).copyq q c } := by
    rw [State.setCq]
    exact (State.ctxOf_setCtxOf ..).trans (if_pos rfl)
  rw [h, Ctx.cq, find?_setKey, if_pos rfl]
  rfl

theorem State.numbered_cq (s : State) (q : Nat) (c : CopyQ) : (s.numbered q c).ctx.cq q = c := by
  unfold State.numbered
  dsimp only
  split
  · exact s.cq_setCq q c
  · exact s.cq_setCq q c

theorem State.numbered_busy (s : State) (q : Nat) (c : CopyQ) (d : Reg) : (s.numbered q c).core.busy d = s.core.busy d := by
  unfold State.numbered
  dsimp only
  split
  · rfl
  · rw [State.core_setCore]; rfl

theorem State.numbered_mem (s : State) (q : Nat) (c : CopyQ) : (s.numbered q c).mem = s.mem := by
  unfold State.numbered
  dsimp only
  split <;> rfl

/-- Copy queue c with a command added under its next number; a guarded no-op takes the number only. -/
def CopyQ.add (c : CopyQ) (t : Option Xfer) : CopyQ :=
  { c with issued := c.issued + 1, cmds := match t with
    | some x => c.cmds ++ [{ x with num := c.issued + 1 }]
    | none => c.cmds }

theorem State.enqueue_ready (hd : ready v d) (hc : v.ctx.cq q = c) :
    v.enqueue q t d = .ok (withReg (v.numbered q (c.add t)) d (BitVec.ofNat 64 (c.issued + 1))) := by
  subst hc
  have hb : (v.numbered q ((v.ctx.cq q).add t)).core.busy d = false := (v.numbered_busy ..).trans hd
  unfold State.enqueue
  cases t <;> exact State.wr_ready _ hb

/-- What a copy word leaves that enters its queue. -/
theorem finishCopy_enqueued (hd : ready v d) (hc : v.ctx.cq q = c) : ∃ u, finishCopy b (v.enqueue q t d) s = .next u ∧ u.ctx.cq q = c.add t ∧
    (d ≠ 0 → u.core.sreg d = BitVec.ofNat 64 (c.issued + 1)) ∧ u.mem = v.mem := by
  refine ⟨(withReg (v.numbered q (c.add t)) d (BitVec.ofNat 64 (c.issued + 1))).retire, by rw [State.enqueue_ready hd hc]; rfl,
    v.numbered_cq q _, fun h0 => ?_, v.numbered_mem q _⟩
  rw [sreg_withReg_retire, if_neg h0]
end

theorem State.keepVers_mem (s : State) (vs : List (Nat × Nat)) : (s.keepVers vs).mem = s.mem := by
  unfold State.keepVers
  refine State.forEach_mem _ _ _ fun e s => ?_
  split
  · split
    · unfold State.setVer
      split <;> rfl
    · rfl
  · rfl

/-- A checkpoint's checks change no byte: they touch the dies they have read from. -/
theorem planCkpt_mem {s u : State} {d a b : Reg} {q : Nat} {vs : List (Nat × Nat)} {x : Xfer} (h : s.planCkpt d a b = .ok (q, vs, x, u)) :
    u.mem = s.mem := by
  obtain ⟨qv, -, h⟩ := bind_ok h
  obtain ⟨-, -, h⟩ := bind_ok h
  obtain ⟨p, -, h⟩ := bind_ok h
  obtain ⟨-, -, h⟩ := bind_ok h
  obtain ⟨bs, -, h⟩ := bind_ok h
  obtain ⟨-, -, h⟩ := bind_ok h
  obtain ⟨⟨vs', ls⟩, -, h⟩ := bind_ok h
  obtain ⟨-, -, h⟩ := bind_ok h
  obtain ⟨-, -, h⟩ := bind_ok h
  obtain ⟨-, -, h⟩ := bind_ok h
  cases h
  exact (State.touch_sameTables ..).mem.trans ((State.touch_sameTables ..).mem.trans (State.touch_sameTables ..).mem)

theorem copyWords_holds : Claims.copyWords := by
  rintro s d a b q c hd rfl
  refine ⟨fun op i t u0 v hi hplan hpend hv hq => ?xfer, fun vs x u0 hplan hv hq => ?ckpt, fun g hg => ?stat⟩
  case stat =>
    simp only [exec_xstat, execXstat, hg, res_ok_bind]
    rw [State.wr_ready]
    · rfl
    · exact hd
  case ckpt =>
    obtain ⟨u, hu, hcq, hsreg, hmem⟩ := finishCopy_enqueued (s := s) (b := b) (t := some x) hv hq
    refine ⟨u, ?_, by rw [hcq]; rfl, by rw [hcq]; rfl, hsreg, hmem.trans ((u0.keepVers_mem vs).trans (planCkpt_mem hplan))⟩
    simp only [exec_ckpt, execCkpt, hplan, res_ok_bind]
    exact hu
  case xfer =>
    have hexec : exec i s = xferWord op d a b s := by
      rcases hi with ⟨rfl, rfl⟩ | ⟨rfl, rfl⟩ | ⟨rfl, rfl⟩ <;> rfl
    obtain ⟨u, hu, hcq, hsreg, hmem⟩ := finishCopy_enqueued (s := s) (b := b) (t := t) hv hq
    refine ⟨u, ?_, by rw [hcq]; rfl, hsreg, hmem, by rw [hcq]; rfl⟩
    rw [hexec, xferWord, hplan]
    split at hpend
    next hb =>
      subst hpend
      simp only [hb]
      exact hu
    next y n hb =>
      simp only [hb, hpend]
      exact hu

end Sys2Proof.Machine

namespace Sys2Proof.Machine

open Claims

/-! ### SCRUB (R121) -/

section
variable {s t : State}

/-- t translates for a core as s does. -/
structure State.SameAccess (s t : State) : Prop where
  tables : s.SameTables t
  cores : t.cores = s.cores
  cur : t.cur = s.cur
  parts : t.parts = s.parts
  tasks : t.tasks = s.tasks
  fabric : t.fabric = s.fabric

theorem State.SameAccess.coreOf (h : s.SameAccess t) (k : Nat) : t.coreOf k = s.coreOf k := by unfold State.coreOf; rw [h.cores]

theorem State.SameAccess.dieOf (h : s.SameAccess t) (k : Nat) : t.dieOf k = s.dieOf k := by unfold State.dieOf; rw [h.tables.dies]

theorem State.SameAccess.ctxNoOf (h : s.SameAccess t) (k : Nat) : t.ctxNoOf k = s.ctxNoOf k := by
  simp only [State.ctxNoOf, State.partOfCore, State.partOf, h.parts]

theorem State.SameAccess.cached (h : s.SameAccess t) (v : Via) (x win va : Nat) : t.cached v x win va = s.cached v x win va := by
  cases v <;> simp only [State.cached, h.coreOf, h.dieOf]

theorem State.SameAccess.translate (h : s.SameAccess t) (v : Via) (x win va : Nat) (wr : Bool) :
    translate t v x win va wr = translate s v x win va wr := by
  simp only [Machine.translate, walkRoot, h.cached, Ctx.csr, h.tables.csrs, h.tables.sync, h.tables.walk, h.tables.leafAccess]
  rfl

theorem State.SameAccess.stretches (h : s.SameAccess t) (v : Via) (x win : Nat) (wr : Bool) (kind fuel va n : Nat) :
    stretches t v x win wr kind fuel va n = stretches s v x win wr kind fuel va n := by
  induction fuel generalizing va n with
  | zero => rfl
  | succ fuel ih => simp only [Machine.stretches, h.translate, ih]

theorem State.SameAccess.xlate (h : s.SameAccess t) (v : Via) (x win va n : Nat) (wr : Bool) (kind : Nat) :
    xlate t v x win va n wr kind = xlate s v x win va n wr kind := by
  simp only [Machine.xlate, h.stretches, h.tables.homeLost]

theorem State.SameAccess.peers (h : s.SameAccess t) (k : Nat) : t.peers k = s.peers k := by
  simp only [State.peers, State.groupOf, h.coreOf, h.tasks]

theorem State.SameAccess.access (h : s.SameAccess t) (k : Nat) (a : Acc) (lim : Option AReg) (p : Nat) : access t k a lim p = access s k a lim p := by
  simp only [Machine.access, checkPtr, checkReach, Machine.place, h.peers, h.xlate, h.ctxNoOf, h.dieOf, h.fabric]

theorem State.SameAccess.walkPa (h : s.SameAccess t) (win va tb : Nat) (l : List (Nat × Nat × Nat × Option Nat)) :
    walkPa t win va tb l = walkPa s win va tb l := by
  induction l generalizing tb with
  | nil => rfl
  | cons e r ih =>
    simp only [Machine.walkPa, h.tables.homeLost, h.tables.poisoned, State.readN, h.tables.mem, ih]
    rfl

theorem State.SameAccess.pageOf (h : s.SameAccess t) (k va : Nat) : t.pageOf k va = s.pageOf k va := by
  simp only [State.pageOf, h.ctxNoOf, h.cached, h.walkPa, Ctx.csr, h.tables.csrs]

theorem State.free_sameAccess (s : State) : s.SameAccess s.free.2 := ⟨⟨rfl, rfl, rfl, rfl, fun _ => rfl, fun _ => rfl⟩, rfl, rfl, rfl, rfl, rfl⟩

end

/-- t has the bytes and the cores of s. -/
structure State.SameBytes (s t : State) : Prop where
  mem : t.mem = s.mem
  cores : t.cores = s.cores
  cur : t.cur = s.cur

theorem State.SameBytes.refl (s : State) : s.SameBytes s := ⟨rfl, rfl, rfl⟩

theorem State.SameBytes.trans {s t u : State} (h : s.SameBytes t) (k : t.SameBytes u) : s.SameBytes u :=
  ⟨k.mem.trans h.mem, k.cores.trans h.cores, k.cur.trans h.cur⟩

theorem State.SameBytes.core {s t : State} (h : s.SameBytes t) : t.core = s.core := by
  rw [State.core, State.core, State.coreOf, State.coreOf, h.cores, h.cur]

theorem State.touch_sameBytes (s : State) (x : Nat) (ds : List Nat) : s.SameBytes (s.touch x ds) :=
  ⟨(s.touch_sameTables x ds).mem, s.touch_cores x ds, s.touch_cur x ds⟩

theorem State.forEach_sameBytes {α : Type} (l : List α) (f : α → State → State) (s : State) (h : ∀ (a : α) (s : State), s.SameBytes (f a s)) :
    s.SameBytes (s.forEach l f) :=
  State.forEach_inv (P := fun t => s.SameBytes t) (.refl s) fun a _ t ht => ht.trans (h a t)

theorem State.setVer_sameBytes (s : State) (x p n v : Nat) (e : Ver) : s.SameBytes (s.setVer x p n v e) := by
  unfold State.setVer
  split <;> exact ⟨rfl, rfl, rfl⟩

theorem State.loseVer_sameBytes (s : State) (x p n v : Nat) : s.SameBytes (s.loseVer x p n v) := by
  unfold State.loseVer
  split
  · exact .refl s
  · split
    · exact .refl s
    · split
      case h_5 => exact .refl s
      all_goals exact s.setVer_sameBytes ..

theorem State.send_sameBytes (s : State) (o : Out) : s.SameBytes (s.send o) := by
  unfold State.send
  split <;> exact ⟨rfl, rfl, rfl⟩

/-- Poisoning a frame changes what its bytes are worth, and no byte. -/
theorem State.poisonFrame_sameBytes (s : State) (f : Nat) : s.SameBytes (s.poisonFrame f) := by
  unfold State.poisonFrame
  split
  · exact .refl s
  · have hlose (hit : List Seg → Bool) : s.SameBytes (s.loseWhere hit) := by
      unfold State.loseWhere
      refine State.forEach_sameBytes _ _ _ fun x u => State.forEach_sameBytes _ _ _ fun v u => ?_
      split
      · split
        · exact u.loseVer_sameBytes ..
        · exact .refl u
      · exact .refl u
    have hsend := State.send_sameBytes
    have hcount {u : State} (h : s.SameBytes u) : s.SameBytes (u.count 2 (engineDie (f * 65536)) 1) := ⟨h.mem, h.cores, h.cur⟩
    have hask {u : State} (h : s.SameBytes u) : s.SameBytes u.askReplace.flushAlmanac :=
      h.trans ⟨(hsend ..).mem, (hsend ..).cores, (hsend ..).cur⟩
    exact hask ((hcount (u := { s.loseWhere _ with poison := f :: (s.loseWhere _).poison }) ⟨(hlose _).mem, (hlose _).cores, (hlose _).cur⟩).trans
      (hsend ..))

/-- What SCRUB leaves that finds n corrected lines in the frame, from state u. -/
theorem finish_scrubbed {s u : State} {d : Reg} {w : Word} (hd : ready s d) (hu : s.SameBytes u) :
    ∃ t, finish false (u.wr d w) s = .next t ∧ t.mem = s.mem ∧ t.core.sreg d = if d = 0 then 0 else w := by
  have hb : u.core.busy d = false := by rw [hu.core]; exact hd
  exact ⟨(withReg u d w).retire, by rw [State.wr_ready _ hb]; rfl, hu.mem, sreg_withReg_retire u d w⟩

/-- SCRUB has read the frame at t: its corrected lines are counted, and the frame is poisoned when a line held an uncorrectable error. -/
def State.scrubbed (s : State) (t : Tgt) : State :=
  let u := (s.free.2.count 1 (engineDie ((t.place.segs.map (fun g => g.pa)).headD 0)) (s.free.1.toNat % 1025)).count 3 s.cur (s.free.1.toNat % 1025)
  if s.free.1.msb then (u.count 4 s.cur 1).forEach t.place.segs (fun g u => u.poisonFrame (g.pa / 65536)) else u

theorem State.scrubbed_sameBytes (s : State) (t : Tgt) : s.SameBytes (s.scrubbed t) := by
  have hcount (u : State) (k i n : Nat) : u.SameBytes (u.count k i n) := ⟨rfl, rfl, rfl⟩
  have hfree : s.SameBytes s.free.2 := ⟨rfl, rfl, rfl⟩
  have hread := (hfree.trans (hcount _ 1 (engineDie ((t.place.segs.map (fun g => g.pa)).headD 0)) (s.free.1.toNat % 1025))).trans
    (hcount _ 3 s.cur (s.free.1.toNat % 1025))
  unfold State.scrubbed
  dsimp only
  split
  · exact (hread.trans (hcount _ 4 s.cur 1)).trans (State.forEach_sameBytes _ _ _ fun _ u => u.poisonFrame_sameBytes _)
  · exact hread

/-- The frame a SCRUB reads, found as before the free count was drawn. -/
theorem execScrub_ready {s : State} {d a : Reg} {p : Nat} (hd : ready s d) (ha : ready s a) (hp : p = (s.core.sreg a).toNat / 65536 * 65536)
    (hw : bits p 63 60 = 4) : execScrub d a s = finish false (
      match access s s.cur ⟨[4], none, 65536, 65536, false, 0⟩ none p with
      | .error (.cause 0x084 e l) =>
        (match s.pageOf s.cur (bits p 55 0) with
         | none => .error (.cause 0x084 e l)
         | some pa => (((s.free.2.count 1 (engineDie pa) (s.free.1.toNat % 1025)).count 3 s.cur (s.free.1.toNat % 1025)).touch s.ctxNo
              [engineDie pa]).wr d (BitVec.ofNat 64 (s.free.1.toNat % 1025 + 2 ^ 63)))
      | .error e => .error e
      | .ok t => ((s.scrubbed t).touch (s.scrubbed t).ctxNo t.place.dies).wr d
          (BitVec.ofNat 64 (s.free.1.toNat % 1025 + if s.free.1.msb then 2 ^ 63 else 0))) s := by
  subst hp
  have hacc := s.free_sameAccess
  have hn : needAt (decide (bits ((s.core.sreg a).toNat / 65536 * 65536) 63 60 = 4)) 0x060 ((s.core.sreg a).toNat / 65536 * 65536) = .ok () := by
    rw [decide_eq_true hw]; rfl
  simp only [execScrub, State.rd_ready ha, show s.core.busy d = false from hd, Bool.not_false, await_true, res_ok_bind, hn]
  rw [← hacc.access s.cur ⟨[4], none, 65536, 65536, false, 0⟩ none, ← hacc.pageOf s.cur]
  rfl

theorem scrubWord_holds : Claims.scrubWord := by
  intro s d a p hd ha hp hw
  have hn : s.free.1.toNat % 1025 ≤ 1024 := Nat.le_of_lt_succ (Nat.mod_lt _ (by decide))
  rw [exec_scrub, execScrub_ready hd ha hp hw]
  refine ⟨fun t ht => ?_, fun x y hx => ⟨fun pa hpa => ?_, fun hpa => ?_⟩⟩
  · obtain ⟨u, hu, hmem, hsreg⟩ := finish_scrubbed (w := BitVec.ofNat 64 (s.free.1.toNat % 1025 + if s.free.1.msb then 2 ^ 63 else 0)) hd
      ((s.scrubbed_sameBytes t).trans (State.touch_sameBytes _ (s.scrubbed t).ctxNo t.place.dies))
    refine ⟨u, _, by rw [ht]; exact hu, hmem, hn, ?_⟩
    by_cases h0 : d = 0
    · exact .inl h0
    · rw [hsreg, if_neg h0]
      by_cases hm : s.free.1.msb = true
      · exact .inr (.inr (by rw [if_pos hm]))
      · exact .inr (.inl (by rw [if_neg hm, Nat.add_zero]))
  · obtain ⟨u, hu, hmem, hsreg⟩ := finish_scrubbed (w := BitVec.ofNat 64 (s.free.1.toNat % 1025 + 2 ^ 63)) hd
      ((⟨rfl, rfl, rfl⟩ : s.SameBytes ((s.free.2.count 1 (engineDie pa) (s.free.1.toNat % 1025)).count 3 s.cur (s.free.1.toNat % 1025))).trans
        (State.touch_sameBytes _ s.ctxNo [engineDie pa]))
    exact ⟨u, _, by rw [hx, hpa]; exact hu, hmem, hn, fun h0 => by rw [hsreg, if_neg h0]⟩
  · rw [hx, hpa]
    rfl

/-- Settles O25. -/
theorem tileAndCopyWords : Obligations.TileAndCopyWords := ⟨tileWords_holds, copyWords_holds, scrubWord_holds⟩

end Sys2Proof.Machine

/-! ## Loads that arrive, waits that end and the scheduler (O38, O41, O42) -/

namespace Sys2Proof.Machine

open Claims

/-! ### What delivering a load leaves (R127, R141 to R144) -/

section
variable {c : CoreSt} {t : Strm}

theorem CoreSt.strm_unfreeze (w : Bool) (o n : Nat) : (c.unfreeze w o n).strm t = c.strm t := by
  unfold CoreSt.unfreeze
  refine (apply_ite (fun d : CoreSt => d.strm t) ..).trans ?_
  cases t <;> exact ite_self _

theorem CoreSt.strm_wWrite (o f : Nat) (bs : List Byte) (b : W32) : (c.wWrite o bs f b).strm t = c.strm t := by
  unfold CoreSt.wWrite
  rw [CoreSt.strm_unfreeze]
  cases t <;> rfl

theorem CoreSt.strm_aWrite (o : Nat) (bs : List Byte) (b : W32) : (c.aWrite o bs b).strm t = c.strm t := by
  unfold CoreSt.aWrite
  rw [CoreSt.strm_unfreeze]
  cases t <;> rfl

theorem CoreSt.strm_putRows (f : Nat) (rows : List (Place × List Byte × W32)) : (c.putRows f rows).strm t = c.strm t := by
  unfold CoreSt.putRows
  have h := List.foldlRecOn (motive := fun d : CoreSt => d.strm t = c.strm t) rows (fun c r => match r.1 with
    | .wbuf o => c.wWrite o r.2.1 f r.2.2
    | .abuf o => c.aWrite o r.2.1 r.2.2
    | _ => c) rfl fun d hd r _ => by
      split
      · exact (CoreSt.strm_wWrite ..).trans hd
      · exact (CoreSt.strm_aWrite ..).trans hd
      · exact hd
  refine Eq.trans ?_ h
  cases t <;> rfl

theorem CoreSt.strm_cvcnt (a b : Nat) : (c.cvcnt a b).strm t = c.strm t := by
  unfold CoreSt.cvcnt
  dsimp only
  split
  · rfl
  · cases t <;> rfl

theorem CoreSt.strm_setSreg (d : Reg) (v : Word) : (c.setSreg d v).strm t = c.strm t := by
  unfold CoreSt.setSreg
  split
  · rfl
  · cases t <;> rfl

/-- Delivering a load leaves the load queues of its core as they are. -/
theorem CoreSt.loads_deliver (e : LoadEnt) (b : W32) (ds : List (List Byte)) : ((c.deliver e b ds).strm t).loads = (c.strm t).loads := by
  unfold CoreSt.deliver
  split
  case h_1 => rw [CoreSt.strm_setSreg]
  case h_2 => dsimp only; rw [CoreSt.strm_cvcnt, CoreSt.strm_putRows]
  case h_3 => rw [CoreSt.strm_putRows]
  case h_4 => cases t <;> rfl
  case h_5 =>
    dsimp only
    split
    · cases t <;> rfl
    · rw [CoreSt.strm_putRows]
  case h_6 => rfl
  case h_7 => cases t <;> rfl

/-- The register of a C load takes the bytes read, the 4 bytes of LDW sign-extended. -/
theorem CoreSt.sreg_deliver {e : LoadEnt} {d : Reg} {n : Nat} {p : Place} {got : List Byte} (b : W32) (he : e.fin = .creg d n p) (hd : d ≠ 0)
    (hn : got.length = n) : (c.deliver e b (splitLens (e.sources.map (fun p => p.2)) got)).sreg d =
      if n = 4 then sx64 (BitVec.ofNat 32 (leNat got)) else BitVec.ofNat 64 (leNat got) := by
  simp only [CoreSt.deliver, he, LoadEnt.sources, List.map_cons, List.map_nil, splitLens, List.headD_cons, ← hn, List.take_length]
  rw [CoreSt.sreg_setSreg, if_pos rfl]
  exact if_neg hd

/-- The tile of an LDT takes the data of the version with their bound. -/
theorem CoreSt.tile_deliver {e : LoadEnt} {f h v n : Nat} {p : Place} {dsts : List Place} {got : List Byte} (b : W32)
    (he : e.fin = .tile f p h v dsts (some n)) : (c.deliver e b (splitLens (e.sources.map (fun p => p.2)) got)).tile n =
      (c.tile n).loaded (decide (f = 5)) (tileRows f (got.take (fmtBytes f 16384))) b h v := by
  simp only [CoreSt.deliver, he, LoadEnt.sources, List.map_cons, List.map_nil, splitLens, List.headD_cons]
  rw [CoreSt.tile, CoreSt.setTile, find?_setKey, if_pos rfl]
  rfl

end

/-! ### The elements of the first bytes -/

theorem words4_take (l : List Byte) (n : Nat) : words4 (l.take (4 * n)) = (words4 l).take n := by
  induction l using words4.induct generalizing n with
  | case1 a b c d r ih =>
    cases n with
    | zero => rfl
    | succ n => rw [show 4 * (n + 1) = 4 * n + 1 + 1 + 1 + 1 by omega]; simp only [List.take_succ_cons, words4, ih]
  | case2 l hl =>
    have hshort : l.length < 4 := by
      match l with
      | [] | [_] | [_, _] | [_, _, _] => simp
      | a :: b :: c :: d :: r => exact absurd rfl (hl a b c d r)
    have hnone (m : List Byte) (hm : m.length < 4) : words4 m = [] := by
      match m with
      | [] | [_] | [_, _] | [_, _, _] => rfl
    rw [hnone l hshort, hnone _ (by simp only [List.length_take]; omega), List.take_nil]

theorem words2_take (l : List Byte) (n : Nat) : words2 (l.take (2 * n)) = (words2 l).take n := by
  induction l using words2.induct generalizing n with
  | case1 a b r ih =>
    cases n with
    | zero => rfl
    | succ n => rw [show 2 * (n + 1) = 2 * n + 1 + 1 by omega]; simp only [List.take_succ_cons, words2, ih]
  | case2 l hl =>
    have hshort : l.length < 2 := by
      match l with
      | [] | [_] => simp
      | a :: b :: r => exact absurd rfl (hl a b r)
    have hnone (m : List Byte) (hm : m.length < 2) : words2 m = [] := by
      match m with
      | [] | [_] => rfl
    rw [hnone l hshort, hnone _ (by simp only [List.length_take]; omega), List.take_nil]

theorem halves_take (l : List Byte) (n : Nat) : halves (l.take n) = (halves l).take (2 * n) := by
  induction l generalizing n with
  | nil => simp [halves]
  | cons a r ih =>
    cases n with
    | zero => rfl
    | succ n => rw [show 2 * (n + 1) = 2 * n + 1 + 1 by omega]; simp only [List.take_succ_cons, halves, ih]

/-- The elements of the bytes of an even number of elements are the first of all. -/
theorem elems_take (f n : Nat) (l : List Byte) : elems f (l.take (fmtBytes f (2 * n))) = (elems f l).take (2 * n) := by
  have hbits : fmtBits f = 32 ∨ fmtBits f = 16 ∨ fmtBits f = 8 ∨ fmtBits f = 4 := by unfold fmtBits; split <;> decide
  unfold elems fmtBytes
  rcases hbits with h | h | h | h <;> simp only [h]
  · rw [← words4_take]; congr 2; omega
  · rw [← words2_take]; congr 2; omega
  · rw [← List.map_take]; congr 2; omega
  · rw [← halves_take]; congr 2; omega

/-- A tile's rows are those of its 16,384 elements. -/
theorem tileRows_take (f : Nat) (l : List Byte) : tileRows f (l.take (fmtBytes f 16384)) = tileRows f l := by
  unfold tileRows
  rw [show fmtBytes f 16384 = fmtBytes f (2 * 8192) from rfl, elems_take]
  refine List.map_congr_left fun i hi => ?_
  have hi : i < 128 := List.mem_range.1 hi
  rw [List.drop_take, List.take_take, Nat.min_eq_left (by omega)]

end Sys2Proof.Machine

namespace Sys2Proof.Machine

open Claims

/-! ### Loads bind and are delivered (R108, R127, R142, R143, R240, R245, R259, R366) -/

theorem State.refresh_whole {s : State} {p : Place} (k kind : Nat) (wr : Bool) (h : s.placePoisoned p = false) : s.refresh k wr kind p = .ok p := by
  cases p <;> simp [State.refresh, h]

theorem State.refreshAll_whole {s : State} {l : List (Place × Nat)} (k kind : Nat) (h : ∀ p ∈ l, s.placePoisoned p.1 = false) :
    s.refreshAll k kind l = (l, none) := by
  induction l with
  | nil => rfl
  | cons p r ih => simp only [State.refreshAll, State.refresh_whole k kind false (h p (.head r)), ih fun q hq => h q (.tail p hq)]

/-- The state in which a load has got every byte of its sources and its data are put in, `bound` the bound of an LDT's version. -/
def State.given (s : State) (t : Strm) (e : LoadEnt) (bound : W32) : State :=
  let c := s.core.deliver e bound (splitLens (e.sources.map (fun p => p.2)) e.got)
  s.setCore (c.setStrm t ((c.strm t).endLoad e))

/-- The state after a load has bound some bytes. -/
def State.bound (s : State) (t : Strm) (e : LoadEnt) : State :=
  if e.got.length < (e.sources.map (fun p => p.2)).sum then s.setLoad t e else (s.setLoad t e).finishLoad t e

theorem State.bindLoad_whole {s : State} {t : Strm} {e : LoadEnt} {l : List (Place × Nat)} {data : List Byte}
    (h : ∀ p ∈ l, s.placePoisoned p.1 = false) : s.bindLoad t e l data = s.bound t { e with got := e.got ++ s.gatherBytes s.cur l data } := by
  rw [State.bindLoad, State.refreshAll_whole _ _ h]
  cases l <;> rfl

section
variable {s : State} {k : Nat} {t : Strm} {a : Arrival} {e : LoadEnt} {r : List LoadEnt} {l : List (Place × Nat)} {got : List Byte}

theorem exec_arrival {p : List (Place × Nat)} (hl : ((s.coreOf k).strm t).loads = e :: r) (hnow : s.loadNow k e = .ok e) (hp : p = e.next a.k)
    (hready : (s.coreOf k).loadReady t e p = true) (hdata : a.data.length = s.otherBytes p) :
    exec (.loadDataArrival k t a) s = posted ((onto s k).bindLoad t e p a.data) := by
  subst hp
  have hgo : ¬((!(s.coreOf k).loadReady t e (e.next a.k)) = true ∨ a.data.length ≠ s.otherBytes (e.next a.k)) := by simp [hready, hdata]
  simp only [exec_loadDataArrival, execLoadDataArrival, hl, hnow, if_neg hgo]
  rfl

theorem exec_binds (h : binds s k t a e r l got) (hnow : s.loadNow k e = .ok e) :
    exec (.loadDataArrival k t a) s = posted ((onto s k).bound t { e with got := got }) := by
  obtain ⟨hl, -, hp, hready, hdata, hwhole, hgot⟩ := h
  rw [exec_arrival hl hnow hp hready hdata, State.bindLoad_whole (s := onto s k) hwhole, hgot]
  rfl

/-- The core on which the oldest load has been replaced by an entry of its number. -/
theorem setLoad_core {f : LoadEnt} (hl : ((s.coreOf k).strm t).loads = e :: r) (hr : ∀ x ∈ r, x.seq ≠ e.seq) (hf : f.seq = e.seq) :
    ((onto s k).setLoad t f).core = (s.coreOf k).setStrm t { (s.coreOf k).strm t with loads := f :: r } := by
  have hmap : (e :: r).map (fun l => if l.seq = f.seq then f else l) = f :: r := by
    rw [List.map_cons, if_pos hf.symm]
    refine congrArg (f :: ·) ((List.map_congr_left fun x hx => if_neg ?_).trans r.map_id)
    exact fun h => hr x hx (h.trans hf)
  rw [State.setLoad, State.setSm, State.core_setCore]
  show (s.coreOf k).setStrm t { (s.coreOf k).strm t with loads := ((s.coreOf k).strm t).loads.map _ } = _
  rw [hl, hmap]

theorem coreOf_setLoad_ne {f : LoadEnt} {j : Nat} (hj : j ≠ k) : ((onto s k).setLoad t f).coreOf j = s.coreOf j := by
  rw [State.setLoad, State.setSm, State.setCore, State.coreOf_setCoreOf]
  exact if_neg hj

theorem StreamSt.closeNum_loads (m : StreamSt) (n : Nat) : (m.closeNum n).loads = m.loads := by unfold StreamSt.closeNum; split <;> rfl

/-- An entry that leaves its queue leaves those of other numbers. -/
theorem StreamSt.endLoad_loads {m : StreamSt} {f : LoadEnt} (hm : m.loads = f :: r) (hr : ∀ x ∈ r, x.seq ≠ f.seq) : (m.endLoad f).loads = r := by
  rw [StreamSt.endLoad, StreamSt.closeNum_loads]
  show m.loads.filter _ = r
  rw [hm, List.filter_cons_of_neg (by simp)]
  exact List.filter_eq_self.2 fun x hx => by simpa using hr x hx

section
variable {u : State} {f : LoadEnt} {b : W32}

/-- A delivered load has left its queue. -/
theorem loads_given (hu : (u.core.strm t).loads = f :: r) (hr : ∀ x ∈ r, x.seq ≠ f.seq) : ((u.given t f b).core.strm t).loads = r := by
  rw [State.given, State.core_setCore, CoreSt.strm_setStrm, if_pos rfl]
  exact StreamSt.endLoad_loads ((CoreSt.loads_deliver ..).trans hu) hr

theorem sreg_given (d : Reg) : (u.given t f b).core.sreg d = (u.core.deliver f b (splitLens (f.sources.map (fun p => p.2)) f.got)).sreg d := by
  rw [State.given, State.core_setCore, CoreSt.sreg, CoreSt.setStrm_sregs]
  rfl

theorem tile_given (n : Nat) : (u.given t f b).core.tile n = (u.core.deliver f b (splitLens (f.sources.map (fun p => p.2)) f.got)).tile n := by
  rw [State.given, State.core_setCore, CoreSt.tile, CoreSt.setStrm_tiles]
  rfl

theorem coreOf_given_ne {j : Nat} (hj : j ≠ u.cur) : (u.given t f b).coreOf j = u.coreOf j := by
  rw [State.given, State.setCore, State.coreOf_setCoreOf, if_neg hj]

theorem State.finishLoad_plain (h : plainLoad f = true) : u.finishLoad t f = u.given t f 0 := by
  unfold State.finishLoad State.given
  cases hf : f.fin with
  | tile | shape => rw [plainLoad, hf] at h; cases h
  | _ => rfl

/-- An LDT whose data have the CRC of their version's header is delivered with the header's bound. -/
theorem State.finishLoad_tile {fmt h v : Nat} {p : Place} {g : List Seg} {dsts : List Place} {reg : Option Nat}
    (hf : f.fin = .tile fmt p h v dsts reg) (hp : u.tilePlace u.cur h v fmt = .ok (p, g)) : u.finishLoad t f =
      if (crc64 f.got).toNat = fieldLE (u.readSegs g) 0x18 8 then u.given t f (asBound (BitVec.ofNat 32 (fieldLE (u.readSegs g) 0x14 4)))
      else (u.setLoad t { f with got := [] }).tileFail fmt h v dsts reg := by
  simp only [State.finishLoad, hf, hp]
  rfl

end

theorem loadNow_plain (h : plainLoad e = true) : s.loadNow k e = .ok e := by
  unfold State.loadNow
  cases hf : e.fin with
  | tile => rw [plainLoad, hf] at h; cases h
  | _ => rfl

end

theorem loadBinds_holds : Claims.loadBinds := by
  intro s k t e r a l got hb hplain
  have hexec := exec_binds hb (loadNow_plain hplain)
  obtain ⟨hl, hr, -⟩ := hb
  have hu := setLoad_core (f := { e with got := got }) hl hr rfl
  have hother {j : Nat} (hj : j ≠ k) := coreOf_setLoad_ne (s := s) (t := t) (f := { e with got := got }) hj
  have hloads : (((onto s k).setLoad t { e with got := got }).core.strm t).loads = { e with got := got } :: r := by
    rw [hu, CoreSt.strm_setStrm, if_pos rfl]
  rw [State.bound] at hexec
  refine ⟨_, hexec, ?_⟩
  split
  next hlt =>
    refine ⟨rfl, fun j hj => hother hj, fun _ => ⟨hloads, fun d => ?_⟩, fun hge => absurd hlt (Nat.not_lt.2 hge)⟩
    exact (congrArg (fun c => CoreSt.sreg c d) hu).trans (by rw [CoreSt.sreg, CoreSt.setStrm_sregs]; rfl)
  next hge =>
    rw [State.finishLoad_plain (f := { e with got := got }) hplain]
    refine ⟨rfl, fun j hj => (coreOf_given_ne hj).trans (hother hj), fun hlt => absurd hlt hge, fun _ => ⟨loads_given hloads hr, ?_⟩⟩
    rintro d n p x hfin h0 hn rfl
    exact (sreg_given d).trans (CoreSt.sreg_deliver 0 hfin h0 hn)

/-! ### What a write of the device leaves of the streams -/

/-- t has the streams of s on every core. -/
structure State.SameStreams (s t : State) : Prop where
  cur : t.cur = s.cur
  strm : ∀ k u, (t.coreOf k).strm u = (s.coreOf k).strm u

theorem State.SameStreams.refl (s : State) : s.SameStreams s := ⟨rfl, fun _ _ => rfl⟩

theorem State.SameStreams.trans {s t u : State} (h : s.SameStreams t) (k : t.SameStreams u) : s.SameStreams u :=
  ⟨k.cur.trans h.cur, fun j x => (k.strm j x).trans (h.strm j x)⟩

theorem State.forEach_sameStreams {α : Type} (l : List α) (f : α → State → State) (s : State) (h : ∀ (a : α) (s : State), s.SameStreams (f a s)) :
    s.SameStreams (s.forEach l f) :=
  State.forEach_inv (P := fun t => s.SameStreams t) (.refl s) fun a _ t ht => ht.trans (h a t)

theorem State.setWait_sameStreams (s : State) (k : Nat) (w : WaitSt) : s.SameStreams (s.setCoreOf k { s.coreOf k with wait := w }) := by
  refine ⟨rfl, fun j u => ?_⟩
  rw [State.coreOf_setCoreOf]
  split
  next hj => subst hj; cases u <;> rfl
  next => rfl

theorem State.sendWakes_sameStreams (s : State) (ws : List WaitEnt) : s.SameStreams (s.sendWakes ws) := by
  have hwake (f : State → WaitEnt → Word) (l : List WaitEnt) (t : State) : t.SameStreams (t.forEach l (fun w u => u.wake w.core (f u w))) :=
    State.forEach_sameStreams _ _ _ fun _ _ => State.setWait_sameStreams ..
  unfold State.sendWakes
  dsimp only
  split
  · exact hwake ..
  · have hsend := State.forEach_sameStreams (ws.filter (fun w => s.logOn w.ctx))
      (fun w u => u.setCoreOf w.core { u.coreOf w.core with wait := .sending (BitVec.ofNat 64 (u.readN w.pa 8)) })
      (s.forEach (ws.filter (fun w => !s.logOn w.ctx)) (fun w u => u.wake w.core (BitVec.ofNat 64 (u.readN w.pa 8))))
      fun _ _ => State.setWait_sameStreams ..
    exact (hwake ..).trans ⟨hsend.cur, hsend.strm⟩

theorem State.evalWaits_sameStreams (s : State) (g : List Seg) : s.SameStreams (s.evalWaits g) := by
  unfold State.evalWaits
  refine State.forEach_sameStreams _ _ _ fun d t => ?_
  dsimp only
  split
  · exact .refl t
  · have h := State.sendWakes_sameStreams
    exact ⟨(h ..).cur, (h ..).strm⟩

theorem State.sysAct_sameStreams (s : State) (x : Nat) (r : List Seg × SysOut) (bs : List Byte) : s.SameStreams (s.sysAct x r bs) := by
  unfold State.sysAct
  split
  · have h := State.evalWaits_sameStreams { s with mem := storeAround s.mem s.imageSegs r.1 bs } r.1
    exact ⟨(State.touch_cur ..).trans h.cur, fun k u => (congrArg (fun c => CoreSt.strm c u) (State.touch_coreOf ..)).trans (h.strm k u)⟩
  · exact ⟨rfl, fun _ _ => rfl⟩
  · exact .refl s

/-- LDSH fills its slot; the streams stay. -/
theorem State.cacheShape_spec (s : State) (m p : Nat) (b : List Byte) (src : Place) : s.SameStreams (s.cacheShape m p b src) ∧
    find? (s.cacheShape m p b src).core.slots m = some (p, fieldLE b 8 4) := by
  unfold State.cacheShape
  have h : s.SameStreams (if s.readSegs (segSlice src.segs 4 1) = [1] then (s.sysWrite s.ctxNo (wrap64 (p + 4)) s.runLid [2]).1 else s) := by
    split
    · exact State.sysAct_sameStreams ..
    · exact .refl s
  generalize (if s.readSegs (segSlice src.segs 4 1) = [1] then (s.sysWrite s.ctxNo (wrap64 (p + 4)) s.runLid [2]).1 else s) = u at h
  refine ⟨h.trans ⟨rfl, fun k t => ?_⟩, ?_⟩
  · rw [State.setCore, State.coreOf_setCoreOf]
    split
    next hk => subst hk; cases t <;> rfl
    next => rfl
  · rw [State.core_setCore, find?_setKey, if_pos rfl]

theorem tileAndShapeArrive_holds : Claims.tileAndShapeArrive := by
  rintro s u k t e r a l got hb hge rfl
  have hdone : ¬got.length < (e.sources.map (fun p => p.2)).sum := Nat.not_lt.2 hge
  have hexec (hnow : s.loadNow k e = .ok e) : exec (.loadDataArrival k t a) s =
      posted (((onto s k).setLoad t { e with got := got }).finishLoad t { e with got := got }) := by
    rw [exec_binds hb hnow, State.bound]
    exact congrArg posted (if_neg hdone)
  obtain ⟨hl, hr, -⟩ := hb
  have hu := setLoad_core (f := { e with got := got }) hl hr rfl
  generalize hgen : (onto s k).setLoad t { e with got := got } = u at hu hexec ⊢
  have hcur : k = u.cur := by rw [← hgen]; rfl
  have hmem : u.mem = s.mem := by rw [← hgen]; rfl
  have hloads : (u.core.strm t).loads = { e with got := got } :: r := by rw [hu, CoreSt.strm_setStrm, if_pos rfl]
  refine ⟨fun f p h ver dsts reg g hd hfin hs hup hhd => ?tile, fun m src tab y hfin hy => ⟨fun q hq htab => ?table, fun hor hasc => ?slot⟩⟩
  case tile =>
    have hnow : s.loadNow k e = .ok e := by simp only [State.loadNow, hfin, hs, Except.map, if_true]
    have hread : u.readSegs g = hd := by rw [hhd, State.readSegs, State.readSegs, hmem]
    rw [hexec hnow, State.finishLoad_tile (f := { e with got := got }) hfin (hcur ▸ hup), hread]
    refine ⟨fun hcrc => ⟨_, by rw [if_pos hcrc], ?_, ?_⟩, fun hcrc => by rw [if_neg hcrc]⟩
    · rw [hcur]
      exact loads_given hloads hr
    · rintro n rfl -
      rw [hcur]
      refine (tile_given n).trans ((CoreSt.tile_deliver (e := { e with got := got }) _ hfin).trans ?_)
      rw [tileRows_take, hu, CoreSt.tile, CoreSt.setStrm_tiles, ← hcur]
      rfl
  case table =>
    subst hq htab
    rw [hexec (by rw [State.loadNow, hfin])]
    simp only [State.finishLoad, hfin, hy]
  case slot =>
    obtain ⟨hstrm, hslots⟩ := u.cacheShape_spec m src.ptr (got.take 256) src
    have hleft := hstrm.strm u.cur t
    generalize hv : u.cacheShape m src.ptr (got.take 256) src = v at hstrm hslots hleft
    have hfinish : u.finishLoad t { e with got := got } = v.setSm t ((v.sm t).endLoad { e with got := got }) := by
      have hno : ∀ q, ¬(y = some q ∧ tab = none) := fun q hq => hor.elim (fun h => by cases h.symm.trans hq.1) (fun h => h hq.2)
      rw [← hv]
      rcases y with - | q
      · simp only [State.finishLoad, hfin, hy, if_pos hasc]
      · rcases tab with - | z
        · exact absurd ⟨rfl, rfl⟩ (hno q)
        · simp only [State.finishLoad, hfin, hy, if_pos hasc]
    have hvk : v.cur = k := hstrm.cur.trans hcur.symm
    have hcore : (v.setSm t ((v.sm t).endLoad { e with got := got })).coreOf k = v.core.setStrm t ((v.sm t).endLoad { e with got := got }) := by
      rw [State.setSm, State.setCore, State.coreOf_setCoreOf, if_pos hvk.symm]
    have hvloads : (v.sm t).loads = { e with got := got } :: r := by
      rw [State.sm, State.core, hstrm.cur, hleft]
      exact hloads
    refine ⟨_, by rw [hexec (by rw [State.loadNow, hfin]), hfinish], ?_, ?_⟩
    · rw [hcore, CoreSt.strm_setStrm, if_pos rfl]
      exact StreamSt.endLoad_loads hvloads hr
    · rw [hcore, CoreSt.setStrm_slots]
      exact hslots

/-- Queued work that meets a cause which can be taken at once: the queue from it on is set aside and the cause raised. -/
theorem accessFault_raised {s u : State} {k : Nat} {t : Strm} {n tl pc elem c a d : Nat} {first : State → State}
    (hu : u = (onto s k).setCore ((s.coreOf k).freeze t n)) (hrun : (s.ctxOf (s.ctxNoOf k)).st = .running) (hhand : (s.coreOf k).hand = none)
    (howed : u.owedFirst c = false) : (onto s k).accessFault t n tl pc elem first c a d =
      (first u).raiseAt t ⟨strmNo t, tl, pc, if t = .L ∨ t = .S then elem else 0, 0⟩ (some (u.sm t).pc) c a d := by
  have hcore : u.core.hand = none := by
    rw [hu, State.core_setCore]
    exact (CoreSt.setStrm_hand ..).trans hhand
  have hctx : u.ctxOf u.ctxNo = s.ctxOf (s.ctxNoOf k) := by rw [hu]; rfl
  have hraisable : u.raisable t c = true := by simp [State.raisable, hctx, hrun, hcore, howed]
  have hpc : (u.sm t).pc = ((onto s k).sm t).pc := by
    rw [hu, State.sm_setCore]
    cases t <;> rfl
  unfold State.accessFault
  rw [show (onto s k).core = s.coreOf k from rfl, ← hu]
  simp [howed, hraisable, hhand, hpc]

theorem poisonedLoad_holds : Claims.poisonedLoad := by
  intro s k t e r a l p c q d hl hnow hp hready hdata hbad u hu hrun hhand howed
  rw [exec_arrival hl hnow hp hready hdata]
  have hfirst : (onto s k).refreshAll k e.kind (p :: l) = ([], some (p.1, c, q, d)) := by simp only [State.refreshAll, hbad]
  have hfault : (onto s k).bindLoad t e (p :: l) a.data =
      (onto s k).accessFault t e.seq e.tl e.pc (e.elemAt (e.got.length + (if q = 0 then 0 else (q + 2 ^ 64 - p.1.ptr) % 2 ^ 64))) id c q d := by
    rw [State.bindLoad, show (onto s k).cur = k from rfl, hfirst]
    rfl
  rw [hfault, accessFault_raised hu hrun hhand howed]

/-- Settles O38. -/
theorem loadDataArrives : Obligations.LoadDataArrives := ⟨loadBinds_holds, tileAndShapeArrive_holds, poisonedLoad_holds⟩

end Sys2Proof.Machine

namespace Sys2Proof.Machine

open Claims

/-! ### Waits end (R120, R242, R246, R271, R272, R304, R364) -/

section
variable {s u : State} {k : Nat}

theorem execMarkerRetire_ready {i : Nat} {m : MarkEnt} (hm : (s.coreOf k).marks[i]? = some m) (hready : s.markerReady k m = true)
    (hu : u = (onto s k).markArrive m.bar m.phase) : execMarkerRetire k i s =
      posted (u.setCore { u.core with marks := u.core.marks.filter (fun e => e.cmd != m.cmd), cS := u.core.cS.finishNum m.cmd }) := by
  subst hu
  simp only [execMarkerRetire, hm, hready]
  rfl

theorem execBarrierPhaseRelease_ready {b x : Nat} (ho : s.barOwner b = some x) (hst : (s.bar b).st = 2) (hp : (s.bar b).pend = 0)
    (ha : s.acksIn b = true) : execBarrierPhaseRelease b s =
      .next ((s.releaseBar x ((((s.coresOfCtx x).find? (fun c => c.1 == 0)).map (fun c => c.2)).getD 0) b).checkHeads x) := by
  have hgo : ¬((s.bar b).st ≠ 2 ∨ (s.bar b).pend ≠ 0 ∨ ¬s.acksIn b = true) := by simp [hst, hp, ha]
  simp only [execBarrierPhaseRelease, ho, if_neg hgo]

theorem execWaitaPoll_bad {w : WaitEnt} (hw : (s.coreOf k).wait = .poll w) (hb : s.placeBad (.phys w.ptr [⟨w.pa, 8⟩]) = true) :
    execWaitaPoll k s = .next (s.setCoreOf k { s.coreOf k with wait := .none }) := by
  simp only [execWaitaPoll, hw, if_pos hb]

theorem execWaitaPoll_good {w : WaitEnt} {v : Word} (hw : (s.coreOf k).wait = .poll w) (hv : v = BitVec.ofNat 64 (s.readN w.pa 8))
    (hb : s.placeBad (.phys w.ptr [⟨w.pa, 8⟩]) = false) (hl : s.homeLost w.pa = false) (hc : (s.coreOf k).covered .C (.phys 0 [⟨w.pa, 8⟩]) = false) :
    execWaitaPoll k s = if waitHolds w v then .next (s.wake k v) else .next s := by
  subst hv
  simp only [execWaitaPoll, hw, hb, hl, hc, Bool.false_eq_true, if_false, not_false_eq_true, and_true]
  split <;> rfl

section
variable {x win va d : Nat} (hwin : win = 4 ∨ win = 5) (hx : x = s.ctxNoOf k) (hd : d = dieOfCore k)
  (hout : (s.coreOf k).utlb.any (fun t => t.covers x win va) = false)
include hwin hx hd hout

/-- A walk for a core that does not hold the translation, and without replacement. -/
theorem execTranslationWalk_missed : execTranslationWalk ⟨k, 0⟩ win va s =
    match (s.dieOf d).tlb.find? (fun t => t.covers x win va) with
    | some e => .next (s.setCoreOf k { s.coreOf k with utlb := (e :: (s.coreOf k).utlb).take 64 })
    | none =>
      match walkRoot s x win va false with
      | .ok l =>
        let v := s.setDieOf d { s.dieOf d with tlb := (⟨x, win, va / l.size * l.size, l.size, l.leaf⟩ :: (s.dieOf d).tlb).take 4096 }
        .next (v.setCoreOf k { v.coreOf k with utlb := (⟨x, win, va / l.size * l.size, l.size, l.leaf⟩ :: (v.coreOf k).utlb).take 64 })
      | .error _ => .next s := by
  subst hx hd
  have hgo : ¬((win ≠ 4 ∧ win ≠ 5) ∨ (s.coreOf k).utlb.any (fun t => t.covers (s.ctxNoOf k) win va) = true) := by
    rw [hout]
    rintro (⟨h4, h5⟩ | h)
    · exact hwin.elim h4 h5
    · exact Bool.false_ne_true h
  have h0 : (0 : Nat) < 2 := by decide
  simp only [execTranslationWalk, if_true, if_pos h0, if_neg hgo] <;> rfl

end

theorem CoreSt.noWant_blaze (c : CoreSt) (t : Strm) : (c.noWant t).blaze = c.blaze := by unfold CoreSt.noWant; split <;> rfl

/-- A refill for a word that waits, in a running context. -/
theorem execBlazeCacheRefill_wanted {t : Strm} {a v : Nat} (hw : (s.coreOf k).want.find? (fun w => w.1 == t) = some (t, a, v))
    (hrun : ((s.coreOf k).strm t).run = true) (hwait : ((s.coreOf k).strm t).waiting = true) (hst : (s.ctxOf (s.ctxNoOf k)).st = .running)
    (hu : u = (onto s k).setCore ((s.coreOf k).noWant t)) : execBlazeCacheRefill k t s =
      if u.core.blaze.any (fun b => b.addr == a && b.ver == v) then posted u
      else match (onto s k).refillRec t a v with
        | .ok e => posted (u.cacheRec e)
        | .error .wait => .next (onto s k)
        | .error (.cause c p d) => posted (u.raise t (u.siteE t 0) c p d)
        | .error (.at c p d _) => posted (u.raise t (u.siteE t 0) c p d) := by
  have hgo : ¬(¬((s.coreOf k).strm t).run = true ∨ ¬((s.coreOf k).strm t).waiting = true ∨ (s.ctxOf (s.ctxNoOf k)).st ≠ .running) := by
    simp [hrun, hwait, hst]
  have hblaze : u.core.blaze = (s.coreOf k).blaze := by rw [hu, State.core_setCore, CoreSt.noWant_blaze]
  rw [hblaze, hu]
  simp only [execBlazeCacheRefill, hw, if_neg hgo] <;> rfl

end

/-- Settles O41. -/
theorem waitsEnd : Obligations.WaitsEnd := by
  intro s k
  refine ⟨fun i m hm hready => ⟨_, rfl, execMarkerRetire_ready hm hready rfl⟩, fun b x => execBarrierPhaseRelease_ready, fun w v p hw hv hp => ?poll,
    fun n hn => ?sleep, fun x win va u d hwin hx hd hout => ?walk, fun t a v u hw hrun hwait hst hu => ?refill⟩
  case poll =>
    subst hp
    exact ⟨execWaitaPoll_bad hw, execWaitaPoll_good hw hv⟩
  case sleep => simp only [exec_sleepExpiry, execSleepExpiry, hn]
  case walk =>
    rw [exec_translationWalk, execTranslationWalk_missed hwin hx hd hout]
    refine ⟨?_, fun hno => ⟨?_, fun c hc => by rw [hno, hc]⟩⟩
    · rintro t c rfl rfl ht
      rw [ht]
    · rintro l t v hl rfl rfl rfl
      rw [hno, hl]
  case refill =>
    rw [exec_blazeCacheRefill, execBlazeCacheRefill_wanted hw hrun hwait hst hu]
    refine ⟨fun hb => if_pos hb, fun hb => ⟨?_, fun c p d hc => by rw [hb, hc]; rfl⟩⟩
    rintro e ds w he rfl
    rw [hb, he, State.touch_core]
    rfl

end Sys2Proof.Machine

namespace Sys2Proof.Machine

open Claims

/-! ### The scheduler (R99, R314, R329 to R333, R399) -/

section
variable {s : State} {k x i : Nat} {t : Task}

theorem execDispatchRequest_ready (hx : x = s.ctxNoOf k) (hst : (s.ctxOf x).st = .running) (hf : s.freeCore x k = true) :
    execDispatchRequest k s = if (s.forming x).isSome then .next (s.holdFree x) else .next (s.request x k) := by
  subst hx
  have hgo : ¬((s.ctxOf (s.ctxNoOf k)).st ≠ .running ∨ ¬s.freeCore (s.ctxNoOf k) k = true) := by simp [hst, hf]
  simp only [execDispatchRequest, if_neg hgo]

theorem State.holdCore_forming (hst : (s.ctxOf x).st = .running) (hf : s.freeCore x k = true) (hform : s.forming x = some (i, t)) :
    s.holdCore x k = (s.setTask i { t with cores := t.cores ++ [(k, s.lcoreOf k)] }).formGang i := by
  have hgo : ¬((s.ctxOf x).st ≠ .running ∨ ¬s.freeCore x k = true) := by simp [hst, hf]
  rw [State.holdCore, if_neg hgo, hform]

/-- The head of a task queue that is FULL leaves it; its task is dispatchable when it is READY. -/
theorem execTaskQueueTake_ready {q j : Nat} {n : Queue} {u : State} (hn : n = s.queueOf q) (hk : n.kind = 0) (hst : n.st = .active ∨ n.st = .draining)
    (hr : s.qReady n = true) (hj : j = n.h) (hu : u = (s.setQueueOf q { n with h := (j + 1) % 2 ^ 32 }).qRelease q j) : execTaskQueueTake q s =
      match u.tasks.find? (fun e => e.2.origin == .queue q j false) with
      | none => .next u
      | some (i, t) => .next (if t.st = .ready then ((u.setTask i { t with origin := .queue q j true }).enterPool i).checkHeads t.ctx
          else u.setTask i { t with origin := .queue q j true }) := by
  subst hn hj hu
  have hgo : ¬((s.queueOf q).kind ≠ 0 ∨ ((s.queueOf q).st ≠ .active ∧ (s.queueOf q).st ≠ .draining) ∨ (!s.qReady (s.queueOf q)) = true) := by
    rw [hr]
    rintro (h | ⟨ha, hd⟩ | h)
    · exact h hk
    · exact hst.elim ha hd
    · cases h
  simp only [execTaskQueueTake, if_neg hgo] <;> rfl

theorem execLaunchStart_ready {slot : Nat} {g : Graph} {l : Launch} {r : List Launch} (hg : s.graphOf slot = some g) (hl : g.launches = l :: r)
    (hno : l.started = false) (hst : (s.ctxOf g.ctx).st ∉ [.free, .dead, .trapped])
    (hdr : (s.ctxOf g.ctx).st = .draining → (s.ctxOf g.ctx).stop = none) : execLaunchStart slot s =
      match State.patchAll g l.patches s with
      | (.error (a, d), w) => .next (w.raiseCtx g.ctx 0x084 a d 0)
      | (.ok u, _) => .next ((((u.setCtxOf g.ctx { u.ctxOf g.ctx with launch := ((u.ctxOf g.ctx).launch + 1) % 2 ^ 32 }).setGraph slot
          { g with launches := { l with started := true } :: r }).createTasks slot (u.ctxOf g.ctx).launch g l.entries).checkHeads g.ctx) := by
  have hgo : ¬(l.started = true ∨ (s.ctxOf g.ctx).st = .free ∨ (s.ctxOf g.ctx).st = .dead ∨ (s.ctxOf g.ctx).st = .trapped ∨
      ((s.ctxOf g.ctx).st = .draining ∧ (s.ctxOf g.ctx).stop.isSome = true)) := by
    rintro (h | h | h | h | ⟨h, hs⟩)
    · exact Bool.false_ne_true (hno.symm.trans h)
    · exact hst (by simp [h])
    · exact hst (by simp [h])
    · exact hst (by simp [h])
    · rw [hdr h] at hs; cases hs
  simp only [execLaunchStart, hg, hl, if_neg hgo] <;> rfl

theorem execTaskCompletion_finished {u v : State} (ht : find? s.tasks i = some t) (hf : t.finished = true)
    (hu : u = (s.forEach t.cores (fun c s => s.setCoreOf c.1 (s.coreOf c.1).release)).setTask i { t with cores := [], group := none })
    (hv : v = ((u.endTask ((t.cores.headD (0, 0)).1) i).retireKernel t.kslot).checkHeads t.ctx) :
    execTaskCompletion i s = .next (v.holdFree t.ctx) := by
  subst hu hv
  simp only [execTaskCompletion, ht, hf]
  rfl

theorem execKernelVerification_loaded {n : Nat} {img : List Byte} (hst : (s.kernelOf n).st = .loaded) (hvs : (s.kernelOf n).vstat = 0)
    (himg : img = getBytes s.mem (s.kernelOf n).image (s.kernelOf n).ilen) : execKernelVerification n s =
      if verifyImage img = 0 then .next ((s.setKernelOf n { s.kernelOf n with st := .verified }).measure 2 n ((img.drop 0x60).take 32))
      else .next (s.setKernelOf n { s.kernelOf n with vstat := verifyImage img }) := by
  subst himg
  have hgo : ¬((s.kernelOf n).st ≠ .loaded ∨ (s.kernelOf n).vstat ≠ 0) := by simp [hst, hvs]
  simp only [execKernelVerification, if_neg hgo]
  split
  next h => rw [if_pos h]
  next h => rw [if_neg h]

theorem execRebuildEnqueue_ready {lid : Word} {en : LinEnt} (hno : s.rebuildRun x lid.toNat = none) (hen : s.runEntry x lid.toNat = some en)
    (hi : s.freeEntry = some i) (hr : s.runReady x lid.toNat = true) (ht : t = rebuildTask x en) :
    execRebuildEnqueue x lid s = .next (((s.newTask i { t with level := s.runLevel x t.lid t.level }).makeReady i).checkHeads x) := by
  subst ht
  simp only [execRebuildEnqueue, hno, hen, hi, hr, not_true_eq_false, if_false]

theorem execRecoveryStarved_starved (hst : (s.ctxOf x).st = .running) (hc : t.ctx = x) (ht : t.st = .rebuild) (hi : (i, t) ∈ s.tasks)
    (hw : ∀ c ∈ s.coresOfCtx x, (s.coreOf c.2).task.isSome = true ∧ ∃ w ∈ (s.coreOf c.2).needs, s.verAway x w.1 w.2 = true) :
    execRecoveryStarved x s = .next (s.raiseCtx x 0x1A6 0 0 0) := by
  have hall : (s.coresOfCtx x).all (fun c => (s.coreOf c.2).task.isSome && (s.coreOf c.2).needs.any (fun w => s.verAway x w.1 w.2)) = true :=
    List.all_eq_true.2 fun c hc => Bool.and_eq_true_iff.2 ⟨(hw c hc).1, List.any_eq_true.2 (hw c hc).2⟩
  have hany : s.tasks.any (fun t => t.2.ctx == x && t.2.st == .rebuild) = true := List.any_eq_true.2 ⟨_, hi, by simp [hc, ht]⟩
  exact if_pos ⟨hst, hall, hany⟩

end

theorem schedulerTakesWork_holds : Claims.schedulerTakesWork := by
  intro s k x hx
  refine ⟨fun hst hf hno => ?serve, fun hst hf hsome => ?hold, fun hf => ?gang, fun i t hst hf hform => State.holdCore_forming hst hf hform,
    fun q n j hn hk hst hr hj => ⟨_, rfl, ?take⟩, fun slot g l r w hg hl hno hst hdr => ?launch⟩
  case serve => rw [exec_dispatchRequest, execDispatchRequest_ready hx hst hf, hno]; rfl
  case hold => rw [exec_dispatchRequest, execDispatchRequest_ready hx hst hf, if_pos hsome]
  case gang =>
    subst hx
    rw [exec_gangCoreHold, execGangCoreHold, if_pos hf]
  case take =>
    rw [exec_taskQueueTake, execTaskQueueTake_ready hn hk hst hr hj rfl]
    exact ⟨fun i t ht hr => by rw [ht]; exact congrArg _ (if_pos hr), fun i t ht hr => by rw [ht]; exact congrArg _ (if_neg hr), fun ht => by rw [ht]⟩
  case launch =>
    rw [exec_launchStart, execLaunchStart_ready hg hl hno hst hdr]
    refine ⟨?_, fun a d hp => by rw [hp]⟩
    rintro u n hp rfl
    rw [hp]

theorem schedulerEndsWork_holds : Claims.schedulerEndsWork := by
  intro s i t
  refine ⟨fun u v ht hf hu hv => execTaskCompletion_finished ht hf hu hv, fun n img hst hvs himg => ?verify,
    fun x lid en hno hen hi hr ht => execRebuildEnqueue_ready hno hen hi hr ht, fun x hst hc ht hi hw => execRecoveryStarved_starved hst hc ht hi hw⟩
  case verify =>
    rw [exec_kernelVerification, execKernelVerification_loaded hst hvs himg]
    exact ⟨fun h => if_pos h, fun h => if_neg h⟩

/-- Settles O42. -/
theorem schedulerEvents : Obligations.SchedulerEvents := ⟨schedulerTakesWork_holds, schedulerEndsWork_holds⟩

end Sys2Proof.Machine

/-! ## Objects of the Jecel port (O48) -/

namespace Sys2Proof.Machine

open Claims

/-! ### Commands on objects (R98, R313, R326, R328, R360, R367, R377) -/

section
variable {s t : State} {j : Jec} {f : State → Done} {x n : Nat}

theorem command_accepted (h : accepts s j) : command false j f s = .next ((f s).finish j) := by
  obtain ⟨hphase, hnew, hseq, hw⟩ := h
  have hdone : s.portDone = s := by rw [State.portDone, hw]
  simp only [command, hphase, hnew, hseq, hdone]
  rfl

/-- A check that holds lets the command go on. -/
theorem Done.unless_passed {b : Bool} {st : Status} {d : Done} (h : b = false) : Done.unless b s st d = d := by rw [Done.unless, h]; rfl

theorem Done.unless_failed {b : Bool} {st : Status} {d : Done} (h : b = true) : Done.unless b s st d = refuse s st := by rw [Done.unless, h]; rfl

theorem command_answered (h : accepts s j) (hf : f s = done t) : command false j f s = answered j t := by rw [command_accepted h, hf]; rfl

theorem command_refused {st : Status} (h : accepts s j) (hf : f s = refuse s st) : command false j f s = refused s j st := by
  rw [command_accepted h, hf]; rfl

end

theorem kernelAndGraphCommands_holds : Claims.kernelAndGraphCommands := by
  rintro s j n x a img k hacc rfl
  refine ⟨fun hn hst ha hlen hlost => ⟨fun hmeet hpin hbad => ?kload, fun hor => ?kloadRefused⟩, fun hst => ?kunload, fun hx hst => ?kbind,
    fun b hst hx hb => ?kunbind, fun hst => ?kretire, fun g hx hn hno hal himg hsp => ?gload, fun g hg hl => ?gunload, fun p t hal hp => ?trig⟩
  case kload =>
    rw [exec_kload, execKload]
    refine command_answered hacc ?_
    rw [Done.unless_passed (by simp [hn]), Done.unless_passed (by simp [hst]),
      Done.unless_passed (by simpa [ha, hlost, hmeet, hpin, hbad] using hlen)]
  case kloadRefused =>
    rw [exec_kload, execKload]
    refine command_refused hacc ?_
    rw [Done.unless_passed (by simp [hn]), Done.unless_passed (by simp [hst]),
      Done.unless_failed (by rcases hor with h | h | h <;> simp [h])]
  case kunload =>
    rw [exec_kunload, execKunload]
    exact command_answered hacc (Done.unless_passed (by rcases hst with h | h <;> simp [h]))
  case kbind =>
    rw [exec_kbind, execKbind]
    refine command_answered hacc ?_
    dsimp only
    rw [Done.unless_passed (by simp [hx])]
    exact Done.unless_passed (by rcases hst with h | h <;> simp [h])
  case kunbind =>
    rw [exec_kunbind, execKunbind]
    subst hb
    exact command_answered hacc (Done.unless_passed (by simp [hst, hx]))
  case kretire =>
    rw [exec_kretire, execKretire]
    exact command_answered hacc (Done.unless_passed (by simp [hst]))
  case gload =>
    rw [exec_gload, execGload]
    refine command_answered hacc ?_
    rw [Done.unless_passed (by simp [hx, hn]), Done.unless_passed (by simp [hno, hal]), himg]
    exact Done.unless_passed (by simpa using hsp)
  case gunload =>
    rw [exec_gunload, execGunload]
    refine command_answered hacc ?_
    rw [hg]
    exact Done.unless_passed (by simp [hl])
  case trig =>
    rw [exec_trig, execTrig]
    refine command_answered hacc ?_
    rw [Done.unless_passed (by simp [hal]), hp]

theorem objectCommands_holds : Claims.objectCommands := by
  intro s j q x n d hacc
  refine ⟨fun k hq hst hk hal hb ht => ?qset, fun hst => ?qdrain, fun u hst hu => ?qoff, fun h e hn hx hal he => ?hset, fun hno hsome => ?hclr,
    fun p t hal hp hno hlt hd hh hsh => ?poolset, ?pclear⟩
  case qset =>
    rw [exec_qset, execQset]
    refine command_answered hacc ?_
    rw [Done.unless_passed (by simp [hq]), Done.unless_passed (by simp [hst]), hk]
    exact (Done.unless_passed (by simp [hal])).trans (Done.unless_passed (by simp [hb, ht]))
  case qdrain =>
    rw [exec_qdrain, execQdrain]
    exact command_answered hacc (Done.unless_passed (by simp [hst]))
  case qoff =>
    rw [exec_qoff, execQoff]
    subst hu
    exact command_answered hacc (Done.unless_passed (by simp [hst]))
  case hset =>
    rw [exec_hset, execHset]
    refine command_answered hacc ?_
    dsimp only
    rw [Done.unless_passed (by simp [hn, hx]), Done.unless_passed (by simp [hal]), he]
  case hclr =>
    rw [exec_hclr, execHclr]
    refine command_answered hacc ?_
    dsimp only
    rw [Done.unless_passed hno, if_pos hsome]
  case poolset =>
    rw [exec_poolset, execPoolset]
    refine command_answered hacc ?_
    dsimp only
    have hpages : (t.nshadow == 0 || (s.poolPages x t.sdbase (t.nshadow * t.dataLen) && s.poolPages x t.shbase (t.nshadow * 256))) = true := by
      rcases hsh with h | ⟨h, k⟩
      · simp [h]
      · simp [h, k]
    rw [Done.unless_passed (by simp [hal]), hp]
    exact (Done.unless_passed (by simp [hno])).trans ((Done.unless_passed (by simp [hlt])).trans (Done.unless_passed (by rw [hd, hh, hpages]; rfl)))
  case pclear =>
    rw [exec_pclear, execPclear]
    exact command_answered hacc rfl

/-- Settles O48. -/
theorem objectCommands : Obligations.ObjectCommands := ⟨kernelAndGraphCommands_holds, objectCommands_holds⟩

end Sys2Proof.Machine

/-! ## The load and store streams, and the limit of an operand (O29, O30, O55) -/

namespace Sys2Proof.Machine

open Claims

/-! ### The limit of an operand (R126) -/

section
variable {base : Word} {r : AReg} {p n : Nat}

/-- The difference that the limit check forms is the signed distance from the base. -/
theorem sextN_sub_eq_distance (base : Word) (p : Nat) : sextN ((p + 2 ^ 64 - base.toNat) % 2 ^ 64) 64 = distance base p := by
  have hb := base.isLt
  have hsub : (BitVec.ofNat 64 p - base).toNat = (p + 2 ^ 64 - base.toNat) % 2 ^ 64 := by
    rw [BitVec.toNat_sub, BitVec.toNat_ofNat]
    omega
  rw [distance, BitVec.toInt_eq_toNat_cond, hsub, sextN, Nat.mod_mod]
  split <;> split <;> omega

/-- Bytes on from one at or past the base, up to the largest signed distance, are that much further away. -/
theorem distance_add {i : Nat} (h0 : 0 ≤ distance base p) (hi : distance base p + i < 2 ^ 63) : distance base (p + i) = distance base p + i := by
  rw [← sextN_sub_eq_distance] at h0 hi
  rw [← sextN_sub_eq_distance, ← sextN_sub_eq_distance]
  have hb := base.isLt
  unfold sextN at *
  split at h0 <;> split <;> omega

/-- An operand lies in a range of less than 2^32 bytes when its first byte does and its length fits behind it. -/
theorem inRange_iff {limit : Nat} (hl : limit < 2 ^ 32) (hn : 0 < n) :
    0 ≤ distance base p ∧ distance base p + n ≤ limit ↔ ∀ i, i < n → 0 ≤ distance base (p + i) ∧ distance base (p + i) < limit := by
  constructor
  · rintro ⟨h0, hfit⟩ i hi
    rw [distance_add h0 (by omega)]
    omega
  · intro h
    obtain ⟨h0, hlt⟩ := h 0 hn
    rw [Nat.add_zero] at h0 hlt
    refine ⟨h0, Int.not_lt.1 fun hlong => ?_⟩
    obtain ⟨i, hi⟩ : ∃ i : Nat, distance base p + i = limit := ⟨(limit - distance base p).toNat, by omega⟩
    have hout := (h i (by omega)).2
    rw [distance_add h0 (by omega)] at hout
    omega

theorem checkLimit_unlimited (h : r.limit = 0) : checkLimit r p n = .ok () := if_pos (.inl h)

theorem checkLimit_eq [Decidable (∀ i, i < n → 0 ≤ distance r.base (p + i) ∧ distance r.base (p + i) < r.limit.toNat)] (hl : r.limit ≠ 0)
    (hn : 0 < n) : checkLimit r p n =
      if ∀ i, i < n → 0 ≤ distance r.base (p + i) ∧ distance r.base (p + i) < r.limit.toNat then .ok () else .error (.cause 0x063 p 0) := by
  simp only [checkLimit, sextN_sub_eq_distance, hl, false_or, inRange_iff r.limit.isLt hn]

/-- An access that answers has passed the limit check of its operand. -/
theorem access_limit {s : State} {core : Nat} {a : Acc} {t : Tgt} (h : access s core a (some r) p = .ok t) : checkLimit r p a.size = .ok () := by
  obtain ⟨-, -, hreach⟩ := bind_ok h
  dsimp only at hreach
  have hlim : ∃ f : Unit → Res Tgt, checkLimit r p a.size >>= f = .ok t := by
    split at hreach
    · exact ⟨_, (bind_ok hreach).choose_spec.2⟩
    · exact ⟨_, hreach⟩
  obtain ⟨f, hf⟩ := hlim
  obtain ⟨⟨⟩, hok, -⟩ := bind_ok hf
  exact hok
end

/-- Settles O55: the check looks at the first byte and the length, which decides it for every byte, as no range reaches half the address space. -/
theorem limitCheck : Obligations.LimitCheck := by
  classical
  intro r p n hn
  refine ⟨checkLimit_unlimited, fun hl hin => ?inside, fun hl i hi hout => ?outside, fun s core a t hsize h => ?access⟩
  case inside => rw [checkLimit_eq hl hn, if_pos hin]
  case outside => rw [checkLimit_eq hl hn, if_neg fun hin => hout (hin i hi)]
  case access => exact hsize ▸ access_limit h

end Sys2Proof.Machine

namespace Sys2Proof.Machine

open Claims

/-! ### The load stream (R127, R132, R133, R141 to R147, R319, R320) -/

section
variable {s s' : State} {w : W96} {m : Mask}

theorem blockLoadWords_holds : Claims.blockLoadWords := by
  rintro s s' w m f g l pad sp rows rfl rfl
  refine ⟨fun he hready hplan => ⟨fun hrows => ?ldb, fun hrows => ?ldc⟩, fun ds he hrows => ?ldz, fun he => ?lpref⟩
  case ldb =>
    refine (exec_ldb w s).trans (engine_issued he ?_)
    simp only [hready, hplan, hrows, await_true, res_ok_bind]
  case ldc =>
    refine (exec_ldc w s).trans (engine_issued he ?_)
    simp only [hready, hplan, hrows, await_true, res_ok_bind]
  case ldz =>
    refine (exec_ldz w s).trans (engine_issued he ?_)
    simp only [hrows, res_ok_bind]
  case lpref => exact (exec_lpref w s).trans (engine_issued he rfl)

theorem State.enterTile_ok {ds : List Place} {reg : Option Nat} {p : Place} {u : List Seg} (hready : (s'.sm .L).ldReady = true)
    (hp : s'.tilePlace s'.cur (s'.bcReg w.a) (s'.bcReg w.b % 2 ^ 32) w.fmt.toNat = .ok (p, u)) : s'.enterTile w ds reg =
      .ok (s'.enterLoad (.tile w.fmt.toNat p (s'.bcReg w.a) (s'.bcReg w.b % 2 ^ 32) ds reg) ((p.segs ++ u).filterMap (fun c => homeDie c.pa))) := by
  simp only [State.enterTile, hready, hp, await_true, res_ok_bind]

theorem gatherTileAndShapeLoads_holds : Claims.gatherTileAndShapeLoads := by
  rintro s s' w m f rfl hready
  refine ⟨fun sp g he hg hsh hsp hlanes => ?ldg, ?ldt, fun k p o a t he hd ha hacc => ?ldsh⟩
  case ldg =>
    refine (exec_ldg w s).trans (engine_issued he ?_)
    simp only [hready, hg, hsh, hsp, hlanes, Except.map, Bool.not_false, Bool.and_self, await_true, res_ok_bind]
  case ldt =>
    rintro h v p u ts rfl rfl hp rfl
    refine ⟨fun ds he hrows => (exec_ldtBuffer w s).trans (engine_issued he ?_), fun he hf => (exec_ldtTile w s).trans (engine_issued he ?_)⟩
    · simp only [hrows, State.enterTile_ok hready hp, res_ok_bind]
    · simp only [hf, State.enterTile_ok hready hp, Bool.not_false, await_true, res_ok_bind]
      rfl
  case ldsh =>
    subst ha
    refine (exec_ldsh w s).trans (engine_issued he ?_)
    simp only [hd, hacc, hready, await_true, res_ok_bind]

/-- A ring word whose wait has not been ended for it issues with the effect of its body, and has no place at the ring any more. -/
theorem ringWord_issued {t : Strm} {body : State → Res Eff} {c : CoreSt} {res : List Wr}
    (he : enabled s t (hd96 w) (fun _ => [rg 3 (ringReg w.b)]) m s')
    (hover : s'.core.ringOver t = none) (hb : body s' = .ok { s := s'.setCore c, res := res }) :
    ringWord t w body s = issued t (hd96 w) { s := s'.setCore (c.leaveRing t), res := res } := by
  obtain ⟨hs, ha, hm, hr⟩ := he
  refine engineWith_ok hs ha hm hr ?_
  simp only [hover, hb, Except.map, State.core_setCore, State.setCore_setCore]

/-- A ring word whose wait has ended takes its cause. -/
theorem ringWord_over {t : Strm} {body : State → Res Eff} {code : Nat} (he : enabled s t (hd96 w) (fun _ => [rg 3 (ringReg w.b)]) m s')
    (hover : s'.core.ringOver t = some code) (hcode : code ≠ 0x046) : ringWord t w body s =
      .next ((if s'.raisable t code then s'.setCore (s'.core.leaveRing t) else s').raise t (s'.siteE t 0) code 0 0) := by
  obtain ⟨hs, ha, hm, hr⟩ := he
  refine (engineWith_cause (c := code) (a := 0) (d := 0) hs ha hm hr ?_).trans ?_
  · simp only [hover, stop]
  · dsimp only
    rw [if_neg hcode]
    cases s'.raisable t code <;> rfl

theorem State.ringFor_active {n : Nat} {drain : Bool} {r : Ring} (hr : s.core.ring n = r) (hst : r.st = .active) : s.ringFor n drain = .ok r := by
  subst hr
  exact if_pos (.inl hst)

theorem State.ringFor_held {n : Nat} {r : Ring} (hr : s.core.ring n = r) (hst : r.st = .active ∨ r.st = .draining) : s.ringFor n true = .ok r := by
  subst hr
  exact if_pos (hst.imp_right fun h => ⟨rfl, h⟩)

section
variable {r : Ring} {j : Nat}

theorem execLwfree_issued (he : enabled s .L (hd96 w) (fun _ => [rg 3 (ringReg w.b)]) m s') (hover : s'.core.ringOver .L = none)
    (hr : s'.core.ring w.d.imm = r) (hst : r.st = .active) (hroom : diff32 r.t r.q < 2 ^ r.logn) : execLwfree w s = issued .L (hd96 w)
      { s := s'.setCore ((s'.core.setRing w.d.imm { r with t := (r.t + 1) % 2 ^ 32 }).leaveRing .L),
        res := [⟨3, ringReg w.b, BitVec.allOnes 128, .addr (r.slotReg r.t)⟩] } :=
  ringWord_issued he hover (by rw [State.ringFor_active hr hst, res_ok_bind, decide_eq_true hroom, await_true, res_ok_bind])

theorem execSwfill_issued (he : enabled s .S (hd96 w) (fun _ => [rg 3 (ringReg w.b)]) m s') (hover : s'.core.ringOver .S = none)
    (hr : s'.core.ring w.d.imm = r) (hst : r.st = .active ∨ r.st = .draining) (hfill : 0 < diff32 r.t r.h)
    (htag : tagFull r.logn r.h (r.tag (r.h % 2 ^ r.logn)) = true) : execSwfill w s = issued .S (hd96 w)
      { s := s'.setCore ((s'.core.setRing w.d.imm { r with h := (r.h + 1) % 2 ^ 32 }).leaveRing .S),
        res := [⟨3, ringReg w.b, BitVec.allOnes 128, .addr (r.slotReg r.h)⟩] } :=
  ringWord_issued he hover (by
    rw [State.ringFor_held hr hst, res_ok_bind, decide_eq_true hfill, htag, Bool.and_self, await_true, res_ok_bind])

theorem execLpubl_issued (he : enabled s .L (hd96 w) (fun _ => [rg 3 (ringReg w.b)]) m s') (hover : s'.core.ringOver .L = none)
    (hr : s'.core.ring w.d.imm = r) (hst : r.st = .active ∨ r.st = .draining) (hready : (s'.sm .L).stReady = true)
    (hdone : (s'.sm .L).loadsDone (s'.sm .L).seq = true)
    (hheld : r.held (s'.core.aregOf .L (ringReg w.b)).base.toNat r.q r.t (tagClaimed r.logn) = .ok j) : execLpubl w s = issued .L (hd96 w)
      { s := s'.setCore ((s'.core.setRing w.d.imm
          (r.setTag (j % 2 ^ r.logn) (tagPublish r.logn j (r.tag (j % 2 ^ r.logn)) false))).leaveRing .L) } :=
  ringWord_issued he hover (by simp only [State.ringFor_held hr hst, hready, hdone, hheld, Bool.and_self, await_true, res_ok_bind])

theorem execSrels_issued {r' : Ring} (he : enabled s .S (hd96 w) (fun _ => [rg 3 (ringReg w.b)]) m s') (hover : s'.core.ringOver .S = none)
    (hr : s'.core.ring w.d.imm = r) (hst : r.st = .active ∨ r.st = .draining) (hready : (s'.sm .S).stReady = true)
    (hdone : (s'.sm .S).loadsDone (s'.sm .S).seq = true)
    (hheld : r.held (s'.core.aregOf .S (ringReg w.b)).base.toNat r.q r.h (tagFull r.logn) = .ok j)
    (hr' : r' = r.setTag (j % 2 ^ r.logn) (tagRelease r.logn j (r.tag (j % 2 ^ r.logn)))) : execSrels w s = issued .S (hd96 w)
      { s := s'.setCore ((s'.core.moveRing w.d.imm
          ({ r' with q := advance r.logn r'.tag r.h (2 ^ r.logn) r.q } : Ring).settled).leaveRing .S) } :=
  ringWord_issued he hover (by
    simp only [State.ringFor_held hr hst, hready, hdone, hheld, Bool.and_self, await_true, res_ok_bind]
    rw [hr']
    rfl)
end

theorem scratchpadRingWords_holds : Claims.scratchpadRingWords := by
  rintro s s' t w m n r a rfl hr rfl he hover
  refine ⟨?lwfree, ?swfill, fun j hst hready hdone => ⟨?lpubl, ?srels⟩⟩
  case lwfree =>
    rintro rfl hst hroom
    exact (exec_lwfree w s).trans (execLwfree_issued he hover hr.symm hst hroom)
  case swfill =>
    rintro rfl hst hfill htag
    exact (exec_swfill w s).trans (execSwfill_issued he hover hr.symm hst hfill htag)
  case lpubl =>
    rintro rfl hheld
    exact (exec_lpubl w s).trans (execLpubl_issued he hover hr.symm hst hready hdone hheld)
  case srels =>
    rintro rfl hheld r' hr'
    exact (exec_srels w s).trans (execSrels_issued he hover hr.symm hst hready hdone hheld hr')

theorem scratchpadWaitsEnd_holds : Claims.scratchpadWaitsEnd := by
  rintro s s' t w m i code (⟨rfl, rfl | rfl⟩ | ⟨rfl, rfl | rfl⟩) he hover hcode
  · exact (exec_lwfree w s).trans (ringWord_over he hover hcode)
  · exact (exec_lpubl w s).trans (ringWord_over he hover hcode)
  · exact (exec_swfill w s).trans (ringWord_over he hover hcode)
  · exact (exec_srels w s).trans (ringWord_over he hover hcode)
end

/-- Settles O29: with its checks passed, the body of each word answers the claimed effect; the ring words share one frame. -/
theorem loadStreamWords : Obligations.LoadStreamWords :=
  ⟨blockLoadWords_holds, gatherTileAndShapeLoads_holds, scratchpadRingWords_holds, scratchpadWaitsEnd_holds⟩

end Sys2Proof.Machine

namespace Sys2Proof.Machine

open Claims

/-! ### The store stream (R127, R148 to R154) -/

theorem blockStoreWords_holds : Claims.blockStoreWords := by
  rintro s s' w m f rfl hready
  refine ⟨fun l b ts es dr he hrows hes => ?stb, fun l b ts e he hrows hcvt => ?stcvt, fun t ds e he ht hf hv hint hsums hrows hcvt => ?tile⟩
  case stb =>
    refine (exec_stb w s).trans (engine_issued he ?_)
    simp only [hready, hrows, hes, await_true, res_ok_bind]
  case stcvt =>
    refine (exec_stcvt w s).trans (engine_issued he ?_)
    simp only [hready, hrows, hcvt, await_true, res_ok_bind]
  case tile =>
    subst ht
    have hfmt : (!((s'.core.tile w.a.imm).fold.int && (w.fmt.toNat == 2 || w.fmt.toNat == 3))) = true := by
      rcases hint with h | ⟨h2, h3⟩
      · simp [h]
      · simp [h2, h3]
    refine (exec_stcvtTile w s).trans (engine_issued he ?_)
    simp only [hready, hf, hv, hfmt, hsums, hrows, hcvt, Bool.not_false, await_true, need_true, res_ok_bind]

theorem tileStoreWords_holds : Claims.tileStoreWords := by
  rintro s s' w m f v n t rfl rfl hready
  refine ⟨fun rows he hrows => ⟨fun hver => ?dropped, fun fr tag e hver hwrite => ?rows⟩, ?tile⟩
  case dropped =>
    refine (exec_sttBuffer w s).trans (engine_issued he ?_)
    simp only [hready, hrows, hver, await_true, res_ok_bind]
  case rows =>
    refine (exec_sttBuffer w s).trans (engine_issued he ?_)
    simp only [hready, hrows, hver, hwrite, await_true, res_ok_bind]
  case tile =>
    rintro tl he rfl hf hv hint hnum hsums im tl' rfl rfl
    have hfmt : (if (s'.core.tile w.b.imm).int then w.fmt.toNat == 5 || w.fmt.toNat == 0 else w.fmt.toNat != 5) = true := by
      split
      next h => simpa using hint h
      next h => simpa using hnum (by simpa using h)
    refine ⟨fun hver => ?_, fun fr tag e hver hwrite => ?_⟩
    · refine (exec_sttTile w s).trans (engine_issued he ?_)
      simp only [hready, hver, hf, hv, hfmt, hsums, Bool.not_false, await_true, need_true, res_ok_bind]
    · refine (exec_sttTile w s).trans (engine_issued he ?_)
      simp only [hready, hver, hf, hv, hfmt, hsums, hwrite, Bool.not_false, await_true, need_true, res_ok_bind]

/-- With the decision log off the elements of a word enter the store queue and wait there for their turn. -/
theorem State.enterDecided_logOff {s : State} {kind esz dropped : Nat} {ts : List Nat} {es : List StoreElem} {ds : List (Nat × Nat)} {rs : List Wr}
    (h : s.logOn s.ctxNo = false) : s.enterDecided kind esz ts es ds dropped rs = .ok (s.enterStore .elems esz ts es dropped rs) := by
  simp only [State.enterDecided, h, Bool.false_eq_true, false_and, if_false]

theorem scatterAndUpdateWords_holds : Claims.scatterAndUpdateWords := by
  rintro s s' w m f rfl hready hlog
  refine ⟨?stsc, fun n p o els he hd hlanes => ?satom, ?update⟩
  case stsc =>
    rintro cv l es k he rfl hlanes rfl rfl
    refine (exec_stsc w s).trans (engine_issued he ?_)
    simp only [hready, hlanes, await_true, res_ok_bind]
  case satom =>
    simp only [hd, res_ok_bind] at hlanes
    refine (exec_satom w s).trans (engine_issued he ?_)
    simp only [hready, hd, hlanes, State.enterDecided_logOff hlog, await_true, res_ok_bind]
  case update =>
    rintro l b ts al i els he hi hrows hpage hels
    have hword (alpha : State → W32) (hal : alpha s' = al) : addWord w alpha s = stores s' w (elemSize w.fmt.toNat) ts
        (els.filterMap (fun e => e.2.2)) (els.length - (els.filterMap (fun e => e.2.2)).length) [w.d, w.a] :=
      engine_issued he (by simp only [hready, hrows, hpage, hal, hels, State.enterDecided_logOff hlog, await_true, res_ok_bind])
    rcases hi with ⟨rfl, hal⟩ | ⟨rfl, hal⟩
    · exact (exec_stadd w s).trans (hword _ hal.symm)
    · exact (exec_staxpy w s).trans (hword _ hal.symm)

theorem optimiserWords_holds : Claims.optimiserWords := by
  rintro s s' u v w m adam i l grad par els es k he hi hst hld hrows rfl rfl hels rfl rfl rfl rfl
  have hword : optWord w adam s = _ := engine_issued he (by
    simp only [hst, hld, hrows, Bool.and_self, await_true, res_ok_bind]
    exact congrArg (· >>= _) hels)
  rcases hi with ⟨rfl, rfl⟩ | ⟨rfl, rfl⟩
  · exact (exec_stopt w s).trans hword
  · exact (exec_stoptAdam w s).trans hword

/-! ### The values of STOPT (R154) -/

/-- Element c j + i of equally long parts put one after another is element i of part j. -/
theorem getElem?_flatMap_of_length {α β : Type} {f : α → List β} {c i : Nat} (hc : ∀ a, (f a).length = c) (hi : i < c) (l : List α) (j : Nat) :
    (l.flatMap f)[c * j + i]? = l[j]?.bind (fun a => (f a)[i]?) := by
  induction l generalizing j with
  | nil => rfl
  | cons a l ih =>
    rw [List.flatMap_cons]
    cases j with
    | zero =>
      rw [Nat.mul_zero, Nat.zero_add, List.getElem?_append_left (by rw [hc]; exact hi)]
      rfl
    | succ j =>
      rw [Nat.mul_succ, List.getElem?_append_right (by rw [hc]; omega), hc, show c * j + c + i - c = c * j + i by omega, ih]
      rfl

section
variable {adam : Bool} {par grad : List W32} {rows : List (List W32)}

/-- The new weight and moments of element k of row j (R154), z being the rows of a row of weights. -/
def optRowElem (adam : Bool) (par grad : List W32) (rows : List (List W32)) (z j k : Nat) : W32 × W32 × W32 :=
  optElem par adam (lane (rows.getD (z * j) []) k) (lane (rows.getD (z * j + 1) []) k) (lane (rows.getD (z * j + (z - 1)) []) k)
    (lane grad (128 * j + k))

theorem optRowsOut_eq {z : Nat} (hz : z = if adam then 3 else 2) : optRowsOut adam par grad rows =
    (List.range (rows.length / z)).flatMap (fun j => (List.range 128).flatMap (fun k =>
      [(optRowElem adam par grad rows z j k).1, (optRowElem adam par grad rows z j k).2.1, (optRowElem adam par grad rows z j k).2.2])) := by
  subst hz
  rfl

/-- The three values of element k of row j stand together among the values of a STOPT word. -/
theorem getElem?_optRowsOut {z n j k r : Nat} (hz : z = if adam then 3 else 2) (hn : rows.length = z * n) (hj : j < n) (hk : k < 128) (hr : r < 3) :
    (optRowsOut adam par grad rows)[3 * (128 * j + k) + r]? =
      [(optRowElem adam par grad rows z j k).1, (optRowElem adam par grad rows z j k).2.1, (optRowElem adam par grad rows z j k).2.2][r]? := by
  have hpos : 0 < z := by
    rw [hz]
    split <;> decide
  rw [optRowsOut_eq hz, hn, Nat.mul_div_cancel_left n hpos, show 3 * (128 * j + k) + r = 384 * j + (3 * k + r) by omega,
    getElem?_flatMap_of_length (c := 384) (fun _ => by simp) (by omega), List.getElem?_range hj]
  refine (getElem?_flatMap_of_length (c := 3) (fun _ => rfl) hr ..).trans ?_
  rw [List.getElem?_range hk]
  rfl

/-- The loads of a STOPT word give its stores their values. -/
theorem CoreSt.deliver_opt {c : CoreSt} {e : LoadEnt} {b : W32} {ds : List (List Byte)} {ps : List Place} {st : Nat} {a : List Nat}
    (he : e.fin = .opt adam par grad ps st a) (hrows : rows = ds.map (fun b => (elems 0 b).map (fun c => BitVec.ofNat 32 c))) :
    (c.deliver e b ds).sS.stores = c.sS.stores.map (fun x =>
      if x.seq = st then { x with elems := x.elems.map (fillOpt (optRowsOut adam par grad rows)) } else x) := by
  subst hrows
  simp only [CoreSt.deliver, he]
end

theorem optimiserValues_holds : Claims.optimiserValues := by
  rintro adam par grad rows z n j k o hz hn hj hk rfl
  have hvalue {r : Nat} (hr : r < 3) := getElem?_optRowsOut (par := par) (grad := grad) hz hn hj hk hr
  refine ⟨?weight, ?first, ?second, ?deliver⟩
  case weight => exact congrArg (·.getD 0) (hvalue (r := 0) (by decide))
  case first => exact congrArg (·.getD 0) (hvalue (r := 1) (by decide))
  case second => exact congrArg (·.getD 0) (hvalue (r := 2) (by decide))
  case deliver =>
    intro c e b ds ps st a he hrows
    exact CoreSt.deliver_opt he hrows

/-- Settles O30: with its checks passed, the body of each word answers the claimed effect. -/
theorem storeStreamWords : Obligations.StoreStreamWords :=
  ⟨blockStoreWords_holds, tileStoreWords_holds, scatterAndUpdateWords_holds, optimiserWords_holds, optimiserValues_holds⟩

end Sys2Proof.Machine

/-! ## Lanewise words, compares, moves, conditional streams and random numbers of the vector stream (O31, O34) -/

namespace Sys2Proof.Machine

open Claims

/-! ### Lanewise and compare words (R156 to R166) -/

section
variable {s : State} {w : W96}

/-- The minima and maxima of the model compare with a Boolean, those of Table 6-7 with the order of the numbers. -/
theorem exec_laneOps : ∀ p ∈ laneOps w, exec p.1 s = lanewise w p.2.1 p.2.2.1 p.2.2.2.1 (fun _ => p.2.2.2.2) s := by
  have hvimin : exec (.vimin w) s = lanewise w 2 true false (fun _ a b _ => if b.toInt < a.toInt then b else a) s := by
    simp only [exec_vimin, execVimin, BitVec.slt_iff_toInt_lt]
  have hvimax : exec (.vimax w) s = lanewise w 2 true false (fun _ a b _ => if a.toInt < b.toInt then b else a) s := by
    simp only [exec_vimax, execVimax, BitVec.slt_iff_toInt_lt]
  have hviminu : exec (.viminu w) s = lanewise w 2 true false (fun _ a b _ => if b.toNat < a.toNat then b else a) s := by
    simp only [exec_viminu, execViminu, BitVec.ult_iff_lt, BitVec.lt_def]
  have hvimaxu : exec (.vimaxu w) s = lanewise w 2 true false (fun _ a b _ => if a.toNat < b.toNat then b else a) s := by
    simp only [exec_vimaxu, execVimaxu, BitVec.ult_iff_lt, BitVec.lt_def]
  simp only [laneOps, List.forall_mem_append, List.forall_mem_cons, List.not_mem_nil, false_implies, implies_true, and_true, true_and,
    hvimin, hvimax, hviminu, hvimaxu]
  and_intros <;> rfl

theorem exec_compareOps : ∀ p ∈ compareOps w, exec p.1 s = compare w p.2.1 p.2.2 s := by
  simp only [compareOps, List.forall_mem_cons, List.not_mem_nil, false_implies, implies_true, and_true]
  exact ⟨rfl, rfl, rfl, rfl, rfl, rfl, rfl⟩

end

theorem lanewiseWords_holds : Claims.lanewiseWords := by
  intro s s' i w lat ub ud g m a b o d r hi he ha hb ho hd hr
  obtain ⟨hs, hact, hm, hshort⟩ := he
  rw [exec_laneOps _ hi]
  exact lanewise_ok hs hact hm hshort ha hb hd ho rfl hr

theorem compareWords_holds : Claims.compareWords := by
  rintro s s' i w lat c m p old a b hi he ha hb rfl rfl
  rw [exec_compareOps _ hi]
  exact vword_vectored he (by simp only [ha, hb, res_ok_bind, compareMask])

/-- Settles O31: every lanewise word is one shared operation with its function of a lane, and every compare word another with its comparison. -/
theorem lanewiseAndCompareWords : Obligations.LanewiseAndCompareWords := ⟨lanewiseWords_holds, compareWords_holds⟩

/-! ### Moves and permutes (R179, R180) -/

section
variable {s s' : State} {w : W96} {m : Mask}

theorem gathering_plainV {ub : Bool} {f : Vec → Vec → Nat → W32}
    (he : enabled s .V (hd96 w) (fun _ => [rg 0 w.a.num] ++ (if ub then [rg 0 w.b.num] else [])) m s') :
    gathering w ub f s = plainV w s' [⟨0, w.d.num, m,
      .vec (vgen (fun i => if m.getLsbD i then f (s'.core.vreg w.a.num) (s'.core.vreg w.b.num) i else 0) 0 128)⟩] (some 2) :=
  engine_issued he rfl

end

theorem moveWords_holds : Claims.moveWords := by
  rintro s s' w m x y out rfl rfl hout
  simp only [hout]
  refine ⟨fun he => ?vperm, fun he => ⟨?vbcst, ?vrot⟩, ?vsel, ?constants, fun he => ?vlaneAddress⟩
  case vperm => exact (exec_vperm w s).trans (gathering_plainV he)
  case vbcst => exact (exec_vbcst w s).trans (gathering_plainV (ub := false) he)
  case vrot =>
    rintro n rfl
    simp only [exec_vrot, execVrot]
    exact gathering_plainV (ub := false) he
  case vsel =>
    intro a b he ha hb
    refine (exec_vsel w s).trans (vword_vectored he ?_)
    simp only [ha, hb, res_ok_bind]
  case constants =>
    rintro im he rfl
    exact ⟨(exec_vldi w s).trans (engine_issued he rfl), (exec_vlane w s).trans (engine_issued he rfl)⟩
  case vlaneAddress => exact (exec_vlaneAddress w s).trans (engine_issued he rfl)

/-! ### Conditional streams and random numbers (R181 to R185) -/

section
variable {s s' : State} {w : W96} {m : Mask}

theorem random_vectored {f : W32 → W32} {a b : Vec × Nat} (he : enabled s .V (hd96 w) (fun m => srcRegs m w.a ++ srcRegs m w.b) m s')
    (ha : vsrc s' w.a = .ok a) (hb : vsrc s' w.b = .ok b) :
    random w f s = vectored w 0 s' s' [⟨0, w.d.num, m, .vec (vmap3 (fun i x y _ => f (rngHash x y i)) 0 a.1 b.1 a.1)⟩] (some 6) :=
  vword_vectored he (by simp only [ha, hb, res_ok_bind])

end

/-- The counts of VPUSHC and VPOPC pass their limits, so that neither word takes 0x047. -/
theorem streamAndRandomWords_holds : Claims.streamAndRandomWords := by
  rintro s s' w m n all rfl
  refine ⟨?vpushc, ?vpopc, fun he => ⟨?vrebal, ?random⟩, ?vcount⟩
  case vpushc =>
    rintro xs l e he rfl hn rfl rfl rfl
    refine (exec_vpushc w s).trans (engine_issued he ?_)
    simp only [hn, decide_true, need_true, res_ok_bind]
  case vpopc =>
    rintro k win rest he rfl hn rfl rfl rfl
    refine (exec_vpopc w s).trans (engine_issued he ?_)
    simp only [hn, decide_true, need_true, res_ok_bind]
  case vrebal =>
    rintro r rfl
    exact (exec_vrebal w s).trans (engine_issued he rfl)
  case random =>
    intro a b ha hb
    exact ⟨(exec_vrng w s).trans (random_vectored he ha hb), (exec_vrngu w s).trans (random_vectored he ha hb)⟩
  case vcount =>
    rintro p he rfl
    exact (exec_vcount w s).trans (engine_issued he rfl)

/-- Settles O34: with its registers visible and its counts within their limits, the body of each word answers the claimed results. -/
theorem vectorMoveWords : Obligations.VectorMoveWords := ⟨moveWords_holds, streamAndRandomWords_holds⟩

end Sys2Proof.Machine

/-! ## The words of the matrix stream (O36, O37) -/

namespace Sys2Proof.Machine

open Claims

/-! ### The outcomes of a matrix word (R191, R198) -/

section
variable {s s' u : State} {w : W192} {m : Mask} {reads : State → List Rg} {onWait : State → State} {body : State → MRes}

/-- An enabled matrix word whose body runs to its end completes. -/
theorem matrixWord_issued (he : enabledM s (hd192 w) reads m s') (hb : body s' = (u, none)) :
    matrixWord w reads onWait body s = issuedM s' (hd192 w) u := by
  obtain ⟨hs, ha, hm, hr⟩ := he
  exact matrixWord_ok hs ha hm hr hb

/-- One whose body takes a cause raises it at the row that its tile has reached. -/
theorem matrixWord_raised {c a d : Nat} (he : enabledM s (hd192 w) reads m s') (hb : body s' = (u, some (.cause c a d))) :
    matrixWord w reads onWait body s = raisedM u w.tile.toNat c a d := by
  obtain ⟨rfl, rfl, hm, hr⟩ := he
  rw [dueM] at hb hm hr
  simp only [matrixWord, if_neg hm, hr, hb, Prod.map, id, raisedM]

/-- One whose body waits stands at a stop point or under a hold, and else is parked. -/
theorem matrixWord_waits (he : enabledM s (hd192 w) reads m s') (hb : body s' = (u, some .wait)) :
    matrixWord w reads onWait body s =
      .next (if u.standM.core.mstop || u.standM.dev.hold == some 0 then u.standM else onWait (u.standM.park .M)) := by
  obtain ⟨rfl, rfl, hm, hr⟩ := he
  rw [dueM] at hb hm hr
  simp only [matrixWord, if_neg hm, hr, hb, Prod.map, id]

/-- A word that stops without effect or answers completes with its answer. -/
theorem plainMatrix_issued {f : State → Res State} (he : enabledM s (hd192 w) (fun _ => []) m s') (hf : f s' = .ok u) :
    plainMatrix w f s = issuedM s' (hd192 w) u :=
  matrixWord_issued he (by rw [mPlain, hf])

end

/-! ### Tile steps (R193 to R206, R247) -/

section
variable {s u : State} {w : W192} {op : Nat} {e : JEnt}

theorem stepBody_zero (h : s.stepCount w = 0) : stepBody op w s = (s, none) := if_pos h

/-- A tile step whose checks pass runs its steps: on the loop it has opened or joined, or from where it stands. -/
theorem stepBody_runs (h0 : s.stepCount w ≠ 0)
    (h : s.core.within = none ∧ s.joinLoop w op (s.stepCount w) = .ok (u, e) ∨
      (∃ held, s.core.within = some held ∧ e = s.mEntry w op (s.stepCount w) held.slot) ∧ s.checkSteps w e = .ok () ∧ u = s) :
    stepBody op w s = u.runSteps w.tile.toNat e := by
  rcases h with ⟨hout, hjoin⟩ | ⟨⟨held, hin, rfl⟩, hcheck, rfl⟩
  · simp only [stepBody, if_neg h0, hout, hjoin]
  · simp only [stepBody, if_neg h0, hin, hcheck]

theorem exec_tileStep {i : Instr} (hi : op = 0 ∧ i = .mma w ∨ op = 1 ∧ i = .mmat w ∨ op = 2 ∧ i = .mmas w) :
    exec i s = tileStep op w s := by
  rcases hi with ⟨rfl, rfl⟩ | ⟨rfl, rfl⟩ | ⟨rfl, rfl⟩ <;> rfl

end

/-- Settles O36: the three words share one body, which runs the steps of its word when its checks pass. -/
theorem tileStepWords : Obligations.TileStepWords := by
  intro s s' w m op i hi he
  rw [exec_tileStep hi, tileStep]
  refine ⟨fun h0 => matrixWord_issued he (stepBody_zero h0), ?_⟩
  rintro u e r h0 hruns hr
  have hb : stepBody op w s' = r := (stepBody_runs h0 hruns).trans hr.symm
  obtain ⟨v, x⟩ := r
  refine ⟨?done, ?stands, ?cause⟩
  case done =>
    rintro rfl
    exact matrixWord_issued he hb
  case stands =>
    rintro rfl hstop
    rw [matrixWord_waits he hb, if_pos (by simpa using hstop)]
  case cause =>
    rintro c a d rfl
    exact matrixWord_raised he hb

/-! ### Tiles outside a loop, calipers, limits and levels (R202, R207, R209 to R211) -/

theorem tileSetupWords_holds : Claims.tileSetupWords := by
  rintro s s' w m k t rfl rfl he
  refine ⟨?mzero, ?minit, ?mcal, ?msetk, ?mwide⟩
  case mzero =>
    intro hf
    refine (exec_mzero w s).trans (plainMatrix_issued he ?_)
    simp only [hf, Bool.not_false, need_true, res_ok_bind]
  case minit =>
    rintro fa fw u hf hv hfa hfw rfl
    have hv : (!w.acc || (s'.tl w.tile.toNat).v) = true := by simpa using hv
    refine (exec_minit w s).trans (plainMatrix_issued he ?_)
    simp only [hf, hv, hfa, hfw, Bool.not_false, need_true, res_ok_bind]
  case mcal =>
    rintro o x hv hf ho rfl
    refine (exec_mcal w s).trans (plainMatrix_issued he ?_)
    simp only [hv, hf, ho, Bool.not_false, need_true, res_ok_bind]
  case msetk =>
    rintro o v ho rfl hv
    refine (exec_msetk w s).trans (plainMatrix_issued he ?_)
    simp only [ho, Nat.div_eq_of_lt hv, BEq.rfl, need_true, res_ok_bind]
  case mwide =>
    intro hf hran
    refine (exec_mwide w s).trans (plainMatrix_issued he ?_)
    simp only [hf, hran, Bool.not_false, need_true, res_ok_bind]

/-! ### What an M word that stands holds (R191, R226)

Noting a version may raise rebuild runs and stop a context for a gang at the head of its level; no core's stand inside an M word is touched. -/

/-- t has the current core of s, and every core stands inside its M word as in s. -/
structure State.SameHolds (s t : State) : Prop where
  cur : t.cur = s.cur
  within : ∀ k, (t.coreOf k).within = (s.coreOf k).within

theorem State.SameHolds.refl (s : State) : s.SameHolds s := ⟨rfl, fun _ => rfl⟩

theorem State.SameHolds.after {s t u : State} (k : t.SameHolds u) (h : s.SameHolds t) : s.SameHolds u :=
  ⟨k.cur.trans h.cur, fun j => (k.within j).trans (h.within j)⟩

theorem State.SameHolds.of_eq {s t : State} (hcur : t.cur = s.cur) (hcores : t.cores = s.cores) : s.SameHolds t :=
  ⟨hcur, fun k => by rw [State.coreOf, hcores, State.coreOf]⟩

theorem State.SameHolds.ite {c : Prop} [Decidable c] {s t u : State} (ht : s.SameHolds t) (hu : s.SameHolds u) :
    s.SameHolds (if c then t else u) := by
  split
  · exact ht
  · exact hu

theorem State.SameHolds.current {s t : State} (h : s.SameHolds t) : t.core.within = s.core.within := by
  rw [State.core, h.cur, h.within, State.core]

theorem State.setCoreOf_sameHolds {s : State} {k : Nat} {c : CoreSt} (h : c.within = (s.coreOf k).within) : s.SameHolds (s.setCoreOf k c) := by
  refine ⟨rfl, fun j => ?_⟩
  rw [State.coreOf_setCoreOf]
  split
  next hj => rw [hj, h]
  next => rfl

theorem State.forEach_sameHolds {α : Type} {l : List α} {f : α → State → State} {s : State} (h : ∀ a s, State.SameHolds s (f a s)) :
    s.SameHolds (s.forEach l f) :=
  State.forEach_inv (P := fun t => s.SameHolds t) (.refl s) fun a _ t ht => (h a t).after ht

theorem State.park_sameHolds (s : State) (t : Strm) : s.SameHolds (s.park t) := by
  rw [State.park_eq]
  exact State.setCoreOf_sameHolds (CoreSt.setStrm_within ..)

theorem State.raiseRebuilds_sameHolds (s : State) (x : Nat) : s.SameHolds (s.raiseRebuilds x) :=
  State.forEach_sameHolds fun _ u => .ite (.ite (.of_eq rfl rfl) (.of_eq rfl rfl)) (.refl u)

theorem State.onSaved_sameHolds (s : State) (x l : Nat) {f : CoreSt → CoreSt} (hf : ∀ c, (f c).within = c.within) :
    s.SameHolds (s.onSaved x l f) := by
  unfold State.onSaved
  dsimp only
  split
  next =>
    split
    next => exact State.setCoreOf_sameHolds (hf _)
    next => exact .refl s
  next => exact .ite (.of_eq rfl rfl) (.refl s)
  next => exact .ite (.of_eq rfl rfl) (.refl s)
  next => exact .of_eq rfl rfl

theorem State.breakTask_sameHolds (s : State) (i : Nat) (st : Option GroupState) : s.SameHolds (s.breakTask i st) := by
  unfold State.breakTask State.endGroupWaits
  split
  next => exact .refl s
  next =>
    split
    next => exact .refl s
    next =>
      extract_lets g u
      have hu : s.SameHolds (s.setTask i u) := .of_eq rfl rfl
      split
      next => exact hu
      next => exact .after (State.forEach_sameHolds fun _ _ => State.setCoreOf_sameHolds rfl) hu

theorem State.setAside_sameHolds (s : State) (core : Nat) : s.SameHolds (s.setAside core) := by
  unfold State.setAside
  dsimp only
  split
  next => exact State.setCoreOf_sameHolds (CoreSt.setStrm_within ..)
  next => exact .refl s

theorem State.dropSend_sameHolds (s : State) (core : Nat) : s.SameHolds (s.dropSend core) := .of_eq rfl rfl

theorem State.dropWaits_sameHolds (s : State) (core : Nat) : s.SameHolds (s.dropWaits core) := by
  unfold State.dropWaits
  extract_lets c w u v y
  have hu : s.SameHolds u := State.setCoreOf_sameHolds rfl
  have hv : u.SameHolds v := u.setAside_sameHolds core
  have hy : v.SameHolds y := .after (State.dropSend_sameHolds _ core) (State.forEach_sameHolds fun _ _ => .of_eq rfl rfl)
  exact State.SameHolds.after (t := y) (.of_eq rfl rfl) (hy.after (hv.after hu))

theorem State.setCtxOf_sameHolds (s : State) (x : Nat) (c : Ctx) : s.SameHolds (s.setCtxOf x c) := .of_eq rfl rfl

theorem State.sendFirst_sameHolds (s : State) (c : Ctx) (x code : Nat) : s.SameHolds (s.sendFirst c x code) :=
  .ite (.ite (.of_eq rfl rfl) (.of_eq rfl rfl)) (.refl s)

theorem State.breakGroups_sameHolds (s : State) (x : Nat) : s.SameHolds (s.breakGroups x) :=
  State.forEach_sameHolds fun i u => u.breakTask_sameHolds i none

/-- A cause of another class than 13 stops a context without a word on the barriers it has yet to arrive at. -/
theorem State.stopCtx_sameHolds (s : State) (x : Nat) {code : Nat} (hcode : ¬ code / 32 = 13) : s.SameHolds (s.stopCtx x code) := by
  unfold State.stopCtx
  rw [if_neg hcode]
  refine .after (State.sendFirst_sameHolds ..) (.after (State.setCtxOf_sameHolds _ x _) ?_)
  exact .after (State.forEach_sameHolds fun c u => u.dropWaits_sameHolds c.2) (s.breakGroups_sameHolds x)

theorem CoreSt.record_within (c : CoreSt) (lc : Nat) (w : Site) (code addr detail : Nat) (hnd : Bool) :
    (c.record lc w code addr detail hnd).within = c.within := by
  simp only [CoreSt.record, CoreSt.setCsr_within]

theorem State.raiseCtx_sameHolds (s : State) (x : Nat) {code : Nat} (addr detail lcore : Nat) (hcode : ¬ code / 32 = 13) :
    s.SameHolds (s.raiseCtx x code addr detail lcore) := by
  have written : s.SameHolds (if (s.ctxOf x).stop.isSome then s
      else s.onSaved x 0 (fun c => c.record lcore ⟨6, 0, 0, 0, 0⟩ code addr detail false)) :=
    .ite (.refl s) (s.onSaved_sameHolds x 0 fun _ => CoreSt.record_within ..)
  refine .ite (.refl s) (.ite (.after (State.stopCtx_sameHolds _ x hcode) written) ?_)
  rw [if_neg hcode]
  exact .after (State.sendFirst_sameHolds ..) (.after (State.setCtxOf_sameHolds _ x _) (.after (State.breakGroups_sameHolds _ x) written))

theorem State.checkHeads_sameHolds (s : State) (x : Nat) : s.SameHolds (s.checkHeads x) :=
  .ite (s.raiseCtx_sameHolds x 0 0 0 (by decide)) (.refl s)

theorem State.noteVer_sameHolds (s : State) (t : Strm) (h v : Nat) : s.SameHolds (s.noteVer t h v) := by
  unfold State.noteVer
  split
  next =>
    have hnoted : s.SameHolds (s.setCore { s.core with wver := (t, h, v) :: s.core.wver }) := State.setCoreOf_sameHolds rfl
    exact .ite (.after (State.checkHeads_sameHolds ..) (.after (State.raiseRebuilds_sameHolds ..) hnoted)) (.refl s)
  next => exact .refl s

/-- A word that stands inside its work has a number; what else it holds stays. -/
theorem State.standM_within {s : State} {h : MHold} (hw : s.core.within = some h) :
    ∃ n, s.standM.core.within = some { h with num := some n } := by
  simp only [State.standM, hw]
  split
  next hn =>
    obtain ⟨n, hn⟩ := Option.isSome_iff_exists.1 hn
    exact ⟨n, by rw [hw, ← hn]⟩
  next => exact ⟨_, by rw [State.core_setCore]⟩

/-! ### MRET (R203, R204, R226 to R231) -/

section
variable {s u : State} {w : W192} {kth : Word}

/-- An MRET that waits inside a replay keeps its threshold. -/
theorem State.mretStand_wait (hs : s.core.mstop = false) : s.mretStand kth .wait =
    (s.setCore { s.core with within := some ⟨none, none, some kth, s.core.standNum .M, none⟩ }, some .wait) := by
  simp [State.mretStand, hs]

/-- One that takes a cause before it has a number keeps nothing. -/
theorem State.mretStand_cause {c a d : Nat} (hnum : s.core.standNum .M = none) :
    s.mretStand kth (.cause c a d) = (s.setCore { s.core with within := none }, some (.cause c a d)) := by
  simp [State.mretStand, hnum]

theorem mretBody_outside (hf : (s.tl w.tile.toNat).f = false) : mretBody w s = (s, some (.cause 0x0A6 0 0)) := by
  simp [mretBody, hf]

/-- The state in which the checks of an MRET on tile k begin: the bound of its tile is folded, and so are the compensation terms of level 2. -/
def State.mretStart (s : State) (k : Nat) : State := s.setTl k (if (s.tl k).fold.lvl = 2 then (s.tl k).fold.foldComp else (s.tl k).fold)

/-- An MRET that its checks and replays stop, or then its limits, stands. -/
theorem mretBody_stopped {y : Stop} {x : Option Stop} (hf : (s.tl w.tile.toNat).f = true)
    (hl : State.mretLoop w.tile.toNat w.reissue.toNat (s.kthOf w) 6 (s.mretStart w.tile.toNat) = (u, x))
    (hy : x = some y ∨ x = none ∧ (u.tl w.tile.toNat).limitsOk = .error y) : mretBody w s = u.mretStand (s.kthOf w) y := by
  rw [State.mretStart] at hl
  rcases hy with rfl | ⟨rfl, hlim⟩
  · simp [mretBody, hf, hl]
  · simp [mretBody, hf, hl, hlim]

/-- An MRET that passes them ends its loop, but for a word that keeps it open. -/
theorem mretBody_passed (hf : (s.tl w.tile.toNat).f = true)
    (hl : State.mretLoop w.tile.toNat w.reissue.toNat (s.kthOf w) 6 (s.mretStart w.tile.toNat) = (u, none))
    (hlim : (u.tl w.tile.toNat).limitsOk = .ok ()) {v : State} (hv : v = if w.acc then u else u.closeLoop w.tile.toNat) :
    mretBody w s = (v.setCore { v.core with cost := 0, within := none, mstop := v.stopping }, none) := by
  rw [State.mretStart] at hl
  subst hv
  simp [mretBody, hf, hl, hlim]

end

/-- An MRET that waits may note the version its replay reloads, which leaves what it holds. -/
theorem mretWord_holds : Claims.mretWord := by
  rintro s s' u w m k t rfl rfl he
  refine ⟨fun hf => (exec_mret w s).trans (matrixWord_raised he (mretBody_outside hf)), ?_⟩
  rintro kth x hf rfl hl
  refine ⟨?passed, ?waits, ?cause⟩
  case passed =>
    rintro v rfl hlim hv
    exact (exec_mret w s).trans (matrixWord_issued he (mretBody_passed hf hl hlim hv))
  case waits =>
    rintro rfl hs
    have hb := (mretBody_stopped hf hl (.inl rfl)).trans (State.mretStand_wait hs)
    obtain ⟨n, hn⟩ := State.standM_within (s := u.setCore { u.core with within := _ }) (by rw [State.core_setCore])
    refine ⟨_, n, (exec_mret w s).trans (matrixWord_waits he hb), ?_⟩
    refine (State.SameHolds.current (.ite (.refl _) ?_)).trans hn
    exact .after (.ite (State.noteVer_sameHolds ..) (.refl _)) (State.park_sameHolds _ .M)
  case cause =>
    intro c a d hy hnum
    exact (exec_mret w s).trans (matrixWord_raised he ((mretBody_stopped hf hl (by simpa using hy)).trans (State.mretStand_cause hnum)))

/-! ### Drains, spills, fills, records and checks of blocks (R208, R212 to R214, R234) -/

theorem tileMoveWords_holds : Claims.tileMoveWords := by
  rintro s s' w m k f t rfl rfl rfl he
  refine ⟨?mdrain, ?mdrainRegister, ?mspill, ?mfill, ?mstat, ?mchk⟩
  case mdrain =>
    rintro a b rs os im sc u hv hf hint hfp hsum rfl rfl rfl hos him hsc rfl
    have hfmt : (if (s'.tl w.tile.toNat).fold.int then w.afmt.toNat == 5 || w.afmt.toNat == 0 else w.afmt.toNat != 5) = true := by
      split
      next hi => simpa using hint hi
      next hi => simpa using hfp (by simpa using hi)
    refine (exec_mdrain w s).trans (plainMatrix_issued he ?_)
    simp only [hv, hf, hfmt, hsum, hos, ← him, Bool.not_false, need_true, res_ok_bind]
    cases hscales : im.scales with
    | none =>
      simp only [hscales, Except.ok.injEq] at hsc
      simp only [hsc]
    | some b8 =>
      simp only [hscales] at hsc
      simp only [hsc, res_ok_bind]
  case mdrainRegister =>
    rintro x q u c hv hf hfmt rfl rfl hsum rfl rfl
    refine (exec_mdrainRegister w s).trans (plainMatrix_issued he ?_)
    simp only [hv, hf, hfmt, hsum, BEq.rfl, Bool.not_false, need_true, res_ok_bind]
  case mspill =>
    rintro o u b hf hsum ho rfl rfl
    refine (exec_mspill w s).trans (plainMatrix_issued he ?_)
    simp only [hf, hsum, ho, Bool.not_false, need_true, res_ok_bind]
  case mfill =>
    rintro o r e hf ho rfl hr rfl
    refine (exec_mfill w s).trans (plainMatrix_issued he ?_)
    simp only [hf, ho, hr, Bool.not_false, need_true, res_ok_bind, State.core_setCore]
    rfl
  case mstat =>
    intro o ho
    refine (exec_mstat w s).trans (plainMatrix_issued he ?_)
    simp only [ho, res_ok_bind]
  case mchk =>
    intro b p n hb hp hn hwin hlen hcheck hblocks
    have hin : (!(bits p 63 60 == 1 && (bits p 59 21 != 0 || decide (0x180000 < winOff 1 p + w.kcount.toNat * n)))) = true := by
      simp [hwin, Nat.not_lt.2 hlen]
    have hnone : (List.range w.kcount.toNat).find? (fun i => !s'.core.blockSumsOk w.bfmt.toNat (winOff 1 p + i * n)) = none :=
      List.find?_eq_none.2 fun i hi => by simp [hblocks i (List.mem_range.1 hi)]
    refine (exec_mchk w s).trans (plainMatrix_issued he ?_)
    simp only [← hb, ← hp, ← hn, hin, hcheck, hnone, need_true, res_ok_bind]

/-- Settles O37. -/
theorem tileControlWords : Obligations.TileControlWords := ⟨tileSetupWords_holds, mretWord_holds, tileMoveWords_holds⟩

end Sys2Proof.Machine

/-! ## The segment words of the vector stream (O35) -/

namespace Sys2Proof.Machine

open Claims

/-! ### Vectors made lane by lane -/

theorem vgen_getElem? (g : Nat → W32) (k n i : Nat) (hi : i < n) : (vgen g k n)[i]? = some (g (k + i)) := by
  induction n generalizing k i with
  | zero => omega
  | succ n ih =>
    cases i with
    | zero => rfl
    | succ i =>
      rw [vgen, List.getElem?_cons_succ, ih (k + 1) i (by omega)]
      congr 2
      omega

theorem lane_vgen (g : Nat → W32) {i : Nat} (hi : i < 128) : lane (vgen g 0 128) i = g i := by
  rw [lane, List.getD_eq_getElem?_getD, vgen_getElem? g 0 128 i hi, Nat.zero_add, Option.getD_some]

/-! ### Segment words whose record is at hand (R246, R250) -/

section
variable {s s' u : State} {w : W96} {m : Mask} {slot : Nat} {reads : Mask → List Rg} {r : BlzEnt} {res : List Wr} {lat : Option Nat}

/-- A segment word whose record stands in the blaze cache completes with the results of its body. -/
theorem segword_vectored {body : Mask → BlzEnt → List (Option Nat) → State → Res Eff} (he : enabled s .V (hd96 w) reads m s')
    (hr : s'.slotRec slot = .ok r)
    (hb : body m r ((List.range 128).map (fun i => segOf r.tab (s'.segPos i))) s' = .ok { s := u, res := res, lat := lat }) :
    segword w slot reads body s = vectored w 0 s' u res lat :=
  vword_vectored he (by rw [hr, res_ok_bind, hb])

/-- What VSRED's gather form gives lane q when lane 0 lies in segment g (R251): the value of segment g + q, and past the last segment the
value of no lane. -/
def gatherRed (red : Mask → W32) (m : Mask) (segs : List (Option Nat)) (nb g q : Nat) : W32 :=
  if g + q < nb then red (segLanes m segs (g + q)) else red 0

theorem exec_vsred_gather {a : Vec × Nat} {g : Nat} (he : enabled s .V (hd96 w) (fun m => srcRegs m w.a ++ [rg 2 1]) m s')
    (hr : s'.slotRec w.d.imm = .ok r) (ha : vsrc s' w.a = .ok a) (hvar : w.var ≠ 0) (hg : segOf r.tab (s'.segPos 0) = some g) :
    exec (.vsred w) s = vectored w 0 s' s' (⟨0, w.d.num, m, .vec (vgen (gatherRed (fun l => segRed w.b.imm w.fmt.toNat w.rm.toNat l a.1) m
      ((List.range 128).map (fun i => segOf r.tab (s'.segPos i))) r.tab.length g) 0 128)⟩ :: postUpdates s'.core .V [w.a])
      (vlat 12 [a.2]) := by
  refine (exec_vsred w s).trans (segword_vectored he hr ?_)
  simp only [ha, hvar, hg, res_ok_bind, ↓reduceIte]
  rfl

end

/-- Settles O35: with the record at hand, the body of each word answers the claimed results; the vectors that VSRED gathers and that VSLEN and
VBLZ write are given lane by lane. -/
theorem segmentWords : Obligations.SegmentWords := by
  rintro s s' w m r segs rfl
  refine ⟨fun hr => ⟨fun a he ha => ⟨fun hvar => ?spread, fun g hvar hg => ?gathered, ?vsscan, ?vsnorm⟩, fun he => ?vslen, fun he => ?vblz⟩,
    fun hr he => ?vsmask⟩
  case spread =>
    refine (exec_vsred w s).trans (segword_vectored he hr ?_)
    simp only [ha, hvar, res_ok_bind, ↓reduceIte]
  case gathered =>
    refine ⟨_, exec_vsred_gather he hr ha hvar hg, fun q hq hlen => ?_⟩
    rw [lane_vgen _ hq, gatherRed, if_pos hlen]
  case vsscan =>
    refine (exec_vsscan w s).trans (segword_vectored he hr ?_)
    simp only [ha, res_ok_bind]
  case vsnorm =>
    refine (exec_vsnorm w s).trans (segword_vectored he hr ?_)
    simp only [ha, res_ok_bind]
  case vslen =>
    refine ⟨_, (exec_vslen w s).trans (segword_vectored he hr rfl), fun i g st hi hg hst => ?_, fun i hi hnone => ?_⟩
    · rw [lane_vgen _ hi]
      simp only [hg, hst]
    · rw [lane_vgen _ hi]
      simp only [hnone]
  case vblz =>
    refine ⟨_, (exec_vblz w s).trans (segword_vectored he hr rfl), ?_⟩
    rintro i n hi rfl
    rw [lane_vgen _ hi]
  case vsmask => exact (exec_vsmask w s).trans (segword_vectored he hr rfl)

end Sys2Proof.Machine

/-! ## Ordering words and markers (O20) -/

namespace Sys2Proof.Machine

open Claims

/-! ### MARK, FENCE, TLRD and TLWAIT (R263, R264, R268, R269) -/

section
variable {s : State}

theorem execFence_passed {f sc : BitVec 5} (h1 : 1 ≤ f.toNat) (h3 : f.toNat ≤ 3) (hs : sc.toNat ≤ 4)
    (hr : f = 1 ∨ s.core.releaseReady .C sc.toNat = true) :
    execFence f sc s = .next (s.setC (s.c.fence sc.toNat f.toNat)).retire.flushPosts := by
  simp only [execFence, h1, h3, hs, hr, and_self, decide_true, need_true, await_true, res_ok_bind, finish_ok, thenPosts]

theorem execTlrd_wrote {d : Reg} {c : BitVec 7} (hd : ready s d) (hc : tlExists c.toNat = true) (sel : Bool) :
    execTlrd d sel c s = wrote s d (BitVec.ofNat 64 (if sel then (s.timeline c.toNat).1 else (s.timeline c.toNat).2)) := by
  simp only [execTlrd, hc, need_true, res_ok_bind, State.wr_ready _ hd, finish_ok, wrote]

theorem execTlwait_zero {a : Reg} {c : BitVec 7} (ha : ready s a) (hc : tlExists c.toNat = true) (h0 : s.core.sreg a = 0) :
    execTlwait a c s = retired s := by
  simp only [execTlwait, hc, need_true, res_ok_bind, State.rd_ready ha, if_pos h0, finish_ok, retired]

theorem execTlwait_completed {a : Reg} {c : BitVec 7} (ha : ready s a) (hc : tlExists c.toNat = true) (h0 : s.core.sreg a ≠ 0)
    (hi : 64 ≤ c.toNat ∨ (s.core.sreg a).toNat ≤ (s.timeline c.toNat).1) (hdone : (s.core.sreg a).toNat ≤ (s.timeline c.toNat).2) :
    execTlwait a c s = retired (s.setC s.c.acquire) := by
  simp only [execTlwait, hc, need_true, res_ok_bind, State.rd_ready ha, if_neg h0, decide_eq_true hi, decide_eq_true hdone, await_true, finish_ok,
    retired]

theorem orderingWords_holds : Claims.orderingWords := fun _ _ _ sel _ _ _ hd ha =>
  ⟨rfl, execFence_passed, fun hc => ⟨execTlrd_wrote hd hc sel, execTlwait_zero ha hc, execTlwait_completed ha hc⟩⟩

end

/-! ### PHMARK (R271, R274, R293) -/

/-- The phase of a record is one of its four bytes. -/
theorem State.bar_phase_lt (s : State) (b : Nat) : (s.bar b).phase < 2 ^ 32 := by
  have hle (l : List Byte) : leNat l < 256 ^ l.length := by
    induction l with
    | nil => decide
    | cons x r ih => rw [leNat, List.length_cons, Nat.pow_succ]; have := x.isLt; omega
  exact (hle _).trans_eq (by rw [getBytes_length]; rfl)

/-- A core whose earlier PHMARKs have closed no phase from the barrier's on closes the barrier's. -/
theorem State.markPhase_first {s : State} {b : Nat} (hnone : s.core.marks.all (fun e => e.bar != b) = true)
    (hpast : ∀ q, find? s.core.marked b = some q → 2 ^ 31 ≤ (q + 2 ^ 32 - (s.bar b).phase) % 2 ^ 32) : s.markPhase b = (s.bar b).phase := by
  have howed : s.core.marks.filter (fun e => e.bar == b) = [] :=
    List.filter_eq_nil_iff.2 fun e he => by simpa using List.all_eq_true.1 hnone e he
  have hlt := s.bar_phase_lt b
  unfold State.markPhase
  cases hq : find? s.core.marked b with
  | none => simp only [howed, List.length_nil, Nat.max_self, Nat.add_zero, Nat.mod_eq_of_lt hlt]
  | some q =>
    have := hpast q hq
    simp only [howed, List.length_nil, if_neg (Nat.not_lt.2 this), Nat.max_self, Nat.add_zero, Nat.mod_eq_of_lt hlt]

/-- One that has closed the barrier's phase closes the next, whether its marker has arrived or not. -/
theorem State.markPhase_next {s : State} {b : Nat} (howed : (s.core.marks.filter (fun e => e.bar == b)).length ≤ 1)
    (hlast : find? s.core.marked b = some (s.bar b).phase) : s.markPhase b = ((s.bar b).phase + 1) % 2 ^ 32 := by
  unfold State.markPhase
  simp only [hlast, Nat.add_sub_cancel_left, Nat.mod_self, Nat.reducePow, Nat.reduceLT, if_true, Nat.zero_add, Nat.max_eq_right howed]

/-- The state in which a PHMARK has taken its number and what has landed unclaimed belongs to its phase. -/
def State.claimed (s : State) (b phase : Nat) (m : BitVec 7) : State :=
  let u := (s.tlc.2.touch s.tlc.2.ctxNo [engineDie b]).claimLanded b phase
    (fun q => (q == 0 && m.getLsbD 0) || (q == 4 && m.getLsbD 4) || (q == 5 && m.getLsbD 5))
  if m.getLsbD 5 then u.claimCopies b phase else u

/-- A core on which a PHMARK has left marker e: what the queues it names hold unclaimed belongs to its phase. -/
def CoreSt.withMarker (c : CoreSt) (b phase : Nat) (m : BitVec 7) (e : MarkEnt) : CoreSt :=
  let c := if m.getLsbD 0 then { c with cS := claimPhase b phase c.cS } else c
  let c := if m.getLsbD 4 then { c with sS := claimPhase b phase c.sS } else c
  { c with marks := c.marks ++ [e], marked := setKey c.marked b phase, cS := { c.cS with seq := c.cS.seq + 1 } }

/-- Claiming for a phase leaves the core that has taken its number, and memory. -/
theorem State.claimed_leaves (s : State) (b phase : Nat) (m : BitVec 7) :
    (s.claimed b phase m).core = { s.core with cS := s.c.takeNum } ∧ (s.claimed b phase m).mem = s.mem := by
  have htlc : s.tlc.2.core = { s.core with cS := s.c.takeNum } := State.core_setCore ..
  have hcore : (s.tlc.2.touch s.tlc.2.ctxNo [engineDie b]).core = { s.core with cS := s.c.takeNum } := (State.touch_core ..).trans htlc
  have hmem : (s.tlc.2.touch s.tlc.2.ctxNo [engineDie b]).mem = s.mem := State.touch_mem ..
  unfold State.claimed
  dsimp only
  split <;> exact ⟨hcore, hmem⟩

/-- A marker leaves the registers of its core and is the last of its markers. -/
theorem CoreSt.withMarker_leaves (c : CoreSt) (b phase : Nat) (m : BitVec 7) (e : MarkEnt) :
    (c.withMarker b phase m e).marks = c.marks ++ [e] ∧ (c.withMarker b phase m e).marked = setKey c.marked b phase ∧
    (c.withMarker b phase m e).cS.issued = c.cS.issued ∧ (c.withMarker b phase m e).sregs = c.sregs := by
  unfold CoreSt.withMarker
  cases m.getLsbD 0 <;> cases m.getLsbD 4 <;> exact ⟨rfl, rfl, rfl, rfl⟩

theorem execPhmark_marked {s : State} {a : Reg} {m : BitVec 7} {b phase : Nat} (hm : m ≠ 0) (ha : ready s a) (hst : s.c.stReady = true)
    (hb : s.barPtr (s.core.sreg a).toNat 0x142 = .ok b) (hopen : s.barOpen b = true) (hphase : s.markPhase b = phase)
    (hnear : (phase + 2 ^ 32 - (s.bar b).phase) % 2 ^ 32 ≤ 1) (hmask : (s.bar b).mmask &&& m.toNat = (s.bar b).mmask) :
    execPhmark a m s = retired ((s.claimed b phase m).setCore
      ((s.claimed b phase m).core.withMarker b phase m (s.tlc.2.markNow b phase (s.c.issued + 1) m.toNat))) := by
  simp only [execPhmark, decide_eq_true hm, need_true, res_ok_bind, State.rd_ready ha, hst, await_true, hb, hopen, needAt_true, hphase,
    decide_eq_true hnear, beq_iff_eq.2 hmask, finish_ok]
  rfl

theorem phmarkWord_holds : Claims.phmarkWord := by
  rintro s a m b cur phase hm ha hst hb hopen rfl hor hmask
  have hlt := s.bar_phase_lt b
  have hphase : s.markPhase b = phase ∧ (phase + 2 ^ 32 - (s.bar b).phase) % 2 ^ 32 ≤ 1 := by
    obtain ⟨hnone, hpast, rfl⟩ | ⟨howed, hlast, rfl⟩ := hor
    · exact ⟨State.markPhase_first hnone hpast, by omega⟩
    · exact ⟨State.markPhase_next howed hlast, by omega⟩
  obtain ⟨hcore, hmem⟩ := s.claimed_leaves b phase m
  obtain ⟨hmarks, hmarked, hissued, hsregs⟩ :=
    (s.claimed b phase m).core.withMarker_leaves b phase m (s.tlc.2.markNow b phase (s.c.issued + 1) m.toNat)
  have htlc : s.tlc.2.core = { s.core with cS := s.c.takeNum } := State.core_setCore ..
  refine ⟨_, s.tlc.2.markNow b phase (s.c.issued + 1) m.toNat, execPhmark_marked hm ha hst hb hopen hphase.1 hphase.2 hmask, ?_, rfl, rfl, ?_,
    rfl, rfl, ?_, ?_, ?_, ?_, ?_, ?_, hmem, fun r => ?_⟩
  · rw [State.core_setCore, hmarks, hcore]
  · rw [State.core_setCore, hmarked, find?_setKey, if_pos rfl]
  · exact congrArg (fun c => c.cS.seq) htlc
  · exact congrArg (fun c => c.lS.seq) htlc
  · exact congrArg (fun c => c.sS.seq) htlc
  · exact congrArg (fun c => c.vS.issued) htlc
  · exact congrArg (fun c => c.mS.issued) htlc
  · rw [State.c, State.core_setCore, hissued, hcore]
    rfl
  · rw [State.core_setCore, CoreSt.sreg, hsregs, hcore]
    rfl

/-- Settles O20. -/
theorem orderingWordsAndMarkers : Obligations.OrderingWordsAndMarkers := ⟨orderingWords_holds, phmarkWord_holds⟩

end Sys2Proof.Machine

/-! ## Stores and atomics that perform (O39, O40) -/

namespace Sys2Proof.Machine

open Claims

/-! ### What a performed element leaves (R261, R303, R383) -/

/-- Ending waits changes the cores, the tables of waits and the wake messages alone. -/
theorem State.evalWaits_field {β : Type} (p : State → β) (hp : ∀ (t : State) c d w, p { t with cores := c, dies := d, wakes := w } = p t)
    (s : State) (g : List Seg) : p (s.evalWaits g) = p s := by
  have hsend (t : State) (ws : List WaitEnt) : p (t.sendWakes ws) = p t := by
    have hloop (f : WaitEnt → State → State) (hf : ∀ w u, p (f w u) = p u) (l : List WaitEnt) (u : State) : p (u.forEach l f) = p u :=
      State.forEach_inv (P := fun v => p v = p u) rfl fun w _ v hv => (hf w v).trans hv
    have hwake := hloop (fun w u => u.wake w.core (BitVec.ofNat 64 (u.readN w.pa 8))) fun w u => hp u _ u.dies u.wakes
    have hhold := hloop (fun w u => u.setCoreOf w.core { u.coreOf w.core with wait := .sending (BitVec.ofNat 64 (u.readN w.pa 8)) })
      fun w u => hp u _ u.dies u.wakes
    unfold State.sendWakes
    dsimp only
    split
    · exact hwake ..
    · exact (hp _ _ _ _).trans ((hhold ..).trans (hwake ..))
  refine State.forN_inv (P := fun u => p u = p s) rfl fun d _ u hu => ?_
  dsimp only
  split
  · exact hu
  · exact (hsend ..).trans ((hp u u.cores _ u.wakes).trans hu)

/-- t has the places of s, the versions that its writes are admitted to, and what its streams still hold: what the performing of a piece depends
on besides memory. -/
structure State.SameHomes (s t : State) : Prop where
  lost : ∀ pa, t.homeLost pa = s.homeLost pa
  poison : t.poison = s.poison
  ctxs : t.ctxs = s.ctxs
  kernels : t.kernels = s.kernels
  streams : s.SameStreams t

theorem State.SameHomes.refl (s : State) : s.SameHomes s := ⟨fun _ => rfl, rfl, rfl, rfl, .refl s⟩

theorem State.SameHomes.trans {s t u : State} (h : s.SameHomes t) (k : t.SameHomes u) : s.SameHomes u :=
  ⟨fun pa => (k.lost pa).trans (h.lost pa), k.poison.trans h.poison, k.ctxs.trans h.ctxs, k.kernels.trans h.kernels, h.streams.trans k.streams⟩

section
variable {s t : State} {e : StoreElem}

theorem State.SameHomes.tagHolds (h : s.SameHomes t) (g : VerTag) : t.tagHolds g = s.tagHolds g := by
  unfold State.tagHolds State.poolOf State.ctxOf
  rw [h.ctxs]

theorem State.SameHomes.imageSegs (h : s.SameHomes t) : t.imageSegs = s.imageSegs := by unfold State.imageSegs; rw [h.kernels]

theorem State.SameHomes.atHome (h : s.SameHomes t) (he : Claims.atHome s e) : Claims.atHome t e := by
  obtain ⟨hp, hlost, hwhole⟩ := he
  refine ⟨hp, ?_, ?_⟩
  · simpa only [h.lost] using hlost
  · unfold State.placePoisoned State.poisoned at hwhole ⊢
    rw [h.poison]
    exact hwhole

theorem State.SameHomes.standing (h : s.SameHomes t) (he : Claims.standing s e) : Claims.standing t e := by
  refine ⟨h.atHome he.1, ?_⟩
  rw [show t.tagHolds = s.tagHolds from funext h.tagHolds]
  exact he.2

theorem State.SameHomes.pieceMem (h : s.SameHomes t) (m : List Host.Cell) (e : StoreElem) : Claims.pieceMem t m e = Claims.pieceMem s m e := by
  unfold Claims.pieceMem
  rw [h.imageSegs]
  rfl

end

theorem State.perform_sameHomes (s : State) (g : List Seg) (bs : List Byte) : s.SameHomes (s.perform g bs) := by
  have hfield {β : Type} (p : State → β) (hp : ∀ (t : State) c d w, p { t with cores := c, dies := d, wakes := w } = p t) :=
    State.evalWaits_field p hp { s with mem := storeAround s.mem s.imageSegs g bs } g
  have hstreams := State.evalWaits_sameStreams { s with mem := storeAround s.mem s.imageSegs g bs } g
  refine ⟨fun pa => ?_, hfield State.poison fun _ _ _ _ => rfl, hfield State.ctxs fun _ _ _ _ => rfl, hfield State.kernels fun _ _ _ _ => rfl,
    hstreams.cur, hstreams.strm⟩
  have hs := s.perform_sameService g bs
  unfold State.homeLost
  split
  · exact hs.1 _
  · rfl

theorem State.giveBack_sameHomes (s : State) (k : Nat) (d : Option Nat) (v : Word) : s.SameHomes (s.giveBack k d v) := by
  unfold State.giveBack
  split
  · refine ⟨fun _ => rfl, rfl, rfl, rfl, ⟨rfl, fun j u => ?_⟩⟩
    rw [State.coreOf_setCoreOf]
    split
    next hj => rw [hj, CoreSt.strm_setSreg]
    next => rfl
  · exact .refl s

theorem State.atomAt_eq (s : State) (g : List Seg) (op : Nat) (wide : Bool) (b c : Word) {w : Nat} (hw : w = if wide then 64 else 32) :
    s.atomAt g op wide b c = (leNat (s.readSegs g), if op = 9 ∧ leNat (s.readSegs g) ≠ c.toNat % 2 ^ w then s
      else s.perform g (toLE (w / 8) (atomNew op w (leNat (s.readSegs g)) (b.toNat % 2 ^ w) (c.toNat % 2 ^ w)))) := by
  subst hw
  unfold State.atomAt
  dsimp only
  exact (apply_ite (Prod.mk _) ..).symm

theorem State.atomAt_sameHomes (s : State) (g : List Seg) (op : Nat) (wide : Bool) (b c : Word) : s.SameHomes (s.atomAt g op wide b c).2 := by
  rw [State.atomAt_eq s g op wide b c rfl]
  dsimp only
  generalize (if wide then 64 else 32) = w
  split
  · exact .refl s
  · exact s.perform_sameHomes ..

theorem State.sreg_giveBack (s : State) (k : Nat) {d : Reg} (v : Word) (hd : d ≠ 0) : ((s.giveBack k (some d.toNat) v).coreOf k).sreg d = v := by
  have hreg : BitVec.ofNat 5 d.toNat = d := by simp
  rw [State.giveBack, hreg, State.coreOf_setCoreOf, if_pos rfl, CoreSt.sreg_setSreg, if_pos rfl]
  exact if_neg hd

/-! ### One element at its home -/

section
variable {s : State} {e : StoreElem} {k x : Nat} {t : Strm} {ent : StoreEnt}

/-- Where an element at a place that stands goes: there, whatever it does. -/
theorem atHome_place (h : atHome s e) : ∃ q g, e.place = .phys q g ∧ g.any (fun c => s.homeLost c.pa) = false ∧ ∀ k, s.placeNow k e = .ok e.place := by
  obtain ⟨⟨q, g, hp⟩, hlost, hwhole⟩ := h
  refine ⟨q, g, hp, by rw [hp] at hlost; exact hlost, fun k => ?_⟩
  unfold State.placeNow
  split
  · exact State.refresh_whole _ _ _ hwhole
  · rfl

theorem doElem_write {d : List Byte} (h : atHome s e) (ho : e.op = .write d) : s.doElem k x t ent e =
    .ok (if e.tag.all s.tagHolds then s.perform e.place.segs d else s.stale x (ent.staleFor d.length)) := by
  obtain ⟨q, g, hp, hlost, hnow⟩ := atHome_place h
  simp only [State.doElem, hp, hlost, hnow, ho, res_ok_bind, Bool.false_eq_true, if_false]
  cases e.tag <;> rfl

theorem doElem_fma {fmt rm : Nat} {alpha src : W32} (h : atHome s e) (ho : e.op = .fma fmt rm alpha src) : s.doElem k x t ent e =
    .ok (if e.tag.all s.tagHolds then
      s.perform e.place.segs (toLE (fmtBytes fmt 1) (fmaElem fmt rm alpha src (leNat (s.readSegs e.place.segs)))) else s.stale x 1) := by
  obtain ⟨q, g, hp, hlost, hnow⟩ := atHome_place h
  simp only [State.doElem, hp, hlost, hnow, ho, res_ok_bind, Bool.false_eq_true, if_false]
  cases e.tag <;> rfl

theorem doElem_atom {op : Nat} {wide : Bool} {b cmp : Word} {dst : Option Nat} (h : atHome s e) (ho : e.op = .atom op wide b cmp dst) : s.doElem k x t ent e =
    .ok (if e.tag.all s.tagHolds then
      (s.atomAt e.place.segs op wide b cmp).2.giveBack k dst (atomRet wide (s.atomAt e.place.segs op wide b cmp).1)
      else (s.stale x 1).giveBack k dst (atomRet wide (leNat (s.readSegs e.place.segs)))) := by
  obtain ⟨q, g, hp, hlost, hnow⟩ := atHome_place h
  simp only [State.doElem, hp, hlost, hnow, ho, res_ok_bind, Bool.false_eq_true, if_false]
  cases e.tag <;> rfl

theorem doElem_dwrite {d : List Byte} {bar : Nat} {key : DKey} {ph : Option Nat} (h : atHome s e) (ho : e.op = .dwrite d bar key ph) :
    s.doElem k x t ent e = .ok (s.holdWrite k x t ent e d bar key ph) := by
  obtain ⟨q, g, hp, hlost, hnow⟩ := atHome_place h
  obtain ⟨place, op, tag, idx⟩ := e
  subst hp ho
  simp only [State.doElem, hlost, hnow, res_ok_bind, Bool.false_eq_true, if_false]

theorem doElem_ared {key lid pos bar p : Nat} {v : W32} {ph : Option Nat} {f : Bool} (h : atHome s e) (ho : e.op = .ared key lid pos v bar ph)
    (hph : s.landPhase bar ph = some (p, f)) : s.doElem k x t ent e = .ok { s with aheld := s.aheld ++
      [⟨bar, p, f, k, engineDie (segAddr e.place.segs 0), segAddr e.place.segs 0, key, lid, pos, v, x, e.tag⟩] } := by
  obtain ⟨q, g, hp, hlost, hnow⟩ := atHome_place h
  simp only [State.doElem, hp, hlost, hnow, ho, hph, res_ok_bind, Bool.false_eq_true, if_false]

theorem doElem_arrive {grp : Option Nat} {dst : Nat} (h : atHome s e) (ho : e.op = .arrive grp dst) :
    s.doElem k x t ent e = s.doArrive k x (segAddr e.place.segs 0) grp dst := by
  obtain ⟨q, g, hp, hlost, hnow⟩ := atHome_place h
  simp only [State.doElem, hp, hlost, hnow, ho, res_ok_bind, Bool.false_eq_true, if_false]

theorem doElem_qtag {q j : Nat} {rel : Bool} (h : atHome s e) (ho : e.op = .qtag q j rel) :
    s.doElem k x t ent e = s.doRing q j rel := by
  obtain ⟨q, g, hp, hlost, hnow⟩ := atHome_place h
  simp only [State.doElem, hp, hlost, hnow, ho, res_ok_bind, Bool.false_eq_true, if_false]

theorem doElem_qclaim {q dst : Nat} {nw ended : Bool} (h : atHome s e) (ho : e.op = .qclaim q nw dst ended) :
    s.doElem k x t ent e = s.doClaim k q nw dst ended := by
  obtain ⟨q, g, hp, hlost, hnow⟩ := atHome_place h
  simp only [State.doElem, hp, hlost, hnow, ho, res_ok_bind, Bool.false_eq_true, if_false]

/-! ### The pieces of an entry (R261, R262, R274, R383) -/

/-- Whether an operation changes the bytes of its place when it performs there. -/
def StoreOp.changes (o : StoreOp) : Prop := o.isWrite = true ∨ ∃ op wide b cmp dst, o = .atom op wide b cmp dst

/-- An atomic that stands combines its place with its operands and gives back what stood there. -/
theorem doElem_atom_standing {op : Nat} {wide : Bool} {b cmp : Word} {dst : Option Nat} (h : standing s e) (ho : e.op = .atom op wide b cmp dst) :
    s.doElem k x t ent e =
      .ok ((s.atomAt e.place.segs op wide b cmp).2.giveBack k dst (atomRet wide (leNat (s.readSegs e.place.segs)))) := by
  rw [doElem_atom h.1 ho, if_pos h.2, State.atomAt_eq _ _ op wide b cmp rfl]

/-- A piece that stands is performed: it changes its bytes as its operation says, and nothing that another piece depends on. -/
theorem doElem_standing (h : standing s e) (ho : e.op.changes) :
    ∃ u, s.doElem k x t ent e = .ok u ∧ u.mem = pieceMem s s.mem e ∧ s.SameHomes u := by
  have ⟨hhome, htag⟩ := h
  cases hop : e.op with
  | write d => exact ⟨_, (doElem_write hhome hop).trans (by rw [if_pos htag]), by rw [State.perform_mem, pieceMem, hop], s.perform_sameHomes ..⟩
  | fma fmt rm alpha src =>
    exact ⟨_, (doElem_fma hhome hop).trans (by rw [if_pos htag]), by rw [State.perform_mem, pieceMem, hop], s.perform_sameHomes ..⟩
  | atom op wide b cmp dst =>
    refine ⟨_, doElem_atom_standing h hop, ?_, (s.atomAt_sameHomes ..).trans (State.giveBack_sameHomes ..)⟩
    rw [State.giveBack_mem, State.atomAt_eq s _ op wide b cmp rfl, pieceMem, hop]
    refine (apply_ite State.mem ..).trans ?_
    rw [State.perform_mem]
  | _ => simp [StoreOp.changes, StoreOp.isWrite, hop] at ho

theorem dropped_of_tagHolds (h : e.tag.all s.tagHolds = true) : s.dropped e = false := by
  unfold State.dropped
  split
  next v _ htag => simpa [htag] using h
  next => rfl

theorem doPieces_cons {r : List StoreElem} {u : State} (hu : s.doElem k x t ent e = .ok u) (hd : s.dropped e = false) :
    State.doPieces k x t ent (e :: r) s = State.doPieces k x t ent r u := by
  rw [State.doPieces, hu, hd, Bool.and_false]
  rfl

/-- Pieces that stand are performed in order, all of them. -/
theorem doPieces_standing {l : List StoreElem} (hl : ∀ e ∈ l, standing s e ∧ e.op.changes) :
    ∃ v, State.doPieces k x t ent l s = ⟨v, [], false, none⟩ ∧ v.mem = l.foldl (pieceMem s) s.mem ∧ s.SameHomes v := by
  induction l generalizing s with
  | nil => exact ⟨s, rfl, rfl, .refl s⟩
  | cons e r ih =>
    obtain ⟨hstand, hop⟩ := hl e (.head r)
    obtain ⟨u, hu, hmem, hsame⟩ := doElem_standing (k := k) (x := x) (t := t) (ent := ent) hstand hop
    obtain ⟨v, hv, hvmem, hvsame⟩ := ih (s := u) fun y hy => ⟨hsame.standing (hl y (.tail e hy)).1, (hl y (.tail e hy)).2⟩
    refine ⟨v, (doPieces_cons hu (dropped_of_tagHolds hstand.2)).trans hv, ?_, hsame.trans hvsame⟩
    rw [hvmem, hmem, show pieceMem u = pieceMem s from funext fun m => funext fun y => hsame.pieceMem m y]
    rfl

/-- Pieces change no byte outside their places. -/
theorem look_pieces_ne {l : List StoreElem} {a : Nat} (ha : ∀ e ∈ l, outside e.place.segs a) (m : List Host.Cell) :
    look 0 (l.foldl (pieceMem s) m) a = look 0 m a := by
  have hpiece (e : StoreElem) (h : outside e.place.segs a) (m : List Host.Cell) : look 0 (pieceMem s m e) a = look 0 m a := by
    have hstore (bs : List Byte) := look_storeAround_ne m s.imageSegs e.place.segs bs a h
    have hunless (c : Prop) [Decidable c] (bs : List Byte) : look 0 (if c then m else storeAround m s.imageSegs e.place.segs bs) a = look 0 m a := by
      split
      · rfl
      · exact hstore bs
    unfold pieceMem
    dsimp only
    split
    · exact hstore _
    · exact hunless _ _
    · exact hstore _
    · rfl
  induction l generalizing m with
  | nil => rfl
  | cons e r ih => exact (ih (fun y hy => ha y (.tail e hy)) _).trans (hpiece e (ha e (.head r)) m)

/-- A single run of bytes outside the kernel images reads back as written. -/
theorem look_piece_written {p q n i : Nat} {d : List Byte} {tag : Option VerTag} (hn : d.length = n) (hi : i < n)
    (himg : overlap [⟨q, n⟩] s.imageSegs = false) (m : List Host.Cell) :
    look 0 (pieceMem s m ⟨.phys p [⟨q, n⟩], .write d, tag, x⟩) (q + i) = d.getD i 0 := by
  simp only [pieceMem, storeAround, Place.segs, himg, Bool.false_eq_true, if_false, storeSegs]
  rw [List.take_of_length_le hn.le]
  exact look_setBytes _ _ _ _ (hn ▸ hi)

end

/-! ### What is left of an entry in its queue -/

/-- The state in which pieces of an entry have been made and `rest` of it is left. -/
def State.leftWith (s : State) (core : Nat) (t : Strm) (win : Nat) (ent : StoreEnt) (made rest : List StoreElem) : State :=
  let c := s.coreOf core
  let c := match ent.kind, rest with
    | .tile (some k), [] => c.setTile k { c.tile k with stat := (c.tile k).stat &&& ~~~2#32 }
    | _, _ => c
  let m := c.strm t
  let m :=
    if rest.isEmpty ∧ win ≠ 6 then { m with stores := m.stores.filter (fun e => !(e.seq == ent.seq && e.win == win)) }.closeNum ent.tl
    else { m with stores := m.stores.map (fun e => if e.seq = ent.seq ∧ e.win = win ∧ !e.elems.isEmpty then
      { e with elems := rest, sent := e.sent ++ made.flatMap StoreElem.sent } else e) }
  s.setCoreOf core (c.setStrm t m)

section
variable {s v : State} {k win n : Nat} {t : Strm} {ent : StoreEnt} {f : StoreOp → Bool} {l r made : List StoreElem}

theorem sreg_leftWith (d : Reg) : ((v.leftWith k t win ent made r).coreOf k).sreg d = (v.coreOf k).sreg d := by
  unfold State.leftWith
  rw [State.coreOf_setCoreOf, if_pos rfl, CoreSt.sreg_setStrm]
  split <;> rfl

theorem StreamSt.closeNum_stores (m : StreamSt) (n : Nat) : (m.closeNum n).stores = m.stores := by unfold StreamSt.closeNum; split <;> rfl

theorem stores_leftWith (hwin : win ≠ 6) : (((v.leftWith k t win ent made r).coreOf k).strm t).stores =
    if r = [] then ((v.coreOf k).strm t).stores.filter (fun e => !(e.seq == ent.seq && e.win == win))
    else ((v.coreOf k).strm t).stores.map (fun e => if e.seq = ent.seq ∧ e.win = win ∧ !e.elems.isEmpty then
      { e with elems := r, sent := e.sent ++ made.flatMap StoreElem.sent } else e) := by
  have htile (c : CoreSt) (j : Nat) (x : Tile) : (c.setTile j x).strm t = c.strm t := by cases t <;> rfl
  unfold State.leftWith
  rw [State.coreOf_setCoreOf, if_pos rfl, CoreSt.strm_setStrm, if_pos rfl]
  cases r with
  | nil =>
    rw [if_pos ⟨rfl, hwin⟩, if_pos rfl, StreamSt.closeNum_stores]
    split
    · rw [htile]
    · rfl
  | cons e r =>
    rw [if_neg (fun h => Bool.false_ne_true h.1), if_neg (List.cons_ne_nil e r)]
    split
    next h => cases h
    next => rfl

/-- An entry of which nothing is left has gone; else what is left of it stands where it stood. -/
theorem leaves_leftWith (hwin : win ≠ 6)
    (hent : ((v.coreOf k).strm t).stores.find? (fun e => e.win == win && !e.elems.isEmpty) = some ent) :
    leaves (v.leftWith k t win ent made r) k t win ent r := by
  unfold leaves
  rw [stores_leftWith hwin]
  split
  case isTrue => exact fun x hx hsame => by simp [hsame] at hx
  case isFalse hr =>
    have hgo := List.find?_some hent
    obtain ⟨hw, hne⟩ := Bool.and_eq_true_iff.1 hgo
    rw [List.find?_map, show ((fun e : StoreEnt => e.win == win && !e.elems.isEmpty) ∘ fun e =>
      if e.seq = ent.seq ∧ e.win = win ∧ !e.elems.isEmpty then { e with elems := r, sent := e.sent ++ made.flatMap StoreElem.sent } else e) =
      fun e => e.win == win && !e.elems.isEmpty from ?_, hent, Option.map_some, Option.map_some, if_pos ⟨rfl, beq_iff_eq.1 hw, hne⟩]
    funext e
    dsimp only [Function.comp]
    split
    next h => simp [h, hr]
    next => rfl

/-! ### An event of a store queue -/

theorem performIf_next (h : nextStore s k t win n f ent l r) : s.performIf k t win n f = ((onto s k).performSome k t win n f).flushPosts := by
  obtain ⟨hold, hmay, -⟩ := h
  rw [State.performIf, hold]
  exact if_pos hmay

theorem find_of_oldest {m : StreamSt} (h : m.oldest win f = some ent) : m.stores.find? (fun e => e.win == win && !e.elems.isEmpty) = some ent := by
  unfold StreamSt.oldest at h
  split at h
  next e he =>
    split at h
    · exact he.trans h
    · cases h
  next => cases h

/-- Pieces made whole leave what is left of their entry: nothing, where an STT word has dropped one. -/
theorem performSome_made {b : Bool} (h : nextStore s k t win n f ent l r)
    (hl : State.doPieces k (s.ctxNoOf k) t ent l (onto s k) = ⟨v, [], b, none⟩) :
    (onto s k).performSome k t win n f = v.leftWith k t win ent l (if b then [] else r) := by
  obtain ⟨hold, -, hp⟩ := h
  have hfind : (((onto s k).coreOf k).strm t).stores.find? (fun e => e.win == win && !e.elems.isEmpty) = some ent := find_of_oldest hold
  have hl' : State.doPieces k ((onto s k).ctxNoOf k) t ent l (onto s k) = ⟨v, [], b, none⟩ := hl
  unfold State.performSome
  simp only [hfind, hp, hl', ite_self, List.nil_append, List.length_nil, Nat.sub_zero, List.take_length]
  rfl

theorem performIf_made (h : nextStore s k t win n f ent l r) (hl : State.doPieces k (s.ctxNoOf k) t ent l (onto s k) = ⟨v, [], false, none⟩) :
    s.performIf k t win n f = (v.leftWith k t win ent l r).flushPosts :=
  (performIf_next h).trans (congrArg State.flushPosts (performSome_made h hl))

/-- A first piece that meets a cause, or has to wait, makes nothing. -/
theorem performSome_fault {e : StoreElem} {c : Stop} (h : nextStore s k t win n f ent (e :: l) r)
    (he : (onto s k).doElem k (s.ctxNoOf k) t ent e = .error c) :
    (onto s k).performSome k t win n f = (onto s k).storeFault t ent e c := by
  obtain ⟨hold, -, hp⟩ := h
  have hfind : (((onto s k).coreOf k).strm t).stores.find? (fun e => e.win == win && !e.elems.isEmpty) = some ent := find_of_oldest hold
  have hl : State.doPieces k ((onto s k).ctxNoOf k) t ent (e :: l) (onto s k) = ⟨onto s k, e :: l, false, some (e, c)⟩ := by
    rw [State.doPieces, show (onto s k).ctxNoOf k = s.ctxNoOf k from rfl, he]
  unfold State.performSome
  simp only [hfind, hp, hl, if_true]

end

end Sys2Proof.Machine

namespace Sys2Proof.Machine

open Claims

/-! ### Atomics, ordered updates and contributions (R274, R283, R287) -/

section
variable {s : State} {k x win n : Nat} {t : Strm} {ent : StoreEnt} {f : StoreOp → Bool} {l r : List StoreElem} {e : StoreElem}

/-- An event whose pieces stand performs them all; what is left of the entry stays. -/
theorem performIf_standing (hnext : nextStore s k t win n f ent l r) (hl : ∀ e ∈ l, standing s e ∧ e.op.changes) (hwin : win ≠ 6) :
    ∃ u, State.doPieces k (s.ctxNoOf k) t ent l (onto s k) = ⟨u, [], false, none⟩ ∧
      s.performIf k t win n f = (u.leftWith k t win ent l r).flushPosts ∧ (u.leftWith k t win ent l r).mem = l.foldl (pieceMem s) s.mem ∧
      leaves (u.leftWith k t win ent l r) k t win ent r := by
  obtain ⟨u, hu, hmem, hsame⟩ := doPieces_standing (k := k) (x := s.ctxNoOf k) (t := t) (ent := ent) (s := onto s k) hl
  refine ⟨u, hu, performIf_made hnext hu, hmem, leaves_leftWith hwin ?_⟩
  rw [hsame.streams.strm k t]
  exact find_of_oldest hnext.1

/-- What a piece on the ordered-update path is held as: for its phase, with the count of Table 5-10 on the first piece of an STT (R274). -/
def State.held (s : State) (k : Nat) (t : Strm) (ent : StoreEnt) (e : StoreElem) : Option DHeld :=
  match e.op with
  | .dwrite d bar key ph => (s.landPhase bar ph).map (fun q => ({
      cnt := if ent.isTile && s.dheld.any (fun h => h.bar == bar && h.phase == q.1 && h.key.f1 == key.f1 && h.key.f2 == key.f2 &&
        h.key.f3 == key.f3 && h.core == k) then 0 else ent.staleFor d.length,
      bar := bar, phase := q.1, fixed := q.2, core := k, mem := s.memberNo k, strm := strmNo t, ctx := s.ctxNoOf k, key := key,
      segs := e.place.segs, data := d, tag := e.tag } : DHeld))
  | _ => none

theorem doElem_held {h : DHeld} (hhome : atHome s e) (hh : s.held k t ent e = some h) :
    s.doElem k (s.ctxNoOf k) t ent e = .ok { s with dheld := s.dheld ++ [h] } ∧ s.dropped e = false := by
  cases hop : e.op with
  | dwrite d bar key ph =>
    simp only [State.held, hop, Option.map_eq_some_iff] at hh
    obtain ⟨q, hq, rfl⟩ := hh
    refine ⟨?_, by simp only [State.dropped, hop]⟩
    simp only [doElem_dwrite hhome hop, State.holdWrite, hq, Bool.and_eq_true]
  | _ => simp [State.held, hop] at hh

/-- What is held already matters to the count of an STT alone. -/
theorem held_addHeld (h : ent.isTile = false) (hs : List DHeld) : { s with dheld := hs }.held k t ent e = s.held k t ent e := by
  unfold State.held
  simp only [h, Bool.false_and]
  rfl

/-- Pieces on the ordered-update path are held in order, all of them. -/
theorem doPieces_held {hs : List DHeld} (hl : ∀ e ∈ l, atHome s e) (htile : ent.isTile = false ∨ l.length = 1)
    (hheld : l.map (s.held k t ent) = hs.map some) :
    State.doPieces k (s.ctxNoOf k) t ent l s = ⟨{ s with dheld := s.dheld ++ hs }, [], false, none⟩ := by
  induction l generalizing s hs with
  | nil =>
    obtain rfl : hs = [] := by simpa using hheld
    rw [List.append_nil]
    rfl
  | cons e r ih =>
    obtain ⟨h, hs, rfl, he, hr⟩ : ∃ h hs', hs = h :: hs' ∧ s.held k t ent e = some h ∧ r.map (s.held k t ent) = hs'.map some := by
      cases hs with
      | nil => simp at hheld
      | cons h hs' => exact ⟨h, hs', rfl, by simpa using hheld⟩
    obtain ⟨hdo, hdrop⟩ := doElem_held (hl e (.head r)) he
    rw [doPieces_cons hdo hdrop]
    rcases htile with htile | hlen
    · have hrest := ih (s := { s with dheld := s.dheld ++ [h] }) (hs := hs) (fun y hy => hl y (.tail e hy)) (.inl htile)
        ((List.map_congr_left fun y _ => held_addHeld htile _).trans hr)
      refine hrest.trans ?_
      dsimp only
      rw [List.append_assoc]
      rfl
    · obtain rfl : r = [] := by simpa using hlen
      obtain rfl : hs = [] := by simpa using hr
      rfl

end

theorem atomicsAndUpdatesLand_holds : Claims.atomicsAndUpdatesLand := by
  intro s k win n t ent l r hwin hhome
  refine ⟨fun hnext hop => ?atomics, fun hs hnext htile hheld => ?updates, fun e key lid pos y bar ph p f hnext hl hop hph => ?contribution⟩
  case atomics =>
    obtain ⟨u, hu, hexec, hmem, hleft⟩ := performIf_standing hnext (fun e he => ⟨⟨hhome e he, (hop e he).1⟩, .inr (hop e he).2⟩) hwin
    refine ⟨_, congrArg Host.Outcome.next hexec, hmem, hleft, fun a ha => by rw [hmem, look_pieces_ne ha], ?_⟩
    rintro q g op wide b cmp d tag z rfl hd
    have he := doElem_atom_standing (s := onto s k) (k := k) (x := s.ctxNoOf k) (t := t) (ent := ent) ⟨hhome _ (.head _), (hop _ (.head _)).1⟩ rfl
    rw [sreg_leftWith, show u = _ from congrArg Pieces.s (hu.symm.trans (doPieces_cons he rfl))]
    exact State.sreg_giveBack _ _ _ hd
  case updates =>
    have hmade := doPieces_held (s := onto s k) (k := k) (t := t) (ent := ent) hhome htile hheld
    exact ⟨State.leftWith _ k t win ent l r, congrArg Host.Outcome.next (performIf_made hnext hmade), rfl, rfl,
      leaves_leftWith hwin (find_of_oldest hnext.1)⟩
  case contribution =>
    subst hl
    have he := doElem_ared (s := onto s k) (k := k) (x := s.ctxNoOf k) (t := .C) (ent := ent) (hhome e (.head _)) hop hph
    have hmade := doPieces_cons (r := []) he (by simp only [State.dropped, hop])
    exact ⟨State.leftWith _ k .C win ent [e] r, congrArg Host.Outcome.next (performIf_made hnext hmade), rfl, rfl⟩

end Sys2Proof.Machine

namespace Sys2Proof.Machine

open Claims

/-! ### Releases and claims (R298, R313, R316 to R318, R321) -/

section
variable {s u : State} {k win n : Nat} {t : Strm} {ent : StoreEnt} {f : StoreOp → Bool} {e : StoreElem} {l r : List StoreElem}

/-- What a cause of a queued operation does before it is taken: an RPUBL or RRELS that comes too late faults its queue. -/
def StoreOp.faults (o : StoreOp) (c : Nat) : State → State :=
  match o with
  | .qtag q _ _ => fun s => if c = 0x046 then s.faultQueue q else s
  | _ => id

/-- A first piece that meets a cause takes it as queued work does. -/
theorem takesQueued_of_error {c a d : Nat} (h : nextStore s k t win n f ent (e :: l) r)
    (he : (onto s k).doElem k (s.ctxNoOf k) t ent e = .error (.cause c a d)) :
    takesQueued s k t ent.seq ent.tl ent.pc (e.elemAt ent.esz a) (e.op.faults c) c a d (.next (s.performIf k t win n f)) := by
  intro u hu hrun hhand howed
  have hfault : (onto s k).storeFault t ent e (.cause c a d) =
      (onto s k).accessFault t ent.seq ent.tl ent.pc (e.elemAt ent.esz a) (e.op.faults c) c a d := rfl
  rw [performIf_next h, performSome_fault h he, hfault, accessFault_raised hu hrun hhand howed]
  rfl

/-- So does one that stops with a bare cause, which names the piece itself. -/
theorem takesQueued_of_stop {c : Nat} {first : State → State} (h : nextStore s k t win n f ent (e :: l) r)
    (he : (onto s k).doElem k (s.ctxNoOf k) t ent e = stop c) (hfirst : e.op.faults c = first) :
    takesQueued s k t ent.seq ent.tl ent.pc e.idx first c 0 0 (.next (s.performIf k t win n f)) := by
  have hself : e.elemAt ent.esz 0 = e.idx := by rw [StoreElem.elemAt, if_pos rfl, Nat.add_zero]
  have hqueued := takesQueued_of_error h he
  rwa [hself, hfirst] at hqueued

/-- A single piece that is made leaves its entry. -/
theorem performIf_one (h : nextStore s k t win n f ent [e] r) (he : (onto s k).doElem k (s.ctxNoOf k) t ent e = .ok u)
    (hd : (onto s k).dropped e = false) : s.performIf k t win n f = (u.leftWith k t win ent [e] r).flushPosts :=
  performIf_made h (doPieces_cons he hd)

variable {q j b dst : Nat} {nw ended : Bool} {rel : Bool}

theorem doArrive_ok {x p : Nat} (h : s.arrive b x = .ok p u) : s.doArrive k x b none dst = .ok (u.giveBack k (some dst) (BitVec.ofNat 64 p)) := by
  simp only [State.doArrive, h]

theorem doArrive_refused {x : Nat} (h : s.arrive b x = .refused) : s.doArrive k x b none dst = stop 0x147 := by simp only [State.doArrive, h]

theorem doRing_acts (h : s.ringAct q j rel = some u) : s.doRing q j rel = .ok u := by simp only [State.doRing, h]

theorem doRing_late (h : s.ringAct q j rel = none) :
    s.doRing q j rel = stop (if (s.queueOf q).st = .active ∨ (s.queueOf q).st = .draining then 0x046 else 0x090) := by simp only [State.doRing, h]

theorem doClaim_ended (h : ended = true ∨ (s.queueOf q).st ≠ .active) : s.doClaim k q nw dst ended = stop 0x090 := by
  simp only [State.doClaim, if_pos h]

section
variable (hst : (s.queueOf q).st = .active)
include hst

theorem doClaim_full (hfull : (s.queueOf q).full = true) : s.doClaim k q nw dst false =
    if nw then .ok ((s.setQueueOf q { s.queueOf q with waitC := (s.queueOf q).waitC.filter (fun c => c != k) }).giveBack k (some dst) 0)
    else .error .wait := by
  simp only [State.doClaim, hst, hfull, Bool.false_eq_true, ne_eq, not_true_eq_false, or_self, if_false, if_true]

theorem doClaim_served (hcur : s.cur = k) (hfull : (s.queueOf q).full = false) (hturn : s.turnOf (s.queueOf q).ctx k (s.queueOf q).waitC = true)
    (hdec : State.decision s 1 q .C 0 0 = .ok u) : s.doClaim k q nw dst false =
      .ok ((u.setQueueOf q { s.queueOf q with
        t := ((s.queueOf q).t + 1) % 2 ^ 32, claims := ((s.queueOf q).t, u.taskNoOf k) :: (s.queueOf q).claims,
        waitC := (s.queueOf q).waitC.filter (fun c => c != k) }).giveBack k (some dst) (BitVec.ofNat 64 ((s.queueOf q).slotPtr (s.queueOf q).t))) := by
  subst hcur
  simp only [State.doClaim, hst, hfull, hturn, hdec, Bool.false_eq_true, ne_eq, not_true_eq_false, or_self, if_false, Bool.not_true, res_ok_bind]

end

theorem giveBack_queueOf (d : Option Nat) (v : Word) : (s.giveBack k d v).queueOf q = s.queueOf q := by
  unfold State.giveBack
  split <;> rfl

end

theorem releasesAct_holds : Claims.releasesAct := by
  intro s k win t ent e r o hwin hnext hhome ho
  subst ho
  have hhome' : atHome (onto s k) e := hhome
  refine ⟨fun dst b hop hd hb => ?arrive, fun q j rel hop => ?ring, fun q nw dst ended y hop hd hy => ?claim⟩
  case arrive =>
    subst hb
    have he := doElem_arrive (k := k) (x := s.ctxNoOf k) (t := t) (ent := ent) hhome' hop
    refine ⟨fun ph u harr => ?_, fun harr => takesQueued_of_stop hnext (he.trans (doArrive_refused harr)) (by rw [hop]; rfl)⟩
    refine ⟨_, congrArg Host.Outcome.next (performIf_one hnext (he.trans (doArrive_ok harr)) (by simp only [State.dropped, hop])), ?_, ?_⟩
    · exact State.giveBack_mem ..
    · rw [sreg_leftWith]
      exact State.sreg_giveBack _ _ _ hd
  case ring =>
    have he := doElem_qtag (k := k) (x := s.ctxNoOf k) (t := t) (ent := ent) hhome' hop
    refine ⟨fun u hact => ?_, fun hact => ⟨fun hst => ?_, fun hst => ?_⟩⟩
    · exact ⟨u.leftWith k t win ent [e] r,
        congrArg Host.Outcome.next (performIf_one hnext (he.trans (doRing_acts hact)) (by simp only [State.dropped, hop])), rfl, rfl⟩
    · exact takesQueued_of_stop hnext (he.trans ((doRing_late hact).trans (congrArg stop (if_pos hst)))) (by rw [hop]; rfl)
    · have hover : ¬((s.queueOf q).st = .active ∨ (s.queueOf q).st = .draining) := by rcases hst with hst | hst <;> simp [hst]
      exact takesQueued_of_stop hnext (he.trans ((doRing_late hact).trans (congrArg stop (if_neg hover)))) (by rw [hop]; rfl)
  case claim =>
    subst hy
    have he := doElem_qclaim (k := k) (x := s.ctxNoOf k) (t := t) (ent := ent) hhome' hop
    have hdrop : (onto s k).dropped e = false := by simp only [State.dropped, hop]
    refine ⟨fun hend => takesQueued_of_stop hnext (he.trans (doClaim_ended hend)) (by rw [hop]; rfl), ?_⟩
    rintro rfl hst
    refine ⟨fun hfull hnw => ?none, fun hfull hnw => ?waits, fun u hfull hturn hdec => ?served⟩
    case none =>
      subst hnw
      refine ⟨_, congrArg Host.Outcome.next (performIf_one hnext (he.trans (doClaim_full hst hfull)) hdrop), State.giveBack_mem .., ?_, ?_⟩
      · rw [sreg_leftWith]
        exact State.sreg_giveBack _ _ _ hd
      · refine (congrArg Queue.t (giveBack_queueOf ..)).trans ?_
        rw [State.queueOf_setQueueOf, if_pos rfl]
        rfl
    case waits =>
      subst hnw
      have hwait := performSome_fault hnext (he.trans (doClaim_full hst hfull))
      refine congrArg Host.Outcome.next ((performIf_next hnext).trans (congrArg State.flushPosts (hwait.trans ?_)))
      rw [State.storeFault, hop]
      rfl
    case served =>
      refine ⟨_, congrArg Host.Outcome.next (performIf_one hnext (he.trans (doClaim_served hst rfl hfull hturn hdec)) hdrop), ?_, ?_⟩
      · rw [sreg_leftWith]
        exact State.sreg_giveBack _ _ _ hd
      · refine (congrArg (fun y => y.t = _ ∧ y.claims = _) (giveBack_queueOf ..)).mpr ?_
        rw [State.queueOf_setQueueOf, if_pos rfl]
        exact ⟨rfl, rfl⟩

/-- Settles O40. -/
theorem atomicsAndOrderedUpdatesLand : Obligations.AtomicsAndOrderedUpdatesLand := ⟨atomicsAndUpdatesLand_holds, releasesAct_holds⟩

end Sys2Proof.Machine

namespace Sys2Proof.Machine

open Claims

/-! ### Writes of a core (R261, R362, R366, R383)

The number 256 of a MEMORY_WRITE_PERFORM names no core: it stands for the Jecel port, whose MWRITE performs then. -/

section
variable {s : State} {k win n : Nat} {t : Strm} {ent : StoreEnt} {l r : List StoreElem}

theorem exec_memoryWrite_core (hk : k ≠ 256) : exec (.memoryWritePerform k t win n) s = .next (s.performIf k t win n StoreOp.isWrite) := by
  rw [exec_memoryWritePerform, execMemoryWritePerform, if_neg hk]

theorem exec_memoryWrite_port : exec (.memoryWritePerform 256 t win n) s = .next s.portDone := rfl

/-- Splitting an element keeps what its operation is. -/
theorem splitElem_isWrite (u d : Nat) (e : StoreElem) (he : e.op.isWrite = true) :
    (splitElem u d e).1.op.isWrite = true ∧ ∀ b, (splitElem u d e).2 = some b → b.op.isWrite = true := by
  cases hop : e.op with
  | write x =>
    simp only [splitElem, hop]
    split
    · exact ⟨he, fun b hb => by cases hb⟩
    · exact ⟨rfl, fun b hb => by cases hb; rfl⟩
  | fma => exact ⟨by simp only [splitElem, hop]; rfl, fun b hb => by simp [splitElem, hop] at hb⟩
  | _ => simp [StoreOp.isWrite, hop] at he

theorem takeUnits_isWrite (u d j : Nat) {l : List StoreElem} (hl : ∀ e ∈ l, e.op.isWrite = true) :
    ∀ e ∈ (takeUnits u d j l).1, e.op.isWrite = true := by
  induction j generalizing l with
  | zero => exact fun e he => by cases l <;> cases he
  | succ j ih =>
    cases l with
    | nil => exact fun e he => by cases he
    | cons x xs =>
      obtain ⟨hfirst, hrest⟩ := splitElem_isWrite u d x (hl x (.head xs))
      rw [takeUnits]
      split
      next a heq =>
        rw [heq] at hfirst
        exact List.forall_mem_cons.2 ⟨hfirst, ih fun e he => hl e (.tail x he)⟩
      next a b heq =>
        rw [heq] at hfirst hrest
        exact List.forall_mem_cons.2 ⟨hfirst, ih (List.forall_mem_cons.2 ⟨hrest b rfl, fun e he => hl e (.tail x he)⟩)⟩

/-- The pieces of an event of writes are writes. -/
theorem pieces_isWrite (h : ent.pieces n StoreOp.isWrite = (l, r)) : ∀ e ∈ l, e.op.isWrite = true := by
  have hfirst : ∀ e ∈ ent.elems.takeWhile (fun x => x.op.isWrite), e.op.isWrite = true :=
    fun e he => List.mem_takeWhile_imp (p := fun x : StoreElem => x.op.isWrite) he
  unfold StoreEnt.pieces at h
  dsimp only at h
  split at h
  · cases h
    exact hfirst
  · cases h
    exact takeUnits_isWrite _ _ _ hfirst

/-- A write to a version that has left the state which admitted it changes no byte. -/
theorem memoryWrite_dropped {e : StoreElem} {d : List Byte} (hk : k ≠ 256) (hnext : nextStore s k t win n StoreOp.isWrite ent [e] r)
    (hhome : atHome s e) (hop : e.op = .write d) (htag : e.tag.all s.tagHolds = false) :
    ∃ v, exec (.memoryWritePerform k t win n) s = posted v ∧ v.mem = s.mem := by
  have he := doElem_write (s := onto s k) (k := k) (x := s.ctxNoOf k) (t := t) (ent := ent) hhome hop
  have hstale : ¬e.tag.all (onto s k).tagHolds = true := by
    rw [show (onto s k).tagHolds = s.tagHolds from rfl, htag]
    exact Bool.false_ne_true
  rw [if_neg hstale] at he
  obtain ⟨b, hmade⟩ : ∃ b, State.doPieces k (s.ctxNoOf k) t ent [e] (onto s k) =
      ⟨(onto s k).stale (s.ctxNoOf k) (ent.staleFor d.length), [], b, none⟩ := by
    simp only [State.doPieces, he]
    split
    · exact ⟨_, rfl⟩
    · exact ⟨_, rfl⟩
  exact ⟨(onto s k).performSome k t win n StoreOp.isWrite,
    (exec_memoryWrite_core hk).trans (congrArg Host.Outcome.next (performIf_next hnext)), by rw [performSome_made hnext hmade]; rfl⟩

/-- A write whose page, translated again, meets a cause takes it as queued work does. -/
theorem memoryWrite_fault {e : StoreElem} {g : List Seg} {c a d : Nat} (hk : k ≠ 256)
    (hnext : nextStore s k t win n StoreOp.isWrite ent (e :: l) r) (hp : ∃ p, e.place = .phys p g) (hlost : g.any (fun c => s.homeLost c.pa) = false)
    (he : (onto s k).placeNow k e = .error (.cause c a d)) :
    takesQueued s k t ent.seq ent.tl ent.pc (e.elemAt ent.esz a) id c a d (exec (.memoryWritePerform k t win n) s) := by
  obtain ⟨p, hp⟩ := hp
  have hdo : (onto s k).doElem k (s.ctxNoOf k) t ent e = .error (.cause c a d) := by
    have hlost' : g.any (fun c => (onto s k).homeLost c.pa) = false := hlost
    simp only [State.doElem, hp, hlost', he, res_error_bind, Bool.false_eq_true, if_false]
  have hid : e.op.faults c = id := by
    unfold StoreOp.faults
    split
    next hop =>
      have hwrite := pieces_isWrite hnext.2.2 e (.head l)
      rw [hop] at hwrite
      cases hwrite
    next => rfl
  rw [exec_memoryWrite_core hk, ← hid]
  exact takesQueued_of_error hnext hdo

end

/-- The clauses of O39, of every number that names a core. -/
theorem storePerforms_of_core (s : State) (k win n : Nat) (t : Strm) (ent : StoreEnt) (l r : List StoreElem) (hk : k ≠ 256)
    (hnext : nextStore s k t win n StoreOp.isWrite ent l r) :
    ((∀ e ∈ l, standing s e) → win ≠ 6 → ∃ v, exec (.memoryWritePerform k t win n) s = posted v ∧ v.mem = l.foldl (pieceMem s) s.mem ∧
      leaves v k t win ent r ∧ (∀ a, (∀ e ∈ l, outside e.place.segs a) → look 0 v.mem a = look 0 s.mem a) ∧
      (∀ p q m d tag x i, l = [⟨.phys p [⟨q, m⟩], .write d, tag, x⟩] → d.length = m → i < m → overlap [⟨q, m⟩] s.imageSegs = false →
        look 0 v.mem (q + i) = d.getD i 0)) ∧
    (∀ p g d tag x, l = [⟨.phys p g, .write d, tag, x⟩] → g.any (fun c => s.homeLost c.pa) = false → s.placePoisoned (.phys p g) = false →
      tag.all s.tagHolds = false → ∃ v, exec (.memoryWritePerform k t win n) s = posted v ∧ sameMem s v) ∧
    (∀ e l' g c a d, l = e :: l' → e.place.segs = g → (∃ p, e.place = .phys p g) → g.any (fun c => s.homeLost c.pa) = false →
      (onto s k).placeNow k e = .error (.cause c a d) →
      takesQueued s k t ent.seq ent.tl ent.pc (e.elemAt ent.esz a) id c a d (exec (.memoryWritePerform k t win n) s)) := by
  refine ⟨fun hl hwin => ?performs, ?dropped, ?fault⟩
  case performs =>
    have hwrites := pieces_isWrite hnext.2.2
    obtain ⟨u, -, hexec, hmem, hleft⟩ := performIf_standing hnext (fun e he => ⟨hl e he, .inl (hwrites e he)⟩) hwin
    refine ⟨_, (exec_memoryWrite_core hk).trans (congrArg Host.Outcome.next hexec), hmem, hleft, fun a ha => by rw [hmem, look_pieces_ne ha], ?_⟩
    rintro p q m d tag x i rfl hd hi himg
    rw [hmem]
    exact look_piece_written hd hi himg _
  case dropped =>
    rintro p g d tag x rfl hlost hwhole htag
    obtain ⟨v, hv, hmem⟩ := memoryWrite_dropped hk hnext ⟨⟨p, g, rfl⟩, hlost, hwhole⟩ rfl htag
    exact ⟨v, hv, fun a => by rw [hmem]⟩
  case fault =>
    rintro e l' g c a d rfl - hp hlost hnow
    exact memoryWrite_fault hk hnext hp hlost hnow

/-- A write of one byte whose frame is poisoned, and an entry and a state in which it stands next. The state lists a core of the number 256, which
the model gives to the Jecel port. -/
def lateWrite : StoreElem := ⟨.phys 0x4000000000000000 [⟨0, 1⟩], .write [1], none, 0⟩
def lateEntry : StoreEnt := ⟨0, 1, 0, 4, 1, .elems, [lateWrite], 0, [], []⟩
def portCore : State :=
  { State.reset with
    cores := [(256, { CoreSt.zero with cS := { StreamSt.zero with stores := [lateEntry] } })]
    parts := [(0, ⟨[(0, 256)], some 0, none, none, false, []⟩)]
    ctxs := [(0, { Ctx.zero with st := .running, loc := .cores })]
    poison := [0] }

theorem portCore_next : nextStore portCore 256 .C 4 0 StoreOp.isWrite lateEntry [lateWrite] [] := by
  refine ⟨?_, ?_, ?_⟩ <;> decide +kernel

theorem portCore_place : (onto portCore 256).placeNow 256 lateWrite = .error (.cause 0x080 0x4000000000000000 0x4001) := by decide +kernel

/-- Refutes O39: an event of the number 256 performs the MWRITE of the Jecel port and nothing of a core, so that a poisoned write in the store
queue of a core listed under that number, where the statement has it take its cause and stop the context, stays where it is. For every
number that names a core the clauses hold (`storePerforms_of_core`). -/
theorem not_storePerforms : ¬ Obligations.StorePerforms := by
  intro h
  obtain ⟨-, -, hfault⟩ := h portCore 256 4 0 .C lateEntry [lateWrite] [] portCore_next
  have hq := hfault lateWrite [] [⟨0, 1⟩] _ _ _ rfl rfl ⟨_, rfl⟩ (by decide +kernel) portCore_place
  have hposted := hq _ rfl (by decide +kernel) (by decide +kernel) (by decide +kernel)
  rw [exec_memoryWrite_port] at hposted
  have hstate := congrArg (fun u => (u.ctxOf 0).st) (Host.Outcome.next.inj hposted)
  exact absurd hstate (by decide +kernel)

end Sys2Proof.Machine

/-! ## Contributions, waits on addresses and barriers (O22, O23) -/

namespace Sys2Proof.Machine

open Claims

/-! ### AREDO and WAKE (R287, R288, R305) -/

theorem State.touch_memberNo (s : State) (x : Nat) (ds : List Nat) (k : Nat) : (s.touch x ds).memberNo k = s.memberNo k := by
  simp only [State.memberNo, State.peers, State.groupOf, State.touch_coreOf, State.touch_tasks]

theorem State.touch_lidOf (s : State) (x : Nat) (ds : List Nat) (k : Nat) : (s.touch x ds).lidOf k = s.lidOf k := by
  simp only [State.lidOf, State.touch_coreOf]

/-- The state in which the task in entry i has counted one more AREDO of member m. -/
def State.aredoCounted (s : State) (i : Nat) (k : Task) (m : Nat) : State :=
  s.setTask i { k with aredos := put 0 k.aredos m (look 0 k.aredos m + 1) }

section
variable {s u : State} {d a b : Reg} {t : Tgt}

theorem execWake_queued (hd : ready s d) (ha : ready s a) (hst : s.c.stReady = true) (hu : u = s.touch s.ctxNo t.place.dies)
    (ht : access s s.cur ⟨[4, 7], none, 8, 8, false, 0⟩ none (s.core.sreg a).toNat = .ok t) :
    execWake d a s = retired (u.setC (u.c.takeNum.pushStore (s.c.issued + 1) (bits t.ptr 63 60) 8 [⟨t.place, .wake d.toNat, none, 0⟩])) := by
  subst hu
  simp only [execWake, State.rd_ready ha, show s.core.busy d = false from hd, Bool.not_false, hst, await_true, ht, res_ok_bind, finish_ok, retired]

theorem execAredo_queued {i m n bar : Nat} {k : Task} {tag : Option VerTag} (hd : ready s d) (ha : ready s a) (hb : ready s b)
    (hst : s.c.stReady = true) (hu : u = s.touch s.ctxNo t.place.dies)
    (ht : access s s.cur ⟨[4, 7], none, 4, 4, true, 3⟩ none (s.core.sreg a).toNat = .ok t) (hrec : s.recordOf t = none)
    (hbar : s.dphb s.cur = some bar) (htag : s.admitAt t 0x0A0 = .ok (some tag))
    (hroom : s.aredoUse (engineDie (segAddr t.place.segs 0)) < 32768) (hk : taskHere s i k) (hm : m = s.memberNo s.cur)
    (hn : n = look 0 k.aredos m) :
    execAredo d a b s = retired ((u.aredoCounted i k m).setC (u.c.takeNum.pushStore (s.c.issued + 1) (bits t.ptr 63 60) 4
      [⟨t.place, .ared (s.core.sreg d).toNat (s.lidOf s.cur) (16 * n + m) ((s.core.sreg b).truncate 32) bar none, tag, 0⟩])) := by
  obtain ⟨htask, hfind⟩ := hk
  have hcore : u.core = s.core := by rw [hu, State.touch_core]
  have htasks : u.tasks = s.tasks := by rw [hu, State.touch_tasks]
  have hmem : u.memberNo u.cur = m := by rw [hm, hu, State.touch_memberNo, State.touch_cur]
  have hlid : u.lidOf u.cur = s.lidOf s.cur := by rw [hu, State.touch_lidOf, State.touch_cur]
  simp only [execAredo, State.rd_ready ha, State.rd_ready hb, State.rd_ready hd, hst, await_true, ht, hrec, beq_self_eq_true, needAt_true, hbar,
    htag, decide_eq_false (Nat.not_le.2 hroom), Bool.false_and, Bool.not_false, res_ok_bind, ← hu, hmem, hcore, htask, htasks, hfind,
    Option.bind_some, Option.map_some, Option.getD_some, finish_ok]
  rw [← hlid, hn]
  rfl

end

theorem contributionAndWake_holds : Claims.contributionAndWake := by
  intro s d a b t u hd ha hb hst hu
  refine ⟨execWake_queued hd ha hst hu, fun bar tag i k ht hrec hbar htag hroom hk m n hm hn =>
    ⟨_, execAredo_queued hd ha hb hst hu ht hrec hbar htag hroom hk hm hn, ?_, ?_, ?_⟩⟩
  · exact hu ▸ State.touch_mem ..
  · rw [State.c, State.setC, State.setSm, State.core_setCore]; rfl
  · rw [hn]
    exact (find?_setKey ..).trans (if_pos rfl)

/-! ### WAITA (R302 to R304, Table 13-11) -/

/-- A word that gives a register its value once nothing else is left of it. -/
theorem finish_wr_ready {u : State} {d : Reg} (hd : ready u d) (v : Word) (s : State) : finish false (u.wr d v) s = retired (withReg u d v) := by
  rw [State.wr_ready v hd]
  rfl

section
variable {s t u : State} {d a b : Reg} {v : Word}

theorem execWaita_woken (hw : s.core.wait = .woken v) (hd : ready s d) :
    execWaita d a b s = retired (withReg (s.setCore { s.core with wait := .none }) d v) := by
  have hready : ready (s.setCore { s.core with wait := .none }) d := by rw [ready, State.core_setCore]; exact hd
  simp only [execWaita, hw, finish_wr_ready hready]

theorem execWaita_sent (hw : s.core.wait = .sending v) (hmine : s.mySend s.ctxNo s.cur = true)
    (hdec : s.decision 4 ((s.core.sreg a).toNat / 8 * 8) .C 0 0 = .ok t) (hu : u = (t.dropSend t.cur).setCore { t.core with wait := .none })
    (hd : ready u d) : execWaita d a b s = retired (withReg u d v) := by
  simp only [execWaita, hw, hmine, hdec, await_true, res_ok_bind, ← hu, finish_wr_ready hd]

end

/-- The state in which a WAITA of the current core waits with an entry of the table of its home die. -/
def State.tableWait (s : State) (w : WaitEnt) : State :=
  (s.setDieOf (engineDie w.pa) { s.dieOf (engineDie w.pa) with waits := (s.dieOf (engineDie w.pa)).waits ++ [w] }).setCore
    { s.core with wait := .table }

section
variable {s u : State} {d a b : Reg} {v : Word} (hw : s.core.wait = .none) (hd : ready s d) (ha : ready s a) (hb : ready s b)
include hw hd ha hb

theorem execWaita_done (hstart : waitStart (s.core.sreg a) (s.core.sreg d) (s.core.sreg b) s = .ok (u, some v)) (hu : ready u d) :
    execWaita d a b s = retired (withReg u d v) := by
  simp only [execWaita, hw, State.rd_ready ha, State.rd_ready hd, State.rd_ready hb, res_ok_bind, hstart, finish_wr_ready hu]

theorem execWaita_waits (hstart : waitStart (s.core.sreg a) (s.core.sreg d) (s.core.sreg b) s = .ok (u, none)) :
    execWaita d a b s = .next (u.park .C) := by
  simp only [execWaita, hw, State.rd_ready ha, State.rd_ready hd, State.rd_ready hb, res_ok_bind, hstart]

end

section
variable {s u : State} {t : Tgt} {x m e v : Word} {w : WaitEnt}

/-- A WAITA that is checked and not held back by what its stream has under way looks at its doubleword, and then at the table of its home die. -/
theorem waitStart_checked {ea pa : Nat} (hcmp : x.toNat % 8 < 6) (hea : ea = x.toNat / 8 * 8)
    (ht : access s s.cur ⟨[4, 7], none, 8, 8, false, 0⟩ none ea = .ok t) (hst : s.c.stReady = true) (hld : s.c.loadsDone s.c.seq = true)
    (hwin : s.c.stores.all (fun x => x.win != bits ea 63 60) = true) (hcov : s.core.covered .C t.place = false)
    (hu : u = s.touch s.ctxNo t.place.dies) (hpa : pa = segAddr t.place.segs 0) (hv : v = BitVec.ofNat 64 (s.readN pa 8))
    (hw : w = ⟨s.ctxNo, s.cur, ea, pa, m, x.toNat % 8, e⟩) :
    waitStart x m e s = if waitHolds w v then .ok (u, some v)
      else if (s.dieOf (engineDie pa)).waits.length < 4096 then .ok (u.tableWait w, none)
      else .ok (u.setCore { u.core with wait := .poll w }, none) := by
  have hsame : s.SameTables u := hu ▸ State.touch_sameTables ..
  have hread : u.readN pa 8 = s.readN pa 8 := by rw [State.readN, State.readN, hsame.mem]
  have hdie : u.dieOf (engineDie pa) = s.dieOf (engineDie pa) := by rw [State.dieOf, State.dieOf, hsame.dies]
  have hent : (⟨u.ctxNo, u.cur, ea, pa, m, x.toNat % 8, e⟩ : WaitEnt) = w := by rw [hw, hu, touch_ctxNo, State.touch_cur]
  simp only [waitStart, hcmp, decide_true, need_true, ← hea, ht, hst, hld, hwin, hcov, Bool.not_false, Bool.and_self, await_true, res_ok_bind,
    ← hu, ← hpa, hent, hread, ← hv, hdie]
  rw [State.tableWait, hw, hdie]

/-- What a C stream that stands waiting has changed of its core. -/
theorem State.park_core (s : State) : (s.park .C).core =
    { s.core with cS := { s.c with waiting := true }, wver := s.core.wver.filter (fun e => e.1 != Strm.C) } := by
  rw [State.park_eq, State.core_setCore]
  rfl

theorem State.park_dieOf (s : State) (t : Strm) (n : Nat) : (s.park t).dieOf n = s.dieOf n := by rw [State.park_eq]; rfl

/-- A WAITA that stands in the table of its home die. -/
theorem State.tableWait_waits (s : State) (w : WaitEnt) : ((s.tableWait w).park .C).core.wait = .table ∧
    ((s.tableWait w).park .C).c.waiting = true ∧
    (((s.tableWait w).park .C).dieOf (engineDie w.pa)).waits = (s.dieOf (engineDie w.pa)).waits ++ [w] := by
  refine ⟨?_, (State.park_c _).1, ?_⟩
  · rw [State.park_core, State.tableWait, State.core_setCore]
  · rw [State.park_dieOf]
    exact congrArg Die.waits ((State.dieOf_setDieOf ..).trans (if_pos rfl))

/-- A WAITA that stands in its poll register. -/
theorem State.pollWait_waits (s : State) (w : WaitEnt) : ((s.setCore { s.core with wait := .poll w }).park .C).core.wait = .poll w ∧
    ((s.setCore { s.core with wait := .poll w }).park .C).c.waiting = true :=
  ⟨by rw [State.park_core, State.core_setCore], (State.park_c _).1⟩

end

theorem waitaWord_holds : Claims.waitaWord := by
  intro s d a b
  refine ⟨fun v hw hd => execWaita_woken hw hd, fun v t u hw hmine hdec hu hd => execWaita_sent hw hmine hdec hu hd, ?start⟩
  rintro p ea t u pa v w hw hd ha hb rfl hcmp hea ht hst hld hwin hcov hu hpa hv hent
  have hstart := waitStart_checked hcmp hea ht hst hld hwin hcov hu hpa hv hent
  have hwpa : w.pa = pa := by rw [hent]
  refine ⟨fun hholds => ?now, fun hno hroom => ?table, fun hno hfull => ?poll⟩
  case now =>
    rw [if_pos hholds] at hstart
    exact execWaita_done hw hd ha hb hstart (by rw [ready, hu, State.touch_core]; exact hd)
  case table =>
    rw [if_neg (by simp [hno]), if_pos hroom] at hstart
    obtain ⟨htable, hwaits, hents⟩ := u.tableWait_waits w
    refine ⟨_, execWaita_waits hw hd ha hb hstart, htable, hwaits, ?_⟩
    rw [← hwpa, hents, State.dieOf, State.dieOf, hu, (State.touch_sameTables ..).dies]
  case poll =>
    rw [if_neg (by simp [hno]), if_neg (Nat.not_lt.2 hfull)] at hstart
    exact ⟨_, execWaita_waits hw hd ha hb hstart, u.pollWait_waits w⟩

/-- Settles O22. -/
theorem contributionAndWaitWords : Obligations.ContributionAndWaitWords := ⟨contributionAndWake_holds, waitaWord_holds⟩

end Sys2Proof.Machine

namespace Sys2Proof.Machine

open Claims

/-! ### A barrier word whose wait has been started (R294, R295, R301) -/

/-- How far a barrier word has come that waits at b on phase p, when the barrier answers w: it is done, or stands waiting. -/
def BarWait.started (b : BarId) (p : Nat) (arr : Bool) (w : Option Word) : BarWait :=
  match w with
  | some v => .done v
  | Option.none => .wait b p arr

/-- u differs from s in nothing that the end of a barrier word looks at, but how far the word has come. -/
structure State.SameButWait (s u : State) : Prop where
  core : u.core = { s.core with bwait := u.core.bwait }
  mem : u.mem = s.mem
  dies : u.dies = s.dies

theorem State.SameButWait.refl (s : State) : s.SameButWait s := ⟨rfl, rfl, rfl⟩

theorem State.SameButWait.trans {s t u : State} (h : s.SameButWait t) (k : t.SameButWait u) : s.SameButWait u :=
  ⟨by rw [k.core, h.core], k.mem.trans h.mem, k.dies.trans h.dies⟩

theorem State.touch_sameButWait (s : State) (x : Nat) (ds : List Nat) : s.SameButWait (s.touch x ds) := by
  have hsame := s.touch_sameTables x ds
  exact ⟨by rw [State.touch_core], hsame.mem, hsame.dies⟩

theorem State.startWait_core (s : State) (b : BarId) (p : Nat) (arr : Bool) (w : Option Word) :
    (s.startWait b p arr w).core = { s.core with bwait := .started b p arr w } := State.core_setCore ..

theorem State.startWait_sameButWait (s : State) (b : BarId) (p : Nat) (arr : Bool) (w : Option Word) :
    s.SameButWait (s.startWait b p arr w) := ⟨by rw [State.startWait_core], rfl, rfl⟩

/-- The state in which the wait of a barrier word is over, as an acquire. -/
def State.waitLeft (s : State) : State := (s.setCore { s.core with bwait := .none }).setC s.c.acquire

section
variable {s u : State} {d : Reg} {b : BarId} {p : Nat} {arr : Bool} {v : Word}

theorem State.SameButWait.waitLeft_core (h : s.SameButWait u) : u.waitLeft.core = { s.core with bwait := .none, cS := s.c.acquire } := by
  rw [State.waitLeft, State.setC, State.setSm, State.core_setCore, State.core_setCore, State.c, h.core]
  rfl

theorem State.SameButWait.homeLost (h : s.SameButWait u) (a : Nat) : u.homeLost a = s.homeLost a := by
  simp only [State.homeLost, State.dieOf, h.dies]

theorem finishWait_done (h : s.SameButWait u) (hd : ready s d) (hv : u.core.bwait = .done v) : waitDone s d v (finishWait d u) := by
  have hready : ready u.waitLeft d := by rw [ready, h.waitLeft_core]; exact hd
  refine ⟨withReg u.waitLeft d v, ?_, ?_, fun h0 => ?_, ?_, h.mem⟩
  · unfold finishWait
    rw [hv]
    exact finish_wr_ready hready v u
  · rw [withReg, State.core_setCore, CoreSt.setSreg_bwait, h.waitLeft_core]
  · rw [withReg, State.core_setCore, CoreSt.sreg_setSreg, if_pos rfl]
    exact if_neg h0
  · rw [State.c, withReg, State.core_setCore, h.waitLeft_core]
    exact CoreSt.strm_setSreg (t := .C) ..

theorem finishWait_stands (h : s.SameButWait u) (hw : u.core.bwait = .wait b p arr) (hhome : ∀ a, b = .dev a → s.homeLost a = false) :
    waitStands s b p arr (finishWait d u) := by
  have hpark : finishWait d u = .next (u.park .C) := by
    unfold finishWait
    rw [hw]
    cases b with
    | dev a => simp only [h.homeLost, hhome a rfl, Bool.false_eq_true, if_false]
    | grp i n => rfl
  obtain ⟨hwaiting, hpc⟩ := u.park_c
  refine ⟨_, hpark, ?_, hwaiting, ?_, fun r => ?_, ?_⟩
  · rw [State.park_core]; exact hw
  · rw [hpc, State.c, h.core]; rfl
  · rw [State.park_core, h.core]; rfl
  · rw [State.park_eq]; exact h.mem

/-- A barrier word whose wait has been started is done at once when its barrier answers, and stands waiting otherwise. -/
theorem finishWait_started {w : Option Word} (h : s.SameButWait u) (hd : ready s d) (hw : u.core.bwait = .started b p arr w) :
    (∀ v, w = some v → waitDone s d v (finishWait d u)) ∧
      (w = none → (∀ a, b = .dev a → s.homeLost a = false) → waitStands s b p arr (finishWait d u)) :=
  ⟨fun _ hv => finishWait_done h hd (by rw [hw, hv]; rfl), fun hn => finishWait_stands h (by rw [hw, hn]; rfl)⟩

theorem finishWait_startWait (h : s.SameButWait u) (hd : ready s d) (b : BarId) (p : Nat) (arr : Bool) (w : Option Word) :
    (∀ v, w = some v → waitDone s d v (finishWait d (u.startWait b p arr w))) ∧
      (w = none → (∀ a, b = .dev a → s.homeLost a = false) → waitStands s b p arr (finishWait d (u.startWait b p arr w))) :=
  finishWait_started (h.trans (u.startWait_sameButWait b p arr w)) hd (congrArg CoreSt.bwait (u.startWait_core ..))

theorem waitWord_started {start : State → Res State} {resume : BarId → Nat → State → State} (hb : s.core.bwait = .none) {t : State}
    (ht : start s = .ok t) : waitWord d start resume s = finishWait d t := by
  unfold waitWord
  rw [hb, ht]

theorem waitWord_refused {start : State → Res State} {resume : BarId → Nat → State → State} (hb : s.core.bwait = .none) {e : Stop}
    (he : start s = .error e) : waitWord d start resume s = finish false (.error e) s := by
  unfold waitWord
  rw [hb, he]

end

/-! ### BARA (R298) -/

section
variable {s : State} {d a : Reg} {n : BitVec 4}

theorem State.baraWord_queued {scope : Nat} {grp : Option Nat} (hd : ready s d) (hst : s.c.stReady = true)
    (hr : s.core.releaseReady .C scope = true) (place : Place) : s.baraWord scope place grp d =
      .ok (s.setC ((s.c.release scope).pushStore 0 7 8 [⟨place, .arrive grp d.toNat, none, 0⟩])) := by
  simp only [State.baraWord, show s.core.busy d = false from hd, Bool.not_false, hst, hr, await_true, res_ok_bind]

/-- A word that names its device barrier by a register has read the register. -/
theorem State.rd_of_barOf {b : Nat} (h : s.barOf a = .ok b) : s.rd a = .ok (s.core.sreg a) := by
  obtain hw | hr := s.rd_cases a
  · rw [State.barOf, hw] at h
    cases h
  · exact hr

theorem execBaraDevice_queued {b : Nat} {u : State} (hd : ready s d) (hb : s.barOf a = .ok b) (hu : u = s.touch s.ctxNo [engineDie b])
    (hst : s.c.stReady = true) (hr : s.core.releaseReady .C 3 = true) : execBaraDevice d a s = retired (u.setC ((u.c.release 3).pushStore 0 7 8
      [⟨.phys (s.core.sreg a).toNat [⟨b, 64⟩], .arrive none d.toNat, none, 0⟩])) := by
  have hcore : u.core = s.core := by rw [hu, State.touch_core]
  have hqueued := State.baraWord_queued (s := u) (grp := none) (scope := 3) (by rw [ready, hcore]; exact hd) (by rw [State.c, hcore]; exact hst)
    (by rw [hcore]; exact hr) (.phys (s.core.sreg a).toNat [⟨b, 64⟩])
  simp only [execBaraDevice, hb, State.rd_of_barOf hb, res_ok_bind, ← hu, hqueued, finish_ok, retired]

theorem execBaraGroup_queued {g : Nat × GBar × Nat} (hd : ready s d) (hg : s.groupBar n.toNat = .ok g) (hst : s.c.stReady = true)
    (hr : s.core.releaseReady .C 2 = true) :
    execBaraGroup d n s = retired (s.setC ((s.c.release 2).pushStore 0 7 8 [⟨.phys 0 [], .arrive (some n.toNat) d.toNat, none, 0⟩])) := by
  simp only [execBaraGroup, hg, res_ok_bind, State.baraWord_queued hd hst hr, finish_ok, retired]

end

/-! ### BARW and BARAW of a device barrier (R294, R297, R299) -/

section
variable {s u : State} {d a : Reg} {b p : Nat}

theorem State.gangCheck_own (h0 : (s.bar b).gang ≠ 0) (hown : (s.bar b).gang = s.lidOf s.cur) : s.gangCheck b = .ok () := by
  rw [State.gangCheck, need, if_pos (decide_eq_true ⟨h0, hown⟩)]

theorem execBarwDevice_starts (hd : ready s d) (hb : s.barOf a = .ok b) (hnone : s.core.bwait = .none) (hgang : s.gangCheck b = .ok ())
    (hu : u = s.touch s.ctxNo [engineDie b]) (hp : p = (s.core.sreg d).toNat % 2 ^ 32) :
    execBarwDevice d a s = finishWait d (u.startWait (.dev b) p false (s.barWait b p)) := by
  refine waitWord_started hnone ?_
  simp only [hb, State.rd_ready hd, hgang, res_ok_bind, hu, hp]

/-- What BARAW does once its release is satisfied, as its arrival is answered. -/
def barawArrived (b : Nat) (u : State) (r : Arrive) : Res State :=
  match r with
  | .refused => stop 0x147
  | .broken ph => .ok (u.startWait (.dev b) ph true (some (brokenRes ph)))
  | .ok ph x => .ok (x.startWait (.dev b) ph true (x.barWait b ph))

section
variable (hd : ready s d) (hb : s.barOf a = .ok b) (hnone : s.core.bwait = .none) (hgang : s.gangCheck b = .ok ())
  (hu : u = s.touch s.ctxNo [engineDie b]) (hst : s.c.stReady = true) (hr : s.released 3 = true)
include hd hb hnone hgang hu hst hr

theorem execBarawDevice_starts {t : State} (h : barawArrived b u (u.arrive b s.ctxNo) = .ok t) : execBarawDevice d a s = finishWait d t := by
  have hno : u.ctxNo = s.ctxNo := by rw [hu, touch_ctxNo]
  refine waitWord_started hnone ?_
  simp only [hb, show s.core.busy d = false from hd, Bool.not_false, hgang, hst, hr, Bool.and_self, await_true, res_ok_bind, ← hu, hno]
  exact h

theorem execBarawDevice_refused (h : u.arrive b s.ctxNo = .refused) : execBarawDevice d a s = caused s false 0x147 0 := by
  have hno : u.ctxNo = s.ctxNo := by rw [hu, touch_ctxNo]
  refine waitWord_refused hnone (e := .cause 0x147 0 0) ?_
  simp only [hb, show s.core.busy d = false from hd, Bool.not_false, hgang, hst, hr, Bool.and_self, await_true, res_ok_bind, ← hu, hno, h, stop]

end

end

/-- Only the home of a device barrier can be lost. -/
theorem homeKept_dev {s : State} {b : Nat} (h : s.homeLost b = false) (a : Nat) (ha : BarId.dev b = .dev a) : s.homeLost a = false :=
  BarId.dev.inj ha ▸ h

theorem deviceBarrierWords_holds : Claims.deviceBarrierWords := by
  intro s u d a b p hd hb hu hp
  have hsame : s.SameButWait u := hu ▸ State.touch_sameButWait ..
  refine ⟨execBaraDevice_queued hd hb hu, fun hnone h0 hown => ?_⟩
  have hgang := State.gangCheck_own h0 hown
  obtain ⟨hdone, hstands⟩ := finishWait_startWait hsame hd (.dev b) p false (s.barWait b p)
  have hexec : exec (.barwDevice d a) s = _ := execBarwDevice_starts hd hb hnone hgang hu hp
  refine ⟨fun v hv => hexec ▸ hdone v hv, fun hn hl => hexec ▸ hstands hn (homeKept_dev hl), fun hst hr => ?baraw⟩
  have hstarts {t : State} (h : barawArrived b u (u.arrive b s.ctxNo) = .ok t) : exec (.barawDevice d a) s = finishWait d t :=
    execBarawDevice_starts hd hb hnone hgang hu hst hr h
  refine ⟨fun ph h => ?broken, fun ph x h hx _ => ?counted, execBarawDevice_refused hd hb hnone hgang hu hst hr⟩
  case broken =>
    rw [hstarts (congrArg (barawArrived b u) h)]
    exact (finishWait_startWait hsame hd ..).1 _ rfl
  case counted =>
    rw [hstarts (congrArg (barawArrived b u) h)]
    obtain ⟨hdone, hstands⟩ := finishWait_startWait (.refl x) hx (.dev b) ph true (x.barWait b ph)
    exact ⟨hdone, fun hn hl => hstands hn (homeKept_dev hl)⟩

/-! ### Waits at group barriers (R300, R348) -/

/-- What group barrier n of a table answers to a wait on a phase. -/
def groupAnswer (bars : List (Nat × GBar)) (n : Nat) : Nat → Option Word := ((find? bars n).getD ⟨0, [], [], false⟩).waitRes

/-- What becomes of a wait when the group barriers of some numbers, of the task in entry i, complete what is over. -/
def BarWait.overAll (i : Nat) (bars : List (Nat × GBar)) (l : List Nat) (w : BarWait) : BarWait :=
  l.foldl (fun w n => w.over (.grp i n) (groupAnswer bars n)) w

/-- The state in which the group barriers of the task in entry i have completed the waits of some cores. -/
def State.overCores (s : State) (i : Nat) (bars : List (Nat × GBar)) (ks : List Nat) : State :=
  s.forEach ks (fun k s => s.setCoreOf k { s.coreOf k with bwait := (s.coreOf k).bwait.overAll i bars (List.range 16) })

section
variable {i n p : Nat} {arr : Bool} {bars : List (Nat × GBar)}

theorem BarWait.overAll_done (v : Word) (l : List Nat) : (BarWait.done v).overAll i bars l = .done v := by
  induction l with
  | nil => rfl
  | cons k r ih => exact ih

theorem BarWait.over_self (b : BarId) (f : Nat → Option Word) (p : Nat) (arr : Bool) :
    (BarWait.wait b p arr).over b f = .started b p arr (f p) := by
  simp only [BarWait.over, if_true]
  cases f p <;> rfl

theorem BarWait.over_other {b c : BarId} (h : b ≠ c) (f : Nat → Option Word) (p : Nat) (arr : Bool) :
    (BarWait.wait b p arr).over c f = .wait b p arr := if_neg h

/-- A wait takes the answer of its own barrier, and of no other. -/
theorem BarWait.overAll_wait (l : List Nat) : (BarWait.wait (.grp i n) p arr).overAll i bars l =
    if n ∈ l then .started (.grp i n) p arr (groupAnswer bars n p) else .wait (.grp i n) p arr := by
  induction l with
  | nil => rfl
  | cons k r ih =>
    change ((BarWait.wait (.grp i n) p arr).over (.grp i k) (groupAnswer bars k)).overAll i bars r = _
    by_cases hk : n = k
    · rw [← hk, BarWait.over_self, if_pos List.mem_cons_self]
      cases h : groupAnswer bars n p with
      | some v => exact BarWait.overAll_done v r
      | none =>
        rw [h] at ih
        exact ih.trans (ite_self _)
    · rw [BarWait.over_other (fun he => hk (BarId.grp.inj he).2), ih]
      simp only [List.mem_cons, hk, false_or]

/-- A wait that its barrier has answered, or not, stays so. -/
theorem BarWait.overAll_started (l : List Nat) : (BarWait.started (.grp i n) p arr (groupAnswer bars n p)).overAll i bars l =
    .started (.grp i n) p arr (groupAnswer bars n p) := by
  cases h : groupAnswer bars n p with
  | some v => exact BarWait.overAll_done v l
  | none => exact (BarWait.overAll_wait l).trans (by rw [h]; exact ite_self _)

end

/-- A task with the barriers of its group replaced. -/
def Task.withBars (t : Task) (bars : List (Nat × GBar)) : Task := { t with group := t.group.map (fun g => { g with bars := bars }) }

section
variable {s : State} {i n : Nat} {bars : List (Nat × GBar)} {ks : List Nat}

theorem State.overCores_leaves (s : State) (i : Nat) (bars : List (Nat × GBar)) (ks : List Nat) :
    (s.overCores i bars ks).cur = s.cur ∧ s.SameButWait (s.overCores i bars ks) := by
  refine State.forEach_inv (P := fun u => u.cur = s.cur ∧ s.SameButWait u) ⟨rfl, .refl s⟩
    fun k _ u ⟨hcur, hu⟩ => ⟨hcur, ?_, hu.mem, hu.dies⟩
  rw [State.core, State.coreOf_setCoreOf, State.setCoreOf_cur]
  split
  next hk => rw [← hk]; exact congrArg (fun c : CoreSt => { c with bwait := c.bwait.overAll i bars (List.range 16) }) hu.core
  next => exact hu.core

/-- A core among those whose waits are completed waits as its barrier has answered, for a wait so answered stays. -/
theorem State.overCores_bwait {k : Nat} {w : BarWait} (hk : k ∈ ks) (h : (s.coreOf k).bwait.overAll i bars (List.range 16) = w)
    (hw : w.overAll i bars (List.range 16) = w) : ((s.overCores i bars ks).coreOf k).bwait = w := by
  induction ks generalizing s with
  | nil => cases hk
  | cons a r ih =>
    let u := s.setCoreOf a { s.coreOf a with bwait := (s.coreOf a).bwait.overAll i bars (List.range 16) }
    change ((u.overCores i bars r).coreOf k).bwait = w
    by_cases ha : k = a
    · have hu : (u.coreOf k).bwait = w := by rw [State.coreOf_setCoreOf, if_pos ha, ← ha]; exact h
      refine State.forEach_inv (P := fun v => (v.coreOf k).bwait = w) hu fun j _ v hv => ?_
      rw [State.coreOf_setCoreOf]
      split
      next hj => rw [← hj, hv]; exact hw
      next => exact hv
    · have hu : u.coreOf k = s.coreOf k := (State.coreOf_setCoreOf ..).trans (if_neg ha)
      exact ih (List.mem_of_ne_of_mem ha hk) (by rw [hu]; exact h)

/-- Where a task's group barriers close, the waits of the members that are over are completed. -/
theorem State.setClosed_eq {t : Task} {g : Group} (hg : t.group = some g) (hbars : bars = mapVals (fun _ b => b.close t.live 2) g.bars) :
    s.setClosed i t = (s.setTask i (t.withBars bars)).overCores i bars g.members := by
  subst hbars
  simp only [State.setClosed, State.endGroupWaits, Task.withBars, hg, Option.map_some]
  rfl

theorem State.setGroupBar_eq {t : Task} {g : Group} (ht : find? s.tasks i = some t) (hg : t.group = some g) {b : GBar}
    (hbars : bars = mapVals (fun _ b => b.close t.live 2) (setKey g.bars n b)) :
    ∃ t', s.setGroupBar i n b = (s.setTask i t').overCores i bars g.members := by
  have hput : s.setGroupBar i n b = s.setClosed i (t.withBars (setKey g.bars n b)) := by
    simp only [State.setGroupBar, ht, Task.withBars, hg, Option.map_some]
  have hlive : (t.withBars (setKey g.bars n b)).live = t.live := by simp only [Task.live, Task.withBars, hg, Option.map_some]
  have hgroup : (t.withBars (setKey g.bars n b)).group = some { g with bars := setKey g.bars n b } := by
    simp only [Task.withBars, hg, Option.map_some]
  have hclosed := State.setClosed_eq (s := s) (i := i) (bars := bars) hgroup (by rw [hlive, hbars])
  exact ⟨_, hput.trans hclosed⟩

end

/-- A barrier that is BROKEN closes no more. -/
theorem GBar.close_broken {b : GBar} (h : b.broken = true) (live : List Nat) (f : Nat) : b.close live f = b := by
  cases f with
  | zero => rfl
  | succ f => exact if_neg fun hn => hn.1 h

/-- An arrival at a BROKEN barrier is answered with its phase at once, and any other breaks nothing. -/
theorem GBar.arrive_broken {b b' : GBar} {m : Nat} {r : Word} (h : b.arrive m = some (r, b')) (hb : b'.broken = true) :
    r = brokenRes b'.phase := by
  unfold GBar.arrive at h
  split_ifs at h with h1 <;> cases h
  · rfl
  all_goals exact absurd hb h1

section
variable {s : State} {i n m ph : Nat} {b b' x : GBar} {r : Word} {w : Option Word}

theorem groupAnswer_closed (bars : List (Nat × GBar)) (live : List Nat) (n : Nat) (b : GBar) :
    groupAnswer (mapVals (fun _ b => b.close live 2) (setKey bars n b)) n = (b.close live 2).waitRes := by
  rw [groupAnswer, find?_mapVals, find?_setKey, if_pos rfl]
  rfl

/-- The wait of an arrival, entered before its barrier may close, takes the answer of the barrier x that has closed. -/
theorem BarWait.overAll_arrived {bars : List (Nat × GBar)} {live : List Nat} (hn : n < 16) (hr : b.arrive m = some (r, b'))
    (hw : w = if b'.broken then some r else Option.none) (hx : x = b'.close live 2) (hbars : groupAnswer bars n = x.waitRes) :
    (BarWait.started (.grp i n) ph true w).overAll i bars (List.range 16) = .started (.grp i n) ph true (x.waitRes ph) := by
  by_cases hb : b'.broken = true
  · have hres : x.waitRes ph = some r := by
      rw [hx, GBar.close_broken hb, GBar.arrive_broken hr hb, GBar.waitRes, hb]
      rfl
    rw [hw, if_pos hb, hres]
    exact BarWait.overAll_done ..
  · rw [hw, if_neg hb, ← hbars]
    exact (BarWait.overAll_wait _).trans (if_pos (List.mem_range.2 hn))

/-- A member that has arrived has come as far as the barrier x, which has closed where it may, answers. -/
theorem State.setGroupBar_arrived {t : Task} {g : Group} (hn : n < 16) (ht : find? s.tasks i = some t) (hg : t.group = some g)
    (hcur : s.cur ∈ g.members) (hr : b.arrive m = some (r, b')) (hw : w = if b'.broken then some r else none) (hx : x = b'.close t.live 2) :
    s.SameButWait ((s.startWait (.grp i n) ph true w).setGroupBar i n b') ∧
    ((s.startWait (.grp i n) ph true w).setGroupBar i n b').core.bwait = .started (.grp i n) ph true (x.waitRes ph) := by
  obtain ⟨t', hput⟩ := State.setGroupBar_eq (s := s.startWait (.grp i n) ph true w) (n := n) (b := b') ht hg rfl
  have hanswer := (groupAnswer_closed g.bars t.live n b').trans (congrArg GBar.waitRes hx.symm)
  rw [hput]
  generalize mapVals (fun _ b => b.close t.live 2) (setKey g.bars n b') = bars at hanswer
  obtain ⟨hcur', hsame⟩ := ((s.startWait (.grp i n) ph true w).setTask i t').overCores_leaves i bars g.members
  have hset : (s.startWait (.grp i n) ph true w).SameButWait ((s.startWait (.grp i n) ph true w).setTask i t') := ⟨rfl, rfl, rfl⟩
  refine ⟨(s.startWait_sameButWait ..).trans (hset.trans hsame), ?_⟩
  have hstart : (s.startWait (.grp i n) ph true w).core.bwait.overAll i bars (List.range 16) = .started (.grp i n) ph true (x.waitRes ph) := by
    rw [State.startWait_core]
    exact BarWait.overAll_arrived hn hr hw hx hanswer
  rw [State.core, hcur']
  exact State.overCores_bwait hcur hstart (hanswer ▸ BarWait.overAll_started _)

end

/-! ### BARW and BARAW of a group barrier (R300, R301) -/

section
variable {s : State} {d : Reg} {n : BitVec 4} {i m p : Nat} {b : GBar} (hd : ready s d) (hb : s.groupBar n.toNat = .ok (i, b, m))
  (hnone : s.core.bwait = .none)
include hd hb hnone

theorem execBarwGroup_starts (hp : p = (s.core.sreg d).toNat % 2 ^ 32) :
    execBarwGroup d n s = finishWait d (s.startWait (.grp i n.toNat) p false (b.waitRes p)) := by
  refine waitWord_started hnone ?_
  simp only [hb, State.rd_ready hd, res_ok_bind, hp]

variable (hst : s.c.stReady = true) (hr : s.released 2 = true)
include hst hr

theorem execBarawGroup_counted {r : Word} {b' : GBar} (h : b.arrive m = some (r, b')) : execBarawGroup d n s = finishWait d
    ((s.startWait (.grp i n.toNat) (r.toNat % 2 ^ 32) true (if b'.broken then some r else none)).setGroupBar i n.toNat b') := by
  refine waitWord_started hnone ?_
  simp only [hb, show s.core.busy d = false from hd, Bool.not_false, hst, hr, Bool.and_self, await_true, res_ok_bind, h]

theorem execBarawGroup_refused (h : b.arrive m = none) : execBarawGroup d n s = caused s false 0x147 0 := by
  refine waitWord_refused hnone (e := .cause 0x147 0 0) ?_
  simp only [hb, show s.core.busy d = false from hd, Bool.not_false, hst, hr, Bool.and_self, await_true, res_ok_bind, h, stop]

end

theorem groupBarrierWords_holds : Claims.groupBarrierWords := by
  intro s d n i m p b hd hb hp
  have hhome (k : Nat) (a : Nat) (ha : BarId.grp i k = .dev a) : s.homeLost a = false := by cases ha
  refine ⟨execBaraGroup_queued hd hb, fun hnone => ?_⟩
  have hexec : exec (.barwGroup d n) s = _ := execBarwGroup_starts hd hb hnone hp
  obtain ⟨hdone, hstands⟩ := finishWait_startWait (.refl s) hd (.grp i n.toNat) p false (b.waitRes p)
  refine ⟨fun v hv => hexec ▸ hdone v hv, fun hn => hexec ▸ hstands hn (hhome _), fun hst hr => ⟨?counted,
    execBarawGroup_refused hd hb hnone hst hr⟩⟩
  case counted =>
    rintro t g r ph b' x ht hg hcur harr rfl hx
    obtain ⟨hsame, hwait⟩ := State.setGroupBar_arrived (ph := r.toNat % 2 ^ 32) n.isLt ht hg hcur harr rfl hx
    rw [exec_barawGroup, execBarawGroup_counted hd hb hnone hst hr harr]
    obtain ⟨hdone, hstands⟩ := finishWait_started hsame hd hwait
    exact ⟨hdone, fun hn => hstands hn (hhome _)⟩

/-! ### The end of a wait (R294, R295, R301) -/

/-- The words that wait at a barrier are one shared operation, which takes up a stopped wait in one way. -/
theorem exec_barrierWait {s : State} {d a : Reg} {n : BitVec 4} {i : Instr}
    (hi : i ∈ [Instr.barwDevice d a, .barawDevice d a, .barwGroup d n, .barawGroup d n]) :
    ∃ start, exec i s = waitWord d start State.resumeWait s := by
  simp only [List.mem_cons, List.not_mem_nil, or_false] at hi
  obtain rfl | rfl | rfl | rfl := hi
  · exact ⟨_, exec_barwDevice d a s⟩
  · exact ⟨_, exec_barawDevice d a s⟩
  · exact ⟨_, exec_barwGroup d n s⟩
  · exact ⟨_, exec_barawGroup d n s⟩

/-- The engine of a device barrier completes the waits that are over. -/
theorem State.endBarWaits_bwait {s : State} {k b p : Nat} {arr : Bool} (h : (s.coreOf k).bwait = .wait (.dev b) p arr) :
    ((s.endBarWaits b).coreOf k).bwait = .started (.dev b) p arr (s.barWait b p) := by
  have hcore : (s.endBarWaits b).coreOf k = ((find? s.cores k).map fun c => { c with bwait := c.bwait.over (.dev b) (s.barWait b) }).getD .zero := by
    rw [State.coreOf, State.endBarWaits, find?_mapVals]
  rw [State.coreOf] at h
  rw [hcore]
  cases hc : find? s.cores k with
  | none =>
    rw [hc] at h
    cases h
  | some c =>
    rw [hc] at h
    exact (congrArg (BarWait.over (.dev b) (s.barWait b)) h).trans (BarWait.over_self ..)

theorem barrierWaitsEnd_holds : Claims.barrierWaitsEnd := by
  intro s d a n i hd hi
  obtain ⟨start, hexec⟩ := exec_barrierWait (s := s) hi
  have hstopped {b : BarId} {p : Nat} (h : s.core.bwait = .stopped b p) : exec i s = finishWait d (State.resumeWait b p s) := by
    rw [hexec, waitWord, h]
  refine ⟨fun v h => ?done, fun b p h => ?device, fun x k p j g m h hg => ?group, fun k b p arr h => ?engine⟩
  case done =>
    rw [hexec, waitWord, h]
    exact finishWait_done (.refl s) hd h
  case device =>
    rw [hstopped h]
    obtain ⟨hdone, hstands⟩ := finishWait_startWait (.refl s) hd (.dev b) p true (s.barWait b p)
    exact ⟨hdone, fun hn hl => hstands hn (homeKept_dev hl)⟩
  case group =>
    rw [hstopped h, State.resumeWait, hg]
    obtain ⟨hdone, hstands⟩ := finishWait_startWait (.refl s) hd (.grp x k) p true (g.waitRes p)
    exact ⟨hdone, fun hn => hstands hn fun _ ha => by cases ha⟩
  case engine =>
    rw [State.endBarWaits_bwait h]
    cases s.barWait b p <;> rfl

/-- Settles O23. -/
theorem barrierWords : Obligations.BarrierWords := ⟨deviceBarrierWords_holds, groupBarrierWords_holds, barrierWaitsEnd_holds⟩

end Sys2Proof.Machine

/-! ## Memory keeps its canonical form (O5), and no step stops (O4)

Nothing but a store into memory, the loss of a die and a reset changes what memory lists, and each of them keeps the canonical form. So every
operation of the model does, in the order of the files that define them. -/

namespace Sys2Proof.Machine

/-! ### Chains and choices -/

section
variable {s t u : State}

theorem State.Kept.after (k : t.Kept u) (h : s.Kept t) : s.Kept u := h.trans k

theorem State.Kept.same (h : s.Kept t) (e : u.mem = t.mem) : s.Kept u := h.trans (.of_eq e)

theorem State.Kept.ite {c : Prop} [Decidable c] (ht : s.Kept t) (hu : s.Kept u) : s.Kept (if c then t else u) := by
  split
  · exact ht
  · exact hu

end

/-! ### Versions, tasks and pools -/

theorem State.sendFirst_kept (s : State) (c : Ctx) (x code : Nat) : s.Kept (s.sendFirst c x code) := .ite (.of_eq (s.send_mem _)) (.refl s)

@[simp] theorem State.setVer_mem (s : State) (x p n v : Nat) (e : Ver) : (s.setVer x p n v e).mem = s.mem := by
  unfold State.setVer
  split <;> rfl

theorem State.letGo_kept (s : State) (x : Nat) (t : Xfer) : s.Kept (s.letGo x t) := by
  unfold State.letGo
  split
  next =>
    refine State.forEach_kept _ _ _ fun e u => ?_
    split
    next =>
      split
      next => exact .of_eq (u.setVer_mem ..)
      next => exact .refl u
    next => exact .refl u
  next => exact .refl s

/-- A write of Skatas itself, line by line. -/
theorem State.unitWrite_kept (s : State) (x p : Nat) (bs : List Byte) : s.Kept (s.unitWrite x p bs) :=
  State.forEach_kept _ _ _ fun _ u => u.sysAct_kept ..

@[simp] theorem State.loseVer_mem (s : State) (x p n v : Nat) : (s.loseVer x p n v).mem = s.mem := by
  unfold State.loseVer
  split
  next => rfl
  next =>
    split
    next => rfl
    next =>
      split
      case h_5 => rfl
      all_goals exact State.setVer_mem ..

@[simp] theorem State.loseWhere_mem (s : State) (f : List Seg → Bool) : (s.loseWhere f).mem = s.mem := by
  refine State.forEach_mem _ _ _ fun x u => State.forEach_mem _ _ _ fun v w => ?_
  split
  next =>
    split
    · exact State.loseVer_mem ..
    · rfl
  next => rfl

@[simp] theorem State.askReplace_mem (s : State) : s.askReplace.mem = s.mem := State.send_mem ..

@[simp] theorem State.flushAlmanac_mem (s : State) : s.flushAlmanac.mem = s.mem := rfl

@[simp] theorem State.poisonFrame_mem (s : State) (f : Nat) : (s.poisonFrame f).mem = s.mem := by
  unfold State.poisonFrame
  split
  · rfl
  · simp

@[simp] theorem State.setTask_mem (s : State) (i : Nat) (t : Task) : (s.setTask i t).mem = s.mem := rfl

@[simp] theorem State.newTask_mem (s : State) (i : Nat) (t : Task) : (s.newTask i t).mem = s.mem := rfl

@[simp] theorem State.setRpool_mem (s : State) (part die : Nat) (p : RPool) : (s.setRpool part die p).mem = s.mem := rfl

@[simp] theorem State.setPool_mem (s : State) (x p : Nat) (t : TPool) : (s.setPool x p t).mem = s.mem := rfl

@[simp] theorem State.enterPool_mem (s : State) (i : Nat) : (s.enterPool i).mem = s.mem := by
  unfold State.enterPool
  split <;> rfl

@[simp] theorem State.raiseRebuilds_mem (s : State) (x : Nat) : (s.raiseRebuilds x).mem = s.mem := by
  refine State.forEach_mem _ _ _ fun e u => ?_
  dsimp only
  split
  · split <;> rfl
  · rfl

@[simp] theorem State.makeReady_mem (s : State) (i : Nat) : (s.makeReady i).mem = s.mem := by
  unfold State.makeReady
  split
  next => rfl
  next =>
    extract_lets t u
    rw [State.raiseRebuilds_mem]
    split
    · exact u.enterPool_mem i
    · rfl

@[simp] theorem State.readyAll_mem (s : State) (l : List Nat) : (s.readyAll l).mem = s.mem :=
  State.forEach_mem _ _ _ fun _ u => u.makeReady_mem _

@[simp] theorem State.decJoin_mem (s : State) (i : Nat) : (s.decJoin i).2.mem = s.mem := by
  unfold State.decJoin
  split
  next => rfl
  next =>
    split
    · rfl
    · split <;> rfl

@[simp] theorem State.decAll_mem (s : State) (x core code : Nat) (hs : List Nat) : (s.decAll x core code hs).mem = s.mem := by
  unfold State.decAll
  dsimp only
  rw [State.readyAll_mem]
  refine List.foldlRecOn (motive := fun a : State × List Nat => a.1.mem = s.mem) hs _ rfl fun a ha h _ => ?_
  split
  next => rw [State.inform_mem, ha]
  next i _ =>
    have hdec := (a.1.decJoin_mem i).trans ha
    split
    next he => rw [he] at hdec; exact hdec
    next he => rw [he] at hdec; exact hdec
    next he => rw [he] at hdec; rw [State.inform_mem]; exact hdec

@[simp] theorem State.tick_mem (s : State) (x : Nat) : (s.tick x).mem = s.mem := rfl

@[simp] theorem State.reap_mem (s : State) : s.reap.mem = s.mem := rfl

@[simp] theorem State.retireKernel_mem (s : State) (n : Nat) : (s.retireKernel n).mem = s.mem := by
  unfold State.retireKernel
  split <;> rfl

@[simp] theorem State.dropPrivs_mem (s : State) (x lid : Nat) : (s.dropPrivs x lid).mem = s.mem := rfl

@[simp] theorem State.endRun_mem (s : State) (x lid : Nat) : (s.endRun x lid).mem = s.mem := rfl

theorem State.abandon_kept (core fuel : Nat) (s : State) (i : Nat) : s.Kept (s.abandon core fuel i) := by
  induction fuel generalizing s i with
  | zero => exact .refl s
  | succ fuel ih =>
    unfold State.abandon
    split
    next => exact .refl s
    next t _ =>
      extract_lets u
      have hu : s.Kept u := .of_eq rfl
      refine .after ?_ hu
      split
      next => exact .of_eq (State.inform_mem ..)
      next =>
        refine State.forEach_kept _ _ _ fun h v => ?_
        split
        next => exact .of_eq (State.inform_mem ..)
        next =>
          split
          next => exact .ite (ih ..) (.of_eq (State.inform_mem ..))
          next => exact .refl v

theorem State.endTask_kept (s : State) (core i : Nat) : s.Kept (s.endTask core i) := by
  unfold State.endTask
  split
  next => exact .refl s
  next t _ =>
    refine .same ?_ (State.reap_mem _)
    refine .ite (.of_eq rfl) (.ite (s.abandon_kept ..) (.of_eq ?_))
    dsimp only [State.tick_mem]
    split
    next => exact State.inform_mem ..
    next => exact State.decAll_mem ..

@[simp] theorem State.endGroupWaits_mem (s : State) (i : Nat) (t : Task) : (s.endGroupWaits i t).mem = s.mem := by
  unfold State.endGroupWaits
  split
  next => rfl
  next => exact State.forEach_mem _ _ _ fun _ _ => rfl

@[simp] theorem State.breakTask_mem (s : State) (i : Nat) (st : Option GroupState) : (s.breakTask i st).mem = s.mem := by
  unfold State.breakTask
  split
  next => rfl
  next =>
    split
    next => rfl
    next => exact State.endGroupWaits_mem ..

@[simp] theorem State.breakGroups_mem (s : State) (x : Nat) : (s.breakGroups x).mem = s.mem := State.forEach_mem _ _ _ fun _ u => u.breakTask_mem _ _

/-! ### The release and the break of a barrier -/

theorem State.releaseBar_kept (s : State) (x core b : Nat) : s.Kept (s.releaseBar x core b) := by
  unfold State.releaseBar
  extract_lets r now ws s1 s2 cs s3 s4 ph s5 s6 s7 s8 r' s9 s10
  have h2 : s.Kept s2 := .after (State.forEach_kept _ _ _ fun h u => u.applyHeld_kept h) (.of_eq rfl)
  have h4 : s2.Kept s4 := .after (State.forEach_kept _ _ _ fun pa u => u.applyTarget_kept _) (.of_eq rfl)
  have h6 : s4.Kept s6 := .after (State.flagUpdate_kept ..) (s4.setBar_kept ..)
  have h7 : s6.Kept s7 := by
    refine .ite (.refl _) ?_
    split
    next => exact .of_eq (State.inform_mem ..)
    next => exact .of_eq (State.decAll_mem ..)
  have h9 : s7.Kept s9 := .after (.ite (State.setBar_kept ..) (State.setBar_kept ..)) (.of_eq (State.endBarWaits_mem ..))
  exact .after (State.barClose_kept ..) ((((h2.trans h4).trans h6).trans h7).trans (h9.same rfl))

theorem State.breakFor_kept (s : State) (x : Nat) : s.Kept (s.breakFor x) := State.forEach_kept _ _ _ fun b u => u.breakBar_kept b

theorem State.qSkipVoid_kept (q fuel : Nat) (s : State) : s.Kept (State.qSkipVoid q fuel s) := by
  induction fuel generalizing s with
  | zero => exact .refl s
  | succ fuel ih => exact .ite (.after (ih _) (.after (State.qRelease_kept ..) (.of_eq rfl))) (.refl s)

/-! ### Stopping cores and contexts -/

@[simp] theorem State.setAside_mem (s : State) (core : Nat) : (s.setAside core).mem = s.mem := by
  unfold State.setAside
  dsimp only
  split <;> rfl

@[simp] theorem State.dropWaits_mem (s : State) (core : Nat) : (s.dropWaits core).mem = s.mem := by
  unfold State.dropWaits
  extract_lets c w u v y
  have hy : y.mem = v.mem := State.forN_mem _ _ _ fun _ _ => rfl
  exact hy.trans (u.setAside_mem core)

@[simp] theorem State.withdraw_mem (s : State) (l : Nat) : (s.withdraw l).mem = s.mem := by
  unfold State.withdraw
  split
  next => rfl
  next => exact State.send_mem ..

@[simp] theorem State.haltCore_mem (s : State) (core : Nat) : (s.haltCore core).mem = s.mem := s.dropWaits_mem core

theorem State.faultXfer_kept (s : State) (x q : Nat) (quiet : Bool) (t : Xfer) : s.Kept (s.faultXfer x q quiet t) := by
  refine .after (.of_eq (State.send_mem ..)) (.after (.of_eq (State.inform_mem _ x t.core 4)) (.after (.of_eq (State.setCtxOf_mem _ x _)) ?_))
  refine .after (State.letGo_kept _ x t) (.after (.ite (.refl _) (State.flagUpdate_kept _ x t.core t.flag t.ftag _)) ?_)
  cases t.bar with
  | none => exact .refl s
  | some b => exact .after (State.breakBar_kept _ b) (s.subPend_kept b _)

theorem State.killCtx_kept (s : State) (x code : Nat) : s.Kept (s.killCtx x code) := by
  unfold State.killCtx
  extract_lets s1 cs recs onCores s2 ts s3 s4 s5 s6 live s7 s8 s9 s10 s11 p s12 s13 s14 c
  have h2 : s.Kept s2 := .after (.ite (.of_eq (State.forEach_mem _ _ _ fun _ u => u.haltCore_mem _)) (.refl _)) (s.breakFor_kept x)
  have h3 : s2.Kept s3 := State.forEach_kept _ _ _ fun t u => u.faultXfer_kept ..
  have h6 : s6.mem = s3.mem := (State.breakGroups_mem ..).trans
    ((State.forEach_mem _ _ _ fun _ u => u.faultQueue_mem _).trans (State.forEach_mem _ _ _ fun _ u => u.withdraw_mem _))
  clear_value s6
  have h8 : s8.mem = s7.mem := State.forEach_mem _ _ _ fun _ u => u.tick_mem x
  clear_value s8
  have h11 : s11.mem = s8.mem := State.forEach_mem _ _ _ fun _ u => u.retireKernel_mem _
  have h7 : s3.Kept s7 := .of_eq h6
  clear_value s11
  have h14 : s.Kept s14 := ((h2.trans h3).trans h7).same (h11.trans h8)
  exact .after (State.sendFirst_kept ..) (h14.same rfl)

theorem State.voidTickets_kept (s : State) (x i : Nat) : s.Kept (s.voidTickets x i) :=
  State.forEach_kept _ _ _ fun _ _ =>
    .after (State.forEach_kept _ _ _ fun _ v => v.qRelease_kept ..) (State.forEach_kept _ _ _ fun _ v => v.qPublish_kept ..)

@[simp] theorem State.haltMember_mem (s : State) (x : Nat) (c : Nat × Nat) : (s.haltMember x c).mem = s.mem := by
  unfold State.haltMember
  split
  · split
    · exact s.haltCore_mem _
    · rfl
  · exact s.onSaved_mem ..

theorem State.returnTask_kept (s : State) (i : Nat) : s.Kept (s.returnTask i) := by
  unfold State.returnTask
  split
  next => exact .refl s
  next t _ =>
    extract_lets s1 s2 s3 s4 part die p s5
    have h2 : s.Kept s2 := .after (State.voidTickets_kept ..) (.of_eq (State.forEach_mem _ _ _ fun _ u => u.haltMember_mem ..))
    have h3 : s3.mem = s2.mem := State.forEach_mem _ _ _ fun _ u => u.loseVer_mem ..
    have h4 : s3.Kept s4 := .ite (.of_eq rfl) (.refl s3)
    exact ((h2.same h3).trans h4).same (by simp [s5])

@[simp] theorem State.fenceCore_mem (s : State) (core : Nat) : (s.fenceCore core).mem = s.mem := State.askReplace_mem _

theorem State.integrity_kept (s : State) (core code row detail : Nat) : s.Kept (s.integrity core code row detail) := by
  refine .after (.of_eq (State.send_mem ..)) (.after (.of_eq (State.fenceCore_mem ..)) (.after (t := s.count 5 core 1) ?_ (.of_eq rfl)))
  split
  next => exact State.returnTask_kept ..
  next => exact .of_eq (State.haltCore_mem ..)

theorem State.stopCtx_kept (s : State) (x code : Nat) : s.Kept (s.stopCtx x code) := by
  refine .after (State.sendFirst_kept _ _ x code) (.after (.of_eq (State.setCtxOf_mem _ x _)) ?_)
  have hb : s.Kept (if code / 32 = 13 then s.breakFor x else s) := .ite (s.breakFor_kept x) (.refl s)
  refine hb.same ?_
  exact (State.forEach_mem _ _ _ fun _ u => u.dropWaits_mem _).trans (State.breakGroups_mem ..)

theorem State.raiseCtx_kept (s : State) (x code addr detail lcore : Nat) : s.Kept (s.raiseCtx x code addr detail lcore) := by
  have written : s.Kept (if (s.ctxOf x).stop.isSome then s
      else s.onSaved x 0 (fun c => c.record lcore ⟨6, 0, 0, 0, 0⟩ code addr detail false)) := .ite (.refl s) (.of_eq (s.onSaved_mem x 0 _))
  refine .ite (.refl s) (.ite (.after (State.stopCtx_kept _ x code) written) ?_)
  refine .after (State.sendFirst_kept _ _ x code) (.after (.of_eq (State.setCtxOf_mem _ x _)) (.after (.of_eq (State.breakGroups_mem _ x)) ?_))
  exact .after (.ite (State.breakFor_kept _ x) (.refl _)) written

theorem State.checkHeads_kept (s : State) (x : Nat) : s.Kept (s.checkHeads x) := .ite (s.raiseCtx_kept x 0x14B 0 0 0) (.refl s)

/-! ### Causes -/

theorem State.enterHandler_kept (s : State) (t : Strm) (mpc : Nat) (cont : Option Nat) (code : Nat) (he : Nat × Nat × Nat) :
    s.Kept (s.enterHandler t mpc cont code he) := by
  refine .same ?_ (State.setCore_mem _ _)
  exact .after (State.forEach_kept _ _ _ fun e u => u.sysAct_kept ..) (.of_eq ((State.touch_mem ..).trans (s.dropWaits_mem _)))

@[simp] theorem State.record_mem (s : State) (core : Nat) (w : Site) (code addr detail : Nat) (hnd : Bool) :
    (s.record core w code addr detail hnd).mem = s.mem := rfl

@[simp] theorem State.leaveAt_mem (s : State) (t : Strm) : (s.leaveAt t).mem = s.mem := by
  unfold State.leaveAt
  dsimp only
  split <;> rfl

/-- A cause taken: its record, the handler, the stop of the context or the integrity procedure. -/
theorem State.raiseAt_kept (s : State) (t : Strm) (w : Site) (cont : Option Nat) (code addr detail : Nat) :
    s.Kept (s.raiseAt t w cont code addr detail) := by
  unfold State.raiseAt
  extract_lets x cls k
  have hk : s.Kept k := .ite (.of_eq rfl) (.refl s)
  have recorded {u : State} (core : Nat) (w : Site) (code addr detail : Nat) (hnd : Bool) (h : s.Kept u) :
      s.Kept (u.record core w code addr detail hnd) := h.same rfl
  refine .ite (.of_eq (s.leaveAt_mem t)) (.ite (.after (State.killCtx_kept ..) (recorded _ _ _ _ _ _ (.refl s))) (.ite ?_ ?_))
  · exact .after (State.checkHeads_kept ..) (.after (State.integrity_kept ..) (recorded _ _ _ _ _ _ (.refl s)))
  · split
    next => exact .after (State.stopCtx_kept ..) (recorded _ _ _ _ _ _ hk)
    next =>
      split
      next => exact .after (State.enterHandler_kept ..) (recorded _ _ _ _ _ _ hk)
      next => exact .after (State.stopCtx_kept ..) (recorded _ _ _ _ _ _ hk)

theorem State.raise_kept (s : State) (t : Strm) (w : Site) (code addr detail : Nat) : s.Kept (s.raise t w code addr detail) := s.raiseAt_kept ..

theorem State.accessFault_kept (s : State) (t : Strm) (n tl pc elem : Nat) {first : State → State} (code addr detail : Nat)
    (hfirst : ∀ u, State.Kept u (first u)) : s.Kept (s.accessFault t n tl pc elem first code addr detail) := by
  have hf : s.Kept (s.setCore (s.core.freeze t n)) := .of_eq rfl
  exact .ite (.refl s) (.ite hf (.after (State.raiseAt_kept ..) (.after (hfirst _) hf)))

@[simp] theorem State.raisePosts_mem (t : Strm) (fuel : Nat) (s : State) : (State.raisePosts t fuel s).mem = s.mem := by
  induction fuel generalizing s with
  | zero => rfl
  | succ fuel ih =>
    unfold State.raisePosts
    split
    next => rfl
    next =>
      split
      · dsimp only
        split <;> exact ih _
      · rfl

theorem State.raiseLate_kept (s : State) : s.Kept s.raiseLate := by
  unfold State.raiseLate
  split
  next => exact .after (State.raiseAt_kept ..) (.of_eq rfl)
  next => exact .refl s

theorem State.flushPosts_kept (s : State) : s.Kept s.flushPosts := by
  refine .after (State.raiseLate_kept _) (.of_eq ?_)
  exact List.foldlRecOn (motive := fun u : State => u.mem = s.mem) allStrms _ rfl fun u hu t _ => (State.raisePosts_mem ..).trans hu

@[simp] theorem State.pushPost_mem (s : State) (t : Strm) (e n cmd : Nat) : (s.pushPost t e n cmd).mem = s.mem := rfl

@[simp] theorem State.park_mem (s : State) (t : Strm) : (s.park t).mem = s.mem := by
  unfold State.park
  dsimp only
  split <;> rfl

theorem State.noteVer_kept (s : State) (t : Strm) (h v : Nat) : s.Kept (s.noteVer t h v) := by
  unfold State.noteVer
  split
  next => exact .ite (.after (State.checkHeads_kept ..) (.of_eq (State.raiseRebuilds_mem ..))) (.refl s)
  next => exact .refl s

end Sys2Proof.Machine
namespace Sys2Proof.Machine

/-! ### Answers and outcomes -/

/-- What a computation answers, when it answers, has a property. -/
structure Res.Gives {α : Type} (P : α → Prop) (r : Res α) : Prop where
  holds : ∀ a, r = .ok a → P a

/-- An action from s goes on to a next state, which keeps the canonical form that the memory of s has. -/
def State.Goes (s : State) (o : Host.Outcome State Fault Refusal) : Prop := ∃ t, o = .next t ∧ s.Kept t

section
variable {α β : Type} {P : β → Prop} {Q : α → Prop} {x : Res α} {f : α → Res β}

theorem Res.Gives.ok {b : β} (h : P b) : Res.Gives P (.ok b) := ⟨fun _ hb => Except.ok.inj hb ▸ h⟩

theorem Res.Gives.error {e : Stop} : Res.Gives P (.error e) := ⟨fun _ h => by cases h⟩

theorem Res.Gives.bind (hx : Res.Gives Q x) (hf : ∀ a, Q a → Res.Gives P (f a)) : Res.Gives P (x >>= f) := ⟨fun b h => by
  obtain ⟨a, ha, hb⟩ := Res.bind_ok h
  exact (hf a (hx.holds a ha)).holds b hb⟩

/-- Nothing needs to be known of a part that leaves the state as it is. -/
theorem Res.Gives.after (hf : ∀ a, Res.Gives P (f a)) : Res.Gives P (x >>= f) := .bind (Q := fun _ => True) ⟨fun _ _ => trivial⟩ fun a _ => hf a

theorem Res.Gives.map {g : α → β} (h : Res.Gives (fun a => P (g a)) x) : Res.Gives P (x.map g) := ⟨fun b hb => by
  cases x with
  | error => cases hb
  | ok a => exact Except.ok.inj hb ▸ h.holds a rfl⟩

theorem Res.Gives.mono {Q P : α → Prop} (h : Res.Gives Q x) (hp : ∀ a, Q a → P a) : Res.Gives P x := ⟨fun a ha => hp a (h.holds a ha)⟩

theorem Res.Gives.ite {c : Prop} [Decidable c] {y z : Res α} (hy : Res.Gives Q y) (hz : Res.Gives Q z) : Res.Gives Q (if c then y else z) := by
  split
  · exact hy
  · exact hz

end

section
variable {s t u : State} {r : Res State} {num : Bool}

theorem State.Goes.next (h : s.Kept t) : s.Goes (.next t) := ⟨t, rfl, h⟩

theorem State.Goes.same {o : Host.Outcome State Fault Refusal} (h : t.Goes o) (e : t.mem = s.mem) : s.Goes o := by
  obtain ⟨u, hu, hk⟩ := h
  exact ⟨u, hu, hk.after (.of_eq e)⟩

theorem State.Goes.ite {c : Prop} [Decidable c] {o p : Host.Outcome State Fault Refusal} (ho : s.Goes o) (hp : s.Goes p) :
    s.Goes (if c then o else p) := by
  split
  · exact ho
  · exact hp

theorem thenPosts_goes {o : Host.Outcome State Fault Refusal} (h : s.Goes o) : s.Goes (thenPosts o) := by
  obtain ⟨t, rfl, ht⟩ := h
  exact .next (.after t.flushPosts_kept ht)

/-- A register written, or a wait for what is still owed to it. -/
theorem State.wr_gives (h : s.Kept t) (d : Reg) (v : Word) : Res.Gives s.Kept (t.wr d v) := .ite .error (.ok (h.same rfl))

/-- A C word, from a state it has reached, with an answer that keeps memory's form. -/
theorem finish_goes (hr : Res.Gives s.Kept r) (ht : s.Kept t) : s.Goes (finish num r t) := by
  match r with
  | .ok u => exact .next ((hr.holds u rfl).same rfl)
  | .error .wait => exact .next (ht.same (t.park_mem _))
  | .error (.cause ..) => exact .next (.after (State.raise_kept ..) ht)
  | .error (.at ..) => exact .next (.after (State.raise_kept ..) ht)

theorem finishCopy_goes {b : Reg} (hr : Res.Gives s.Kept r) (ht : s.Kept t) : s.Goes (finishCopy b r t) := by
  match r with
  | .ok u => exact .next ((hr.holds u rfl).same rfl)
  | .error .wait => exact .next (ht.same (t.park_mem _))
  | .error (.cause ..) => exact .next (.after (State.raise_kept ..) ht)
  | .error (.at ..) => exact .next (.after (State.raise_kept ..) ht)

theorem finishJump_goes {r : Res (State × Nat)} (hr : Res.Gives (fun p => s.Kept p.1) r) : s.Goes (finishJump r s) := by
  match r with
  | .ok (u, n) => exact .next ((hr.holds (u, n) rfl).same rfl)
  | .error .wait => exact .next (.of_eq (s.park_mem _))
  | .error (.cause ..) => exact .next (State.raise_kept ..)
  | .error (.at ..) => exact .next (State.raise_kept ..)

end

/-! ### Engine words -/

section
variable {t : Strm} {h : Hd} {reads : Mask → List Rg} {onWait : State → State} {onCause : Nat → State → State}
  {body : Mask → State → Res Eff} {s : State}

theorem State.issueEngine_kept (e : Eff) (hs : s.Kept e.s) : s.Kept (State.issueEngine t h e) := by
  obtain ⟨d, hd, -⟩ := State.issueEngine_core (t := t) (h := h) (e := e)
  exact hs.same (hd ▸ rfl)

/-- An engine word, whatever its body does to memory. -/
theorem engineWith_goes (hbody : ∀ m u, Res.Gives (fun e => State.Kept u e.s) (body m u)) (hwait : ∀ u, State.Kept u (onWait u))
    (hcause : ∀ c u, State.Kept u (onCause c u)) : s.Goes (engineWith t h reads onWait onCause body s) := by
  refine .same (t := s.setCore (s.core.settle t)) ?_ rfl
  unfold engineWith
  extract_lets u act
  split
  next => exact .next (State.raise_kept ..)
  next =>
    split
    · exact .next (State.issueEngine_kept _ (.refl u))
    · split
      next e he => exact .next (State.issueEngine_kept e ((hbody act u).holds e he))
      next => exact .next (.after (hwait _) (.of_eq (u.park_mem t)))
      next => exact .next (.after (State.raise_kept ..) (hcause _ u))
      next => exact .next (.after (State.raise_kept ..) (hcause _ u))

theorem engine_goes (hbody : ∀ m u, Res.Gives (fun e => State.Kept u e.s) (body m u)) (hwait : ∀ u, State.Kept u (onWait u)) :
    s.Goes (engine t h reads onWait body s) := engineWith_goes hbody hwait fun _ u => .refl u

theorem control_goes {w : W96} {body : State → Res Eff} (hbody : ∀ u, Res.Gives (fun e => State.Kept u e.s) (body u)) :
    s.Goes (control w body s) := engine_goes (fun _ => hbody) fun u => .refl u

/-- The dies that a word's operands are read from are touched. -/
theorem vword_goes {w : W96} {f : Nat} (hbody : ∀ m u, Res.Gives (fun e => State.Kept u e.s) (body m u)) (hwait : ∀ u, State.Kept u (onWait u)) :
    s.Goes (vword w f reads onWait body s) :=
  engine_goes (fun m u => .map ((hbody m u).mono fun _ he => State.touch_kept _ _ he)) hwait

theorem State.wantSlot_kept (t : Strm) (m : Nat) (s : State) : s.Kept (State.wantSlot t m s) := by
  unfold State.wantSlot
  split
  · exact .refl s
  · split
    next => exact .ite (.refl s) (.of_eq rfl)
    next => exact .refl s

theorem ringWord_goes {t : Strm} {w : W96} {body : State → Res Eff} (hbody : ∀ u, Res.Gives (fun e => State.Kept u e.s) (body u)) :
    s.Goes (ringWord t w body s) := by
  refine engineWith_goes (fun m u => ?_) (fun u => .of_eq rfl) fun c u => .ite (.refl u) (.ite (.of_eq rfl) (.of_eq rfl))
  split
  next => exact .error
  next => exact .map ((hbody u).mono fun e he => he.same rfl)

end

section
variable {w : W192} {reads : State → List Rg} {onWait : State → State} {body : State → MRes} {s : State}

@[simp] theorem State.standM_mem (s : State) : s.standM.mem = s.mem := by
  unfold State.standM
  split
  next =>
    split <;> rfl
  next => rfl

/-- A matrix word, whatever its body does to memory. -/
theorem matrixWord_goes (hbody : ∀ u, State.Kept u (body u).1) (hwait : ∀ u, State.Kept u (onWait u)) :
    s.Goes (matrixWord w reads onWait body s) := by
  refine .same (t := s.setCore { s.core.settle .M with mstop := false }) ?_ rfl
  unfold matrixWord
  extract_lets c h u act
  have hmap : u.Kept ((body u).map State.standM id).1 := (hbody u).same (State.standM_mem _)
  split
  next => exact .next (State.raise_kept ..)
  next =>
    split
    · exact .next (State.issueEngine_kept _ (.refl u))
    · split
      next he => rw [he] at hmap; exact .next (State.issueEngine_kept _ hmap)
      next he => rw [he] at hmap; exact .next (.ite hmap (.after (hwait _) (hmap.same (State.park_mem ..))))
      next he => rw [he] at hmap; exact .next (.after (State.raise_kept ..) hmap)
      next he => rw [he] at hmap; exact .next (.after (State.raise_kept ..) hmap)

theorem plainMatrix_goes {f : State → Res State} (hf : ∀ u, Res.Gives (State.Kept u) (f u)) : s.Goes (plainMatrix w f s) := by
  refine matrixWord_goes (fun u => ?_) fun u => .refl u
  unfold mPlain
  split
  next t ht => exact (hf u).holds t ht
  next => exact .refl u

end

end Sys2Proof.Machine
namespace Sys2Proof.Machine

/-! ### Words of the C stream -/

section
variable {s t : State}

@[simp] theorem State.touchC_mem (s : State) (p n : Nat) : (s.touchC p n).mem = s.mem := s.touch_mem ..

theorem alu2_gives (d a b : Reg) (f : Word → Word → Word) : Res.Gives s.Kept (alu2 d a b f s) :=
  .after fun _ => .after fun _ => State.wr_gives (.refl s) _ _

theorem alu1_gives (d a : Reg) (f : Word → Word) : Res.Gives s.Kept (alu1 d a f s) := .after fun _ => State.wr_gives (.refl s) ..

theorem loadC_gives (n : Nat) (d a : Reg) (i : BitVec 16) : Res.Gives s.Kept (loadC n d a i s) :=
  .after fun _ => .after fun _ => .after fun _ => .after fun _ => .ok (.of_eq (s.touch_mem ..))

/-- A store writes memory at its issue only into a barrier record. -/
theorem storeC_gives (n : Nat) (d a : Reg) (i : BitVec 16) : Res.Gives s.Kept (storeC n d a i s) := by
  refine .after fun _ => .after fun _ => .after fun _ => .after fun t => ?_
  dsimp only
  split
  next =>
    refine .after fun _ => ?_
    split
    next u hu => exact .ok ((State.storeBar_kept hu).same (u.touch_mem ..))
    next => exact .error
  next =>
    refine .after fun g => ?_
    split
    next => exact .ok (.of_eq rfl)
    next => exact .after fun _ => .ok (.of_eq (s.touch_mem ..))

theorem branch_gives (a b : Reg) (o : BitVec 16) (f : Word → Word → Bool) : Res.Gives (fun p => s.Kept p.1) (branch a b o f s) :=
  .after fun _ => .after fun _ => .ite (.after fun _ => .ok (.refl s)) (.ok (.refl s))

@[simp] theorem State.tlc_mem (s : State) : s.tlc.2.mem = s.mem := rfl

theorem State.pushBoq_gives (x : Strm) (b : Bool) : Res.Gives s.Kept (s.pushBoq x b) := .ite .error (.ok (.of_eq rfl))

theorem execAwait_goes (e : BitVec 6) (n : BitVec 10) : s.Goes (execAwait e n s) := by
  refine .ite (finish_goes .error (.refl s)) ?_
  split
  next => exact finish_goes (.ok (.of_eq rfl)) (.refl s)
  next => exact .next (.of_eq (State.park_mem ..))

theorem execBksel_goes (d a : Reg) (i : BitVec 16) : s.Goes (execBksel d a i s) := by
  refine finishJump_goes (.after fun n => .after fun b => .after fun h => .after fun _ => .after fun l => .after fun _ => ?_)
  extract_lets u
  have hu (w : Word) : s.Kept (u.setCore (u.core.setCsr 0x014 w)) := .of_eq (s.touchC_mem ..)
  clear_value u
  split
  next => exact .after fun _ => .bind (State.wr_gives (hu _) _ _) fun _ hv => .ok hv
  next => exact .bind (State.wr_gives (hu _) _ _) fun _ hv => .ok hv

theorem execEret_goes : s.Goes (execEret s) := by
  unfold execEret
  split
  next => exact finish_goes .error (.refl s)
  next h _ =>
    refine .ite (.next (.of_eq (s.park_mem .C))) ?_
    dsimp only
    have hu : s.Kept (s.setCore (s.core.markCore .C s.c.seq)) := .of_eq rfl
    split
    next => exact finish_goes .error hu
    next => exact .ite (.next (hu.same (State.park_mem ..))) (thenPosts_goes (.next (hu.same rfl)))

theorem execSleep_goes (a : Reg) : s.Goes (execSleep a s) := by
  unfold execSleep
  split
  next => exact .ite (.next (.of_eq rfl)) (.next (.of_eq (s.park_mem .C)))
  next =>
    split
    next => exact .ite (.next (.of_eq rfl)) (.next (.of_eq (State.park_mem ..)))
    next => exact .next (.of_eq (s.park_mem .C))

/-- SCRUB may poison frames, which keep their bytes. -/
theorem execScrub_goes (d a : Reg) : s.Goes (execScrub d a s) := by
  refine finish_goes (.after fun x => .after fun _ => .after fun _ => ?_) (.refl s)
  have hfree : s.free.2.mem = s.mem := rfl
  revert hfree
  generalize s.free = r
  obtain ⟨v, u⟩ := r
  intro hfree
  dsimp only
  split
  next =>
    split
    next => exact .error
    next => exact State.wr_gives (.of_eq (by simpa using hfree)) _ _
  next => exact .error
  next t _ =>
    refine State.wr_gives (.of_eq ?_) _ _
    rw [State.touch_mem]
    split
    · exact (State.forEach_mem _ _ _ fun g w => w.poisonFrame_mem _).trans hfree
    · exact hfree

@[simp] theorem State.claimLanded_mem (s : State) (b p : Nat) (q : Nat → Bool) : (s.claimLanded b p q).mem = s.mem := rfl

@[simp] theorem State.claimCopies_mem (s : State) (b p : Nat) : (s.claimCopies b p).mem = s.mem := rfl

theorem execPhmark_goes (a : Reg) (m : BitVec 7) : s.Goes (execPhmark a m s) := by
  refine finish_goes (.after fun _ => .after fun p => .after fun _ => .after fun b => .after fun _ => .after fun _ => .after fun _ => .ok ?_) (.refl s)
  refine .after (.of_eq (State.setCore_mem _ _)) (.ite (.of_eq ?_) (.of_eq ?_))
  · rw [State.claimCopies_mem, State.claimLanded_mem, State.touch_mem, State.setC_mem]
  · rw [State.claimLanded_mem, State.touch_mem, State.setC_mem]

/-! ### Atomics -/

theorem State.decision_gives (kind loc : Nat) (t : Strm) (elem num : Nat) : Res.Gives s.Kept (s.decision kind loc t elem num) :=
  ⟨fun _ h => State.decision_kept h⟩

theorem State.decisions_gives (kind : Nat) (t : Strm) (num : Nat) (l : List (Nat × Nat)) (s : State) : Res.Gives s.Kept (s.decisions kind t num l) := by
  induction l generalizing s with
  | nil => exact .ok (.refl s)
  | cons e l ih =>
    rw [State.decisions, List.foldlM_cons]
    exact .bind (State.decision_gives ..) fun u hu => (ih u).mono fun v hv => hu.trans hv

/-- The cause that the next piece of a queued store meets. -/
theorem State.storeFault_kept (s : State) (t : Strm) (ent : StoreEnt) (e : StoreElem) (c : Stop) : s.Kept (s.storeFault t ent e c) := by
  unfold State.storeFault
  split
  next =>
    split
    · exact .of_eq rfl
    · exact .refl s
  next =>
    refine s.accessFault_kept _ _ _ _ _ _ _ _ fun u => ?_
    cases e.op with
    | qtag q => exact .ite (.of_eq (u.faultQueue_mem q)) (.refl u)
    | _ => exact .refl u
  next => exact s.accessFault_kept _ _ _ _ _ _ _ _ fun u => .refl u

theorem State.performs_kept (s : State) (core : Nat) (t : Strm) (win k : Nat) (f : StoreOp → Bool) : s.Kept (s.performSome core t win k f) :=
  s.performSome_kept core t win k f fun ent e c => s.storeFault_kept t ent e c

theorem State.onCore_kept {k : Nat} {f : State → State} (s : State) (hf : ∀ u, State.Kept u (f u)) : s.Kept (s.onCore k f) :=
  .after (State.flushPosts_kept _) (.after (hf _) (.of_eq rfl))

theorem atomC_gives (op : Nat) (wide : Bool) (dst cmp : Option Reg) (a b : Reg) : Res.Gives s.Kept (atomC op wide dst cmp a b s) := by
  refine .after fun p => .after fun v => ?_
  extract_lets n go
  suffices hgo : ∀ e, Res.Gives s.Kept (go e) by
    split
    · exact .after fun _ => hgo _
    · exact .after fun _ => hgo _
  refine fun e => .after fun _ => .after fun _ => .after fun t => .after fun _ => .after fun _ => .after fun g => ?_
  extract_lets tag win el u v
  have hv : s.Kept v := .of_eq ((State.setCore_mem ..).trans (s.touch_mem ..))
  refine .ite ?_ (.ite ?_ (.ok (hv.same rfl)))
  · exact .bind (State.decision_gives ..) fun w hw => .ok ((hv.trans hw).same rfl)
  refine .after fun _ => .after fun _ => .bind (State.decision_gives ..) fun w hw => .ok ?_
  exact .after (State.performs_kept ..) ((hv.trans hw).same rfl)

theorem execAredo_goes (d a b : Reg) : s.Goes (execAredo d a b s) := by
  refine finish_goes (.after fun p => .after fun v => .after fun k => .after fun _ => .after fun t => .after fun _ => ?_) (.refl s)
  split
  next => exact .error
  next =>
    refine .after fun g => .after fun _ => ?_
    extract_lets num u
    have hu : s.Kept u := .of_eq (s.touch_mem ..)
    split
    next => exact .ok (hu.same rfl)
    next m pos w _ _ =>
      have hw : w.mem = u.mem := by
        dsimp only [w]
        split <;> rfl
      exact .ok (hu.same hw)

theorem waitStart_gives (p mask e : Word) : Res.Gives (fun r => s.Kept r.1) (waitStart p mask e s) := by
  refine .after fun _ => .after fun t => .after fun _ => ?_
  extract_lets u pa w v d
  have hu : s.Kept u := .of_eq (s.touch_mem ..)
  clear_value u
  split
  · exact .ok hu
  · split
    · exact .ok (hu.same rfl)
    · exact .ok (hu.same rfl)

theorem execWaita_goes (d a b : Reg) : s.Goes (execWaita d a b s) := by
  unfold execWaita
  extract_lets lost
  have hlost : s.Goes (lost s) := .ite (finish_goes .error (.of_eq (s.dropWaits_mem _))) (.next (.of_eq (s.park_mem .C)))
  clear_value lost
  split
  next => exact hlost
  next => exact hlost
  next => exact finish_goes (.after fun _ => .bind (State.decision_gives ..) fun u hu => State.wr_gives (hu.same (by rfl)) _ _) (.refl s)
  next => exact finish_goes (State.wr_gives (.of_eq (by rfl)) _ _) (.refl s)
  next =>
    have hstart : Res.Gives (fun r => s.Kept r.1) ((do
      let p ← s.rd a
      let m ← s.rd d
      let e ← s.rd b
      waitStart p m e s : Res (State × Option Word))) := .after fun _ => .after fun _ => .after fun _ => waitStart_gives ..
    split
    next h => exact .next ((hstart.holds _ h).same (State.park_mem ..))
    next h => exact finish_goes (State.wr_gives (hstart.holds _ h) _ _) (.refl s)
    next => exact finish_goes .error (.refl s)

/-! ### Barrier words -/

theorem State.baraWord_gives (h : s.Kept t) (scope : Nat) (place : Place) (grp : Option Nat) (d : Reg) :
    Res.Gives s.Kept (t.baraWord scope place grp d) := .after fun _ => .after fun _ => .after fun _ => .ok (h.same rfl)

theorem finishWait_goes (h : s.Kept t) (d : Reg) : s.Goes (finishWait d t) := by
  unfold finishWait
  split
  next => exact finish_goes (State.wr_gives (h.same (by rfl)) _ _) h
  next => exact .ite (finish_goes .error (h.same rfl)) (.next (h.same (t.park_mem .C)))
  next => exact .next (h.same (t.park_mem .C))

@[simp] theorem State.resumeWait_mem (b : BarId) (p : Nat) (s : State) : (State.resumeWait b p s).mem = s.mem := by
  cases b <;> rfl

theorem waitWord_goes {d : Reg} {start : State → Res State} (hstart : Res.Gives s.Kept (start s)) :
    s.Goes (waitWord d start State.resumeWait s) := by
  unfold waitWord
  split
  next => exact finishWait_goes (.refl s) d
  next => exact finishWait_goes (.refl s) d
  next => exact finishWait_goes (.of_eq (State.resumeWait_mem ..)) d
  next =>
    split
    next h => exact finishWait_goes (hstart.holds _ h) d
    next => exact finish_goes .error (.refl s)

theorem execBarawDevice_goes (d a : Reg) : s.Goes (execBarawDevice d a s) := by
  refine waitWord_goes (.after fun b => .after fun _ => .after fun _ => .after fun _ => ?_)
  extract_lets u
  have hu : s.Kept u := .of_eq (s.touch_mem ..)
  split
  next => exact .error
  next => exact .ok (hu.same rfl)
  next h => exact .ok ((hu.trans (State.arrive_kept h)).same rfl)

theorem execBarawGroup_goes (d : Reg) (n : BitVec 4) : s.Goes (execBarawGroup d n s) := by
  refine waitWord_goes (.after fun b => .after fun _ => .after fun _ => ?_)
  split
  next => exact .error
  next => exact .ok (.of_eq (State.setGroupBar_mem ..))

/-! ### Ring words in memory -/

@[simp] theorem State.touchQueue_mem (s : State) (q : Nat) : (s.touchQueue q).mem = s.mem := s.touch_mem ..

@[simp] theorem State.parkAt_mem (s : State) (q : Nat) (claim : Bool) : (s.parkAt q claim).mem = s.mem :=
  (State.park_mem ..).trans (State.touchQueue_mem ..)

theorem ringEnded_goes {f : State → Host.Outcome State Fault Refusal} (hf : s.Goes (f s)) : s.Goes (ringEnded f s) := by
  unfold ringEnded
  split
  next => exact finish_goes .error (.ite (.of_eq rfl) (.refl s))
  next => exact hf

theorem ringHeld_goes (d a : Reg) (rel : Bool) : s.Goes (ringHeld d a rel s) := by
  unfold ringHeld
  split
  next => exact finish_goes .error (.refl s)
  next =>
    dsimp only
    split
    next => exact finish_goes (.ok (.of_eq (s.touchQueue_mem _))) (.refl s)
    next => exact .next (.after (State.raise_kept ..) (.ite (.of_eq (s.faultQueue_mem _)) (.refl s)))

theorem ringTake_goes (d a : Reg) (nw : Bool) : s.Goes (ringTake d a nw s) := by
  unfold ringTake
  split
  next => exact finish_goes .error (.refl s)
  next q _ =>
    extract_lets t k left
    have ht : s.Kept t := State.qSkipVoid_kept ..
    have hparked : s.Goes (.next (t.parkAt q false)) := .next (ht.same (t.parkAt_mem ..))
    have hleft : s.Kept ((t.setQueueOf q { k with waitT := left }).touchQueue q) :=
      ht.same ((State.touchQueue_mem ..).trans (State.setQueueOf_mem ..))
    refine .ite (finish_goes .error ht) (.ite (.ite (finish_goes (State.wr_gives hleft _ _) ht) hparked) (.ite hparked ?_))
    split
    next => exact hparked
    next => exact finish_goes .error (.refl s)
    next u hu =>
      have hu : s.Kept u := ht.trans (State.decision_kept hu)
      refine finish_goes ?_ hu
      dsimp only
      refine State.wr_gives ?_ _ _
      exact hu.same ((State.setC_mem ..).trans ((State.touchQueue_mem ..).trans (State.setQueueOf_mem ..)))

theorem spawnWord_goes (d a b : Reg) : s.Goes (spawnWord d a b s) := by
  unfold spawnWord
  split
  next => exact finish_goes .error (.refl s)
  next p q r i _ =>
    extract_lets t k
    have ht : s.Kept t := .of_eq ((State.touchQueue_mem ..).trans (State.touchC_mem ..))
    have hparked : s.Goes (.next (t.parkAt q true)) := .next (ht.same (t.parkAt_mem ..))
    refine .ite hparked ?_
    split
    next => exact hparked
    next => exact finish_goes .error ht
    next u hu =>
      have hu : s.Kept u := ht.trans (State.decision_kept hu)
      refine finish_goes (State.wr_gives (.after (.ite (.after (State.checkHeads_kept ..) (.of_eq (State.makeReady_mem ..))) (.refl _)) ?_) _ _) hu
      refine .after (.of_eq (State.newTask_mem ..)) (.after (State.qPublish_kept ..) (.after (State.sysWrite_kept ..) (hu.same rfl)))

theorem execJdec_goes (a : Reg) : s.Goes (execJdec a s) := by
  refine finish_goes (.after fun h => .after fun _ => ?_) (.refl s)
  split
  next => exact .error
  next i _ =>
    have hdec : s.Kept (s.decJoin i).2 := .of_eq (s.decJoin_mem i)
    split
    next he => rw [he] at hdec; exact .ok (.after (State.checkHeads_kept ..) (hdec.same (State.makeReady_mem ..)))
    next he => rw [he] at hdec; exact .ok hdec
    next => exact .error
    next => exact .ite .error .error

theorem execTexit_goes (ab : Bool) : s.Goes (execTexit ab s) := by
  refine .ite (.next (.of_eq (s.park_mem .C))) ?_
  split
  next => exact finish_goes .error (.refl s)
  next =>
    refine .next (.of_eq ?_)
    dsimp only
    split
    next => exact State.setClosed_mem ..
    next => rfl

end

end Sys2Proof.Machine
namespace Sys2Proof.Machine

/-! ### Lineage, copies and tiles -/

@[simp] theorem State.sendMirror_mem (s : State) (die : Nat) (e : LinEnt) : (s.sendMirror die e).mem = s.mem := by
  unfold State.sendMirror
  split
  next => exact s.send_mem _
  next => rfl

@[simp] theorem State.putEntry_mem (s : State) (die : Nat) (e : LinEnt) : (s.putEntry die e).mem = s.mem := State.sendMirror_mem ..

@[simp] theorem State.rehome_mem (s : State) (x h v die : Nat) : (s.rehome x h v die).mem = s.mem := by
  unfold State.rehome
  split
  next => rfl
  next => dsimp only; split <;> rfl

@[simp] theorem State.forceEntries_mem (s : State) (x h v : Nat) : (s.forceEntries x h v).mem = s.mem :=
  State.forEach_mem _ _ _ fun _ _ => State.forEach_mem _ _ _ fun _ w => w.sendMirror_mem ..

@[simp] theorem State.trim_mem (s : State) (x h v : Nat) : (s.trim x h v).mem = s.mem := by
  unfold State.trim
  split
  next => rfl
  next =>
    dsimp only
    split
    next => exact s.send_mem _
    next => rfl

@[simp] theorem State.startRepl_mem (s : State) (x core p n v : Nat) : (s.startRepl x core p n v).mem = s.mem := by
  unfold State.startRepl
  split
  next => rfl
  next =>
    dsimp only
    split
    next => rw [State.send_mem, State.setVer_mem]
    next =>
      split
      next => rw [State.inform_mem, State.send_mem, State.setVer_mem]
      next => rw [State.inform_mem, State.setVer_mem]

@[simp] theorem State.retireVer_mem (s : State) (x p n v : Nat) : (s.retireVer x p n v).mem = s.mem := by
  unfold State.retireVer
  split
  next => rfl
  next => rw [State.trim_mem, State.setVer_mem]

@[simp] theorem State.unrecover_mem (s : State) (x p n v : Nat) : (s.unrecover x p n v).mem = s.mem := by
  unfold State.unrecover
  split
  next => exact State.setVer_mem ..
  next => rfl

/-- A rebuild writes the header of the version that it begins. -/
theorem State.startRebuild_kept (s : State) (x p n v : Nat) (en : LinEnt) : s.Kept (s.startRebuild x p n v en) := by
  unfold State.startRebuild
  split
  next => exact .refl s
  next => exact .after (State.perform_kept ..) (.of_eq (State.setVer_mem ..))

theorem State.recover_kept (x f : Nat) (o : Nat × Nat) (s : State) : s.Kept (State.recover x f o s) := by
  induction f generalizing o s with
  | zero => exact .refl s
  | succ f ih =>
    obtain ⟨h, v⟩ := o
    have hun (p n : Nat) : s.Kept (s.unrecover x p n v) := .of_eq (State.unrecover_mem ..)
    rw [State.recover]
    split
    next => exact .refl s
    next =>
      split
      next => exact .refl s
      next =>
        refine .ite (.refl s) ?_
        split
        next =>
          split
          next => exact .of_eq (State.setVer_mem ..)
          next => exact .refl s
        next =>
          split
          next => exact .ite (.refl s) (hun _ _)
          next en _ =>
            refine .ite (hun _ _) (.ite (.refl s) ?_)
            have hops : s.Kept (s.forEach en.ops (fun o s => State.recover x f o s)) := State.forEach_kept _ _ _ fun o u => ih o u
            exact .ite (hops.same (State.unrecover_mem ..)) (.ite hops (.after (State.startRebuild_kept ..) hops))

@[simp] theorem State.setCq_mem (s : State) (x q : Nat) (c : CopyQ) : (s.setCq x q c).mem = s.mem := rfl

@[simp] theorem State.setXfer_mem (s : State) (x q : Nat) (t : Xfer) : (s.setXfer x q t).mem = s.mem := rfl

@[simp] theorem State.dropXfer_mem (s : State) (x q n : Nat) : (s.dropXfer x q n).mem = s.mem := rfl

@[simp] theorem State.freeBytes_mem (s : State) (n : Nat) : (s.freeBytes n).2.mem = s.mem := rfl

section
variable {s t : State}

theorem State.enqueue_gives (ht : s.Kept t) (q : Nat) (x : Option Xfer) (d : Reg) : Res.Gives s.Kept (t.enqueue q x d) := by
  unfold State.enqueue
  extract_lets c n u k v
  have hu : u.mem = t.mem := by
    dsimp only [u]
    split <;> rfl
  have hv : v.mem = u.mem := by
    dsimp only [v]
    split <;> rfl
  exact State.wr_gives (ht.same (hv.trans hu)) _ _

theorem State.planXfer_gives (op : Nat) (d a b : Reg) : Res.Gives (fun r => s.Kept r.2.2) (s.planXfer op d a b) := by
  refine .after fun _ => .after fun _ => .after fun _ => .after fun bs => ?_
  extract_lets desc n go
  have hgo (r : Option Xfer × List Nat) : Res.Gives (fun r => s.Kept r.2.2) (go r) :=
    .after fun _ => .after fun _ => .ok (.of_eq ((State.touch_mem ..).trans (State.touchC_mem ..)))
  refine .after fun _ => ?_
  exact .ite (.after hgo) (.after hgo)

theorem xferWord_goes (op : Nat) (d a b : Reg) : s.Goes (xferWord op d a b s) := by
  unfold xferWord
  split
  next => exact finishCopy_goes .error (.refl s)
  next u h =>
    have hu : s.Kept u := (State.planXfer_gives op d a b).holds _ h
    split
    next => exact finishCopy_goes (State.enqueue_gives hu ..) (.refl s)
    next =>
      split
      next => exact .ite (.next (.after (State.raise_kept ..) (.after (State.breakBar_kept ..) hu))) (.next (.of_eq (State.park_mem ..)))
      next h => exact finishCopy_goes (State.enqueue_gives (hu.trans (State.addPend_kept h)) ..) (.refl s)

end

@[simp] theorem State.rowData_mem (s : State) (t : Xfer) (o : Nat) : (s.rowData t o).2.mem = s.mem := by
  unfold State.rowData
  split <;> rfl

theorem State.landPiece_kept (s : State) (x q : Nat) (t : Xfer) (g : List Seg) (gran : Nat) (data : List Byte) (tag : Option VerTag) :
    s.Kept (s.landPiece x q t g gran data tag) := by
  unfold State.landPiece
  split
  next =>
    split
    next => exact .of_eq rfl
    next => exact .refl s
  next =>
    split
    next => exact .ite (State.perform_kept ..) (.of_eq (State.stale_mem ..))
    next => exact State.perform_kept ..

theorem State.landRow_kept (x q : Nat) (t : Xfer) (o : Nat) (data : List Byte) (l : List (Nat × Nat)) (tags : List (Option VerTag)) (s : State) :
    s.Kept (State.landRow x q t o data l tags s).1 := by
  induction l generalizing tags s with
  | nil => exact .refl s
  | cons e r ih => exact (State.landPiece_kept ..).trans (ih ..)

theorem State.landRows_kept (x q : Nat) (t : Xfer) (l : List (Nat × Nat)) (tags : List (Option VerTag)) (s : State) :
    s.Kept (State.landRows x q t l tags s) := by
  induction l generalizing tags s with
  | nil => exact .refl s
  | cons r rs ih =>
    have hr : s.Kept (s.rowData t r.1).2 := .of_eq (s.rowData_mem t r.1)
    rw [State.landRows]
    dsimp only
    split
    next => exact hr.trans ((State.landRow_kept ..).trans (ih ..))
    next => exact hr.trans (.trans (.of_eq (by rfl)) (ih ..))
    next => exact hr.trans (.trans (.of_eq (by rfl)) (ih ..))
    next => exact hr.trans (.trans (.of_eq (State.send_mem ..)) (ih ..))

theorem State.landXfer_kept (s : State) (x q : Nat) (t : Xfer) : s.Kept (s.landXfer x q t) := by
  refine (State.landRows_kept x q t t.rows t.tags s).trans ?_
  unfold State.landXfer
  dsimp only
  split
  · exact .of_eq rfl
  · exact .of_eq rfl
  · exact .refl _

theorem State.landCkpt_kept (s : State) (x q : Nat) (t : Xfer) : s.Kept (s.landCkpt x q t) := by
  unfold State.landCkpt
  split
  next send dest ckid vs recs _ =>
    dsimp only
    split
    next => exact .refl s
    next g _ =>
      have hg := s.perform_kept g (s.ckImage x ckid vs recs)
      exact .ite (hg.same ((State.send_mem ..).trans (State.setXfer_mem ..))) (hg.same (State.setXfer_mem ..))
  next => exact .refl s

@[simp] theorem State.countAlloc_mem (s : State) (p n k : Nat) : (s.countAlloc p n k).mem = s.mem := by
  unfold State.countAlloc
  split <;> rfl

section
variable {s t : State}

theorem State.privateCopy_gives (p n v lid : Nat) : Res.Gives (fun r => s.Kept r.2) (s.privateCopy p n v lid) := by
  unfold State.privateCopy
  dsimp only
  split
  next => exact .error
  next =>
    split
    next => exact .ok (.refl s)
    next =>
      split
      next => exact .error
      next =>
        refine .ok ?_
        exact .after (.of_eq (State.touch_mem ..)) (.after (State.perform_kept ..) (.after (State.perform_kept ..) (.of_eq (State.setVer_mem ..))))

theorem State.allocate_gives (p n k : Nat) (t : TPool) (d : Reg) : Res.Gives s.Kept (s.allocate p n k t d) := by
  refine .after fun _ => .after fun _ => .after fun g => .after fun _ => State.wr_gives ?_ _ _
  refine .after (.of_eq (State.countAlloc_mem ..)) (.after (.of_eq (State.touch_mem ..)) (.after (State.perform_kept ..) (.of_eq rfl)))

theorem State.sealVer_kept (s : State) (x : SealPlan) : s.Kept (s.sealVer x) := by
  unfold State.sealVer
  extract_lets rep depth a seg flags u e v w
  have hu : s.Kept u := .after (State.perform_kept ..) (.after (State.perform_kept ..) (State.perform_kept ..))
  clear_value u
  have hv : s.Kept v := hu.same (State.setVer_mem ..)
  clear_value v
  have hw : s.Kept w := by
    dsimp only [w]
    split
    · exact hv.same rfl
    · exact hv
  clear_value w
  exact .ite (hw.same (State.startRepl_mem ..)) hw

theorem execTalloc_goes (d a : Reg) : s.Goes (execTalloc d a s) := by
  refine finish_goes (.after fun r => .after fun _ => ?_) (.refl s)
  dsimp only
  split
  next => exact State.allocate_gives ..
  next v _ =>
    have hcount (x : Res State) (hx : Res.Gives s.Kept x) :
        Res.Gives s.Kept (x >>= fun u => (u.countAlloc r.2.1 r.2.2.1 (s.nextOrd r.2.1 r.2.2.1)).wr d (BitVec.ofNat 64 v)) :=
      .bind hx fun u hu => State.wr_gives (hu.same (State.countAlloc_mem ..)) _ _
    split
    · exact .after fun _ => .ite (hcount _ (.map (State.privateCopy_gives ..))) (hcount _ (.ok (.refl s)))
    · exact .after fun _ => .ite (hcount _ (.map (State.privateCopy_gives ..))) (hcount _ (.ok (.refl s)))

theorem failSeal_goes (ht : s.Kept t) : s.Goes (failSeal s t) := .ite (.next (.after (State.raise_kept ..) ht)) (.next (.of_eq (State.park_mem ..)))

theorem execTseal_goes (d a b : Reg) : s.Goes (execTseal d a b s) := by
  unfold execTseal
  split
  next => exact finish_goes .error (.refl s)
  next x _ =>
    extract_lets u
    have hu : s.Kept u := .of_eq (s.touch_mem ..)
    have hx : s.Kept (u.sealVer x) := .after (State.sealVer_kept ..) hu
    split
    next => exact finish_goes (.ok (.ite hx (hx.same (State.putEntry_mem ..)))) hu
    next => exact .ite (finish_goes (.ok (hx.same (State.rehome_mem ..))) hu) (.same (failSeal_goes (.of_eq (State.unrecover_mem ..))) (s.touch_mem ..))
    next =>
      exact .ite (finish_goes (.ok (hu.same (State.setVer_mem ..))) hu) (.same (failSeal_goes (.of_eq (State.setVer_mem ..))) (s.touch_mem ..))

theorem execTretire_goes (a b : Reg) : s.Goes (execTretire a b s) := by
  refine finish_goes (.after fun r => .after fun q => .after fun _ => ?_) (.refl s)
  dsimp only
  split
  next => exact .error
  next => exact .ok (.refl s)
  next => exact .ok (.refl s)
  next =>
    refine .after fun _ => .ite (.ok ?_) (.ite (.ok ?_) (.ite .error .error))
    · exact .of_eq ((State.retireVer_mem ..).trans (State.touch_mem ..))
    · exact .of_eq ((State.retireVer_mem ..).trans ((State.forceEntries_mem ..).trans (State.touch_mem ..)))

theorem execTrepl_goes (d a b : Reg) : s.Goes (execTrepl d a b s) := by
  unfold execTrepl
  split
  next => exact finish_goes .error (.refl s)
  next p n pool v _ =>
    split
    next => exact finish_goes .error (.refl s)
    next => exact finish_goes .error (.refl s)
    next => exact finish_goes .error (.refl s)
    next => exact finish_goes (State.wr_gives (.refl s) _ _) (.refl s)
    next e _ _ =>
      extract_lets u
      have hu : s.Kept u := .of_eq (s.touch_mem ..)
      refine finish_goes ?_ hu
      split
      next => exact State.wr_gives hu _ _
      next => exact State.wr_gives (hu.same (State.startRepl_mem ..)) _ _
      next => exact State.wr_gives (hu.same (State.startRepl_mem ..)) _ _
    next => exact .ite (finish_goes .error (.refl s)) (.next (.after (State.noteVer_kept ..) (.of_eq (s.park_mem .C))))
    next => exact finish_goes .error (.refl s)

theorem execTlook_goes (d a b : Reg) : s.Goes (execTlook d a b s) := by
  refine finish_goes (.after fun r => .after fun q => .after fun _ => ?_) (.refl s)
  dsimp only
  split
  next => exact State.wr_gives (.refl s) _ _
  next => exact State.wr_gives (.refl s) _ _
  next =>
    refine .bind (Q := fun r => s.Kept r.2) ?_ fun r hr => State.wr_gives hr _ _
    split
    next => exact .map (State.privateCopy_gives ..)
    next => exact .ok (.refl s)

theorem execCkpt_goes (d a b : Reg) : s.Goes (execCkpt d a b s) := by
  refine finishCopy_goes (.bind (Q := fun r => s.Kept r.2.2.2) ⟨fun r h => .of_eq (planCkpt_mem h)⟩ fun r hr => ?_) (.refl s)
  exact State.enqueue_gives (hr.same (State.keepVers_mem ..)) ..

end

end Sys2Proof.Machine
namespace Sys2Proof.Machine

/-! ### Words of the engines -/

section
variable {s : State} {w : W96}

theorem execEnginePost_goes : s.Goes (execEnginePost w s) := thenPosts_goes (control_goes fun u => .ok (.of_eq (u.pushPost_mem ..)))

theorem execEngineAwait_goes : s.Goes (execEngineAwait w s) := by
  refine engine_goes (fun _ u => ?_) fun u => .of_eq rfl
  split
  next => exact .ok (.of_eq rfl)
  next => exact .error

theorem execBoqb_goes : s.Goes (execBoqb w s) := by
  refine control_goes fun u => ?_
  dsimp only
  split
  next => exact .error
  next => exact .ite (.after fun _ => .ok (.of_eq rfl)) (.after fun _ => .ok (.of_eq rfl))

theorem boqbPush_goes (f : Mask → Bool) : s.Goes (boqbPush w f s) :=
  engine_goes (fun _ _ => .bind (State.pushBoq_gives ..) fun _ h => .ok h) fun u => .refl u

theorem execLoop_goes : s.Goes (execLoop w s) :=
  engine_goes (fun _ u => .ite (.after fun _ => .ok (.refl u)) (.after fun _ => .ok (.refl u))) fun u => .refl u

theorem execIpop_goes : s.Goes (execIpop w s) := by
  refine control_goes fun u => ?_
  dsimp only
  split
  next => exact .error
  next => exact .ok (.of_eq rfl)

/-! ### Loads of the L stream -/

@[simp] theorem State.enterLoad_mem (s : State) (f : LoadFin) (ds : List Nat) : (s.enterLoad f ds).mem = s.mem := s.touch_mem ..

theorem State.enterTile_gives (dsts : List Place) (reg : Option Nat) : Res.Gives s.Kept (s.enterTile w dsts reg) :=
  .after fun _ => .after fun _ => .ok (.of_eq (State.enterLoad_mem ..))

theorem execLdb_goes : s.Goes (execLdb w s) :=
  engine_goes (fun _ _ => .after fun _ => .after fun _ => .after fun _ => .ok (.of_eq (State.enterLoad_mem ..))) fun u => u.wantSlot_kept ..

theorem execLdc_goes : s.Goes (execLdc w s) :=
  engine_goes (fun _ _ => .after fun _ => .after fun _ => .after fun _ => .ok (.of_eq (State.enterLoad_mem ..))) fun u => u.wantSlot_kept ..

theorem execLdz_goes : s.Goes (execLdz w s) :=
  engine_goes (fun _ _ => .after fun _ => .ok (.of_eq (State.enterLoad_mem ..))) fun u => .refl u

theorem execLdg_goes : s.Goes (execLdg w s) :=
  engine_goes (fun _ _ => .after fun _ => .after fun _ => .after fun _ => .ok (.of_eq (State.enterLoad_mem ..))) fun u => u.wantSlot_kept ..

theorem execLdtBuffer_goes : s.Goes (execLdtBuffer w s) :=
  engine_goes (fun _ _ => .after fun _ => .bind (State.enterTile_gives ..) fun _ h => .ok h) fun u => u.noteVer_kept ..

theorem execLdtTile_goes : s.Goes (execLdtTile w s) :=
  engine_goes (fun _ _ => .after fun _ => .bind (State.enterTile_gives ..) fun _ h => .ok h) fun u => .ite (.refl u) (u.noteVer_kept ..)

theorem execLdsh_goes : s.Goes (execLdsh w s) := by
  refine engine_goes (fun _ u => ?_) fun u => .refl u
  split
  next => exact .error
  next => exact .after fun _ => .after fun _ => .ok (.of_eq (State.enterLoad_mem ..))

theorem execLwfree_goes : s.Goes (execLwfree w s) := ringWord_goes fun _ => .after fun _ => .after fun _ => .ok (.of_eq rfl)

theorem execLpubl_goes : s.Goes (execLpubl w s) := ringWord_goes fun _ => .after fun _ => .after fun _ => .after fun _ => .ok (.of_eq rfl)

/-! ### Stores of the S stream -/

@[simp] theorem State.enterStore_mem (s : State) (kind : StoreKind) (esz : Nat) (ds : List Nat) (es : List StoreElem) (dropped : Nat) (rs : List Wr) :
    (s.enterStore kind esz ds es dropped rs).s.mem = s.mem := by
  unfold State.enterStore
  extract_lets u v
  have hv : v.mem = s.mem := by
    have hu : u.mem = s.mem := s.touch_mem ..
    dsimp only [v]
    split
    · exact hu
    · exact (u.stale_mem ..).trans hu
  clear_value v
  split
  · exact hv
  · exact hv

theorem State.enterDecided_gives (kind esz : Nat) (ts : List Nat) (es : List StoreElem) (ds : List (Nat × Nat)) (dropped : Nat) (rs : List Wr) :
    Res.Gives (fun e => s.Kept e.s) (s.enterDecided kind esz ts es ds dropped rs) := by
  refine .ite (.after fun _ => .after fun _ => .bind (State.decisions_gives ..) fun t ht => .ok ?_) (.ok (.of_eq (State.enterStore_mem ..)))
  exact .after (State.forEach_kept _ _ _ fun _ u => u.performs_kept ..) (ht.same (State.enterStore_mem ..))

theorem State.cvtRows_gives (src : Nat) (l : List (Nat × Tgt × List Nat)) (dies : List Nat) (inb : W32) (cnt : Nat → Nat → CoreSt → CoreSt)
    (rs : List Wr) : Res.Gives (fun e => s.Kept e.s) (s.cvtRows w src l dies inb cnt rs) :=
  .after fun _ => .ok (.of_eq (State.enterStore_mem ..))

theorem State.sttWrite_gives (fmt : Nat) (t : TPool) (n v : Nat) (fr : Frame) (tag : VerTag) (im : TileImage) (reg : Option Nat)
    (dies : List Nat) (rs : List Wr) : Res.Gives (fun e => s.Kept e.s) (s.sttWrite fmt t n v fr tag im reg dies rs) :=
  .after fun _ => .ok (.of_eq (State.enterStore_mem ..))

theorem execStb_goes : s.Goes (execStb w s) :=
  engine_goes (fun _ _ => .after fun _ => .after fun _ => .after fun _ => .ok (.of_eq (State.enterStore_mem ..))) fun u => .refl u

theorem addWord_goes (alpha : State → W32) : s.Goes (addWord w alpha s) :=
  engine_goes (fun _ _ => .after fun _ => .after fun _ => .after fun _ => .after fun _ => State.enterDecided_gives ..) fun u => .refl u

theorem execStcvt_goes : s.Goes (execStcvt w s) :=
  engine_goes (fun _ _ => .after fun _ => .after fun _ => State.cvtRows_gives ..) fun u => .refl u

theorem execStcvtTile_goes : s.Goes (execStcvtTile w s) :=
  engine_goes (fun _ _ => .after fun _ => .after fun _ => .after fun _ => .after fun _ => .after fun _ => .after fun _ => State.cvtRows_gives ..)
    fun u => .refl u

theorem execSttBuffer_goes : s.Goes (execSttBuffer w s) := by
  refine engine_goes (fun _ u => .after fun _ => .after fun _ => .after fun r => ?_) fun u => .refl u
  dsimp only
  split
  next => exact .ok (.of_eq (State.stale_mem ..))
  next => exact State.sttWrite_gives ..

theorem execSttTile_goes : s.Goes (execSttTile w s) := by
  refine engine_goes (fun _ u => .after fun _ => .after fun r => .after fun _ => .after fun _ => .after fun _ => .after fun _ => ?_) fun u => .refl u
  dsimp only
  split
  next => exact .ok (.of_eq (State.stale_mem ..))
  next => exact (State.sttWrite_gives ..).mono fun _ h => .trans (.of_eq (by rfl)) h

theorem execStsc_goes : s.Goes (execStsc w s) :=
  engine_goes (fun _ _ => .after fun _ => .after fun _ => .ok (.of_eq (State.enterStore_mem ..))) fun u => .refl u

theorem execSatom_goes : s.Goes (execSatom w s) := by
  refine engine_goes (fun _ u => .after fun _ => ?_) fun u => .refl u
  split
  next => exact .error
  next => exact .after fun _ => State.enterDecided_gives ..

theorem optWord_goes (adam : Bool) : s.Goes (optWord w adam s) := by
  refine engine_goes (fun _ u => .after fun _ => .after fun _ => .after fun _ => .ok (.of_eq ?_)) fun u => .refl u
  rw [State.setSm_mem, State.setCore_mem, State.stale_mem, State.touch_mem]

theorem execSwfill_goes : s.Goes (execSwfill w s) := ringWord_goes fun _ => .after fun _ => .after fun _ => .ok (.of_eq rfl)

theorem execSrels_goes : s.Goes (execSrels w s) := ringWord_goes fun _ => .after fun _ => .after fun _ => .after fun _ => .ok (.of_eq rfl)

/-! ### Words of the V stream -/

@[simp] theorem vput_mem (s : State) (d : Desc) (f : Nat) (o : Option Nat) (m : Mask) (v : Vec) (beta : W32) : (vput s d f o m v beta).1.mem = s.mem := by
  unfold vput
  split <;> rfl

theorem lanewise_goes (lat : Nat) (useB useD : Bool) (g : Nat → W32 → W32 → W32 → W32) : s.Goes (lanewise w lat useB useD g s) :=
  vword_goes (fun _ _ => .after fun _ => .ite (.after fun _ => .after fun _ => .ok (.of_eq (vput_mem ..)))
    (.after fun _ => .after fun _ => .ok (.of_eq (vput_mem ..)))) fun u => .refl u

theorem compare_goes (lat : Nat) (c : W32 → W32 → Bool) : s.Goes (compare w lat c s) :=
  vword_goes (fun _ u => .after fun _ => .after fun _ => .ok (.refl u)) fun u => .refl u

theorem reducing_goes (f : Mask → Vec → Vec) : s.Goes (reducing w f s) := vword_goes (fun _ u => .after fun _ => .ok (.refl u)) fun u => .refl u

theorem gathering_goes (useB : Bool) (f : Vec → Vec → Nat → W32) : s.Goes (gathering w useB f s) := engine_goes (fun _ u => .ok (.refl u)) fun u => .refl u

theorem random_goes (f : W32 → W32) : s.Goes (random w f s) := vword_goes (fun _ u => .after fun _ => .after fun _ => .ok (.refl u)) fun u => .refl u

theorem segword_goes {slot : Nat} {reads : Mask → List Rg} {body : Mask → BlzEnt → List (Option Nat) → State → Res Eff}
    (hbody : ∀ m r l u, Res.Gives (fun e => State.Kept u e.s) (body m r l u)) : s.Goes (segword w slot reads body s) :=
  vword_goes (fun _ _ => .after fun _ => hbody ..) fun u => u.wantSlot_kept ..

theorem execVcvt_goes : s.Goes (execVcvt w s) :=
  vword_goes (fun _ _ => .after fun _ => .after fun _ => .ok (.of_eq (vput_mem ..))) fun u => .refl u

theorem execVqnt_goes : s.Goes (execVqnt w s) := by
  refine vword_goes (fun _ _ => .after fun _ => .ite ?_ ?_) fun u => .refl u
  · exact .after fun _ => .after fun _ => .ok (.of_eq (vput_mem ..))
  · exact .after fun _ => .after fun _ => .ok (.of_eq (vput_mem ..))

theorem execVdqnt_goes : s.Goes (execVdqnt w s) := by
  refine vword_goes (fun _ u => .after fun _ => .ite (.after fun _ => ?_) (.after fun _ => ?_)) fun u => u.wantSlot_kept ..
  · exact .ite (.after fun _ => .ok (.of_eq rfl)) (.after fun _ => .ok (.of_eq rfl))
  · exact .ite (.after fun _ => .ok (.of_eq rfl)) (.after fun _ => .ok (.of_eq rfl))

theorem execVscale_goes : s.Goes (execVscale w s) :=
  vword_goes (fun _ _ => .after fun _ => .after fun _ => .after fun _ => .ok (.of_eq (vput_mem ..))) fun u => .refl u

theorem execVpack_goes : s.Goes (execVpack w s) := vword_goes (fun _ u => .after fun _ => .after fun _ => .ok (.of_eq (u.setCore_mem _))) fun u => .refl u

theorem execVunpk_goes : s.Goes (execVunpk w s) := vword_goes (fun _ u => .after fun _ => .ok (.refl u)) fun u => .refl u

end

end Sys2Proof.Machine
namespace Sys2Proof.Machine

/-! ### Control registers and launches -/

@[simp] theorem State.setGraph_mem (s : State) (g : Nat) (x : Graph) : (s.setGraph g x).mem = s.mem := rfl

@[simp] theorem State.setCtxCsr_mem (s : State) (n : Nat) (v : Word) : (s.setCtxCsr n v).mem = s.mem := rfl

@[simp] theorem State.measure_mem (s : State) (type detail : Nat) (digest : List Byte) : (s.measure type detail digest).mem = s.mem := by
  unfold State.measure
  rfl

@[simp] theorem State.measureHandlers_mem (s : State) (x base : Nat) : (s.measureHandlers x base).mem = s.mem :=
  State.forEach_mem _ _ _ fun e u => by
    split
    next => rfl
    next => exact u.measure_mem ..

@[simp] theorem State.touchHandlers_mem (s : State) (x base : Nat) : (s.touchHandlers x base).mem = s.mem := s.touch_mem ..

@[simp] theorem State.stopWaits_mem (s : State) (x : Nat) (r : Option (Nat × Nat × Nat)) : (s.stopWaits x r).mem = s.mem := by
  refine (State.forEach_mem _ _ _ fun c u => ?_).trans (State.forN_mem _ _ _ fun d u => ?_)
  · extract_lets k out
    clear_value out
    split <;> rfl
  · split <;> rfl

section
variable {s : State}

theorem State.acceptLaunch_gives (x p : Nat) : Res.Gives s.Kept (s.acceptLaunch x p) := by
  refine .after fun r => ?_
  dsimp only
  split
  next => exact .error
  next => exact .after fun _ => .ok (.of_eq (s.touch_mem ..))

theorem State.writeRing_gives (n : Nat) (v : Word) : Res.Gives s.Kept (s.writeRing n v) := by
  unfold State.writeRing
  extract_lets r w k same fits out
  have hout (q : Ring) : Res.Gives s.Kept (out q) := .ok (.of_eq rfl)
  split
  · exact hout _
  · exact .ite (hout _) .error
  · exact .ite (hout _) .error
  · exact .ite (hout _) .error
  · exact .ite (hout _) .error
  · exact .error

theorem State.writeTlbiva_gives (v : Word) : Res.Gives s.Kept (s.writeTlbiva v) :=
  .after fun _ => .after fun _ => .after fun _ => .ok (.of_eq ((State.dropTlb_mem ..).trans (s.stopWaits_mem ..)))

theorem State.writeHndb_gives (v : Word) : Res.Gives s.Kept (s.writeHndb v) := by
  refine .ite .error (.ite (.ok (.of_eq rfl)) (.after fun _ => ?_))
  split
  next => exact .ok (.of_eq ((State.touchHandlers_mem ..).trans (State.measureHandlers_mem ..)))
  next => exact .error

theorem State.writeDlog_gives (n : Nat) (v : Word) : Res.Gives s.Kept (s.writeDlog n v) := by
  unfold State.writeDlog
  dsimp only
  split
  · exact .ite .error (.ok (.of_eq rfl))
  · exact .ite .error (.ok (.of_eq rfl))
  · exact .ite (.ok (.of_eq rfl)) .error
  · exact .ite (.ok (.of_eq rfl)) .error

theorem State.csrWrite_gives (n : Nat) (v : Word) : Res.Gives s.Kept (s.csrWrite n v) := by
  have hset (t : State) (h : t.mem = s.mem) : Res.Gives s.Kept (.ok t) := .ok (.of_eq h)
  unfold State.csrWrite
  refine .ite (hset _ rfl) (.ite (State.writeHndb_gives v) (.ite ?_ (.ite (State.writeRing_gives ..) (.ite (hset _ rfl) (.ite (hset _ rfl) ?_)))))
  · exact .ok (.ite (.of_eq rfl) (.refl s))
  refine .ite (State.writeTlbiva_gives v) (.ite (.after fun _ => State.acceptLaunch_gives ..) (.ite (State.writeDlog_gives ..) (.ite (hset _ rfl) ?_)))
  exact .ite (hset _ rfl) (.ite (hset _ rfl) (hset _ rfl))

theorem csrw_goes (d : Reg) (n : Nat) : s.Goes (csrw d n s) := finish_goes (.after fun _ => .after fun _ => State.csrWrite_gives ..) (.refl s)

theorem csrwWhen_goes (d : Reg) (n : Nat) (f : Nat → Bool) : s.Goes (csrwWhen d n f s) := .ite (csrw_goes d n) (.next (.refl s))

theorem execCsrr_goes (d : Reg) (c : BitVec 10) : s.Goes (execCsrr d c s) := by
  refine finish_goes (.after fun _ => ?_) (.refl s)
  refine State.wr_gives ?_ _ _
  exact .ite (.of_eq rfl) (.refl s)

end

/-! ### Loads, stores and walks that end -/

theorem State.accessFault_id_kept (s : State) (t : Strm) (n tl pc elem code addr detail : Nat) : s.Kept (s.accessFault t n tl pc elem id code addr detail) :=
  s.accessFault_kept _ _ _ _ _ _ _ _ fun u => .refl u

theorem State.loadFault_kept (s : State) (t : Strm) (e : LoadEnt) (o code addr detail : Nat) : s.Kept (s.loadFault t e o code addr detail) :=
  s.accessFault_id_kept ..

theorem State.loadWaits_kept (s : State) (core : Nat) (t : Strm) (e : LoadEnt) : s.Kept (s.loadWaits core t e) :=
  .ite (.of_eq rfl) (.ite (.after (State.checkHeads_kept ..) (.of_eq (s.raiseRebuilds_mem _))) (.refl s))

@[simp] theorem State.setLoad_mem (s : State) (t : Strm) (e : LoadEnt) : (s.setLoad t e).mem = s.mem := rfl

@[simp] theorem State.scribble_mem (s : State) (n : Nat) (ds : List Place) : (s.scribble n ds).mem = s.mem :=
  State.forEach_mem _ _ _ fun p u => by
    dsimp only
    split <;> rfl

@[simp] theorem State.tileFail_mem (s : State) (fmt h v : Nat) (dsts : List Place) (reg : Option Nat) : (s.tileFail fmt h v dsts reg).mem = s.mem := by
  unfold State.tileFail
  extract_lets u rows w
  have hw : w.mem = s.mem := by
    refine Eq.trans ?_ (s.scribble_mem (fmtBytes fmt 128) dsts)
    dsimp only [w]
    split <;> rfl
  clear_value w
  split
  next => rw [State.inform_mem, State.loseVer_mem, hw]
  next => exact hw

@[simp] theorem State.cacheRec_mem (s : State) (e : BlzEnt × List Nat) : (s.cacheRec e).mem = s.mem := s.touch_mem ..

theorem State.cacheShape_kept (s : State) (m p : Nat) (b : List Byte) (src : Place) : s.Kept (s.cacheShape m p b src) :=
  .after (.of_eq (State.setCore_mem ..)) (.ite (State.sysWrite_kept ..) (.refl s))

theorem State.finishLoad_kept (s : State) (t : Strm) (e : LoadEnt) : s.Kept (s.finishLoad t e) := by
  unfold State.finishLoad
  extract_lets give
  have hgive (b : W32) : s.Kept (give b) := .of_eq rfl
  clear_value give
  split
  next =>
    split
    next => exact .ite (hgive _) (.of_eq (State.tileFail_mem ..))
    next => exact .refl s
  next =>
    dsimp only
    split
    next => exact State.loadFault_kept ..
    next => exact .refl s
    next => exact .of_eq (s.touch_mem ..)
    next => exact .ite (.after (.of_eq (State.setSm_mem ..)) (State.cacheShape_kept ..)) (State.loadFault_kept ..)
  next => exact hgive 0

theorem State.bindLoad_kept (s : State) (t : Strm) (e : LoadEnt) (l : List (Place × Nat)) (data : List Byte) : s.Kept (s.bindLoad t e l data) := by
  unfold State.bindLoad
  split
  next => exact State.loadFault_kept ..
  next => exact .ite (.of_eq rfl) (.after (State.finishLoad_kept ..) (.of_eq rfl))

theorem State.performIf_kept (s : State) (core : Nat) (t : Strm) (win k : Nat) (f : StoreOp → Bool) : s.Kept (s.performIf core t win k f) := by
  unfold State.performIf
  split
  next => exact .ite (s.onCore_kept fun u => u.performs_kept ..) (.refl s)
  next => exact .refl s

@[simp] theorem State.answer_mem (s : State) (j : Jec) (t : Status) (data : List Byte) : (s.answer j t data).mem = s.mem := rfl

theorem State.portWrite_kept (x : Nat) (g : List Seg) (l : List (Byte × Option (Option VerTag))) (i : Nat) (s : State) :
    s.Kept (State.portWrite x g l i s) := by
  induction l generalizing i s with
  | nil => exact .refl s
  | cons b r ih => exact .after (ih ..) (.ite (State.perform_kept ..) (.of_eq (State.stale_mem ..)))

theorem State.portDone_kept (s : State) : s.Kept s.portDone := by
  unfold State.portDone
  split
  next => exact .refl s
  next => exact .after (.of_eq (State.answer_mem ..)) (.after (State.portWrite_kept ..) (.of_eq rfl))

section
variable {s : State}

theorem execLoadDataArrival_goes (core : Nat) (t : Strm) (a : Arrival) : s.Goes (execLoadDataArrival core t a s) := by
  unfold execLoadDataArrival
  split
  next => exact .next (.refl s)
  next =>
    split
    next => exact .next (State.loadWaits_kept ..)
    next => exact .next (s.onCore_kept fun u => u.loadFault_kept ..)
    next => exact .next (s.onCore_kept fun u => u.loadFault_kept ..)
    next => exact .ite (.next (.refl s)) (.next (s.onCore_kept fun u => u.bindLoad_kept ..))

theorem execMarkerRetire_goes (core idx : Nat) : s.Goes (execMarkerRetire core idx s) := by
  unfold execMarkerRetire
  split
  next => exact .next (.refl s)
  next => exact .ite (.next (.refl s)) (.next (s.onCore_kept fun u => (State.markArrive_kept ..).same (State.setCore_mem ..)))

theorem execBarrierPhaseRelease_goes (b : Nat) : s.Goes (execBarrierPhaseRelease b s) := by
  unfold execBarrierPhaseRelease
  split
  next => exact .next (.refl s)
  next => exact .ite (.next (.refl s)) (.next (.after (State.checkHeads_kept ..) (State.releaseBar_kept ..)))

theorem execWaitaPoll_goes (core : Nat) : s.Goes (execWaitaPoll core s) := by
  unfold execWaitaPoll
  split
  next => exact .ite (.next (.of_eq rfl)) (.next (.ite (.of_eq rfl) (.refl s)))
  next => exact .next (.refl s)

theorem execSleepExpiry_goes (core : Nat) : s.Goes (execSleepExpiry core s) := by
  unfold execSleepExpiry
  split
  next => exact .next (.of_eq rfl)
  next => exact .next (.refl s)

theorem execTranslationWalk_goes (who : Filling) (win va : Nat) : s.Goes (execTranslationWalk who win va s) := by
  unfold execTranslationWalk
  extract_lets core x d out c u die v
  have hu : u.mem = s.mem := by
    dsimp only [u]
    split <;> rfl
  have hv : s.Kept v := .of_eq (by
    dsimp only [v]
    split
    · exact hu
    · exact hu)
  clear_value v
  refine .ite (.next hv) ?_
  dsimp only
  split
  next => exact .next (hv.same rfl)
  next =>
    split
    next => exact .next (hv.same rfl)
    next => exact .next hv

theorem execBlazeCacheRefill_goes (core : Nat) (t : Strm) : s.Goes (execBlazeCacheRefill core t s) := by
  unfold execBlazeCacheRefill
  split
  next => exact .next (.refl s)
  next =>
    extract_lets m u n
    have hu : s.Kept u := .of_eq rfl
    have hn : s.Kept n := .of_eq rfl
    refine .ite (.next (.refl s)) (.ite (.next (.after (State.flushPosts_kept _) hn)) ?_)
    split
    next => exact .next (.after (State.flushPosts_kept _) (hn.same (State.cacheRec_mem ..)))
    next => exact .next hu
    next => exact .next (.after (State.flushPosts_kept _) (.after (State.raise_kept ..) hn))
    next => exact .next (.after (State.flushPosts_kept _) (.after (State.raise_kept ..) hn))

theorem execTaskQueueTake_goes (q : Nat) : s.Goes (execTaskQueueTake q s) := by
  unfold execTaskQueueTake
  extract_lets k j u
  have hu : s.Kept u := .after (State.qRelease_kept ..) (.of_eq rfl)
  refine .ite (.next (.refl s)) ?_
  split
  next => exact .next hu
  next => exact .next (.ite (.after (State.checkHeads_kept ..) (hu.same (State.enterPool_mem ..))) (hu.same (State.setTask_mem ..)))

end

end Sys2Proof.Machine
namespace Sys2Proof.Machine

/-! ### Copies, replicas and recovery move on -/

section
variable {s : State}

theorem execCopyStart_goes (x q die : Nat) : s.Goes (execCopyStart x q die s) := by
  unfold execCopyStart
  split
  next => exact .next (.refl s)
  next => exact .ite (.next (.refl s)) (.next (.of_eq rfl))

theorem execCopyLanded_goes (x q n : Nat) : s.Goes (execCopyLanded x q n s) := by
  unfold execCopyLanded
  split
  next => exact .next (.refl s)
  next =>
    refine .ite (.next (.refl s)) ?_
    split
    next => exact .ite (.next (State.landCkpt_kept ..)) (.next (.refl s))
    next => exact .next (.after (.of_eq (State.setXfer_mem ..)) (State.landXfer_kept ..))

theorem execCheckpointDeliveryAcknowledged_goes (x q n : Nat) : s.Goes (execCheckpointDeliveryAcknowledged x q n s) := by
  unfold execCheckpointDeliveryAcknowledged
  split
  next => exact .next (.refl s)
  next =>
    split
    next => exact .ite (.next (.of_eq rfl)) (.next (.refl s))
    next => exact .next (.refl s)

theorem execCopyAcked_goes (x q n : Nat) : s.Goes (execCopyAcked x q n s) := by
  unfold execCopyAcked
  split
  next => exact .next (.refl s)
  next =>
    refine .ite (.next (.refl s)) (.next ?_)
    refine .after (.of_eq (State.send_mem ..)) (.after (.of_eq (State.dropXfer_mem ..)) (.after (State.letGo_kept ..) (.after (State.flagUpdate_kept ..) ?_)))
    split
    next => exact State.subPend_kept ..
    next => exact .refl s

theorem execCopyFaulted_goes (x q n : Nat) : s.Goes (execCopyFaulted x q n s) := by
  unfold execCopyFaulted
  split
  next => exact .next (.refl s)
  next => exact .ite (.next (.refl s)) (.next (State.faultXfer_kept ..))

theorem execReplicaCounted_goes (x : Nat) (handle : Word) (v : Nat) : s.Goes (execReplicaCounted x handle v s) := by
  unfold execReplicaCounted
  split
  next => exact .next (.refl s)
  next =>
    split
    next => exact .ite (.next (.refl s)) (.next (.of_eq ((State.trim_mem ..).trans (State.setVer_mem ..))))
    next => exact .next (.refl s)

theorem execReplicaLost_goes (x : Nat) (handle : Word) (v : Nat) : s.Goes (execReplicaLost x handle v s) := by
  unfold execReplicaLost
  split
  next => exact .next (.refl s)
  next =>
    split
    next => exact .next (.of_eq ((State.startRepl_mem ..).trans (State.setVer_mem ..)))
    next => exact .next (.of_eq (State.setVer_mem ..))
    next => exact .next (.of_eq (State.setVer_mem ..))
    next => exact .next (.refl s)

theorem execReplicaTargetLost_goes (x : Nat) (handle : Word) (v : Nat) : s.Goes (execReplicaTargetLost x handle v s) := by
  unfold execReplicaTargetLost
  split
  next => exact .next (.refl s)
  next =>
    split
    next => exact .next (.of_eq (State.startRepl_mem ..))
    next => exact .next (.refl s)

theorem execLineageMirrorRetry_goes (die : Nat) : s.Goes (execLineageMirrorRetry die s) := by
  unfold execLineageMirrorRetry
  split
  next => exact .next (.refl s)
  next => exact .ite (.next (.refl s)) (.next (.of_eq (State.forEach_mem _ _ _ fun _ u => u.sendMirror_mem ..)))

theorem execLineageMirrorArrival_goes (die : Nat) (m : MirrorMsg) : s.Goes (execLineageMirrorArrival die m s) := by
  refine .ite (.next (.refl s)) ?_
  cases m with
  | store => exact .next (.of_eq (State.send_mem ..))
  | trim => exact .next (.of_eq rfl)
  | ack => exact .next (.of_eq rfl)

/-- A walk through the lineage, and the rebuild runs that it leaves ready. -/
theorem State.recover_ready_kept (s : State) (x f : Nat) (o : Nat × Nat) : s.Kept (((State.recover x f o s).raiseRebuilds x).checkHeads x) :=
  .after (State.checkHeads_kept ..) (.after (.of_eq (State.raiseRebuilds_mem ..)) (State.recover_kept ..))

theorem execCopyBackVerified_goes (x : Nat) (handle : Word) (v : Nat) : s.Goes (execCopyBackVerified x handle v s) := by
  unfold execCopyBackVerified
  split
  next => exact .next (.refl s)
  next =>
    split
    next =>
      refine .ite (.next ?_) (.next (.after (State.recover_ready_kept ..) (.of_eq (State.setVer_mem ..))))
      exact .after (.of_eq (State.setVer_mem ..)) (.after (State.perform_kept ..) (State.perform_kept ..))
    next => exact .next (.refl s)

end

/-! ### Link words and the fabric -/

@[simp] theorem State.setGroup_mem (s : State) (n : Nat) (g : CGroup) : (s.setGroup n g).mem = s.mem := rfl

@[simp] theorem State.contribute_mem (s : State) (x l n loc : Nat) : (s.contribute x l n loc).mem = s.mem := by
  unfold State.contribute
  split
  next => rfl
  next => exact s.send_mem _

@[simp] theorem State.settleLinks_mem (s : State) (x l : Nat) (f : LinkOp → Option LinkStatus) : (s.settleLinks x l f).mem = s.mem :=
  State.forEach_mem _ _ _ fun _ _ => rfl

@[simp] theorem State.settleFailed_mem (s : State) (l n : Nat) : (s.settleFailed l n).mem = s.mem := by
  unfold State.settleFailed
  split
  next => rfl
  next =>
    split
    next => exact State.settleLinks_mem ..
    next => rfl

@[simp] theorem State.cgPending_mem (s : State) (l : Nat) (g : CGroup) (join : Bool) : (s.cgPending l g join).mem = s.mem := State.send_mem ..

@[simp] theorem State.breakGroup_mem (s : State) (l : Nat) : (s.breakGroup l).mem = s.mem := by
  unfold State.breakGroup
  split
  next => rfl
  next =>
    split
    · rfl
    · exact State.settleLinks_mem ..

theorem State.exportWrite_kept (s : State) (off : Nat) (data : List Byte) : s.Kept (s.exportWrite off data) := by
  unfold State.exportWrite
  split
  next => exact State.perform_kept ..
  next => exact .refl s

theorem State.linkDone_kept (s : State) (core : Nat) (o : LinkOp) (st : LinkStatus) : s.Kept (s.linkDone core o st) :=
  .after (.of_eq (State.setCoreOf_mem ..)) (.after (State.flagUpdate_kept ..) (.ite (.refl s) (State.flagUpdate_kept ..)))

theorem State.commitMcst_kept (s : State) (core : Nat) (o : LinkOp) : s.Kept (s.commitMcst core o) :=
  .after (.of_eq (State.setCoreOf_mem ..)) (State.exportWrite_kept ..)

theorem State.linkWrite_kept (s : State) (p : Place) (data : List Byte) : s.Kept (s.linkWrite p data) := by
  unfold State.linkWrite
  split
  next => exact .ite (.refl s) (State.perform_kept ..)
  next => exact .of_eq rfl
  next => exact .refl s

section
variable {s : State}

theorem State.linkPlan_gives (red : Bool) (d a : Reg) (lim : LDesc → Res Unit) : Res.Gives (fun r => s.Kept r.2.2.2) (s.linkPlan red d a lim) := by
  refine .after fun p => .after fun _ => .after fun _ => .after fun _ => .after fun _ => .after fun _ => ?_
  have ht (ds : List Nat) : s.Kept ((s.touchC p.toNat 64).touch s.ctxNo ds) := .of_eq ((State.touch_mem ..).trans (State.touchC_mem ..))
  refine .ite (.after fun _ => .after fun _ => .after fun _ => .ok (ht _)) ?_
  exact .after fun _ => .after fun _ => .after fun _ => .after fun _ => .after fun _ => .ok (ht _)

theorem State.linkIssue_gives {t : State} (ht : s.Kept t) (d : Reg) (src : Place) (ack : Bool) (o : LinkOp) : Res.Gives s.Kept (t.linkIssue d src ack o) := by
  refine State.wr_gives ?_ _ _
  exact ht.same ((State.setCore_mem ..).trans ((State.tlc_mem _).trans (State.touch_mem ..)))

theorem execLkmcst_goes (d a b : Reg) : s.Goes (execLkmcst d a b s) := by
  refine finish_goes (.after fun g => .after fun _ => .bind (State.linkPlan_gives ..) fun r hr => ?_) (.refl s)
  exact State.linkIssue_gives (hr.same (State.send_mem ..)) ..

theorem execLksend_goes (d a b : Reg) : s.Goes (execLksend d a b s) := by
  refine finish_goes (.after fun g => .after fun _ => .bind (State.linkPlan_gives ..) fun r hr => ?_) (.refl s)
  exact State.linkIssue_gives (hr.same (State.send_mem ..)) ..

theorem execLkldred_goes (d a b : Reg) : s.Goes (execLkldred d a b s) := by
  refine finish_goes (.after fun g => .after fun _ => .bind (State.linkPlan_gives ..) fun r hr => ?_) (.refl s)
  refine .bind (State.linkIssue_gives (hr.same (State.setGroup_mem ..)) ..) fun u hu => .ok ?_
  exact hu.same ((State.settleFailed_mem ..).trans (State.contribute_mem ..))

theorem execCgjoin_goes (a : Reg) : s.Goes (execCgjoin a s) :=
  finish_goes (.after fun _ => .after fun _ => .ite (.ok (.of_eq rfl)) (.ok (.of_eq (State.cgPending_mem ..)))) (.refl s)

theorem execCgleave_goes (a : Reg) : s.Goes (execCgleave a s) :=
  finish_goes (.after fun _ => .after fun _ => .after fun _ => .ok (.of_eq (State.cgPending_mem ..))) (.refl s)

theorem execCgstat_goes (d a : Reg) : s.Goes (execCgstat d a s) :=
  finish_goes (.after fun _ => .bind (State.wr_gives (.refl s) ..) fun _ hu => .ok (hu.same rfl)) (.refl s)

theorem execLinkDataCompletion_goes (core num : Nat) (st : LinkStatus) : s.Goes (execLinkDataCompletion core num st s) := by
  unfold execLinkDataCompletion
  split
  next => exact .next (.refl s)
  next => exact .ite (.next (.refl s)) (.next (s.onCore_kept fun u => .ite (u.commitMcst_kept ..) (u.linkDone_kept ..)))

theorem execCollectiveCommit_goes (l op : Nat) (oc : CollOutcome) : s.Goes (execCollectiveCommit l op oc s) := by
  unfold execCollectiveCommit
  split
  next => exact .next (.refl s)
  next =>
    split
    next => exact .ite (.next (.refl s)) (.next (.of_eq ((State.settleFailed_mem ..).trans (State.setGroup_mem ..))))
    next =>
      split
      next =>
        refine .ite (.next (.refl s)) ?_
        dsimp only
        split
        next => exact .next (.refl s)
        next => exact .next (.after (.of_eq (State.settleLinks_mem ..)) (.after (.of_eq (State.setGroup_mem ..)) (State.linkWrite_kept ..)))
      next => exact .next (.refl s)

theorem execCollectiveJoinLeaveRecorded_goes (l rank : Nat) (join : Bool) : s.Goes (execCollectiveJoinLeaveRecorded l rank join s) := by
  unfold execCollectiveJoinLeaveRecorded
  split
  next => exact .next (.refl s)
  next => exact .ite (.next (.refl s)) (.ite (.next (.refl s)) (.next (.of_eq (State.forEach_mem _ _ _ fun _ _ => rfl))))

theorem execRemoteAccessArrival_goes (acc : RemoteAcc) (off : Nat) : s.Goes (execRemoteAccessArrival acc off s) := by
  unfold execRemoteAccessArrival
  split
  next =>
    split
    next => exact .next (.of_eq (State.send_mem ..))
    next => exact .next (.of_eq (State.send_mem ..))
  next => exact .next (.after (.of_eq (State.send_mem ..)) (State.exportWrite_kept ..))
  next =>
    dsimp only
    split
    next => exact .next (.of_eq (State.send_mem ..))
    next =>
      refine .ite (.next (.after (.of_eq (State.send_mem ..)) (State.atomAt_kept ..))) (.next (.after (.of_eq (State.send_mem ..)) (State.perform_kept ..)))

theorem execWriteAcknowledge_goes (core : Nat) : s.Goes (execWriteAcknowledge core s) := by
  unfold execWriteAcknowledge
  split
  next => exact .next (.refl s)
  next =>
    refine .next (s.onCore_kept fun u => ?_)
    dsimp only
    split
    next => exact .of_eq rfl
    next => exact .of_eq (State.giveBack_mem ..)

end

/-! ### Tasks and launches -/

@[simp] theorem State.onPool_mem (s : State) (x die : Nat) (f : RPool → RPool) : (s.onPool x die f).mem = s.mem := rfl

@[simp] theorem State.backToPool_mem (s : State) (i : Nat) : (s.backToPool i).mem = s.mem := by
  unfold State.backToPool
  split
  next => rfl
  next => exact State.raiseRebuilds_mem ..

theorem State.unbound_kept (s : State) (i x : Nat) : s.Kept (s.unbound i x) := .after (State.raiseCtx_kept ..) (.of_eq (s.backToPool_mem i))

@[simp] theorem State.startAll_mem (s : State) (i : Nat) (cores : List (Nat × Nat)) : (s.startAll i cores).mem = s.mem := by
  unfold State.startAll
  split
  next => rfl
  next => exact State.forEach_mem _ _ _ fun _ _ => rfl

theorem State.formGang_kept (s : State) (i : Nat) : s.Kept (s.formGang i) := by
  unfold State.formGang
  split
  next => exact .refl s
  next => exact .ite (.refl s) (.ite (State.unbound_kept ..) (.of_eq (State.startAll_mem ..)))

theorem State.claimGang_kept (s : State) (i : Nat) : s.Kept (s.claimGang i) := by
  unfold State.claimGang
  split
  next => exact .refl s
  next => exact .ite (State.unbound_kept ..) (.after (State.formGang_kept ..) (.of_eq rfl))

theorem State.takeTask_kept (s : State) (k i : Nat) : s.Kept (s.takeTask k i) := by
  unfold State.takeTask
  split
  next => exact .refl s
  next =>
    extract_lets u
    have hu : s.Kept u := .of_eq rfl
    exact .ite (.after (State.claimGang_kept ..) hu) (.ite (.after (State.unbound_kept ..) hu) (hu.same (State.startAll_mem ..)))

theorem State.request_kept (s : State) (x k : Nat) : s.Kept (s.request x k) := by
  unfold State.request
  extract_lets u die p0 p n iv c v r k w
  have hu : s.Kept u := State.checkHeads_kept ..
  have hv : s.Kept v := hu.same rfl
  have hw : s.Kept w := hv.same rfl
  refine .ite hu (.ite ?_ ?_)
  · split
    next => exact .after (State.checkHeads_kept ..) (.after (State.takeTask_kept ..) hw)
    next => exact hw
  · split
    next => exact hv
    next => exact .after (State.checkHeads_kept ..) (.after (State.takeTask_kept ..) (hv.same rfl))

theorem State.holdCore_kept (s : State) (x k : Nat) : s.Kept (s.holdCore x k) := by
  refine .ite (.refl s) ?_
  split
  next => exact .after (State.formGang_kept ..) (.of_eq rfl)
  next => exact .refl s

theorem State.holdFree_kept (s : State) (x : Nat) : s.Kept (s.holdFree x) := State.forEach_kept _ _ _ fun _ u => u.holdCore_kept ..

theorem State.patchAll_kept (g : Graph) (l : List (Nat × Nat)) (s : State) :
    s.Kept (State.patchAll g l s).2 ∧ ∀ t, (State.patchAll g l s).1 = .ok t → s.Kept t := by
  induction l generalizing s with
  | nil => exact ⟨.refl s, fun t h => by cases h; exact .refl s⟩
  | cons e r ih =>
    obtain ⟨off, v⟩ := e
    rw [State.patchAll]
    split
    next => exact ⟨.refl s, fun t h => by cases h⟩
    next =>
      have hw := s.sysWrite_kept g.ctx (4 * 2 ^ 60 + bits g.paramp 55 0 + off) none (toLE 8 v)
      obtain ⟨h1, h2⟩ := ih (s.sysWrite g.ctx (4 * 2 ^ 60 + bits g.paramp 55 0 + off) none (toLE 8 v)).1
      exact ⟨hw.trans h1, fun t h => hw.trans (h2 t h)⟩

@[simp] theorem State.createTasks_mem (s : State) (slot num : Nat) (g : Graph) (es : List Nat) : (s.createTasks slot num g es).mem = s.mem := by
  refine (State.readyAll_mem ..).trans ((State.forEach_mem _ _ _ fun p u => ?_).trans (State.forEach_mem _ _ _ fun p u => u.newTask_mem ..))
  split <;> rfl

section
variable {s : State}

theorem execDispatchRequest_goes (k : Nat) : s.Goes (execDispatchRequest k s) :=
  .ite (.next (.refl s)) (.ite (.next (s.holdFree_kept _)) (.next (s.request_kept ..)))

theorem execTaskCompletion_goes (i : Nat) : s.Goes (execTaskCompletion i s) := by
  unfold execTaskCompletion
  split
  next => exact .next (.refl s)
  next =>
    refine .ite (.next (.refl s)) (.next (.after (State.holdFree_kept ..) (.after (State.checkHeads_kept ..) ?_)))
    refine .after (.of_eq (State.retireKernel_mem ..)) (.after (State.endTask_kept ..) (.of_eq ?_))
    exact State.forEach_mem _ _ _ fun _ _ => rfl

theorem execLaunchStart_goes (slot : Nat) : s.Goes (execLaunchStart slot s) := by
  unfold execLaunchStart
  split
  next => exact .next (.refl s)
  next g _ =>
    dsimp only
    split
    next => exact .next (.refl s)
    next l r _ =>
      refine .ite (.next (.refl s)) ?_
      obtain ⟨hs, hok⟩ := State.patchAll_kept g l.patches s
      split
      next h => rw [h] at hs; exact .next (.after (State.raiseCtx_kept ..) hs)
      next h =>
        rw [h] at hok
        exact .next (.after (State.checkHeads_kept ..) (.after (.of_eq (State.createTasks_mem ..)) ((hok _ rfl).same rfl)))

theorem execKernelVerification_goes (n : Nat) : s.Goes (execKernelVerification n s) := by
  refine .ite (.next (.refl s)) ?_
  split
  next => exact .next (.of_eq (State.measure_mem ..))
  next => exact .next (.of_eq rfl)

theorem execRebuildEnqueue_goes (x : Nat) (lid : Word) : s.Goes (execRebuildEnqueue x lid s) := by
  unfold execRebuildEnqueue
  split
  next =>
    exact .ite (.next (.refl s)) (.next (.after (State.checkHeads_kept ..) (.of_eq ((State.makeReady_mem ..).trans (State.newTask_mem ..)))))
  next => exact .next (.refl s)

end

end Sys2Proof.Machine
namespace Sys2Proof.Machine

/-! ### Contexts change places -/

@[simp] theorem State.drainCtx_mem (s : State) (x : Nat) : (s.drainCtx x).mem = s.mem := by
  unfold State.drainCtx
  exact (State.setCtxOf_mem ..).trans (State.forEach_mem _ _ _ fun c u => u.dropWaits_mem _)

theorem State.writeSpill_kept (s : State) (x : Nat) : s.Kept (s.writeSpill x) := .after (State.unitWrite_kept ..) (.of_eq (s.freeBytes_mem _))

@[simp] theorem State.withSaved_mem (s : State) (shelf spill : List (Nat × CoreSt)) :
    ({ s with shelf := shelf, spill := spill } : State).mem = s.mem := rfl

theorem State.spillNow_kept (s : State) (x : Nat) : s.Kept (s.spillNow x) :=
  (s.writeSpill_kept x).same ((State.send_mem ..).trans ((State.setCtxOf_mem ..).trans ((State.setPartOf_mem ..).trans (State.withSaved_mem ..))))

theorem State.freeShelf_kept (s : State) (part x : Nat) : s.Kept (s.freeShelf part x) := by
  unfold State.freeShelf
  split
  next => exact .refl s
  next => exact .ite (.refl s) (.ite (State.spillNow_kept ..) (.of_eq rfl))

@[simp] theorem State.giveUpMove_mem (s : State) (x : Nat) : (s.giveUpMove x).mem = s.mem := by
  unfold State.giveUpMove
  dsimp only
  rw [State.setCtxOf_mem]
  split <;> rfl

theorem State.returnLost_kept (s : State) (x : Nat) (stands : Nat × Nat → Bool) : s.Kept (s.returnLost x stands) := by
  refine State.forEach_kept _ _ _ fun t u => ?_
  split
  next => exact State.returnTask_kept ..
  next => exact .of_eq (u.backToPool_mem _)
  next => exact .refl u

@[simp] theorem State.shelve_mem (s : State) (x : Nat) : (s.shelve x).mem = s.mem :=
  (State.setCtxOf_mem ..).trans (State.forEach_mem _ _ _ fun _ _ => rfl)

theorem State.resumeTasks_kept (s : State) (x : Nat) : s.Kept (s.resumeTasks x) :=
  .after (State.checkHeads_kept ..) (.after (State.holdFree_kept ..) (.after (.of_eq (State.setCtxOf_mem ..)) (State.returnLost_kept ..)))

theorem State.bring_kept (s : State) (x : Nat) : s.Kept (s.bring x) := by
  refine .after (State.resumeTasks_kept ..) (.of_eq ?_)
  refine (State.setCtxOf_mem ..).trans ((State.setPartOf_mem ..).trans ?_)
  exact State.forEach_mem _ _ _ fun _ _ => rfl

theorem State.askRun_kept {s t : State} {x : Nat} (h : s.askRun x = some t) : s.Kept t := by
  unfold State.askRun at h
  extract_lets part p next at h
  have hnext (u : State) : u.Kept (next u) := .of_eq rfl
  split at h
  · cases h
  · split at h
    next => cases h; exact hnext s
    next =>
      split at h
      next => cases h; exact .after (hnext _) (.after (.of_eq (State.drainCtx_mem ..)) (State.freeShelf_kept ..))
      next => cases h; exact .after (hnext _) (State.freeShelf_kept ..)
      next => cases h

theorem State.askResume_kept (s : State) (x : Nat) : s.Kept (s.askResume x) := by
  unfold State.askResume
  split
  next h => exact State.askRun_kept h
  next => exact .ite (.refl s) (.ite (.of_eq rfl) (.of_eq rfl))

theorem State.serveAfter_kept (s : State) (part : Nat) : s.Kept (s.serveAfter part) := by
  unfold State.serveAfter
  split
  next => exact .refl s
  next => exact .ite (.after (State.askResume_kept ..) (.of_eq rfl)) (.of_eq rfl)

theorem State.bringIn_kept (s : State) (x : Nat) : s.Kept (s.bringIn x) := .ite (State.raiseCtx_kept ..) (State.bring_kept ..)

section
variable {s : State}

theorem execSpillComplete_goes (x : Nat) : s.Goes (execSpillComplete x s) := by
  have hw := s.writeSpill_kept x
  refine .ite (.ite (.next (State.spillNow_kept ..)) (.ite (.next (.of_eq rfl)) (.ite (.next ?_) (.next ?_)))) (.next (.refl s))
  · exact .after (.of_eq (State.send_mem ..)) (.after (.of_eq (State.setCtxOf_mem ..)) hw)
  · refine .after (.of_eq (State.send_mem ..)) (.after (.of_eq (State.setCtxOf_mem ..)) (.after (.of_eq (State.setPartOf_mem ..)) (.after (.of_eq ?_) hw)))
    exact State.forEach_mem _ _ _ fun _ _ => rfl

theorem execFillComplete_goes (x : Nat) : s.Goes (execFillComplete x s) := by
  refine .ite (.ite (.next (.after (State.raiseCtx_kept ..) (.of_eq (s.giveUpMove_mem x)))) (.next ?_)) (.next (.refl s))
  exact .of_eq (State.send_mem ..)

theorem execSwapExchangeComplete_goes (part : Nat) : s.Goes (execSwapExchangeComplete part s) := by
  unfold execSwapExchangeComplete
  extract_lets p x wasShelf u part v w
  clear_value x
  have hu : s.Kept u := by
    dsimp only [u]
    split
    next => exact .ite (.of_eq (s.shelve_mem _)) (.after (.of_eq (State.shelve_mem ..)) (State.freeShelf_kept ..))
    next => exact .refl s
  have hv : s.Kept v := hu.same (State.setPartOf_mem ..)
  have hw : s.Kept w := by
    dsimp only [w]
    split
    next => exact .after (State.bringIn_kept ..) hv
    next => exact hv
  clear_value w
  refine .ite (.next (.refl s)) (.next (.after (State.serveAfter_kept ..) (hw.same ?_)))
  exact State.forEach_mem _ _ _ fun d u => u.count_mem ..

theorem execContextStopped_goes (x : Nat) : s.Goes (execContextStopped x s) := .ite (.next (.of_eq rfl)) (.next (.refl s))

end

/-! ### Losses, resets and the ports -/

@[simp] theorem State.setPort_mem (s : State) (p : Nat) (l : LinkState) : (s.setPort p l).mem = s.mem := rfl

@[simp] theorem State.setAttempts_mem (s : State) (p n : Nat) : (s.setAttempts p n).mem = s.mem := rfl

@[simp] theorem State.fencePort_mem (s : State) (p : Nat) : (s.fencePort p).mem = s.mem := by
  unfold State.fencePort
  rw [State.flushAlmanac_mem, State.askReplace_mem, State.send_mem, State.setPort_mem]

@[simp] theorem State.startTraining_mem (s : State) (p : Nat) : (s.startTraining p).mem = s.mem := rfl

@[simp] theorem State.retrainPort_mem (s : State) (p : Nat) : (s.retrainPort p).mem = s.mem := State.count_mem ..

@[simp] theorem State.replacePooled_mem (s : State) (d : Nat) : (s.replacePooled d).mem = s.mem := by
  unfold State.replacePooled
  dsimp only
  refine (State.forEach_mem _ _ _ fun k u => ?_).trans (State.forN_mem _ _ _ fun p u => ?_)
  · split
    next => rw [State.enterPool_mem, State.setTask_mem]
    next => rfl
  · split <;> rfl

@[simp] theorem State.disband_mem (s : State) (d : Nat) : (s.disband d).mem = s.mem := by
  refine State.forEach_mem _ _ _ fun t u => ?_
  split
  · exact State.backToPool_mem ..
  · exact State.breakTask_mem ..

/-- A die's memory is lost whole: what stays listed keeps its order. -/
theorem State.dropDie_kept (s : State) (d : Nat) (saved : List Nat × List Nat) : s.Kept (s.dropDie d saved) := ⟨canonFrom_filter _ _ _⟩

@[simp] theorem State.countSaved_mem (s : State) (x : Nat) : (s.countSaved x).mem = s.mem := by
  unfold State.countSaved
  split
  next => exact State.forEach_mem _ _ _ fun c u => u.count_mem ..
  next => exact State.forEach_mem _ _ _ fun d u => u.count_mem ..
  next => rfl

@[simp] theorem State.flashDone_mem (s : State) : s.flashDone.mem = s.mem := by
  unfold State.flashDone
  split <;> rfl

@[simp] theorem State.flashCut_mem (s : State) : s.flashCut.mem = s.mem := by
  unfold State.flashCut
  split <;> rfl

@[simp] theorem State.hourPassed_mem (s : State) : s.hourPassed.mem = s.mem := State.forN_mem _ _ _ fun d u => by
  dsimp only
  rw [State.count_mem, State.count_mem]

theorem State.emptyPart_kept (s : State) (part : Nat) : s.Kept (s.emptyPart part) := by
  unfold State.emptyPart
  extract_lets p u v
  have hu : s.Kept u := State.freeShelf_kept ..
  split
  next => exact .after (State.spillNow_kept ..) (.after (.of_eq (State.setPartOf_mem ..)) (.after (.of_eq (State.shelve_mem ..)) hu))
  next => exact hu.same (State.setPartOf_mem ..)

@[simp] theorem State.powerDown_mem (s : State) : s.powerDown.mem = s.mem := rfl

section
variable {s : State}

theorem execLinkTrainingResult_goes (p : Nat) (r : TrainResult) : s.Goes (execLinkTrainingResult p r s) := by
  refine .ite (.next (.refl s)) ?_
  split
  · exact .next (.of_eq rfl)
  · exact .next (.of_eq rfl)
  · exact .ite (.next (.of_eq rfl)) (.next (.of_eq rfl))

theorem execLinkRetryExhausted_goes (p : Nat) (third : Bool) : s.Goes (execLinkRetryExhausted p third s) := by
  refine .ite (.next (.refl s)) (.ite (.next (.of_eq ?_)) (.next (.of_eq (State.retrainPort_mem ..))))
  exact (State.fencePort_mem ..).trans (State.retrainPort_mem ..)

theorem execDieLoss_goes (d : Nat) : s.Goes (execDieLoss d s) := by
  refine .ite (.next (.refl s)) (.next ?_)
  refine .after (.of_eq (State.flushAlmanac_mem ..)) (.after (.of_eq (State.askReplace_mem ..)) (.after (.of_eq (State.send_mem ..)) ?_))
  refine .after (State.forEach_kept _ _ _ fun x u => u.checkHeads_kept x) ?_
  refine .after (.of_eq (State.forEach_mem _ _ _ fun l u => u.breakGroup_mem l)) ?_
  refine .after (.of_eq (State.forEach_mem _ _ _ fun p u => State.send_mem ..)) ?_
  refine .after (.of_eq (State.replacePooled_mem ..)) (.after (State.forEach_kept _ _ _ fun t u => u.faultXfer_kept ..) (.after (State.dropDie_kept ..) ?_))
  refine .after (.of_eq (State.disband_mem ..)) (.after (State.forEach_kept _ _ _ fun q u => .of_eq (u.faultQueue_mem q)) ?_)
  exact .after (State.forEach_kept _ _ _ fun x u => .ite (State.raiseCtx_kept ..) (.refl u)) (.of_eq (s.loseWhere_mem _))

theorem execPowerOnReset_goes : s.Goes (execPowerOnReset s) := by
  refine .ite (.next (.refl s)) (.ite (.next ⟨fun _ => rfl⟩) (.next ?_))
  refine .after (.of_eq (State.send_mem ..)) (.after (State.forN_kept _ _ _ fun d u => .ite (.of_eq rfl) (.refl u)) ?_)
  exact .after (.of_eq (State.measure_mem ..)) ⟨fun _ => rfl⟩

theorem execThermalShutdown_goes : s.Goes (execThermalShutdown s) := by
  refine .ite (.next (.refl s)) ?_
  extract_lets u v
  have hu : s.Kept u := State.forEach_kept _ _ _ fun x u => .ite (.of_eq (u.drainCtx_mem x)) (.refl u)
  have hv : s.Kept v := .after (.of_eq (State.powerDown_mem _)) (.after (State.forEach_kept _ _ _ fun p u => u.emptyPart_kept p) hu)
  exact .ite (.next (hv.same rfl)) (.next hu)

end

end Sys2Proof.Machine
namespace Sys2Proof.Machine

/-! ### Words of the M stream -/

theorem Res.Gives.mapError {α : Type} {P : α → Prop} {x : Res α} {f : Stop → Stop} (h : Res.Gives P x) : Res.Gives P (x.mapError f) := ⟨fun a ha => by
  cases x with
  | error => cases ha
  | ok b => exact h.holds a ha⟩

@[simp] theorem State.setTl_mem (s : State) (k : Nat) (t : Tile) : (s.setTl k t).mem = s.mem := rfl

@[simp] theorem State.keepRp_mem (s : State) (k : Nat) (ok : Bool) : (s.keepRp k ok).mem = s.mem := by
  unfold State.keepRp
  split <;> rfl

@[simp] theorem State.holdStep_mem (s : State) (x : Option (Nat × W32 × W32)) : (s.holdStep x).mem = s.mem := rfl

@[simp] theorem State.dropRec_mem (s : State) : s.dropRec.mem = s.mem := rfl

@[simp] theorem State.issuedSteps_mem (s : State) (n : Nat) : (s.issuedSteps n).mem = s.mem := rfl

@[simp] theorem State.stopAt_mem (s : State) (k st i : Nat) (x : Stop) : (s.stopAt k st i x).1.mem = s.mem := rfl

@[simp] theorem State.pauseAt_mem (s : State) (k st i : Nat) : (s.pauseAt k st i).1.mem = s.mem := by
  unfold State.pauseAt
  dsimp only
  split <;> rfl

@[simp] theorem State.stopRow_mem (s : State) (k : Nat) (e : JEnt) : (s.stopRow k e).2.mem = s.mem := by
  unfold State.stopRow
  split <;> rfl

@[simp] theorem State.openTile_mem (s : State) (k : Nat) (zf impl : Bool) : (s.openTile k zf impl).mem = s.mem := rfl

@[simp] theorem State.enterJournal_mem (s : State) (k : Nat) (e : JEnt) : (s.enterJournal k e).mem = s.mem := by
  unfold State.enterJournal
  split
  · rfl
  · split <;> rfl

@[simp] theorem State.joinTile_mem (s : State) (k : Nat) (zf first int8 chk retry : Bool) : (s.joinTile k zf first int8 chk retry).mem = s.mem := by
  unfold State.joinTile
  extract_lets u t t'
  refine (State.setTl_mem ..).trans ?_
  dsimp only [u]
  split
  · rfl
  · split <;> rfl

section
variable {s t : State}

theorem State.mRead_gives (ht : s.Kept t) (wins : List Nat) (n p : Nat) : Res.Gives (fun r => s.Kept r.2.2) (t.mRead wins n p) := by
  refine .after fun g => .after fun _ => ?_
  have hu : s.Kept (t.touch t.ctxNo g.place.dies) := ht.same (t.touch_mem ..)
  dsimp only
  split
  next => exact .ok (hu.same (State.freeBytes_mem ..))
  next => exact .ok hu

theorem State.fillRec_gives (p : Nat × Nat) : Res.Gives (fun r => s.Kept r.2) (s.fillRec p) := by
  unfold State.fillRec
  split
  next => exact .ok (.refl s)
  next => exact .map ⟨fun _ _ => .of_eq (s.cacheRec_mem _)⟩

theorem State.stepRec_gives (e : JEnt) : Res.Gives (fun r => s.Kept r.2) (s.stepRec e) := by
  unfold State.stepRec
  split
  next => exact .ite (.map ((State.fillRec_gives _).mono fun _ h => h.same rfl)) (.ok (.refl s))
  next => exact .ok (.refl s)
  next => exact .ok (.refl s)

theorem State.stepB_gives (k : Nat) (e : JEnt) (st : Nat) : Res.Gives (fun r => s.Kept r.2) (s.stepB k e st) := by
  refine .bind (State.stepRec_gives e) fun r hr => ?_
  obtain ⟨q, u⟩ := r
  dsimp -zeta only
  extract_lets spare n
  refine .bind (State.mRead_gives hr ..) fun b hb => ?_
  obtain ⟨bb, bt, v⟩ := b
  dsimp -zeta only
  extract_lets scaled
  have hscaled (x : Option Nat × State × Bool) (hx : s.Kept x.2.1) : Res.Gives (fun r => s.Kept r.2) (scaled x) := by
    dsimp -zeta only [scaled]
    extract_lets sc rows kept sums na read
    have hread (y : Option (List (List XV)) × W32 × State × Bool) (hy : s.Kept y.2.2.1) : Res.Gives (fun r => s.Kept r.2) (read y) := by
      dsimp -zeta only [read]
      extract_lets w bounded
      have hbounded (bd : W32 × W32) : Res.Gives (fun r => s.Kept r.2) (bounded bd) := .ok (hy.same (State.keepRp_mem ..))
      split
      · exact .after hbounded
      · exact .after hbounded
    refine .ite (.bind (State.mRead_gives hx ..) fun y hy => .bind (Q := fun z => s.Kept z.2.2.1) (.ok hy) hread) ?_
    exact .bind (Q := fun z => s.Kept z.2.2.1) (.ok hx) hread
  split
  next => exact .bind (State.mRead_gives hb ..) fun y hy => .bind (Q := fun z => s.Kept z.2.1) (.ok hy) hscaled
  next => exact .bind (Q := fun z => s.Kept z.2.1) (.ok hb) hscaled

theorem State.aRow_gives (k : Nat) (e : JEnt) (b : StepB) (st i : Nat) : Res.Gives (fun r => s.Kept r.2) (s.aRow k e b st i) := by
  unfold State.aRow
  extract_lets read n
  have hread (x : List XV × State) (hx : s.Kept x.2) : Res.Gives (fun r => s.Kept r.2) (read x) := by
    dsimp -zeta only [read]
    split
    next => exact .ok hx
    next =>
      refine .ite ?_ ?_
      · exact .bind (State.mRead_gives hx ..) fun y hy => .ok (hy.same (State.keepRp_mem ..))
      · exact .bind (State.mRead_gives hx ..) fun y hy => .ok (hy.same (State.keepRp_mem ..))
  split
  next => exact .bind (Q := fun z => s.Kept z.2) (.ok (.refl s)) hread
  next =>
    refine .bind (.mapError (State.mRead_gives (.refl s) ..)) fun y hy => ?_
    exact .bind (Q := fun z => s.Kept z.2) (.ok (hy.same (State.keepRp_mem ..))) hread

end

theorem State.mRows_kept (k : Nat) (e : JEnt) (b : StepB) (stop : Option Nat) (st : Nat) (l : List Nat) (s : State) :
    s.Kept (State.mRows k e b stop st l s).1 := by
  induction l generalizing s with
  | nil => exact .refl s
  | cons i r ih =>
    rw [State.mRows]
    split
    · exact .of_eq (State.pauseAt_mem ..)
    · split
      next => exact .of_eq rfl
      next h => exact .trans ((State.aRow_gives ..).holds _ h) (.trans (.of_eq (by rfl)) (ih _))

theorem State.mSteps_kept (k : Nat) (e : JEnt) (stop : Option Nat) (l : List Nat) (rp : Nat) (s : State) : s.Kept (State.mSteps k e stop l rp s).1 := by
  induction l generalizing rp s with
  | nil => exact .of_eq rfl
  | cons st r ih =>
    rw [State.mSteps]
    split
    next => exact .of_eq rfl
    next b u h =>
      have hu : s.Kept u := (State.stepB_gives ..).holds _ h
      have hrows := hu.trans (State.mRows_kept k e b stop st (List.range' rp (128 - rp)) u)
      split
      next h => rw [h] at hrows; exact hrows
      next h => rw [h] at hrows; exact hrows.trans (.trans (.of_eq (by rfl)) (ih _ _))

theorem State.runWord_kept (s : State) (k : Nat) (e : JEnt) (stop : Option Nat) : s.Kept (s.runWord k e stop).1 :=
  .trans (.of_eq (s.setTl_mem ..)) (State.mSteps_kept ..)

theorem State.reload_kept (s : State) (k : Nat) : s.Kept (s.reload k).1 := by
  unfold State.reload
  dsimp only
  split
  next => exact .refl s
  next =>
    split
    next => exact .refl s
    next =>
      split
      · exact .of_eq rfl
      · exact .of_eq ((State.inform_mem ..).trans (State.loseVer_mem ..))

theorem State.rerun_kept (k : Nat) (l : List JEnt) (s : State) : s.Kept (State.rerun k l s).1 := by
  induction l generalizing s with
  | nil => exact .refl s
  | cons e r ih =>
    have hw (u : State) (hu : s.Kept u) : s.Kept (((u.holdStep none).dropRec).runWord k e none).1 :=
      .after (State.runWord_kept ..) (hu.same rfl)
    rw [State.rerun]
    have hu := hw _ (.of_eq (s.setTl_mem k (((s.tl k).setBit 5 ((s.tl k).chkv && e.chk)).setBit 6 ((s.tl k).rtok && e.retry))))
    split
    next h => rw [h] at hu; exact hu
    next h => rw [h] at hu; exact hu.trans (ih _)

theorem State.replay_kept (s : State) (k : Nat) : s.Kept (s.replay k).1 := by
  unfold State.replay
  extract_lets t t' r
  have hr : s.Kept r.1 := by
    dsimp only [r]
    split
    · exact .of_eq rfl
    · exact State.reload_kept ..
  clear_value r
  split
  next => exact hr
  next u =>
    extract_lets t t' v
    have hv : s.Kept v := hr.same (State.setTl_mem ..)
    have hrun := hv.trans (State.rerun_kept k (v.core.journal.filter (fun e => e.tile == k)) v)
    split
    next h => rw [h] at hrun; exact hrun.same rfl
    next h => rw [h] at hrun; exact hrun.same rfl

section
variable {s : State} {w : W192}

theorem State.joinLoop_gives (op cnt : Nat) : Res.Gives (fun r => s.Kept r.1) (s.joinLoop w op cnt) := by
  refine .after fun _ => .after fun _ => .after fun _ => .after fun _ => .ok (.of_eq ?_)
  rw [State.enterJournal_mem, State.setCore_mem, State.joinTile_mem]

theorem State.runSteps_kept (s : State) (k : Nat) (e : JEnt) : s.Kept (s.runSteps k e).1 := by
  have hstop := s.stopRow_mem k e
  unfold State.runSteps
  split
  next stop u h =>
    rw [h] at hstop
    extract_lets first h0 c v
    have hv : s.Kept v := .of_eq hstop
    have hrun := hv.trans (State.runWord_kept v k e stop)
    split
    next h => rw [h] at hrun; exact hrun.same rfl
    next h => rw [h] at hrun; exact hrun.same rfl

theorem stepBody_kept (op : Nat) : s.Kept (stepBody op w s).1 := by
  unfold stepBody
  dsimp only
  split
  · exact .refl s
  · split
    next =>
      split
      next => exact .refl s
      next => exact State.runSteps_kept ..
    next =>
      split
      next => exact .refl s
      next h => exact .trans ((State.joinLoop_gives ..).holds _ h) (State.runSteps_kept ..)

theorem State.noteRow_kept (s : State) (w : W192) (op : Nat) : s.Kept (s.noteRow w op) := by
  refine .ite ?_ (.refl s)
  dsimp only
  split
  next => exact State.noteVer_kept ..
  next => exact .refl s

theorem tileStep_goes (op : Nat) : s.Goes (tileStep op w s) :=
  matrixWord_goes (fun _ => stepBody_kept op) fun u => .after (State.noteRow_kept ..) (.ite (.refl u) (u.wantSlot_kept ..))

theorem State.owedReplay_kept (s : State) (k : Nat) : s.Kept (s.owedReplay k).1 := by
  unfold State.owedReplay
  split
  · exact .refl s
  · split
    · exact .of_eq rfl
    · exact State.replay_kept ..

theorem State.mretLoop_kept (k policy : Nat) (kth : Word) (f : Nat) (s : State) : s.Kept (State.mretLoop k policy kth f s).1 := by
  induction f generalizing s with
  | zero => exact .refl s
  | succ f ih =>
    have ho := s.owedReplay_kept k
    rw [State.mretLoop]
    split
    next h => rw [h] at ho; exact ho
    next h =>
      rw [h] at ho
      split
      next => exact ho
      next => exact .after (ih _) (.ite (.after (.of_eq (State.count_mem ..)) (ho.same rfl)) (ho.same rfl))
      next => exact ho

@[simp] theorem State.mretStand_mem (s : State) (kth : Word) (x : Stop) : (s.mretStand kth x).1.mem = s.mem := rfl

theorem mretBody_kept : s.Kept (mretBody w s).1 := by
  unfold mretBody
  extract_lets k kth t u
  have hloop : s.Kept (State.mretLoop k w.reissue.toNat kth 6 u).1 := .after (State.mretLoop_kept ..) (.of_eq rfl)
  split
  · exact .refl s
  · split
    next h => rw [h] at hloop; exact hloop.same (State.mretStand_mem ..)
    next h =>
      rw [h] at hloop
      split
      next => exact hloop.same (State.mretStand_mem ..)
      next => exact .after (.of_eq (State.setCore_mem ..)) (.ite hloop (hloop.same rfl))

theorem execMret_goes : s.Goes (execMret w s) := matrixWord_goes (fun _ => mretBody_kept) fun u => .ite (u.noteVer_kept ..) (.refl u)

theorem execMzero_goes : s.Goes (execMzero w s) := plainMatrix_goes fun _ => .after fun _ => .ok (.of_eq rfl)

theorem execMinit_goes : s.Goes (execMinit w s) :=
  plainMatrix_goes fun _ => .after fun _ => .after fun _ => .after fun _ => .after fun _ => .ok (.of_eq rfl)

theorem execMcal_goes : s.Goes (execMcal w s) := plainMatrix_goes fun _ => .after fun _ => .after fun _ => .after fun _ => .ok (.of_eq rfl)

theorem execMsetk_goes : s.Goes (execMsetk w s) := plainMatrix_goes fun _ => .after fun _ => .after fun _ => .ok (.of_eq rfl)

theorem execMwide_goes : s.Goes (execMwide w s) := plainMatrix_goes fun _ => .after fun _ => .after fun _ => .ok (.of_eq rfl)

theorem execMspill_goes : s.Goes (execMspill w s) := plainMatrix_goes fun _ => .after fun _ => .after fun _ => .after fun _ => .ok (.of_eq rfl)

theorem execMfill_goes : s.Goes (execMfill w s) := plainMatrix_goes fun _ => .after fun _ => .after fun _ => .after fun _ => .ok (.of_eq rfl)

theorem execMstat_goes : s.Goes (execMstat w s) := plainMatrix_goes fun _ => .after fun _ => .ok (.of_eq rfl)

theorem execMdrain_goes : s.Goes (execMdrain w s) := by
  refine plainMatrix_goes fun u => .after fun _ => .after fun _ => .after fun _ => .after fun _ => .after fun os => ?_
  extract_lets im v write
  have hwrite (sc : List (Nat × List Byte)) : Res.Gives u.Kept (write sc) := .ok (.of_eq rfl)
  split
  next => exact .after hwrite
  next => exact .after hwrite

theorem execMdrainRegister_goes : s.Goes (execMdrainRegister w s) :=
  plainMatrix_goes fun _ => .after fun _ => .after fun _ => .after fun _ => .after fun _ => .ok (.of_eq rfl)

theorem execMchk_goes : s.Goes (execMchk w s) := by
  refine plainMatrix_goes fun u => .after fun _ => .after fun _ => ?_
  split
  next => exact .error
  next => exact .ok (.refl u)

end

end Sys2Proof.Machine
namespace Sys2Proof.Machine

/-! ### Commands of the port -/

section
variable {s t : State}

/-- What a command leaves behind keeps the canonical form. -/
structure Done.Keeps (s : State) (d : Done) : Prop where
  kept : s.Kept d.state

theorem Done.Keeps.refuse {c : Status} : Done.Keeps s (refuse s c) := ⟨.refl s⟩

theorem Done.Keeps.done (h : s.Kept t) : Done.Keeps s (done t) := ⟨h⟩

theorem Done.Keeps.ite {c : Prop} [Decidable c] {d e : Done} (hd : Done.Keeps s d) (he : Done.Keeps s e) : Done.Keeps s (if c then d else e) := by
  split
  · exact hd
  · exact he

theorem Done.Keeps.unless {b : Bool} {c : Status} {d : Done} (h : Done.Keeps s d) : Done.Keeps s (Done.unless b s c d) := .ite .refuse h

theorem Done.finish_kept {d : Done} (h : Done.Keeps s d) (j : Jec) : s.Kept (d.finish j) := .ite (h.kept.same rfl) (h.kept.same rfl)

/-- The port completes a write under way before the next command. -/
theorem command_goes {always : Bool} {j : Jec} {f : State → Done} (hf : ∀ u, Done.Keeps u (f u)) : s.Goes (command always j f s) := by
  unfold command
  extract_lets run
  have hrun : s.Kept run := by
    dsimp only [run]
    split
    next => exact .of_eq rfl
    next => exact .ite (.refl s) (.ite (.after (Done.finish_kept (hf _) j) s.portDone_kept) (.of_eq rfl))
  split
  · exact .next hrun
  · exact .next hrun
  · exact .next (.refl s)

end

section
variable {s : State}

theorem execKload_goes (j : Jec) (slot addr : Nat) (image : List Byte) : s.Goes (execKload j slot addr image s) :=
  command_goes fun u => .unless (.unless (.unless (.done ((u.perform_kept ..).same (State.setKernelOf_mem ..)))))

theorem execGload_goes (j : Jec) (slot x : Nat) (image : List Byte) : s.Goes (execGload j slot x image s) := by
  refine command_goes fun u => .unless (.unless ?_)
  split
  next => exact .refuse
  next => exact .unless (.done (.of_eq rfl))

theorem execGunload_goes (j : Jec) (slot : Nat) : s.Goes (execGunload j slot s) := by
  refine command_goes fun u => ?_
  split
  next => exact .refuse
  next => exact .unless (.done (.of_eq rfl))

theorem execTrig_goes (j : Jec) (x : Nat) (ptr : Word) : s.Goes (execTrig j x ptr s) := by
  refine command_goes fun u => .unless ?_
  split
  next h => exact .done ((State.acceptLaunch_gives ..).holds _ h)
  next => exact .refuse
  next => exact .refuse

theorem execQset_goes (j : Jec) (q : Nat) (desc : List Byte) : s.Goes (execQset j q desc s) := by
  refine command_goes fun u => .unless (.unless ?_)
  split
  next => exact .refuse
  next => exact .unless (.unless (.done (.after (State.unitWrite_kept ..) (.of_eq (u.setQueueOf_mem ..)))))

theorem execQdrain_goes (j : Jec) (q : Nat) : s.Goes (execQdrain j q s) := by
  refine command_goes fun u => .unless (.done (.of_eq ?_))
  rw [State.settleQueue_mem, State.endQueueWaits_mem, State.setQueueOf_mem]

@[simp] theorem State.dropOrigins_mem (s : State) (q : Nat) : (s.dropOrigins q).mem = s.mem := rfl

theorem execQoff_goes (j : Jec) (q : Nat) : s.Goes (execQoff j q s) :=
  command_goes fun u => .unless (.done (.of_eq (u.closeQueue_mem ..)))

theorem execHset_goes (j : Jec) (x idx : Nat) (h : HandleReq) : s.Goes (execHset j x idx h s) := by
  refine command_goes fun u => .unless (.unless ?_)
  split
  next => exact .refuse
  next => exact .done (.of_eq rfl)

theorem execHclr_goes (j : Jec) (x idx : Nat) : s.Goes (execHclr j x idx s) :=
  command_goes fun u => .unless (.ite (.done (.of_eq rfl)) (.done (.refl u)))

theorem execPoolset_goes (j : Jec) (x : Nat) (desc : List Byte) : s.Goes (execPoolset j x desc s) := by
  refine command_goes fun u => .unless ?_
  split
  next => exact .refuse
  next => exact .unless (.unless (.unless (.done (.of_eq rfl))))

theorem State.removeCore_kept (s : State) (p k : Nat) : s.Kept (s.removeCore p k) := by
  unfold State.removeCore
  split
  next => exact .refl s
  next =>
    extract_lets xs u
    have hu : s.Kept u := .ite (.refl s) (State.forEach_kept _ _ _ fun x u => u.returnLost_kept x _)
    exact hu.same (State.setPartOf_mem ..)

@[simp] theorem State.addCore_mem (s : State) (p k : Nat) : (s.addCore p k).mem = s.mem := rfl

theorem execPartset_goes (j : Jec) (p : Nat) (add remove : List Nat) : s.Goes (execPartset j p add remove s) := by
  refine command_goes fun u => .unless (.unless (.unless ?_))
  extract_lets v w busy z ks
  have hv : u.Kept v := State.forEach_kept _ _ _ fun k u => u.removeCore_kept p k
  have hw : u.Kept w := hv.same (State.forEach_mem _ _ _ fun k u => u.addCore_mem p k)
  have hz : u.Kept z := by
    dsimp only [z]
    split
    · exact hw
    · exact hw.same (State.forN_mem _ _ _ fun d u => u.setRpool_mem ..)
  exact .ite (.done (hz.same (State.setPartOf_mem ..))) (.done hz)

theorem execCtxnew_goes (j : Jec) (x : Nat) (r : CtxReq) : s.Goes (execCtxnew j x r s) := by
  refine command_goes fun u => .unless (.unless (.unless (.ite (.done (.of_eq rfl)) ?_)))
  split
  next => exact .refuse
  next => exact .done (.of_eq (State.measureHandlers_mem ..))

theorem execCtxfree_goes (j : Jec) (x : Nat) : s.Goes (execCtxfree j x s) := by
  refine command_goes fun u => .unless (.done (.of_eq ?_))
  exact State.forEach_mem (u.allVers x) (fun v s => s.retireVer x v.1 v.2.1 v.2.2) u fun v w => w.retireVer_mem ..

theorem execRun_goes (j : Jec) (x : Nat) : s.Goes (execRun j x s) := by
  refine command_goes fun u => .unless ?_
  split
  next h => exact .done (.trans (.of_eq (u.giveUpMove_mem x)) (State.askRun_kept h))
  next => exact .refuse

theorem execPreempt_goes (j : Jec) (x : Nat) : s.Goes (execPreempt j x s) :=
  command_goes fun u => .unless (.done (.after (.of_eq ((State.setPartOf_mem ..).trans (State.drainCtx_mem ..))) (u.freeShelf_kept ..)))

theorem execSpill_goes (j : Jec) (x : Nat) : s.Goes (execSpill j x s) :=
  command_goes fun u => .unless (.ite (.done (.of_eq (u.send_mem _))) (.done (.of_eq rfl)))

theorem execResume_goes (j : Jec) (x : Nat) : s.Goes (execResume j x s) := by
  refine command_goes fun u => .unless ?_
  have hu : u.Kept (u.giveUpMove x) := .of_eq (u.giveUpMove_mem x)
  refine .ite (.done (.after (State.resumeTasks_kept ..) ?_)) (.done (.after (.of_eq (State.setCtxOf_mem ..)) (.after (State.askResume_kept ..) hu)))
  exact .after (.of_eq ((State.setCtxOf_mem ..).trans (State.forEach_mem _ _ _ fun _ _ => rfl))) hu

theorem State.restoreVer_kept (s : State) (x : Nat) (b : List Byte) : s.Kept (s.restoreVer x b) := by
  unfold State.restoreVer
  split
  next => exact .refl s
  next => exact .after (.of_eq (State.setVer_mem ..)) (.after (State.perform_kept ..) (State.perform_kept ..))

@[simp] theorem State.setNext_mem (s : State) (x p n k : Nat) : (s.setNext x p n k).mem = s.mem := by
  unfold State.setNext
  split <;> rfl

theorem State.restoreQueue_kept (s : State) (x : Nat) (b : List Byte) : s.Kept (s.restoreQueue x b) := by
  unfold State.restoreQueue
  split
  next => exact .refl s
  next => exact .after (State.unitWrite_kept ..) (.of_eq (s.setQueueOf_mem ..))

@[simp] theorem State.restoreGroup_mem (s : State) (x : Nat) (b : List Byte) : (s.restoreGroup x b).mem = s.mem := by
  unfold State.restoreGroup
  dsimp only
  split <;> rfl

theorem execRestore_goes (j : Jec) (x : Nat) (image : List Byte) : s.Goes (execRestore j x image s) := by
  refine command_goes fun u => .unless ?_
  split
  next => exact .refuse
  next =>
    refine .done (.after (.of_eq (State.forEach_mem _ _ _ fun b u => u.restoreGroup_mem ..)) ?_)
    refine .after (.of_eq (State.forEach_mem _ _ _ fun b u => rfl)) (.after (State.forEach_kept _ _ _ fun b u => u.restoreQueue_kept ..) ?_)
    refine .after (.of_eq (State.forEach_mem _ _ _ fun e u => u.setNext_mem ..)) (.after (State.forEach_kept _ _ _ fun b u => u.restoreVer_kept ..) ?_)
    exact .of_eq (State.forEach_mem _ _ _ fun v u => u.retireVer_mem ..)

theorem execMread_goes (j : Jec) (sp : MemSpace) (a n : Nat) : s.Goes (execMread j sp a n s) := by
  refine command_goes fun u => ?_
  split
  next => exact ⟨.refl u⟩
  next => exact .refuse

/-- A write that has passed its checks is only noted. -/
theorem execMwrite_goes (j : Jec) (sp : MemSpace) (a : Nat) (data : List Byte) : s.Goes (execMwrite j sp a data s) := by
  refine command_goes fun u => ?_
  split
  next => exact .refuse
  next =>
    cases sp with
    | phys => exact ⟨.of_eq rfl⟩
    | ctx x => exact .unless (.unless ⟨.of_eq rfl⟩)

@[simp] theorem State.resend_mem (s : State) (dev : Nat) : (s.resend dev).mem = s.mem :=
  State.forEach_mem _ _ _ fun x u => State.forEach_mem _ _ _ fun v w => by
    split
    next =>
      split
      · exact State.startRepl_mem ..
      · rfl
    next => rfl

theorem State.unreach_kept (s : State) (dev : Nat) : s.Kept (s.unreach dev) := by
  refine .after (.of_eq (State.resend_mem ..)) (.after (State.forEach_kept _ _ _ fun k u => u.onCore_kept fun w => ?_) (.of_eq rfl))
  exact .of_eq rfl

theorem execReach_goes (j : Jec) (dev : Nat) (r : ReachReq) : s.Goes (execReach j dev r s) := by
  refine command_goes fun u => .unless ?_
  cases r with
  | set => exact .unless (.done (.of_eq rfl))
  | remove => exact .done (u.unreach_kept dev)

theorem execCgdel_goes (j : Jec) (l : Nat) : s.Goes (execCgdel j l s) := by
  refine command_goes fun u => ?_
  split
  next => exact .refuse
  next => exact .done (.trans (.of_eq (u.breakGroup_mem l)) (.of_eq (State.forEach_mem _ _ _ fun _ _ => rfl)))

theorem execRetrain_goes (j : Jec) (p : Nat) : s.Goes (execRetrain j p s) := by
  refine command_goes fun u => .unless (.unless (.done ?_))
  exact .ite (.of_eq ((State.fencePort_mem ..).trans (State.retrainPort_mem ..))) (.of_eq (State.retrainPort_mem ..))

theorem execSummary_goes (j : Jec) (mask flags : Nat) : s.Goes (execSummary j mask flags s) := by
  refine command_goes fun u => .unless ⟨.of_eq ?_⟩
  exact State.forEach_mem _ _ _ fun k u => u.count_mem ..

theorem execFwload_goes (j : Jec) (image : List Byte) (burn : Bool) : s.Goes (execFwload j image burn s) :=
  command_goes fun _ => .unless (.unless (.done ⟨fun _ => rfl⟩))

end

end Sys2Proof.Machine
namespace Sys2Proof.Machine

section
variable {s : State}

theorem execGeta_goes (d : Reg) (n : BitVec 4) (sel : BitVec 5) : s.Goes (execGeta d n sel s) := by
  refine finish_goes ?_ (.refl s)
  dsimp only
  split
  · exact State.wr_gives (.refl s) ..
  · exact State.wr_gives (.refl s) ..
  · exact State.wr_gives (.refl s) ..
  · exact .error

theorem execLoopc_goes (a b : Reg) (o : BitVec 16) : s.Goes (execLoopc a b o s) :=
  finishJump_goes (.after fun _ => .after fun _ => .bind (State.wr_gives (.refl s) ..) fun _ h => .ite (.after fun _ => .ok h) (.ok h))

theorem execBarwDevice_goes (d a : Reg) : s.Goes (execBarwDevice d a s) := by
  refine waitWord_goes ?_
  exact .after fun _ => .after fun _ => .after fun _ => .ok (.of_eq (s.touch_mem ..))

theorem execBarwGroup_goes (d : Reg) (n : BitVec 4) : s.Goes (execBarwGroup d n s) := by
  refine waitWord_goes ?_
  exact .after fun _ => .after fun _ => .ok (.of_eq rfl)

theorem execLui_goes (d : Reg) (i : BitVec 16) : s.Goes (execLui d i s) := finish_goes (State.wr_gives (.refl s) ..) (.refl s)

theorem execDlogp_goes (d : Reg) : s.Goes (execDlogp d s) := finish_goes (State.wr_gives (.refl s) ..) (.refl s)

theorem execSeta_goes (n : BitVec 4) (a b : Reg) : s.Goes (execSeta n a b s) :=
  finish_goes (.after fun _ => .after fun _ => .ok (.of_eq rfl)) (.refl s)

theorem execQput_goes (a : Reg) (x : BitVec 2) : s.Goes (execQput a x s) := finish_goes (.after fun _ => .after fun _ => .ok (.of_eq rfl)) (.refl s)

theorem execSetk_goes (n : BitVec 4) (a : Reg) : s.Goes (execSetk n a s) := finish_goes (.after fun _ => .ok (.of_eq rfl)) (.refl s)

theorem execRdv_goes (m : BitVec 4) : s.Goes (execRdv m s) := finish_goes (.after fun _ => .ok (.of_eq rfl)) (.refl s)

theorem execJ_goes (o : BitVec 26) : s.Goes (execJ o s) := finishJump_goes (.after fun _ => .ok (.refl s))

theorem execJal_goes (o : BitVec 26) : s.Goes (execJal o s) := finishJump_goes (.after fun _ => .bind (State.wr_gives (.refl s) ..) fun _ h => .ok h)

theorem execJalr_goes (d a : Reg) (i : BitVec 16) : s.Goes (execJalr d a i s) :=
  finishJump_goes (.after fun _ => .after fun _ => .bind (State.wr_gives (.refl s) ..) fun _ h => .ok h)

theorem execFork_goes (m : BitVec 4) : s.Goes (execFork m s) :=
  finish_goes (.after fun _ => .after fun _ => .after fun _ => .ok (.of_eq rfl)) (.refl s)

theorem execPost_goes (e : BitVec 6) (n : BitVec 10) : s.Goes (execPost e n s) :=
  thenPosts_goes (finish_goes (.after fun _ => .ok (.of_eq (s.pushPost_mem ..))) (.refl s))

theorem execBoqp_goes (a : Reg) (x : BitVec 2) : s.Goes (execBoqp a x s) := finish_goes (.after fun _ => State.pushBoq_gives ..) (.refl s)

theorem execRclaim_goes (d a : Reg) (nw : Bool) : s.Goes (execRclaim d a nw s) :=
  finish_goes (.after fun _ => .after fun _ => .after fun _ => .after fun _ => .ok (.of_eq (s.touchQueue_mem _))) (.refl s)

theorem execSpawn_goes (d a b : Reg) : s.Goes (execSpawn d a b s) := ringEnded_goes (spawnWord_goes ..)

theorem execRtake_goes (d a : Reg) (nw : Bool) : s.Goes (execRtake d a nw s) := ringEnded_goes (ringTake_goes ..)

theorem execTlrd_goes (d : Reg) (sel : Bool) (c : BitVec 7) : s.Goes (execTlrd d sel c s) :=
  finish_goes (.after fun _ => State.wr_gives (.refl s) ..) (.refl s)

theorem execTlwait_goes (a : Reg) (c : BitVec 7) : s.Goes (execTlwait a c s) :=
  finish_goes (.after fun _ => .after fun _ => .ite (.ok (.refl s)) (.after fun _ => .after fun _ => .ok (.of_eq rfl))) (.refl s)

theorem execMark_goes : s.Goes (execMark s) := finish_goes (.ok (.of_eq (s.setC_mem _))) (.refl s)

theorem execWake_goes (d a : Reg) : s.Goes (execWake d a s) :=
  finish_goes (.after fun _ => .after fun _ => .after fun _ => .after fun _ => .ok (.of_eq (s.touch_mem ..))) (.refl s)

theorem execBaraDevice_goes (d a : Reg) : s.Goes (execBaraDevice d a s) :=
  finish_goes (.after fun _ => .after fun _ => State.baraWord_gives (.of_eq (s.touch_mem ..)) ..) (.refl s)

theorem execBaraGroup_goes (d : Reg) (n : BitVec 4) : s.Goes (execBaraGroup d n s) :=
  finish_goes (.after fun _ => State.baraWord_gives (.refl s) ..) (.refl s)

theorem execXstat_goes (d b : Reg) : s.Goes (execXstat d b s) :=
  finish_goes (.after fun _ => State.wr_gives (.of_eq (State.setCq_mem ..)) _ _) (.refl s)

theorem execNop_goes : s.Goes (execNop s) := finish_goes (.ok (.refl s)) (.refl s)

theorem execTrap_goes (d : BitVec 5) : s.Goes (execTrap d s) := finish_goes .error (.refl s)

theorem execFence_goes (f sc : BitVec 5) : s.Goes (execFence f sc s) :=
  thenPosts_goes (finish_goes (.after fun _ => .after fun _ => .ok (.of_eq rfl)) (.refl s))

theorem execHalt_goes : s.Goes (execHalt s) := .next (.after (State.raise_kept ..) (.of_eq rfl))

theorem execLpref_goes (w : W96) : s.Goes (execLpref w s) := engine_goes (fun _ u => .ok (.refl u)) fun u => .refl u

theorem execStadd_goes (w : W96) : s.Goes (execStadd w s) := addWord_goes _

theorem execStaxpy_goes (w : W96) : s.Goes (execStaxpy w s) := addWord_goes _

theorem execVperm_goes (w : W96) : s.Goes (execVperm w s) := gathering_goes ..

theorem execVbcst_goes (w : W96) : s.Goes (execVbcst w s) := gathering_goes ..

theorem execVrot_goes (w : W96) : s.Goes (execVrot w s) := by
  unfold execVrot
  exact gathering_goes ..

theorem execIaddi_goes (w : W96) : s.Goes (execIaddi w s) := engine_goes (fun _ u => .ok (.refl u)) fun u => .refl u

theorem execVsort_goes (w : W96) : s.Goes (execVsort w s) := engine_goes (fun _ u => .ok (.refl u)) fun u => .refl u

theorem execVtopk_goes (w : W96) : s.Goes (execVtopk w s) := engine_goes (fun _ u => .ok (.refl u)) fun u => .refl u

theorem execVmrg_goes (w : W96) : s.Goes (execVmrg w s) := engine_goes (fun _ u => .ok (.refl u)) fun u => .refl u

theorem execVldi_goes (w : W96) : s.Goes (execVldi w s) := engine_goes (fun _ u => .ok (.refl u)) fun u => .refl u

theorem execVlane_goes (w : W96) : s.Goes (execVlane w s) := engine_goes (fun _ u => .ok (.refl u)) fun u => .refl u

theorem execVlaneAddress_goes (w : W96) : s.Goes (execVlaneAddress w s) := engine_goes (fun _ u => .ok (.refl u)) fun u => .refl u

theorem execVrebal_goes (w : W96) : s.Goes (execVrebal w s) := engine_goes (fun _ u => .ok (.refl u)) fun u => .refl u

theorem execVcount_goes (w : W96) : s.Goes (execVcount w s) := engine_goes (fun _ u => .ok (.refl u)) fun u => .refl u

theorem execEngineNop_goes (w : W96) : s.Goes (execEngineNop w s) := control_goes fun u => .ok (.refl u)

theorem execIset_goes (w : W96) : s.Goes (execIset w s) := control_goes fun u => .ok (.refl u)

theorem execEngineMark_goes (w : W96) : s.Goes (execEngineMark w s) := control_goes fun _ => .ok (.of_eq rfl)

theorem execJmp_goes (w : W96) : s.Goes (execJmp w s) := control_goes fun u => .after fun _ => .ok (.refl u)

theorem execEngineFence_goes (w : W96) : s.Goes (execEngineFence w s) := thenPosts_goes (control_goes fun _ => .after fun _ => .ok (.of_eq rfl))

theorem execTrapx_goes (w : W96) : s.Goes (execTrapx w s) := control_goes fun _ => .error

theorem execEndStream_goes (w : W96) : s.Goes (execEndStream w s) := control_goes fun _ => .after fun _ => .ok (.of_eq rfl)

theorem execVsel_goes (w : W96) : s.Goes (execVsel w s) := vword_goes (fun _ u => .after fun _ => .after fun _ => .ok (.refl u)) fun u => .refl u

theorem execVpushc_goes (w : W96) : s.Goes (execVpushc w s) := engine_goes (fun _ u => .after fun _ => .ok (.refl u)) fun u => .refl u

theorem execVpopc_goes (w : W96) : s.Goes (execVpopc w s) := engine_goes (fun _ u => .after fun _ => .ok (.refl u)) fun u => .refl u

theorem execVsred_goes (w : W96) : s.Goes (execVsred w s) := segword_goes fun _ _ _ u => .after fun _ => .ok (.refl u)

theorem execVsscan_goes (w : W96) : s.Goes (execVsscan w s) := segword_goes fun _ _ _ u => .after fun _ => .ok (.refl u)

theorem execVsnorm_goes (w : W96) : s.Goes (execVsnorm w s) := segword_goes fun _ _ _ u => .after fun _ => .ok (.refl u)

theorem execVsmask_goes (w : W96) : s.Goes (execVsmask w s) := segword_goes fun _ _ _ u => .ok (.refl u)

theorem execVslen_goes (w : W96) : s.Goes (execVslen w s) := segword_goes fun _ _ _ u => .ok (.refl u)

theorem execVblz_goes (w : W96) : s.Goes (execVblz w s) := segword_goes fun _ _ _ u => .ok (.refl u)

theorem execGangCoreHold_goes (k : Nat) : s.Goes (execGangCoreHold k s) := .next (.ite (s.holdFree_kept _) (.refl s))

theorem execMemoryWritePerform_goes (core : Nat) (t : Strm) (win k : Nat) : s.Goes (execMemoryWritePerform core t win k s) :=
  .next (.ite s.portDone_kept (s.performIf_kept ..))

theorem execAtomicPerform_goes (core : Nat) (t : Strm) (p : Portion) : s.Goes (execAtomicPerform core t p s) := .next (s.performIf_kept ..)

theorem execDPageWriteLand_goes (core : Nat) (t : Strm) (win k : Nat) : s.Goes (execDPageWriteLand core t win k s) := .next (s.performIf_kept ..)

theorem execAredoLand_goes (core win : Nat) : s.Goes (execAredoLand core win s) := .next (s.performIf_kept ..)

theorem execCollectiveWithdraw_goes (l : Nat) : s.Goes (execCollectiveWithdraw l s) := .next (.of_eq (s.breakGroup_mem _))

theorem execRecoveryWalk_goes (x : Nat) (handle : Word) (v : Nat) : s.Goes (execRecoveryWalk x handle v s) := .next (s.recover_ready_kept ..)

theorem execRecoveryStarved_goes (x : Nat) : s.Goes (execRecoveryStarved x s) := .ite (.next (s.raiseCtx_kept ..)) (.next (.refl s))

theorem execWatchdog_goes (x k : Nat) : s.Goes (execWatchdog x k s) := .ite (.next (s.raiseCtx_kept ..)) (.next (.refl s))

theorem execIoDieLoss_goes : s.Goes (execIoDieLoss s) := .next (.of_eq rfl)

theorem execPowerThermalLimit_goes (hold : Option Nat) : s.Goes (execPowerThermalLimit hold s) := .next (.of_eq rfl)

theorem execMemoryUncorrectableError_goes (pa : Nat) : s.Goes (execMemoryUncorrectableError pa s) :=
  .ite (.next (.refl s)) (.next (.of_eq (s.poisonFrame_mem _)))

theorem execSyncEngineUncorrectableError_goes (d : Nat) : s.Goes (execSyncEngineUncorrectableError d s) :=
  .next (.after (.of_eq (State.count_mem ..)) (State.forEach_kept _ _ _ fun _ u => .ite (u.raiseCtx_kept ..) (.refl u)))

theorem execShelvedStateLost_goes (x : Nat) : s.Goes (execShelvedStateLost x s) :=
  .ite (.next (.after (State.raiseCtx_kept ..) (.of_eq (s.countSaved_mem _)))) (.next (.refl s))

theorem execLinkTrainingRequest_goes (p : Nat) : s.Goes (execLinkTrainingRequest p s) :=
  .ite (.next (.of_eq (s.startTraining_mem _))) (.next (.refl s))

theorem execLinkFlitCrcError_goes (_p : Nat) : s.Goes (execLinkFlitCrcError _p s) := .next (.refl s)

theorem execAlmanacFlush_goes : s.Goes (execAlmanacFlush s) := .next (.of_eq ((State.flushAlmanac_mem _).trans s.hourPassed_mem))

theorem execKunload_goes (j : Jec) (slot : Nat) : s.Goes (execKunload j slot s) := command_goes fun _ => .unless (.done (.of_eq rfl))

theorem execKunbind_goes (j : Jec) (slot x : Nat) : s.Goes (execKunbind j slot x s) := command_goes fun _ => .unless (.done (.of_eq rfl))

theorem execFill_goes (j : Jec) (x : Nat) : s.Goes (execFill j x s) := command_goes fun _ => .unless (.done (.of_eq rfl))

theorem execExportWin_goes (j : Jec) (x : Nat) (ptr : Word) (len : Nat) : s.Goes (execExportWin j x ptr len s) :=
  command_goes fun _ => .unless (.done (.of_eq rfl))

theorem execMemb_goes (j : Jec) (domain : Nat) (replicas : List ReplicaDev) : s.Goes (execMemb j domain replicas s) :=
  command_goes fun _ => .unless (.done (.of_eq rfl))

theorem execKbind_goes (j : Jec) (slot x : Nat) : s.Goes (execKbind j slot x s) := command_goes fun _ => .unless (.unless (.done (.of_eq rfl)))

theorem execLinkup_goes (j : Jec) (p : Nat) : s.Goes (execLinkup j p s) := command_goes fun _ => .unless (.unless (.done (.of_eq rfl)))

theorem execLinkreset_goes (j : Jec) (p : Nat) : s.Goes (execLinkreset j p s) := command_goes fun _ => .unless (.unless (.done (.of_eq rfl)))

theorem execKretire_goes (j : Jec) (slot : Nat) : s.Goes (execKretire j slot s) :=
  command_goes fun _ => .unless (.done (.of_eq (State.retireKernel_mem ..)))

theorem execPclear_goes (j : Jec) (frame : Nat) : s.Goes (execPclear j frame s) := command_goes fun _ => .done (.of_eq rfl)

theorem execKill_goes (j : Jec) (x : Nat) : s.Goes (execKill j x s) := command_goes fun u => .unless (.done (u.killCtx_kept ..))

theorem execCgdef_goes (j : Jec) (b : List Byte) (members : List Nat) : s.Goes (execCgdef j b members s) :=
  command_goes fun _ => .unless (.unless (.unless (.done (.of_eq rfl))))

theorem execLinkfence_goes (j : Jec) (p : Nat) : s.Goes (execLinkfence j p s) := command_goes fun u => .unless (.done (.of_eq (u.fencePort_mem _)))

theorem execQuote_goes (j : Jec) (nonce : List Byte) : s.Goes (execQuote j nonce s) := command_goes fun u => .unless ⟨.refl u⟩

theorem execPowerLoss_goes : s.Goes (execPowerLoss s) := .ite (.next (.refl s)) (.next ⟨fun _ => rfl⟩)

end

/-- No instruction, event or command stops the machine, and each keeps memory in its canonical form. -/
theorem exec_goes (i : Instr) (s : State) : s.Goes (exec i s) := by
  cases i with
  | add | sub | mul | mulh | mulhu | div | divu | rem | remu | and | or | xor | shl | shr | sra | min | max | minu | maxu | slt | sltu | seq =>
    exact finish_goes (alu2_gives ..) (.refl s)
  | clz | popc | addi | andi | ori | xori | shli | shri | srai | slti | sltiu => exact finish_goes (alu1_gives ..) (.refl s)
  | lui => exact execLui_goes ..
  | dlogp => exact execDlogp_goes ..
  | ldw | ldd => exact finish_goes (loadC_gives ..) (.refl s)
  | stw | std => exact finish_goes (storeC_gives ..) (.refl s)
  | seta => exact execSeta_goes ..
  | qput => exact execQput_goes ..
  | setk => exact execSetk_goes ..
  | rdv => exact execRdv_goes ..
  | geta => exact execGeta_goes ..
  | beq | bne | blt | bge | bltu | bgeu => exact finishJump_goes (branch_gives ..)
  | j => exact execJ_goes ..
  | jal => exact execJal_goes ..
  | jalr => exact execJalr_goes ..
  | loopc => exact execLoopc_goes ..
  | fork => exact execFork_goes ..
  | post => exact execPost_goes ..
  | await => exact execAwait_goes ..
  | boqp => exact execBoqp_goes ..
  | spawn => exact execSpawn_goes ..
  | jdec => exact execJdec_goes ..
  | texit => exact execTexit_goes ..
  | bksel => exact execBksel_goes ..
  | rclaim => exact execRclaim_goes ..
  | rpubl | rrels => exact ringHeld_goes ..
  | rtake => exact execRtake_goes ..
  | tlrd => exact execTlrd_goes ..
  | tlwait => exact execTlwait_goes ..
  | mark => exact execMark_goes
  | phmark => exact execPhmark_goes ..
  | aadd | aaddq | amin | aminq | amax | amaxq | aminu | aminuq | amaxu | amaxuq | aand | aandq | aor | aorq | axor | axorq | axchg | axchgq | acas
  | acasq | afadd | afaddq | afmin | afminq | afmax | afmaxq =>
    exact finish_goes (atomC_gives ..) (.refl s)
  | aredo => exact execAredo_goes ..
  | waita => exact execWaita_goes ..
  | wake => exact execWake_goes ..
  | baraDevice => exact execBaraDevice_goes ..
  | baraGroup => exact execBaraGroup_goes ..
  | barwDevice => exact execBarwDevice_goes ..
  | barwGroup => exact execBarwGroup_goes ..
  | barawDevice => exact execBarawDevice_goes ..
  | barawGroup => exact execBarawGroup_goes ..
  | talloc => exact execTalloc_goes ..
  | tseal => exact execTseal_goes ..
  | tretire => exact execTretire_goes ..
  | trepl => exact execTrepl_goes ..
  | tlook => exact execTlook_goes ..
  | ckpt => exact execCkpt_goes ..
  | xcopy | xcopy2 | xfill => exact xferWord_goes ..
  | xstat => exact execXstat_goes ..
  | lkmcst => exact execLkmcst_goes ..
  | lkldred => exact execLkldred_goes ..
  | lksend => exact execLksend_goes ..
  | cgjoin => exact execCgjoin_goes ..
  | cgleave => exact execCgleave_goes ..
  | cgstat => exact execCgstat_goes ..
  | nop => exact execNop_goes
  | trap => exact execTrap_goes ..
  | eret => exact execEret_goes
  | csrr => exact execCsrr_goes ..
  | csrw d c => exact (csrw_goes .. : s.Goes (execCsrw d c s))
  | trigger d => exact (csrw_goes .. : s.Goes (execTrigger d s))
  | kthWrite n d => exact (csrw_goes .. : s.Goes (execKthWrite n d s))
  | redlimWrite d => exact (csrw_goes .. : s.Goes (execRedlimWrite d s))
  | dlogrWrite d => exact (csrw_goes .. : s.Goes (execDlogrWrite d s))
  | dlogwWrite d => exact (csrw_goes .. : s.Goes (execDlogwWrite d s))
  | fence => exact execFence_goes ..
  | sleep => exact execSleep_goes ..
  | halt => exact execHalt_goes
  | scrub => exact execScrub_goes ..
  | ldb => exact execLdb_goes
  | ldtBuffer => exact execLdtBuffer_goes
  | ldtTile => exact execLdtTile_goes
  | ldg => exact execLdg_goes
  | ldz => exact execLdz_goes
  | ldc => exact execLdc_goes
  | ldsh => exact execLdsh_goes
  | lpref => exact execLpref_goes ..
  | iaddi => exact execIaddi_goes ..
  | vsort => exact execVsort_goes ..
  | vtopk => exact execVtopk_goes ..
  | vmrg => exact execVmrg_goes ..
  | vldi => exact execVldi_goes ..
  | vlane => exact execVlane_goes ..
  | vlaneAddress => exact execVlaneAddress_goes ..
  | vrebal => exact execVrebal_goes ..
  | vcount => exact execVcount_goes ..
  | lwfree => exact execLwfree_goes
  | lpubl => exact execLpubl_goes
  | stb => exact execStb_goes
  | sttBuffer => exact execSttBuffer_goes
  | sttTile => exact execSttTile_goes
  | stsc => exact execStsc_goes
  | stadd => exact execStadd_goes _
  | staxpy => exact execStaxpy_goes _
  | stopt => exact optWord_goes false
  | stoptAdam => exact optWord_goes true
  | stcvt => exact execStcvt_goes
  | stcvtTile => exact execStcvtTile_goes
  | satom => exact execSatom_goes
  | swfill => exact execSwfill_goes
  | srels => exact execSrels_goes
  | mma | mmat | mmas => exact tileStep_goes ..
  | mzero => exact execMzero_goes
  | minit => exact execMinit_goes
  | mdrain => exact execMdrain_goes
  | mdrainRegister => exact execMdrainRegister_goes
  | mret => exact execMret_goes
  | mcal => exact execMcal_goes
  | msetk => exact execMsetk_goes
  | mwide => exact execMwide_goes
  | mchk => exact execMchk_goes
  | mspill => exact execMspill_goes
  | mfill => exact execMfill_goes
  | mstat => exact execMstat_goes
  | engineNop => exact execEngineNop_goes ..
  | iset => exact execIset_goes ..
  | enginePost => exact execEnginePost_goes
  | engineAwait => exact execEngineAwait_goes
  | engineMark => exact execEngineMark_goes ..
  | jmp => exact execJmp_goes ..
  | boqb => exact execBoqb_goes
  | boqbPush w => exact (boqbPush_goes .. : s.Goes (execBoqbPush w s))
  | boqbPushall w => exact (boqbPush_goes .. : s.Goes (execBoqbPushall w s))
  | loop => exact execLoop_goes
  | ipop => exact execIpop_goes
  | engineFence => exact execEngineFence_goes ..
  | trapx => exact execTrapx_goes ..
  | endStream => exact execEndStream_goes ..
  | vadd | vsub | vmul | vfma | vfms | vmin | vmax | vabs | vneg | vcpys | vrcp | vrsq | vsqrt | vexp2 | vlog2 | vexpd | vtanh | vsigm | vclass
  | viadd | visub | vimul | vimad | vand | vor | vxor | vandn | vshl | vshr | vsra | vimin | vimax | viminu | vimaxu | vpcnt | vclz | vmov =>
    exact lanewise_goes ..
  | vcmpeq | vcmplt | vcmple | vcmpun | vicmpeq | vicmplt | vicmpltu => exact compare_goes ..
  | vcvt => exact execVcvt_goes
  | vqnt => exact execVqnt_goes
  | vdqnt => exact execVdqnt_goes
  | vscale => exact execVscale_goes
  | vpack => exact execVpack_goes
  | vunpk => exact execVunpk_goes
  | vrsum w => exact (reducing_goes .. : s.Goes (execVrsum w s))
  | vrmax w => exact (reducing_goes .. : s.Goes (execVrmax w s))
  | vrmin w => exact (reducing_goes .. : s.Goes (execVrmin w s))
  | vrarg w => exact (reducing_goes .. : s.Goes (execVrarg w s))
  | vscan w => exact (reducing_goes .. : s.Goes (execVscan w s))
  | vscanx w => exact (reducing_goes .. : s.Goes (execVscanx w s))
  | vperm => exact execVperm_goes _
  | vbcst => exact execVbcst_goes _
  | vrot => exact execVrot_goes _
  | vsel => exact execVsel_goes ..
  | vpushc => exact execVpushc_goes ..
  | vpopc => exact execVpopc_goes ..
  | vsred => exact execVsred_goes ..
  | vsscan => exact execVsscan_goes ..
  | vsnorm => exact execVsnorm_goes ..
  | vsmask => exact execVsmask_goes ..
  | vslen => exact execVslen_goes ..
  | vblz => exact execVblz_goes ..
  | vrng w => exact (random_goes .. : s.Goes (execVrng w s))
  | vrngu w => exact (random_goes .. : s.Goes (execVrngu w s))
  | dispatchRequest => exact execDispatchRequest_goes ..
  | gangCoreHold => exact execGangCoreHold_goes ..
  | taskCompletion => exact execTaskCompletion_goes ..
  | launchStart => exact execLaunchStart_goes ..
  | kernelVerification => exact execKernelVerification_goes ..
  | memoryWritePerform => exact execMemoryWritePerform_goes ..
  | atomicPerform => exact execAtomicPerform_goes ..
  | dPageWriteLand => exact execDPageWriteLand_goes ..
  | aredoLand => exact execAredoLand_goes ..
  | markerRetire => exact execMarkerRetire_goes ..
  | barrierPhaseRelease => exact execBarrierPhaseRelease_goes ..
  | waitaPoll => exact execWaitaPoll_goes ..
  | sleepExpiry => exact execSleepExpiry_goes ..
  | translationWalk => exact execTranslationWalk_goes ..
  | blazeCacheRefill => exact execBlazeCacheRefill_goes ..
  | copyStart => exact execCopyStart_goes ..
  | copyLanded => exact execCopyLanded_goes ..
  | copyAcked => exact execCopyAcked_goes ..
  | copyFaulted => exact execCopyFaulted_goes ..
  | remoteAccessArrival => exact execRemoteAccessArrival_goes ..
  | writeAcknowledge => exact execWriteAcknowledge_goes ..
  | linkDataCompletion => exact execLinkDataCompletion_goes ..
  | collectiveCommit => exact execCollectiveCommit_goes ..
  | collectiveWithdraw => exact execCollectiveWithdraw_goes ..
  | replicaCounted => exact execReplicaCounted_goes ..
  | replicaLost => exact execReplicaLost_goes ..
  | lineageMirrorRetry => exact execLineageMirrorRetry_goes ..
  | recoveryWalk => exact execRecoveryWalk_goes ..
  | copyBackVerified => exact execCopyBackVerified_goes ..
  | rebuildEnqueue => exact execRebuildEnqueue_goes ..
  | recoveryStarved => exact execRecoveryStarved_goes ..
  | watchdog => exact execWatchdog_goes ..
  | contextStopped => exact execContextStopped_goes ..
  | swapExchangeComplete => exact execSwapExchangeComplete_goes ..
  | spillComplete => exact execSpillComplete_goes ..
  | fillComplete => exact execFillComplete_goes ..
  | dieLoss => exact execDieLoss_goes ..
  | ioDieLoss => exact execIoDieLoss_goes
  | powerThermalLimit => exact execPowerThermalLimit_goes ..
  | memoryUncorrectableError => exact execMemoryUncorrectableError_goes ..
  | syncEngineUncorrectableError => exact execSyncEngineUncorrectableError_goes ..
  | shelvedStateLost => exact execShelvedStateLost_goes ..
  | powerOnReset => exact execPowerOnReset_goes
  | linkTrainingRequest => exact execLinkTrainingRequest_goes ..
  | linkTrainingResult => exact execLinkTrainingResult_goes ..
  | linkRetryExhausted => exact execLinkRetryExhausted_goes ..
  | linkFlitCrcError port => exact execLinkFlitCrcError_goes port
  | thermalShutdown => exact execThermalShutdown_goes
  | almanacFlush => exact execAlmanacFlush_goes
  | tlbivaRange d => exact (csrwWhen_goes .. : s.Goes (execTlbivaRange d s))
  | tlbivaAll d => exact (csrwWhen_goes .. : s.Goes (execTlbivaAll d s))
  | hndbInstall d => exact (csrwWhen_goes .. : s.Goes (execHndbInstall d s))
  | hndbRemove d => exact (csrwWhen_goes .. : s.Goes (execHndbRemove d s))
  | ringcfEnable ring d => exact (csrwWhen_goes .. : s.Goes (execRingcfEnable ring d s))
  | ringcfConfigure ring d => exact (csrwWhen_goes .. : s.Goes (execRingcfConfigure ring d s))
  | ringcfDrain ring d => exact (csrwWhen_goes .. : s.Goes (execRingcfDrain ring d s))
  | ringcfDisable ring d => exact (csrwWhen_goes .. : s.Goes (execRingcfDisable ring d s))
  | dlogcRecord d => exact (csrwWhen_goes .. : s.Goes (execDlogcRecord d s))
  | dlogcReplay d => exact (csrwWhen_goes .. : s.Goes (execDlogcReplay d s))
  | dlogcOff d => exact (csrwWhen_goes .. : s.Goes (execDlogcOff d s))
  | kload => exact execKload_goes ..
  | kunload => exact execKunload_goes ..
  | kunbind => exact execKunbind_goes ..
  | fill => exact execFill_goes ..
  | exportWin => exact execExportWin_goes ..
  | memb => exact execMemb_goes ..
  | kbind => exact execKbind_goes ..
  | linkup => exact execLinkup_goes ..
  | linkreset => exact execLinkreset_goes ..
  | kretire => exact execKretire_goes ..
  | gload => exact execGload_goes ..
  | gunload => exact execGunload_goes ..
  | trig => exact execTrig_goes ..
  | qset => exact execQset_goes ..
  | qdrain => exact execQdrain_goes ..
  | qoff => exact execQoff_goes ..
  | hset => exact execHset_goes ..
  | hclr => exact execHclr_goes ..
  | poolset => exact execPoolset_goes ..
  | pclear => exact execPclear_goes ..
  | partset => exact execPartset_goes ..
  | ctxnew => exact execCtxnew_goes ..
  | run => exact execRun_goes ..
  | preempt => exact execPreempt_goes ..
  | spill => exact execSpill_goes ..
  | resume => exact execResume_goes ..
  | kill => exact execKill_goes ..
  | ctxfree => exact execCtxfree_goes ..
  | restore => exact execRestore_goes ..
  | mread => exact execMread_goes ..
  | mwrite => exact execMwrite_goes ..
  | reach => exact execReach_goes ..
  | cgdef => exact execCgdef_goes ..
  | cgdel => exact execCgdel_goes ..
  | retrain => exact execRetrain_goes ..
  | linkfence => exact execLinkfence_goes ..
  | summary => exact execSummary_goes ..
  | fwload => exact execFwload_goes ..
  | quote => exact execQuote_goes ..
  | powerLoss => exact execPowerLoss_goes
  | collectiveJoinLeaveRecorded => exact execCollectiveJoinLeaveRecorded_goes ..
  | taskQueueTake => exact execTaskQueueTake_goes ..
  | loadDataArrival => exact execLoadDataArrival_goes ..
  | lineageMirrorArrival => exact execLineageMirrorArrival_goes ..
  | replicaTargetLost => exact execReplicaTargetLost_goes ..
  | checkpointDeliveryAcknowledged => exact execCheckpointDeliveryAcknowledged_goes ..

/-! ### Steps -/

section
variable {s : State}

theorem State.issuing_kept (k : Nat) (t : Strm) : s.Kept (s.issuing k t) := .of_eq (State.touch_mem ..)

theorem State.word_goes (k : Nat) (t : Strm) : s.Goes (s.word k t) := by
  refine .ite (.next (.refl s)) (.ite (.next (.after (State.raiseLate_kept _) (.of_eq rfl))) ?_)
  split
  next => exact .same (exec_goes ..) (State.touch_mem ..)
  next => exact .next (.after (State.raise_kept ..) (s.issuing_kept k t))

theorem State.move_goes (m : Move) : s.Goes (s.move m) := by
  cases m with
  | word k t => exact State.word_goes k t
  | act i => exact .ite (exec_goes i s) (.next (.refl s))

theorem step_goes : s.Goes (step s) := by
  unfold step
  split
  next => exact .same (State.move_goes _) rfl
  next =>
    split
    next => exact State.move_goes _
    next => exact .next (.refl s)

end

/-- Settles O4: every move, a word's cause included, answers a next state. -/
theorem noStepStops : Obligations.NoStepStops := fun _ =>
  let ⟨t, ht, _⟩ := step_goes
  ⟨t, ht⟩

/-- Settles O5: every operation writes memory through the accessors that keep the form, or drops entries. -/
theorem stepKeepsMemoryCanonical : Obligations.StepKeepsMemoryCanonical := fun s t hs h => by
  obtain ⟨u, hu, hk⟩ := step_goes (s := s)
  obtain rfl : u = t := by simpa [hu] using h
  exact hk.wf hs

end Sys2Proof.Machine
/-! ## Moves that are events and commands (O3) -/

namespace Sys2Proof.Machine

section
variable {s : State} {r : List Move} {i : Instr}

theorem step_act (h : s.script = .act i :: r) : step s = ({ s with script := r } : State).move (.act i) := by
  unfold step
  rw [h]

/-- A device held in reset, without power or lost can only be powered on, or lose its power. -/
theorem State.awake_iff : s.awake i = true ↔ s.dev.phase = .running ∨ s.dev.phase = .recovery ∨ i = .powerOnReset ∨ i = .powerLoss := by
  simp [State.awake, or_assoc]

theorem State.move_act (ho : Instr.outside i = true) (ha : s.awake i = true) : s.move (.act i) = exec i s := by simp [State.move, ho, ha]

theorem State.move_act_asleep (ha : s.awake i = false) : s.move (.act i) = .next s := by simp [State.move, ha]

theorem State.move_act_word (ho : Instr.outside i = false) : s.move (.act i) = .next s := by simp [State.move, ho]

end

/-- Settles O3: the three cases of a move that names an instruction. -/
theorem stepRunsEvents : Obligations.StepRunsEvents := by
  intro s r i h
  rw [step_act h]
  refine ⟨fun ho ha => State.move_act ho (State.awake_iff.2 ha), fun h1 h2 h3 h4 => State.move_act_asleep ?_, State.move_act_word⟩
  simpa [State.awake, h3, h4] using ⟨h1, h2⟩

end Sys2Proof.Machine
/-! ## The order of the port (O47) -/

namespace Sys2Proof.Machine

open Claims

section
variable {s : State} {always : Bool} {j : Jec} {f : State → Done}

@[simp] theorem State.follow_expect (s : State) (j : Jec) : (s.follow j).dev.expect = some ((j.seq + 1) % 2 ^ 32) := rfl

@[simp] theorem Done.finish_expect (d : Done) (j : Jec) : (d.finish j).dev.expect = some ((j.seq + 1) % 2 ^ 32) := by
  unfold Done.finish
  split <;> rfl

/-- A device that is up answers with the state the port has come to. -/
theorem command_of_up (h : s.dev.phase = .running ∨ s.dev.phase = .recovery) :
    command always j f s = .next (match find? s.dev.answers j.seq with
      | some a => { s with out := .answer a :: s.out }
      | none =>
        if !s.inSequence j then s
        else if always || s.dev.phase == .running then (f s.portDone).finish j else (s.answer j .wrongState []).follow j) := by
  obtain h | h := h <;> simp only [command, h] <;> rfl

theorem command_of_down (h1 : s.dev.phase ≠ .running) (h2 : s.dev.phase ≠ .recovery) : command always j f s = .next s := by
  unfold command
  extract_lets run
  split
  · contradiction
  · contradiction
  · rfl

theorem command_repeated {r : Answer} (h : s.dev.phase = .running ∨ s.dev.phase = .recovery) (hr : find? s.dev.answers j.seq = some r) :
    command always j f s = .next { s with out := .answer r :: s.out } := by rw [command_of_up h, hr]

theorem command_out_of_order (hn : find? s.dev.answers j.seq = none) (ho : s.inSequence j = false) : command always j f s = .next s := by
  by_cases h : s.dev.phase = .running ∨ s.dev.phase = .recovery
  · simp [command_of_up h, hn, ho]
  · exact command_of_down (fun h1 => h (.inl h1)) fun h2 => h (.inr h2)

theorem command_in_order (h : s.dev.phase = .running ∨ s.dev.phase = .recovery) (hn : find? s.dev.answers j.seq = none)
    (ho : s.inSequence j = true) :
    command always j f s = .next (if always || s.dev.phase == .running then (f s.portDone).finish j else (s.answer j .wrongState []).follow j) := by
  simp [command_of_up h, hn, ho]

end

/-- Every command passes through the port's check of its order. -/
theorem commands_through_port {s : State} {j : Jec} {x n a m f : Nat} {w : Word} {bs : List Byte} {sp : MemSpace} {hr : HandleReq} {cr : CtxReq}
    {rr : ReachReq} {ls ms : List Nat} {rs : List ReplicaDev} {b : Bool} :
    (∀ i ∈ plainCommands j x n a w bs sp hr cr rr ls ms rs, ∃ g, exec i s = command false j g s) ∧
    ∀ i ∈ recoveryCommands j m f bs b, ∃ g, exec i s = command true j g s := by
  simp only [plainCommands, recoveryCommands, List.forall_mem_append, List.forall_mem_cons, List.not_mem_nil, false_imp_iff, implies_true, and_true,
    exec_kload, exec_kunload, exec_kbind, exec_kunbind, exec_kretire, exec_gload, exec_gunload, exec_trig, exec_qset, exec_qdrain, exec_qoff, exec_hset,
    exec_hclr, exec_poolset, exec_pclear, exec_partset, exec_ctxnew, exec_run, exec_preempt, exec_spill, exec_fill, exec_resume, exec_kill,
    exec_ctxfree, exec_restore, exec_mread, exec_mwrite, exec_exportWin, exec_reach, exec_memb, exec_cgdef, exec_cgdel, exec_linkup, exec_retrain,
    exec_linkfence, exec_linkreset, exec_summary, exec_fwload, exec_quote]
  and_intros
  all_goals exact ⟨_, rfl⟩

/-- Settles O47: each claim is one case of what the port does, whichever command comes. -/
theorem portProtocol : Obligations.PortProtocol := by
  intro s j x n a m f w bs sp hr cr rr ls ms rs b i hi
  obtain ⟨hplain, hrecovery⟩ :=
    commands_through_port (s := s) (j := j) (x := x) (n := n) (a := a) (m := m) (f := f) (w := w) (bs := bs) (sp := sp) (hr := hr) (cr := cr)
      (rr := rr) (ls := ls) (ms := ms) (rs := rs) (b := b)
  obtain ⟨always, g, hg⟩ : ∃ always g, exec i s = command always j g s := by
    rcases List.mem_append.1 hi with h | h
    · exact ⟨false, hplain i h⟩
    · exact ⟨true, hrecovery i h⟩
  rw [hg]
  refine ⟨fun r hup hr => command_repeated hup hr, fun e hn he hne => command_out_of_order hn ?_,
    fun hup hn ho => ⟨_, command_in_order hup hn ho, ?_⟩, fun hi hrec hn ho => ?_, command_of_down⟩
  · simpa [State.inSequence, he] using hne
  · split
    · exact Done.finish_expect ..
    · rfl
  · obtain ⟨g', hg'⟩ := hplain i hi
    rw [← hg, hg', command_in_order (.inr hrec) hn ho]
    simp [hrec, refused]

end Sys2Proof.Machine

/-! ## Copies, replicas and recovery (O43) -/

namespace Sys2Proof.Machine

open Claims

/-! ### Transfers (R371, R372, R390) -/

section
variable {s : State} {x q n : Nat} {t : Xfer}

theorem execCopyLanded_ckpt {send : Bool} {ord ckid : Nat} {vs : List (Nat × Nat)} {recs : List Byte} (ht : s.xferOf x q n = some t)
    (hst : t.st = .issued) (hf : s.xferFails x t = false) (ho : s.inOrder x q t = true) (hk : t.kind = .ckpt send ord ckid vs recs)
    (hd : s.drainable x vs = true) (hb : t.bytes = 0) : execCopyLanded x q n s = .next (s.landCkpt x q t) := by
  simp only [execCopyLanded, ht, hk]
  rw [if_neg (by simp [hst, hf, ho]), if_pos ⟨hd, hb⟩]

theorem execCopyLanded_data (ht : s.xferOf x q n = some t) (hst : t.st = .issued) (hf : s.xferFails x t = false) (ho : s.inOrder x q t = true)
    (hk : ∀ send ord ckid vs recs, t.kind ≠ .ckpt send ord ckid vs recs) :
    execCopyLanded x q n s = .next ((s.landXfer x q t).setXfer x q { t with st := .landed }) := by
  simp only [execCopyLanded, ht]
  exact if_neg (by simp [hst, hf, ho])

theorem execCopyStart_taken {die : Nat} (ht : ((s.ctxOf x).cq q).cmds.find? (fun t => t.die == die && t.st == .queued) = some t)
    (hl : (s.dieOf die).lost = false) (hi : s.issuedOn q die < 8) :
    execCopyStart x q die s = .next (s.setXfer x q { t with st := .issued }) := by
  rw [execCopyStart, ht]
  exact if_neg (by simp [hl, hi])

theorem execCheckpointDeliveryAcknowledged_sent {ord ckid : Nat} {vs : List (Nat × Nat)} {recs : List Byte} (ht : s.xferOf x q n = some t)
    (hk : t.kind = .ckpt true ord ckid vs recs) (hst : t.st = .issued) (hb : t.bytes = 1) :
    execCheckpointDeliveryAcknowledged x q n s = .next (s.setXfer x q { t with st := .landed, acked := true }) := by
  simp only [execCheckpointDeliveryAcknowledged, ht, hk]
  exact if_pos ⟨hst, hb⟩

theorem execCopyAcked_landed (ht : s.xferOf x q n = some t) (hst : t.st = .landed) :
    execCopyAcked x q n s = .next ((((match t.bar with
        | some b => s.subPend b t.bytes
        | none => s).flagUpdate x t.core t.flag t.ftag (fun v => v + 1)).letGo x t).dropXfer x q n |>.send (.xferDone x q n)) := by
  rw [execCopyAcked, ht]
  exact if_neg (by simp [hst])

theorem execCopyFaulted_failed (ht : s.xferOf x q n = some t) (hst : t.st ≠ .landed) (hf : s.xferFails x t = true) :
    execCopyFaulted x q n s = .next (s.faultXfer x q false t) := by simp [execCopyFaulted, ht, hst, hf]

end

theorem copyTransfers_holds : Claims.copyTransfers := by
  rintro s x q die n t
  refine ⟨fun ht hl hi => execCopyStart_taken ht hl hi,
    fun ht hst hf ho => ⟨fun hk => execCopyLanded_data ht hst hf ho hk, fun send ord ckid vs recs hk hd hb => execCopyLanded_ckpt ht hst hf ho hk hd hb⟩,
    fun ord ckid vs recs ht hk hst hb => execCheckpointDeliveryAcknowledged_sent ht hk hst hb, ?acked,
    fun ht hst hf => execCopyFaulted_failed ht hst hf⟩
  rintro u ht hst rfl
  exact execCopyAcked_landed ht hst

/-! ### Replicas and recovery (R395 to R397) -/

section
variable {s : State} {x v p n d : Nat} {h : Word} {e : Ver}

theorem execReplicaCounted_sent (hv : s.versionAt x h.toNat v = some (p, n, e)) (hst : e.st = .sealed) (hr : e.repl = .sent d) :
    execReplicaCounted x h v s = if !s.devUp d then .next s else
      .next ((s.setVer x p n v { e with st := .replicated, repl := .counted d, relost := false }).trim x (handleFor p n) v) := by
  simp only [execReplicaCounted, hv, hst, hr]

theorem execReplicaTargetLost_sent (hv : s.versionAt x h.toNat v = some (p, n, e)) (hst : e.st = .sealed) (hr : e.repl = .sent d) :
    execReplicaTargetLost x h v s = .next (s.startRepl x (s.firstCore x) p n v) := by
  simp only [execReplicaTargetLost, hv, hst, hr]

theorem execReplicaLost_counted (hv : s.versionAt x h.toNat v = some (p, n, e)) (hst : e.st = .replicated) (hr : e.repl = .counted d) :
    execReplicaLost x h v s =
      .next ((s.setVer x p n v { e with st := .sealed, repl := .none, rimg := [], relost := true }).startRepl x (s.firstCore x) p n v) := by
  simp only [execReplicaLost, hv, hst, hr]

theorem execCopyBackVerified_copied {t : TPool} (hv : s.versionAt x h.toNat v = some (p, n, e)) (hst : e.st = .rebuilding) (hr : e.repl = .counted d)
    (hrun : e.run = none) (ht : s.poolOf x p = some t) :
    execCopyBackVerified x h v s = if fieldLE (e.rimg.take 256) 0x18 8 = (crc64 (e.rimg.drop 256)).toNat then
      .next (((s.perform (s.verSegs x t n v e.frame).1 (e.rimg.drop 256)).perform (s.verSegs x t n v e.frame).2
        (t.headerIn n v e.frame (e.rimg.take 256))).setVer x p n v { e with st := .replicated })
    else .next ((((s.setVer x p n v { e with st := .lost, repl := .none, rimg := [] }).recover x ((s.allVers x).length + 1)
      (h.toNat, v)).raiseRebuilds x).checkHeads x) := by
  simp only [execCopyBackVerified, hv, hst, hr, hrun, ht]

end

/-! ### Mirrors (R391, R394) -/

theorem State.send_dieOf (s : State) (o : Out) (k : Nat) : (s.send o).dieOf k = s.dieOf k := by
  unfold State.send
  split <;> rfl

theorem State.sendMirror_shard (s : State) (die k : Nat) (e : LinEnt) : ((s.sendMirror die e).dieOf k).shard = (s.dieOf k).shard := by
  unfold State.sendMirror
  split <;> rfl

section
variable {s : State} {die : Nat}

/-- An entry of the shard with no mirror is mirrored to the first device of the list that can be reached. -/
theorem execLineageMirrorRetry_unmirrored {r : ReplicaDev} {en : LinEnt} (hl : (s.dieOf die).lost = false)
    (hr : s.fabric.replicas.find? s.reachable = some r) (hen : en ∈ (s.dieOf die).shard) (hno : en.mdev = none) :
    ∃ u, execLineageMirrorRetry die s = .next u ∧ u.mem = s.mem ∧ { en with mdev := some r.dev, mack := false } ∈ (u.dieOf die).shard := by
  rw [execLineageMirrorRetry, hr]
  dsimp -zeta only
  extract_lets bad again es d t
  have hbad : bad en = true := by simp only [bad, hno]
  have hes : ¬(es.isEmpty = true ∨ (s.dieOf die).lost = true) := by
    simpa [hl, es] using ⟨en, hen, hbad⟩
  refine ⟨_, if_neg hes, State.forEach_mem _ _ _ fun e u => u.sendMirror_mem die (again e), ?_⟩
  refine State.forEach_inv (P := fun u => again en ∈ (u.dieOf die).shard) ?_ fun e _ u hu => by rwa [State.sendMirror_shard]
  rw [State.dieOf_setDieOf, if_pos rfl]
  exact List.mem_map.2 ⟨en, hen, if_pos hbad⟩

end

theorem replicasAndRecovery_holds : Claims.replicasAndRecovery := by
  intro s x v p n d die h e
  refine ⟨fun hv => ⟨fun hst hr => ⟨fun hup => ?counted, fun hdown => ?uncounted, execReplicaTargetLost_sent hv hst hr⟩,
    fun hst hr => execReplicaLost_counted hv hst hr, ?copyBack⟩, rfl, fun hl => ⟨fun dev hh vv body => ?store, fun dev hh vv => ?trim,
    fun r en hr hen hno => execLineageMirrorRetry_unmirrored hl hr hen hno, fun dev hh vv en hen hh' hvv hdev => ?ack⟩⟩
  case counted => simp [execReplicaCounted_sent hv hst hr, hup]
  case uncounted => simp [execReplicaCounted_sent hv hst hr, hdown]
  case copyBack =>
    rintro t hd data g hst hr hrun ht rfl rfl rfl
    rw [exec_copyBackVerified, execCopyBackVerified_copied hv hst hr hrun ht]
    exact ⟨fun hc => if_pos hc, fun hc => if_neg hc⟩
  case store => exact ⟨_, if_neg (by simp [hl]), by simp [State.send_dieOf]⟩
  case trim =>
    refine ⟨_, if_neg (by simp [hl]), ?_⟩
    rintro m hm ⟨hd, hh', hv⟩
    simp [hd, hh', hv] at hm
  case ack =>
    refine ⟨_, if_neg (by simp [hl]), rfl, ?_⟩
    simp only [State.dieOf_setDieOf, if_true]
    exact List.mem_map.2 ⟨en, hen, if_pos ⟨hh', hvv, hdev⟩⟩

/-- Settles O43: each claim is one case of what the event does. -/
theorem copiesAndReplicas : Obligations.CopiesAndReplicas := ⟨copyTransfers_holds, replicasAndRecovery_holds⟩

end Sys2Proof.Machine

/-! ## Commands on the fabric and the device (O50) -/

namespace Sys2Proof.Machine

open Claims

section
variable {s t : State} {j : Jec} {f : State → Done}

/-- A command that recovery mode carries out as well is carried out in the state it finds. -/
theorem command_acceptedAlways (h : acceptsAlways s j) : command true j f s = .next ((f s).finish j) := by
  obtain ⟨hup, hnew, hseq, hw⟩ := h
  have hdone : s.portDone = s := by rw [State.portDone, hw]
  rw [command_in_order hup hnew hseq, hdone]
  rfl

end

/-! ### The fabric (R394, R426 to R432) -/

theorem not_mem_keys_dropKey {α : Type} (m : List (Nat × α)) (k : Nat) : k ∉ (dropKey m k).map (fun e => e.1) := by
  simp [dropKey]

/-- A group that is deleted has no entry any more, and no byte of memory changes. -/
theorem execCgdel_answered {s : State} {j : Jec} {l : Nat} {g : CGroup} (hacc : accepts s j) (hg : s.groupAt l = some g) :
    ∃ t, execCgdel j l s = answered j t ∧ l ∉ t.fabric.groups.map (fun e => e.1) ∧ t.mem = s.mem := by
  refine ⟨_, command_answered hacc (by rw [hg]), fun h => not_mem_keys_dropKey _ _ h, ?_⟩
  refine Eq.trans (b := (s.breakGroup l).mem) ?_ (s.breakGroup_mem l)
  exact State.forEach_mem _ _ _ fun _ _ => rfl

theorem fabricCommands_holds : Claims.fabricCommands := by
  intro s j x n p hacc
  refine ⟨fun w hx hn hal hwin hpages => ?exportWin, fun len path hn hlen => ?reachSet, fun hn => ?reachRemove, fun rs h1 h4 hdev => ?memb,
    fun b ms g hok hlt hg hno => ?cgdef, fun g hg => execCgdel_answered hacc hg, fun hp => ⟨fun hd hl => ?linkup, fun u hup hu => ?retrain,
    ?linkfence, fun hf hl => ?linkreset⟩⟩
  case exportWin =>
    rw [exec_exportWin, execExportWin]
    exact command_answered hacc (Done.unless_passed (by simpa [hx, hal, hwin, hpages] using hn))
  case reachSet =>
    rw [exec_reach, execReach]
    refine command_answered hacc ?_
    rw [Done.unless_passed (by simpa using hn)]
    exact Done.unless_passed (by simpa using hlen)
  case reachRemove =>
    rw [exec_reach, execReach]
    exact command_answered hacc (Done.unless_passed (by simpa using hn))
  case memb =>
    have hne : rs.isEmpty = false := by cases rs <;> simp_all
    rw [exec_memb, execMemb]
    exact command_answered hacc (Done.unless_passed (by simpa [hne, h4] using hdev))
  case cgdef =>
    subst hg
    rw [exec_cgdef, execCgdef]
    refine command_answered hacc ?_
    rw [Done.unless_passed (by simp [hok]), Done.unless_passed (by simpa using hlt)]
    exact Done.unless_passed (by simp [hno])
  case linkup =>
    rw [exec_linkup, execLinkup]
    refine command_answered hacc ?_
    rw [Done.unless_passed (by simp [hp])]
    exact Done.unless_passed (by simp [hd, hl])
  case retrain =>
    subst hu
    rw [exec_retrain, execRetrain]
    refine command_answered hacc ?_
    rw [Done.unless_passed (by simp [hp])]
    exact Done.unless_passed (by rcases hup with h | h <;> simp [h])
  case linkfence =>
    rw [exec_linkfence, execLinkfence]
    exact command_answered hacc (Done.unless_passed (by simp [hp]))
  case linkreset =>
    rw [exec_linkreset, execLinkreset]
    refine command_answered hacc ?_
    rw [Done.unless_passed (by simp [hp])]
    exact Done.unless_passed (by simp [hf, hl])

/-! ### The device (R444, R445, R447, R450, R451) -/

/-- The state in which FWLOAD leaves the device: held in reset, the write of the flash begun. -/
noncomputable def State.flashing (s : State) (img : List Byte) (burn : Bool) : State :=
  { s.afterReset .reset s.dev.almanac with dev := { (s.afterReset .reset s.dev.almanac).dev with writing := some (img, burn) } }

theorem execFwload_checked {s : State} {j : Jec} {img : List Byte} {b : Bool} (hacc : acceptsAlways s j)
    (hfree : s.ctxs.any (fun x => x.2.st != .free && x.2.st != .dead) = false) :
    execFwload j img b s = if fwOk s.dev.minfw img = true then answered j (s.flashing img b) else refused s j .badImage := by
  rw [execFwload, command_acceptedAlways hacc, Done.unless_passed hfree]
  split
  next h => rw [Done.unless_passed (by simp [h])]; rfl
  next h => rw [Done.unless_failed (by simp [h])]; rfl

theorem deviceCommands_holds : Claims.deviceCommands := by
  intro s j hacc
  refine ⟨fun m b u hm hb hu => ?summary, fun nonce c hn hc => ?quote, fun img b hfree => ?fwload⟩
  case summary =>
    subst hb hu
    rw [exec_summary, execSummary, command_acceptedAlways hacc, Done.unless_passed (by simpa using hm)]
    rfl
  case quote =>
    subst hc
    rw [exec_quote, execQuote, command_acceptedAlways hacc, Done.unless_passed (by simp [hn])]
    rfl
  case fwload => exact ⟨s.flashing img b, execFwload_checked hacc hfree, rfl, rfl, rfl, rfl, fun _ => rfl, rfl, rfl⟩

/-- Settles O50: each claim is a command whose checks pass, or the one that fails. -/
theorem fabricAndDeviceCommands : Obligations.FabricAndDeviceCommands := ⟨fabricCommands_holds, deviceCommands_holds⟩

end Sys2Proof.Machine

/-! ## The LINK words (O26) -/

namespace Sys2Proof.Machine

open Claims

/-! ### Data words that issue (R434, R435, R461) -/

theorem State.send_sameFabric (s : State) (o : Out) : (s.send o).fabric = s.fabric := by
  unfold State.send
  split <;> rfl

theorem State.send_out (s : State) (o : Out) : (s.send o).out = o :: s.out := by
  unfold State.send
  split <;> rfl

theorem State.touch_fabric (s : State) (x : Nat) (ds : List Nat) : (s.touch x ds).fabric = s.fabric := by
  unfold State.touch
  split <;> rfl

theorem State.touch_out (s : State) (x : Nat) (ds : List Nat) : (s.touch x ds).out = s.out := by
  unfold State.touch
  split <;> rfl

/-- What a data word's checks leave for its issue: the operation has no status yet, and the state has the cores, the memory and the fabric of the
one before. -/
structure LinkPlanned (s : State) (o : LinkOp) (u : State) : Prop where
  bytes : s.SameBytes u
  fabric : u.fabric = s.fabric
  st : o.st = none

section
variable {s t u : State} {d a : Reg} {src : Place} {o : LinkOp} {ack : Bool} {l n : Nat}

theorem State.linkPlan_planned (red : Bool) (lim : LDesc → Res Unit) :
    Res.Gives (fun r => LinkPlanned s r.2.2.1 r.2.2.2) (s.linkPlan red d a lim) := by
  have ht (p : Nat) (ds : List Nat) (o : LinkOp) (h : o.st = none) : LinkPlanned s o ((s.touchC p 64).touch s.ctxNo ds) :=
    ⟨(State.touch_sameBytes ..).trans (State.touch_sameBytes ..), (State.touch_fabric ..).trans (State.touch_fabric ..), h⟩
  refine .after fun p => .after fun _ => .after fun _ => .after fun _ => .after fun _ => .after fun _ => ?_
  refine .ite (.after fun _ => .after fun _ => .after fun _ => .ok (ht _ _ _ rfl)) ?_
  exact .after fun _ => .after fun _ => .after fun _ => .after fun _ => .after fun _ => .ok (ht _ _ _ rfl)

/-- The core of a data word that has issued: it stands last among the words outstanding, and its number is in register d. -/
def State.standing (s : State) (d : Reg) (ack : Bool) (o : LinkOp) : CoreSt :=
  ({ s.core with cS := s.c.takeNum, links := s.core.links ++ [{ o with cmd := s.c.issued + 1 }],
                 wacks := s.core.wacks + ack.toNat } : CoreSt).setSreg d (BitVec.ofNat 64 (s.c.issued + 1))

/-- t is the state in which a data word has issued from s. -/
structure LinkIssued (s : State) (d : Reg) (ack : Bool) (o : LinkOp) (t : State) : Prop where
  core : t.core = s.standing d ack o
  mem : t.mem = s.mem
  fabric : t.fabric = s.fabric
  cur : t.cur = s.cur

theorem State.linkIssue_ready (hd : s.core.busy d = false) : ∃ t, s.linkIssue d src ack o = .ok t ∧ LinkIssued s d ack o t ∧ t.out = s.out := by
  obtain ⟨u, hu⟩ : ∃ u, u = s.touch s.ctxNo (src.dies ++ o.dst.dies) := ⟨_, rfl⟩
  have hc : u.core = s.core := hu ▸ State.touch_core ..
  have htlc : u.tlc.2.core = { s.core with cS := s.c.takeNum } := by rw [← hc, State.c, ← hc]; exact State.core_setCore ..
  have hnum : u.tlc.1 = s.c.issued + 1 := by rw [State.c, ← hc]; rfl
  obtain ⟨v, hv⟩ : ∃ v, v = u.tlc.2.setCore { u.tlc.2.core with
    links := u.tlc.2.core.links ++ [{ o with cmd := u.tlc.1 }], wacks := u.tlc.2.core.wacks + ack.toNat } := ⟨_, rfl⟩
  have hvc : v.core = { s.core with cS := s.c.takeNum, links := s.core.links ++ [{ o with cmd := s.c.issued + 1 }],
                                    wacks := s.core.wacks + ack.toNat } := by
    rw [hv, State.core_setCore, htlc, hnum]
  have hissue : s.linkIssue d src ack o = v.wr d (BitVec.ofNat 64 (s.c.issued + 1)) := by
    rw [hv, State.c, ← hc, hu]
    rfl
  refine ⟨_, hissue.trans (State.wr_ready _ (by rw [hvc]; exact hd)), ⟨?_, ?_, ?_, ?_⟩, ?_⟩
  · rw [State.core_setCore, hvc]
    rfl
  · subst hv hu
    exact State.touch_mem ..
  · subst hv hu
    exact State.touch_fabric ..
  · subst hv hu
    exact State.touch_cur ..
  · subst hv hu
    exact State.touch_out ..

theorem State.core_retire (s : State) : s.retire.core = { s.core with cS := { s.c with pc := s.c.pc + 1, waiting := false } } :=
  State.core_setCore ..

/-- What is said of a data word that has issued. -/
theorem LinkIssued.stands (h : LinkIssued s d ack o t) : linkStands s t.retire ack o ∧ gaveNumber s t.retire d := by
  refine ⟨⟨?_, ?_, ?_, ?_, h.mem⟩, fun hd => ?_⟩
  · rw [State.core_retire, h.core]
    exact CoreSt.setSreg_links ..
  · rw [State.core_retire, h.core]
    exact CoreSt.setSreg_wacks ..
  · rw [State.c, State.core_retire, State.c, h.core]
    exact congrArg StreamSt.issued (CoreSt.setSreg_cS ..)
  · rw [State.c, State.core_retire, State.c, h.core]
    exact congrArg StreamSt.out (CoreSt.setSreg_cS ..)
  · rw [State.core_retire, h.core]
    exact (CoreSt.sreg_setSreg ..).trans ((if_pos rfl).trans (if_neg hd))

/-- A data word that issues in a state with the same cores and memory issues from s. -/
theorem LinkIssued.stands_of_bytes (hu : s.SameBytes u) (h : LinkIssued u d ack o t) : linkStands s t.retire ack o ∧ gaveNumber s t.retire d := by
  have hc : u.c = s.c := congrArg CoreSt.cS hu.core
  have hstands := h.stands
  rwa [linkStands, gaveNumber, hu.core, hc, hu.mem] at hstands

/-- A word that sends its data and stands outstanding. -/
theorem linkIssue_sent {x : Out} (hd : ready s d) (hu : LinkPlanned s o u) (k : LinkKind) :
    ∃ t, finish true ((u.send x).linkIssue d src true { o with kind := k }) s = .next t ∧ linkStands s t true { o with kind := k } ∧
      gaveNumber s t d ∧ t.out.head? = some x := by
  have hsame : s.SameBytes (u.send x) := hu.bytes.trans (u.send_sameBytes x)
  obtain ⟨t, ht, hi, hout⟩ := State.linkIssue_ready (s := u.send x) (src := src) (o := { o with kind := k }) (ack := true) (by rw [hsame.core]; exact hd)
  obtain ⟨hstands, hnum⟩ := hi.stands_of_bytes hsame
  exact ⟨t.retire, by rw [ht]; rfl, hstands, hnum, by rw [State.retire_out, hout, State.send_out]; rfl⟩

/-! ### Words on a group whose status is settled -/

/-- t is s with statuses that f gives settled, at words that have none. -/
structure LinksSettled (f : LinkOp → Option LinkStatus) (s t : State) : Prop where
  mem : t.mem = s.mem
  fabric : t.fabric = s.fabric
  cur : t.cur = s.cur
  links : ∀ k, ∃ g : LinkOp → LinkOp, t.coreOf k = { s.coreOf k with links := (s.coreOf k).links.map g } ∧
    ∀ o, g o = o ∨ o.st = none ∧ g o = { o with st := f o }

variable {f : LinkOp → Option LinkStatus}

theorem LinksSettled.refl (f : LinkOp → Option LinkStatus) (s : State) : LinksSettled f s s :=
  ⟨rfl, rfl, rfl, fun _ => ⟨id, by rw [List.map_id], fun _ => .inl rfl⟩⟩

theorem LinksSettled.trans (h : LinksSettled f s t) (k : LinksSettled f t u) : LinksSettled f s u := by
  refine ⟨k.mem.trans h.mem, k.fabric.trans h.fabric, k.cur.trans h.cur, fun c => ?_⟩
  obtain ⟨g, hg, hgo⟩ := h.links c
  obtain ⟨g', hg', hgo'⟩ := k.links c
  refine ⟨g' ∘ g, by rw [hg', hg, ← List.map_map], fun o => ?_⟩
  rcases hgo o with h | ⟨hno, h⟩
  · rw [Function.comp_apply, h]
    exact hgo' o
  · rw [Function.comp_apply, h]
    rcases hgo' { o with st := f o } with h' | ⟨hno', h'⟩
    · exact .inr ⟨hno, h'⟩
    · have ho : ({ o with st := f o } : LinkOp) = o := by cases o; simp_all
      rw [ho] at h' ⊢
      exact .inl (h'.trans ho)

theorem State.settleLinks_settled (s : State) (x l : Nat) (f : LinkOp → Option LinkStatus) : LinksSettled f s (s.settleLinks x l f) := by
  refine State.forEach_inv (.refl f s) fun e _ u hu => hu.trans ⟨rfl, rfl, rfl, fun k => ?_⟩
  by_cases hk : k = e.1
  · refine ⟨fun o => if o.cmd = e.2.cmd ∧ o.st = none then { o with st := f o } else o, ?_, fun o => ?_⟩
    · rw [State.coreOf_setCoreOf, if_pos hk, hk]
    · dsimp only
      split
      next h => exact .inr ⟨h.2, rfl⟩
      next => exact .inl rfl
  · exact ⟨id, by rw [State.coreOf_setCoreOf, if_neg hk, List.map_id], fun _ => .inl rfl⟩

/-- An operation that has failed gives its words at most the status it failed with. -/
theorem State.settleFailed_settled {g : CGroup} (hg : s.groupAt l = some g) : ∃ f, LinksSettled f s (s.settleFailed l n) ∧
    (∀ o, o.kind ≠ .ldred l n → f o = none) ∧ ∀ o, f o = none ∨ f o = find? g.failed n := by
  unfold State.settleFailed
  rw [hg]
  dsimp only
  split
  next st _ hst _ =>
    refine ⟨_, s.settleLinks_settled .., fun o ho => if_neg ho, fun o => ?_⟩
    split
    · exact .inr hst.symm
    · exact .inl rfl
  next => exact ⟨fun _ => none, .refl _ s, fun _ _ => rfl, fun _ => .inl rfl⟩

/-- Where the words that stood before keep what they have, the one that issues last is the only one of its core that can take a status. -/
theorem LinkIssued.settled (h : LinkIssued s d ack o t) (hu : LinksSettled f t u) (hno : ∀ e ∈ s.core.links, f e = none) (ho : o.st = none) :
    ∃ st, (st = none ∨ st = f { o with cmd := s.c.issued + 1 }) ∧ LinkIssued s d ack { o with st := st } u := by
  obtain ⟨g, hg, hgo⟩ := hu.links t.cur
  have hlinks : t.core.links = s.core.links ++ [{ o with cmd := s.c.issued + 1 }] := by
    rw [h.core]
    exact CoreSt.setSreg_links ..
  have hpre : s.core.links.map g = s.core.links := by
    refine (List.map_congr_left fun e he => ?_).trans (List.map_id _)
    rcases hgo e with h | ⟨hst, h⟩
    · exact h
    · rw [h, hno e he, ← hst]
      rfl
  obtain ⟨st, hst, hlast⟩ : ∃ st, (st = none ∨ st = f { o with cmd := s.c.issued + 1 }) ∧
      g { o with cmd := s.c.issued + 1 } = { o with cmd := s.c.issued + 1, st := st } := by
    rcases hgo { o with cmd := s.c.issued + 1 } with h | ⟨_, h⟩
    · exact ⟨none, .inl rfl, h.trans (by rw [← ho])⟩
    · exact ⟨_, .inr rfl, h⟩
  refine ⟨st, hst, ?_, hu.mem.trans h.mem, hu.fabric.trans h.fabric, hu.cur.trans h.cur⟩
  have hcore : u.core = { t.core with links := s.core.links ++ [{ o with cmd := s.c.issued + 1, st := st }] } := by
    rw [State.core, hu.cur, hg, show (t.coreOf t.cur).links = _ from hlinks, List.map_append, hpre, List.map_singleton, hlast]
    rfl
  rw [hcore, h.core]
  unfold State.standing CoreSt.setSreg
  split <;> rfl

theorem LinkIssued.groupAt (h : LinkIssued s d ack o t) : t.groupAt l = s.groupAt l := by
  rw [State.groupAt, h.fabric]
  rfl

/-- What is sent afterwards leaves a data word as it has issued. -/
theorem LinkIssued.sent (h : LinkIssued s d ack o t) (hu : t.SameBytes u) (hf : u.fabric = t.fabric) : LinkIssued s d ack o u :=
  ⟨hu.core.trans h.core, hu.mem.trans h.mem, hf.trans h.fabric, hu.cur.trans h.cur⟩

end

theorem State.contribute_sent (s : State) (x l n loc : Nat) : s.SameBytes (s.contribute x l n loc) ∧ (s.contribute x l n loc).fabric = s.fabric := by
  unfold State.contribute
  split
  · exact ⟨.refl s, rfl⟩
  · exact ⟨s.send_sameBytes _, s.send_sameFabric _⟩

theorem linkDataWords_holds : Claims.linkDataWords := by
  intro s d a b l g x src o u0 hd
  refine ⟨fun hg hal => ⟨fun hplan => ?mcst, fun hplan n hn hlinks => ?ldred⟩, fun dev e hb hdev hal hplan hreach => ?send⟩
  case mcst =>
    simp only [exec_lkmcst, execLkmcst, hg, hal, hplan, res_ok_bind]
    exact linkIssue_sent hd ((State.linkPlan_planned ..).holds _ hplan) _
  case send =>
    subst hdev
    simp only [exec_lksend, execLksend, State.rd_ready hb, hal, hplan, res_ok_bind]
    exact linkIssue_sent hd ((State.linkPlan_planned ..).holds _ hplan) _
  case ldred =>
    have hu := (State.linkPlan_planned ..).holds _ hplan
    obtain ⟨v, hv⟩ : ∃ v, v = u0.setGroup l { g with counts := setKey g.counts (s.lcoreOf s.cur) (n + 1) } :=
      ⟨_, rfl⟩
    have hsame : s.SameBytes v := hv ▸ hu.bytes.trans ⟨rfl, rfl, rfl⟩
    have hgroup : v.groupAt l = some { g with counts := setKey g.counts (s.lcoreOf s.cur) (n + 1) } := by
      rw [hv]
      exact (find?_setKey ..).trans (if_pos rfl)
    obtain ⟨t, ht, hi, -⟩ := State.linkIssue_ready (s := v) (src := src) (ack := false)
      (o := { o with kind := .ldred l n }) (by rw [hsame.core]; exact hd)
    obtain ⟨hsent, hfab⟩ := t.contribute_sent t.ctxNo l n g.loc
    have hi' := hi.sent hsent hfab
    obtain ⟨f, hset, hother, hgives⟩ := State.settleFailed_settled (n := n)
      (hi'.groupAt.trans hgroup)
    have hno : ∀ e ∈ v.core.links, f e = none := fun e he =>
      hother e (by simpa using List.all_eq_true.1 hlinks e (by rwa [← hsame.core]))
    obtain ⟨st, hst, hissued⟩ := hi'.settled hset hno hu.st
    obtain ⟨hstands, hnum⟩ := hissued.stands_of_bytes hsame
    refine ⟨_, st, ?_, hstands, hnum, ?_, ?_⟩
    · simp only [exec_lkldred, execLkldred, hg, hal, hplan, res_ok_bind, ← hn, ← hv, ht]
      rfl
    · rcases hst with h | h
      · exact .inl h
      · exact h ▸ hgives _
    · exact hissued.groupAt.trans hgroup

/-! ### CGJOIN, CGLEAVE and CGSTAT (R439) -/

/-- A request that is on its way: it is sent, and stands last among those of its group. -/
theorem State.cgPending_stands (s : State) (l : Nat) (g : CGroup) (join : Bool) :
    (s.cgPending l g join).out.head? = some (.cgJoin l join) ∧
      (s.cgPending l g join).groupAt l = some { g with pendJoin := g.pendJoin ++ [(s.cur, s.c.issued + 1, join)] } := by
  unfold State.cgPending
  constructor
  · rw [State.send_out]
    rfl
  · rw [State.groupAt, State.send_sameFabric]
    exact (find?_setKey ..).trans (if_pos rfl)

theorem groupWords_holds : Claims.groupWords := by
  intro s d a l g hd hg
  refine ⟨fun hal => ⟨fun hj hp => ?joined, fun hor => ?join, fun hno => ?leave⟩, fun v hv => ?stat⟩
  case joined =>
    simp only [exec_cgjoin, execCgjoin, hg, hal, res_ok_bind, hj, hp]
    rfl
  case join =>
    obtain ⟨hout, hgroup⟩ := s.cgPending_stands l g true
    refine ⟨_, ?_, hout, hgroup⟩
    have hc : ¬(g.joined.contains g.rank = true ∧ g.pendJoin.isEmpty = true) := by
      rintro ⟨hj, hp⟩
      rcases hor with h | h
      · exact absurd hj (by rw [h]; exact Bool.false_ne_true)
      · exact h (List.isEmpty_iff.1 hp)
    simp only [exec_cgjoin, execCgjoin, hg, hal, res_ok_bind, if_neg hc]
    rfl
  case leave =>
    obtain ⟨hout, hgroup⟩ := s.cgPending_stands l g false
    refine ⟨_, ?_, hout, hgroup⟩
    simp only [exec_cgleave, execCgleave, hg, hal, hno, res_ok_bind, await_true]
    rfl
  case stat =>
    simp only [exec_cgstat, execCgstat, hg, res_ok_bind, ← hv, State.wr_ready v hd]
    rfl

/-- Settles O26: what each word leaves is said once of its issue, and of a request that is on its way. -/
theorem linkWords : Obligations.LinkWords := ⟨linkDataWords_holds, groupWords_holds⟩

end Sys2Proof.Machine

/-! ## Remote accesses and the completion of link words (O44) -/

namespace Sys2Proof.Machine

open Claims

/-! ### Accesses of another device (R429) -/

theorem remoteAccesses_holds : Claims.remoteAccesses := by
  intro s off
  refine ⟨fun n g hg => ?read, fun d g hg => ?write, fun d hg => ?writeOutside, fun op wide a b g hop hg => ?atom, fun n hg => ?readOutside⟩
  case read => simp only [exec_remoteAccessArrival, execRemoteAccessArrival, hg]
  case write => simp only [exec_remoteAccessArrival, execRemoteAccessArrival, State.exportWrite, hg]
  case writeOutside => simp only [exec_remoteAccessArrival, execRemoteAccessArrival, State.exportWrite, hg]
  case atom => simp only [exec_remoteAccessArrival, execRemoteAccessArrival, if_pos hop, hg]
  case readOutside =>
    simp only [exec_remoteAccessArrival, execRemoteAccessArrival, hg]
    exact ⟨_, rfl, State.send_mem ..⟩

/-! ### Acknowledgements of window 0x6 (R430) -/

theorem CoreSt.takeAck_wacks {c e : CoreSt} {d : Option (Nat × Bool)} {l : List Strm} (h : c.takeAck l = some (d, e)) : e.wacks = c.wacks - 1 := by
  induction l with
  | nil => cases h
  | cons t r ih =>
    unfold CoreSt.takeAck at h
    split at h
    · cases h
      rfl
    · exact ih h

section
variable {s : State} {k : Nat} {c : CoreSt}

theorem execWriteAcknowledge_stored (h : (s.coreOf k).takeAck allStrms = some (none, c)) :
    execWriteAcknowledge k s = posted ((onto s k).setCoreOf k c) := by
  rw [execWriteAcknowledge, h]
  rfl

theorem execWriteAcknowledge_returning {d : Reg} {wide : Bool} (h : (s.coreOf k).takeAck allStrms = some (some (d.toNat, wide), c)) :
    execWriteAcknowledge k s = posted (({ (onto s k).setCoreOf k c with fresh := s.fresh + 1 } : State).giveBack k (some d.toNat)
      (if wide then Config.freeWord s.fresh else sx64 ((Config.freeWord s.fresh).setWidth 32))) := by
  rw [execWriteAcknowledge, h]
  rfl

/-- The register of an atomic of another device takes a value that nothing constrains. -/
theorem execWriteAcknowledge_returns {d : Reg} {wide : Bool} (h : (s.coreOf k).takeAck allStrms = some (some (d.toNat, wide), c)) (hd : d ≠ 0) :
    ∃ v x, execWriteAcknowledge k s = posted v ∧ v.mem = s.mem ∧ (v.coreOf k).wacks = (s.coreOf k).wacks - 1 ∧
      x = Config.freeWord s.fresh ∧ (v.coreOf k).sreg d = if wide then x else sx64 (x.setWidth 32) := by
  refine ⟨_, _, execWriteAcknowledge_returning h, rfl, ?_, rfl, ?_⟩
  · rw [State.giveBack, State.coreOf_setCoreOf, if_pos rfl, CoreSt.setSreg_wacks]
    refine Eq.trans (b := c.wacks) ?_ (CoreSt.takeAck_wacks h)
    exact congrArg CoreSt.wacks ((State.coreOf_setCoreOf ..).trans (if_pos rfl))
  · rw [State.giveBack, State.coreOf_setCoreOf, if_pos rfl, BitVec.ofNat_toNat, BitVec.setWidth_eq, CoreSt.sreg_setSreg, if_pos rfl]
    exact if_neg hd

end

/-! ### Statuses of link data words (R433, R436, R438) -/

section
variable {s : State} {k n l op r : Nat} {st : LinkStatus} {o : LinkOp} {g : CGroup}

theorem execLinkDataCompletion_can (ho : (s.coreOf k).links.find? (fun o => o.cmd == n) = some o) (hcan : s.linkCan o st = true) :
    execLinkDataCompletion k n st s =
      .next (s.onCore k fun s => if o.isMcst ∧ o.st = none ∧ st = LinkStatus.ok then s.commitMcst k o else s.linkDone k o st) := by
  rw [execLinkDataCompletion, ho]
  exact if_neg (by simp [hcan])

theorem execCollectiveCommit_failed (hg : s.groupAt l = some g) (hst : st = .peerAbsent ∨ st = .mismatch) (hb : g.st ≠ .broken)
    (hno : find? g.failed op = none) :
    execCollectiveCommit l op (.fail st) s = .next ((s.setGroup l { g with failed := setKey g.failed op st }).settleFailed l op) := by
  rw [execCollectiveCommit, hg]
  refine if_neg ?_
  rcases hst with rfl | rfl <;> simp [hb, hno]

theorem execCollectiveCommit_committed {others : List (Nat × Nat × List (BitVec 16 × Bool))} {os : List LinkOp} {cs : List (List (BitVec 16 × Bool))}
    (hg : s.groupAt l = some g) (hops : s.localOps g.ctx l op g.loc = some (o :: os)) (hb : g.st ≠ .broken) (hj : g.rank ∈ g.joined)
    (hsame : sameOps (o :: os) = true) (hno : (o :: os).any (fun o => o.st.isSome) = false)
    (hcs : rankOrder g o.fmt o.count (packContribution o.count ((o :: os).map (fun q => linkElems q.fmt q.count q.data))) others = some cs) :
    execCollectiveCommit l op (.commit others) s = .next (((s.linkWrite o.dst ((linkResult o.count cs).flatMap
      (fun v => if o.fmt = 0 then toLE 4 v.toNat else toLE 2 (v.toNat / 65536)))).setGroup l { g with seq := (g.seq + 1) % 2 ^ 32 }).settleLinks
        g.ctx l (fun (q : LinkOp) => if q.kind = .ldred l op then some LinkStatus.ok else none)) := by
  simp only [execCollectiveCommit, hg, hops]
  rw [if_neg (by simp [hb, hj, hsame, hno]), hcs]

/-- The record of a member's join or leave, as it stands before the group's new state is settled. -/
theorem execCollectiveJoinLeaveRecorded_others (hg : s.groupAt l = some g) (hr : r < g.nmem) (hne : r ≠ g.rank) (hb : g.st ≠ .broken)
    (hall : ∀ m < g.nmem, m = r ∨ m ∈ g.joined) :
    execCollectiveJoinLeaveRecorded l r true s =
      .next (s.setGroup l { g with joined := r :: g.joined.filter (fun m => m != r), st := .active }) := by
  have hall' : (List.range g.nmem).all (fun m => (r :: g.joined.filter (fun m => m != r)).contains m) = true := by
    simp only [List.all_eq_true, List.mem_range, List.contains_iff_mem, List.mem_cons, List.mem_filter, bne_iff_ne]
    intro m hm
    by_cases h : m = r
    · exact .inl h
    · exact .inr ⟨(hall m hm).resolve_left h, h⟩
  simp only [execCollectiveJoinLeaveRecorded, hg]
  rw [if_neg (by omega), if_neg (by simp [hne])]
  simp only [hne, if_false, if_true, hb, hall']
  rfl

/-- The record of this device's own join or leave completes the oldest word that waits for one. -/
theorem execCollectiveJoinLeaveRecorded_own {e : Nat × Nat × Bool} {q : List (Nat × Nat × Bool)} (hg : s.groupAt l = some g) (hr : g.rank < g.nmem)
    (hp : g.pendJoin = e :: q) : ∃ u : State,
    execCollectiveJoinLeaveRecorded l g.rank e.2.2 s = .next (u.setCoreOf e.1 { u.coreOf e.1 with cS := (u.coreOf e.1).cS.finishNum e.2.1 }) ∧
      (u.groupAt l).map (fun h => (h.pendJoin, h.joined.contains g.rank)) = some (q, e.2.2) := by
  simp only [execCollectiveJoinLeaveRecorded, hg]
  rw [if_neg (by omega)]
  have hmine : g.pendJoin.head?.toList.filter (fun x => x.2.2 == e.2.2) = [e] := by simp [hp]
  simp only [if_true, hmine, List.isEmpty_cons, Bool.false_eq_true, and_false, if_false]
  refine ⟨_, rfl, ?_⟩
  rw [State.groupAt]
  refine (congrArg _ ((find?_setKey ..).trans (if_pos rfl))).trans ?_
  rcases e.2.2 <;> simp [hp]

end

theorem linkCompletions_holds : Claims.linkCompletions := by
  intro s k l
  refine ⟨fun c hc => ⟨execWriteAcknowledge_stored hc, CoreSt.takeAck_wacks hc⟩, fun d wide c hc hd => execWriteAcknowledge_returns hc hd,
    fun n st o ho hcan => ⟨fun hm hno hst => ?commit, fun hor => ?done⟩,
    fun g op st hg hst hb hno => execCollectiveCommit_failed hg hst hb hno, ?collective, rfl,
    fun g r hg hr hne hb hall => execCollectiveJoinLeaveRecorded_others hg hr hne hb hall,
    fun g e q hg hr hp => execCollectiveJoinLeaveRecorded_own hg hr hp⟩
  case commit =>
    rw [exec_linkDataCompletion, execLinkDataCompletion_can ho hcan]
    simp only [hm, hno, hst, and_self, if_true]
    rfl
  case done =>
    have hc : ¬(o.isMcst = true ∧ o.st = none ∧ st = LinkStatus.ok) := by
      rintro ⟨hm, hno, hst⟩
      rcases hor with h | h | h
      · exact Bool.false_ne_true (h.symm.trans hm)
      · simp [hno] at h
      · exact h hst
    rw [exec_linkDataCompletion, execLinkDataCompletion_can ho hcan]
    simp only [if_neg hc]
    rfl
  case collective =>
    rintro g op others o os cs res hg hops hb hj hsame hno hcs rfl
    exact execCollectiveCommit_committed hg hops hb hj hsame hno hcs

/-- Settles O44: each claim is one case of what the event does. -/
theorem fabricEvents : Obligations.FabricEvents := ⟨remoteAccesses_holds, linkCompletions_holds⟩

end Sys2Proof.Machine

/-! ## Where the contexts stand

What an operation does to cores, tasks, queues, barriers and memory moves no context and gives none a cause, and leaves every partition its cores. -/

namespace Sys2Proof.Machine

open Claims

/-- Where a context stands: its state, where its cores' state is held and whether it moves, the cause it stopped with and its partition. -/
def Ctx.standing (c : Ctx) : CtxState × Where × Option Bool × Option Nat × Nat := (c.st, c.loc, c.moving, c.stop, c.part)

/-- t has the contexts where s has them, and the partitions of s. -/
structure State.SameStanding (s t : State) : Prop where
  parts : t.parts = s.parts
  ctx : ∀ x, (t.ctxOf x).standing = (s.ctxOf x).standing

section
variable {s t u : State}

theorem State.SameStanding.refl (s : State) : s.SameStanding s := ⟨rfl, fun _ => rfl⟩

theorem State.SameStanding.after (k : t.SameStanding u) (h : s.SameStanding t) : s.SameStanding u :=
  ⟨k.parts.trans h.parts, fun x => (k.ctx x).trans (h.ctx x)⟩

theorem State.SameStanding.update (h : s.SameStanding t) (hp : u.parts = t.parts) (hc : u.ctxs = t.ctxs) : s.SameStanding u :=
  ⟨hp.trans h.parts, fun x => by rw [State.ctxOf, hc, ← h.ctx, State.ctxOf]⟩

theorem State.SameStanding.of_eq (hp : t.parts = s.parts) (hc : t.ctxs = s.ctxs) : s.SameStanding t := (State.SameStanding.refl s).update hp hc

theorem State.SameStanding.ite {c : Prop} [Decidable c] (ht : s.SameStanding t) (hu : s.SameStanding u) : s.SameStanding (if c then t else u) := by
  split
  · exact ht
  · exact hu

theorem State.SameStanding.partOf (h : s.SameStanding t) (n : Nat) : t.partOf n = s.partOf n := by rw [State.partOf, h.parts]; rfl

theorem State.SameStanding.st (h : s.SameStanding t) (x : Nat) : (t.ctxOf x).st = (s.ctxOf x).st := congrArg (fun r => r.1) (h.ctx x)

theorem State.SameStanding.loc (h : s.SameStanding t) (x : Nat) : (t.ctxOf x).loc = (s.ctxOf x).loc := congrArg (fun r => r.2.1) (h.ctx x)

theorem State.SameStanding.stop (h : s.SameStanding t) (x : Nat) : (t.ctxOf x).stop = (s.ctxOf x).stop := congrArg (fun r => r.2.2.2.1) (h.ctx x)

theorem State.SameStanding.part (h : s.SameStanding t) (x : Nat) : (t.ctxOf x).part = (s.ctxOf x).part := congrArg (fun r => r.2.2.2.2) (h.ctx x)

theorem State.forEach_sameStanding {α : Type} {l : List α} {f : α → State → State} (h : ∀ a s, State.SameStanding s (f a s)) :
    s.SameStanding (s.forEach l f) := State.forEach_inv (.refl s) fun a _ u hu => (h a u).after hu

theorem State.forN_sameStanding {n : Nat} {f : Nat → State → State} (h : ∀ i s, State.SameStanding s (f i s)) : s.SameStanding (s.forN n f) :=
  State.forEach_sameStanding h

end

/-! ### What a core keeps besides

Ending a core's waits, breaking barriers and storing bytes touch neither its control registers, nor its handler, nor the count of a SLEEP. -/

/-- The control registers of a core, its handler and its SLEEP. -/
def CoreSt.held (c : CoreSt) : List (Nat × Word) × Option HandlerSt × Option Word := (c.csrs, c.hand, c.sleep)

/-- t has the contexts where s has them, and in every core what s holds there. -/
structure State.SameHeld (s t : State) : Prop extends State.SameStanding s t where
  cur : t.cur = s.cur
  core : ∀ k, (t.coreOf k).held = (s.coreOf k).held

section
variable {s t u : State}

theorem State.SameHeld.refl (s : State) : s.SameHeld s := ⟨.refl s, rfl, fun _ => rfl⟩

theorem State.SameHeld.after (k : t.SameHeld u) (h : s.SameHeld t) : s.SameHeld u :=
  ⟨k.toSameStanding.after h.toSameStanding, k.cur.trans h.cur, fun j => (k.core j).trans (h.core j)⟩

theorem State.SameHeld.update (h : s.SameHeld t) (hp : u.parts = t.parts) (hc : u.ctxs = t.ctxs) (hcur : u.cur = t.cur) (hcores : u.cores = t.cores) :
    s.SameHeld u :=
  ⟨h.toSameStanding.update hp hc, hcur.trans h.cur, fun j => by rw [State.coreOf, hcores, ← h.core, State.coreOf]⟩

theorem State.SameHeld.of_eq (hp : t.parts = s.parts) (hc : t.ctxs = s.ctxs) (hcur : t.cur = s.cur) (hcores : t.cores = s.cores) : s.SameHeld t :=
  (State.SameHeld.refl s).update hp hc hcur hcores

theorem State.SameHeld.ite {c : Prop} [Decidable c] (ht : s.SameHeld t) (hu : s.SameHeld u) : s.SameHeld (if c then t else u) := by
  split
  · exact ht
  · exact hu

theorem State.SameHeld.here (h : s.SameHeld t) : t.core.held = s.core.held := by rw [State.core, h.cur]; exact h.core _

theorem CoreSt.hand_of_held {c d : CoreSt} (h : d.held = c.held) : d.hand = c.hand := congrArg (fun r => r.2.1) h

theorem CoreSt.sleep_of_held {c d : CoreSt} (h : d.held = c.held) : d.sleep = c.sleep := congrArg (fun r => r.2.2) h

theorem CoreSt.csr_of_held {c d : CoreSt} (h : d.held = c.held) (n : Nat) : d.csr n = c.csr n := by
  rw [CoreSt.csr, show d.csrs = c.csrs from congrArg (fun r => r.1) h]
  rfl

theorem State.forEach_sameHeld {α : Type} {l : List α} {f : α → State → State} (h : ∀ a s, State.SameHeld s (f a s)) : s.SameHeld (s.forEach l f) :=
  State.forEach_inv (.refl s) fun a _ u hu => (h a u).after hu

theorem State.forN_sameHeld {n : Nat} {f : Nat → State → State} (h : ∀ i s, State.SameHeld s (f i s)) : s.SameHeld (s.forN n f) :=
  State.forEach_sameHeld h

theorem State.setCoreOf_sameHeld {k : Nat} {c : CoreSt} (h : c.held = (s.coreOf k).held) : s.SameHeld (s.setCoreOf k c) where
  parts := rfl
  ctx _ := rfl
  cur := rfl
  core j := by
    rw [State.coreOf_setCoreOf]
    split
    next hj => rw [hj, h]
    next => rfl

end

section
variable (s : State)

theorem State.setCtxOf_sameStanding {s : State} {x : Nat} {c : Ctx} (h : c.standing = (s.ctxOf x).standing) : s.SameStanding (s.setCtxOf x c) where
  parts := rfl
  ctx y := by
    rw [State.ctxOf_setCtxOf]
    split
    next hy => rw [hy, h]
    next => rfl

theorem State.setCtxOf_sameHeld {s : State} {x : Nat} {c : Ctx} (h : c.standing = (s.ctxOf x).standing) : s.SameHeld (s.setCtxOf x c) :=
  ⟨State.setCtxOf_sameStanding h, rfl, fun _ => rfl⟩

theorem State.send_sameHeld (o : Out) : s.SameHeld (s.send o) := by
  unfold State.send
  exact .ite (.of_eq rfl rfl rfl rfl) (.of_eq rfl rfl rfl rfl)

theorem State.touch_sameHeld (x : Nat) (ds : List Nat) : s.SameHeld (s.touch x ds) := .ite (.refl s) (State.setCtxOf_sameHeld rfl)

theorem State.stale_sameHeld (x n : Nat) : s.SameHeld (s.stale x n) := State.setCtxOf_sameHeld rfl

theorem State.sendWakes_sameHeld (ws : List WaitEnt) : s.SameHeld (s.sendWakes ws) := by
  unfold State.sendWakes
  extract_lets off on val t u
  have ht : s.SameHeld t := State.forEach_sameHeld fun _ _ => State.setCoreOf_sameHeld rfl
  have hu : t.SameHeld u := State.forEach_sameHeld fun _ _ => State.setCoreOf_sameHeld rfl
  exact .ite ht ((hu.after ht).update rfl rfl rfl rfl)

theorem State.evalWaits_sameHeld (g : List Seg) : s.SameHeld (s.evalWaits g) :=
  State.forN_sameHeld fun _ u => .ite (.refl u) (.after (State.sendWakes_sameHeld _ _) (.of_eq rfl rfl rfl rfl))

theorem State.perform_sameHeld (g : List Seg) (bs : List Byte) : s.SameHeld (s.perform g bs) := .after (State.evalWaits_sameHeld _ g) (.of_eq rfl rfl rfl rfl)

theorem State.sysAct_sameHeld (x : Nat) (r : List Seg × SysOut) (bs : List Byte) : s.SameHeld (s.sysAct x r bs) := by
  unfold State.sysAct
  split
  next => exact .after (State.touch_sameHeld _ _ _) (s.perform_sameHeld _ _)
  next => exact s.stale_sameHeld x 1
  next => exact .refl s

theorem State.writeN_sameHeld (pa n v : Nat) : s.SameHeld (s.writeN pa n v) := .of_eq rfl rfl rfl rfl

theorem State.putBar_sameHeld (b : Nat) (r : Bar) : s.SameHeld (s.putBar b r) :=
  .after (State.writeN_sameHeld ..) <| .after (State.writeN_sameHeld ..) <| .after (State.writeN_sameHeld ..) <|
    .after (State.writeN_sameHeld ..) <| .after (State.writeN_sameHeld ..) <| .after (State.writeN_sameHeld ..) (s.writeN_sameHeld ..)

theorem State.barWaits_sameHeld (b : Nat) : s.SameHeld (s.barWaits b) := s.evalWaits_sameHeld _

theorem State.setBar_sameHeld (b : Nat) (r : Bar) : s.SameHeld (s.setBar b r) := .after (State.barWaits_sameHeld _ b) (s.putBar_sameHeld b r)

theorem State.endBarWaits_sameHeld (b : Nat) : s.SameHeld (s.endBarWaits b) where
  parts := rfl
  ctx _ := rfl
  cur := rfl
  core k := by
    rw [State.coreOf, State.endBarWaits, find?_mapVals]
    cases h : find? s.cores k with
    | none => rw [State.coreOf, h]; rfl
    | some c => rw [State.coreOf, h]; rfl

theorem State.breakBar_sameHeld (b : Nat) : s.SameHeld (s.breakBar b) := by
  unfold State.breakBar
  extract_lets r u
  have hu : s.SameHeld u := s.setBar_sameHeld b _
  clear_value u
  exact .ite (.after (State.endBarWaits_sameHeld _ b) (hu.update rfl rfl rfl rfl)) (.refl s)

theorem State.breakFor_sameHeld (x : Nat) : s.SameHeld (s.breakFor x) := State.forEach_sameHeld fun b u => u.breakBar_sameHeld b

theorem State.endGroupWaits_sameHeld (i : Nat) (t : Task) : s.SameHeld (s.endGroupWaits i t) := by
  unfold State.endGroupWaits
  split
  next => exact .refl s
  next => exact State.forEach_sameHeld fun _ _ => State.setCoreOf_sameHeld rfl

theorem State.breakTask_sameHeld (i : Nat) (st : Option GroupState) : s.SameHeld (s.breakTask i st) := by
  unfold State.breakTask
  split
  next => exact .refl s
  next =>
    split
    next => exact .refl s
    next => exact .after (State.endGroupWaits_sameHeld _ i _) (.of_eq rfl rfl rfl rfl)

theorem State.breakGroups_sameHeld (x : Nat) : s.SameHeld (s.breakGroups x) := State.forEach_sameHeld fun i u => u.breakTask_sameHeld i none

theorem State.setAside_sameHeld (core : Nat) : s.SameHeld (s.setAside core) := by
  unfold State.setAside
  dsimp only
  split
  next => exact State.setCoreOf_sameHeld rfl
  next => exact .refl s

theorem State.dropSend_sameHeld (core : Nat) : s.SameHeld (s.dropSend core) := .of_eq rfl rfl rfl rfl

theorem State.setDieOf_sameHeld (d : Nat) (x : Die) : s.SameHeld (s.setDieOf d x) := .of_eq rfl rfl rfl rfl

theorem State.dropWaits_sameHeld (core : Nat) : s.SameHeld (s.dropWaits core) := by
  unfold State.dropWaits
  extract_lets c w u v y
  have hu : s.SameHeld u := State.setCoreOf_sameHeld rfl
  have hv : u.SameHeld v := u.setAside_sameHeld core
  have hy : v.SameHeld y := .after (State.dropSend_sameHeld _ core) (State.forN_sameHeld fun d w => w.setDieOf_sameHeld d _)
  exact (hy.after (hv.after hu)).update rfl rfl rfl rfl

theorem State.sendFirst_sameHeld (c : Ctx) (x code : Nat) : s.SameHeld (s.sendFirst c x code) := .ite (s.send_sameHeld _) (.refl s)

end

/-! ### What changes cores and saved state, and moves no context -/

section
variable (s : State)

theorem State.setCoreOf_sameStanding (k : Nat) (c : CoreSt) : s.SameStanding (s.setCoreOf k c) := .of_eq rfl rfl

theorem State.tick_sameStanding (x : Nat) : s.SameStanding (s.tick x) := State.setCtxOf_sameStanding rfl

theorem State.onSaved_sameStanding (x l : Nat) (f : CoreSt → CoreSt) : s.SameStanding (s.onSaved x l f) := by
  unfold State.onSaved
  dsimp only
  split
  next => split <;> exact .of_eq rfl rfl
  next => exact .ite (.of_eq rfl rfl) (.refl s)
  next => exact .ite (.of_eq rfl rfl) (.refl s)
  next => exact .of_eq rfl rfl

theorem State.inform_sameStanding (x core code : Nat) : s.SameStanding (s.inform x core code) :=
  .after (State.send_sameHeld _ _).toSameStanding (.after (State.setCtxOf_sameStanding rfl) (s.onSaved_sameStanding x _ _))

theorem State.flagUpdate_sameStanding (x core p : Nat) (tag : Option VerTag) (f : Nat → Nat) : s.SameStanding (s.flagUpdate x core p tag f) := by
  unfold State.flagUpdate
  refine .ite (.refl s) ?_
  split
  next => exact s.inform_sameStanding x core 6
  next g _ =>
    dsimp only
    split
    next => exact .ite (.after (State.touch_sameHeld _ _ _).toSameStanding (s.perform_sameHeld g _).toSameStanding) (s.stale_sameHeld x 1).toSameStanding
    next =>
      split
      next => exact s.inform_sameStanding x core 6
      next => exact (s.sysAct_sameHeld x _ _).toSameStanding

/-! ### Barriers, transfers and versions -/

theorem State.setVer_sameStanding (x p n v : Nat) (e : Ver) : s.SameStanding (s.setVer x p n v e) := by
  unfold State.setVer
  split
  · exact State.setCtxOf_sameStanding rfl
  · exact .refl s

theorem State.loseVer_sameStanding (x p n v : Nat) : s.SameStanding (s.loseVer x p n v) := by
  unfold State.loseVer
  split
  next => exact .refl s
  next =>
    split
    next => exact .refl s
    next =>
      split
      next => exact s.setVer_sameStanding ..
      next => exact s.setVer_sameStanding ..
      next => exact s.setVer_sameStanding ..
      next => exact s.setVer_sameStanding ..
      next => exact .refl s

theorem State.dropPrivs_sameStanding (x lid : Nat) : s.SameStanding (s.dropPrivs x lid) := State.setCtxOf_sameStanding rfl

theorem State.letGo_sameStanding (x : Nat) (t : Xfer) : s.SameStanding (s.letGo x t) := by
  unfold State.letGo
  split
  next =>
    refine State.forEach_sameStanding fun e u => ?_
    split
    next =>
      split
      next => exact u.setVer_sameStanding ..
      next => exact .refl u
    next => exact .refl u
  next => exact .refl s

theorem State.faultXfer_sameStanding (x q : Nat) (quiet : Bool) (t : Xfer) : s.SameStanding (s.faultXfer x q quiet t) := by
  refine .after (State.send_sameHeld _ _).toSameStanding (.after (State.inform_sameStanding _ x t.core 4) (.after (State.setCtxOf_sameStanding rfl) ?_))
  refine .after (State.letGo_sameStanding _ x t) (.after (.ite (.refl _) (State.flagUpdate_sameStanding _ x t.core t.flag t.ftag _)) ?_)
  cases t.bar with
  | none => exact .refl s
  | some b => exact .after (State.breakBar_sameHeld _ b).toSameStanding (s.setBar_sameHeld b _).toSameStanding

theorem State.withdraw_sameStanding (l : Nat) : s.SameStanding (s.withdraw l) := by
  unfold State.withdraw
  split
  next => exact .refl s
  next => exact .after (State.send_sameHeld _ _).toSameStanding (.of_eq rfl rfl)

/-! ### Queues -/

theorem State.closeQueue_sameStanding (q : Nat) (st : RingState) : s.SameStanding (s.closeQueue q st) := by
  have hend (u : State) (c : Bool) (ks : List Nat) : u.SameStanding (u.endQueueWaits q c ks) :=
    State.forEach_sameStanding fun k v => v.setCoreOf_sameStanding k _
  exact .after (hend ..) (.after (hend ..) (.of_eq rfl rfl))

theorem State.faultQueue_sameStanding (q : Nat) : s.SameStanding (s.faultQueue q) := .ite (s.closeQueue_sameStanding q _) (.refl s)

theorem State.setQTag_sameStanding (k : Queue) (slot v : Nat) : s.SameStanding (s.setQTag k slot v) := (s.sysAct_sameHeld ..).toSameStanding

theorem State.qPublish_sameStanding (q j : Nat) (void : Bool) : s.SameStanding (s.qPublish q j void) :=
  (s.setQTag_sameStanding _ _ _).update rfl rfl

theorem State.settleQueue_sameStanding (q : Nat) : s.SameStanding (s.settleQueue q) :=
  .ite (.after (State.closeQueue_sameStanding _ q _) (.of_eq rfl rfl)) (.refl s)

theorem State.qRelease_sameStanding (q j : Nat) : s.SameStanding (s.qRelease q j) :=
  .after (State.settleQueue_sameStanding _ q) ((s.setQTag_sameStanding _ _ _).update rfl rfl)

theorem State.voidTickets_sameStanding (x i : Nat) : s.SameStanding (s.voidTickets x i) :=
  State.forEach_sameStanding fun q _ => .after (State.forEach_sameStanding fun j v => v.qRelease_sameStanding q j)
    (State.forEach_sameStanding fun j v => v.qPublish_sameStanding q j true)

/-! ### Cores and tasks -/

theorem State.haltCore_sameStanding (core : Nat) : s.SameStanding (s.haltCore core) :=
  .after (State.setCoreOf_sameStanding _ core _) (s.dropWaits_sameHeld core).toSameStanding

theorem State.haltMember_sameStanding (x : Nat) (c : Nat × Nat) : s.SameStanding (s.haltMember x c) :=
  .ite (.ite (s.haltCore_sameStanding _) (.refl s)) (s.onSaved_sameStanding ..)

theorem State.retireKernel_sameStanding (n : Nat) : s.SameStanding (s.retireKernel n) := .ite (.of_eq rfl rfl) (.refl s)

theorem State.setRpool_sameStanding (part die : Nat) (p : RPool) : s.SameStanding (s.setRpool part die p) := .of_eq rfl rfl

theorem State.setTask_sameStanding (i : Nat) (t : Task) : s.SameStanding (s.setTask i t) := .of_eq rfl rfl

theorem State.onPool_sameStanding (x die : Nat) (f : RPool → RPool) : s.SameStanding (s.onPool x die f) := .of_eq rfl rfl

theorem State.raiseRebuilds_sameStanding (x : Nat) : s.SameStanding (s.raiseRebuilds x) := by
  refine State.forEach_sameStanding fun e u => ?_
  dsimp only
  exact .ite (.ite (.of_eq rfl rfl) (.of_eq rfl rfl)) (.refl u)

theorem State.returnTask_sameStanding (i : Nat) : s.SameStanding (s.returnTask i) := by
  unfold State.returnTask
  split
  next => exact .refl s
  next t _ =>
    refine .after (State.raiseRebuilds_sameStanding _ t.ctx) (.after (State.retireKernel_sameStanding _ t.kslot)
      (.after (State.setTask_sameStanding _ i _) (.after (State.setRpool_sameStanding ..) ?_)))
    refine .after (.ite (State.dropPrivs_sameStanding _ _ _) (.refl _)) (.after (State.forEach_sameStanding fun v u => u.loseVer_sameStanding ..) ?_)
    exact .after (State.voidTickets_sameStanding _ _ i) (State.forEach_sameStanding fun c u => u.haltMember_sameStanding t.ctx c)

theorem State.backToPool_sameStanding (i : Nat) : s.SameStanding (s.backToPool i) := by
  unfold State.backToPool
  split
  next => exact .refl s
  next => exact .after (State.raiseRebuilds_sameStanding _ _) (.after (State.onPool_sameStanding ..) (.after (State.setTask_sameStanding _ i _)
      (s.onPool_sameStanding ..)))

theorem State.returnLost_sameStanding (x : Nat) (stands : Nat × Nat → Bool) : s.SameStanding (s.returnLost x stands) := by
  refine State.forEach_sameStanding fun t u => ?_
  split
  next => exact u.returnTask_sameStanding t.1
  next => exact u.backToPool_sameStanding t.1
  next => exact .refl u

end
end Sys2Proof.Machine

/-! ## Causes inside a handler (O59) -/

namespace Sys2Proof.Machine

open Claims

theorem State.reap_sameStanding (s : State) : s.SameStanding s.reap := .of_eq rfl rfl

/-- A context that is killed is DEAD, with the cause that stopped it first, and its state is nowhere. -/
theorem State.killCtx_dead (s : State) (x code : Nat) :
    ((s.killCtx x code).ctxOf x).st = .dead ∧ ((s.killCtx x code).ctxOf x).stop = some ((s.ctxOf x).stop.getD code) ∧
      ((s.killCtx x code).ctxOf x).loc = .zero := by
  unfold State.killCtx
  extract_lets s1 cs recs onCores s2 ts s3 s4 s5 s6 live s7 s8 s9 s10 s11 p pl s12 s13 c
  have h2 : s.SameStanding s2 :=
    .after (.ite (State.forEach_sameStanding fun c u => u.haltCore_sameStanding c.2) (.refl _)) (s.breakFor_sameHeld x).toSameStanding
  have h3 : s2.SameStanding s3 := State.forEach_sameStanding fun t u => u.faultXfer_sameStanding x t.1 true t.2
  have h4 : s3.SameStanding s4 := State.forEach_sameStanding fun l u => u.withdraw_sameStanding l
  have h5 : s4.SameStanding s5 := State.forEach_sameStanding fun q u => u.faultQueue_sameStanding q
  have h6 : s5.SameStanding s6 := (s5.breakGroups_sameHeld x).toSameStanding
  clear_value s6
  have h7 : s6.SameStanding s7 := .of_eq rfl rfl
  have h8 : s7.SameStanding s8 := State.forEach_sameStanding fun _ u => u.tick_sameStanding x
  have h9 : s8.SameStanding s9 := s8.reap_sameStanding
  clear_value s9
  have h10 : s9.SameStanding s10 := .of_eq rfl rfl
  have h11 : s10.SameStanding s11 := State.forEach_sameStanding fun n u => u.retireKernel_sameStanding n
  have hbefore : s.SameStanding s6 := h6.after (h5.after (h4.after (h3.after h2)))
  have hafter : s6.SameStanding s11 := h11.after (h10.after (h9.after (h8.after h7)))
  have hc : c = s11.ctxOf x := rfl
  have hstop : c.stop = (s.ctxOf x).stop := by rw [hc, hafter.stop, hbefore.stop]
  have hsend := State.sendFirst_sameHeld (s13.setCtxOf x { c with st := .dead, loc := .zero, moving := none, stop := some (c.stop.getD code) }) c x code
  rw [hsend.st, hsend.stop, hsend.loc, State.ctxOf_setCtxOf, if_pos rfl]
  exact ⟨rfl, congrArg (fun o => some (o.getD code)) hstop, rfl⟩

section
variable {s : State} {x c a d : Nat} {w : Site}

/-- A RUNNING context's cause of a C word in a handler is taken at once. -/
theorem State.raisable_inHandler (hst : (s.ctxOf s.ctxNo).st = .running) (hh : s.core.hand.isSome = true) : s.raisable .C c = true := by
  have hnone : s.core.hand.isNone = false := by rw [← Option.not_isSome, hh]; rfl
  simp [State.raisable, State.owedFirst, hst, hnone]

theorem State.raise_inHandler (hst : (s.ctxOf s.ctxNo).st = .running) (hh : s.core.hand.isSome = true) (h13 : c / 32 ≠ 13) (h14 : c / 32 ≠ 14) :
    s.raise .C w c a d = (s.record s.cur w 0x1A3 a d false).killCtx s.ctxNo 0x1A3 := by
  unfold State.raise State.raiseAt
  dsimp only
  rw [if_neg (by simp [State.raisable_inHandler hst hh]), if_pos ⟨hh, h13, h14⟩]

end

/-- A trap is a cause of its word, of class 15. -/
theorem execTrap_caused (d : BitVec 5) (s : State) : exec (.trap d) s = caused s false (0x1E0 + d.toNat) 0 := rfl

/-- Settles O59: the cause is taken, and takes the context with it. -/
theorem causeInHandlerKills : Obligations.CauseInHandlerKills := by
  rintro s x o rfl hst hh ho
  obtain ⟨num, c, p, h13, h14, rfl⟩ : ∃ num c p, c / 32 ≠ 13 ∧ c / 32 ≠ 14 ∧ o = caused s num c p := by
    rcases ho with ⟨num, c, p, -, h13, h14, rfl⟩ | ⟨d, rfl⟩
    · exact ⟨num, c, p, h13, h14, rfl⟩
    · exact ⟨false, _, 0, by omega, by omega, execTrap_caused d s⟩
  have hkill := State.killCtx_dead (s.record s.cur (s.siteC num) 0x1A3 p 0 false) s.ctxNo 0x1A3
  rw [← State.raise_inHandler hst hh h13 h14] at hkill
  exact ⟨_, rfl, hkill⟩

end Sys2Proof.Machine

/-! ## Contexts leaving and taking their cores (O46) -/

namespace Sys2Proof.Machine

open Claims

theorem State.unitWrite_sameStanding (s : State) (x p : Nat) (bs : List Byte) : s.SameStanding (s.unitWrite x p bs) :=
  State.forEach_sameStanding fun _ u => (u.sysAct_sameHeld ..).toSameStanding

theorem State.freeBytes_sameStanding (s : State) (n : Nat) : s.SameStanding (s.freeBytes n).2 := .of_eq rfl rfl

theorem State.writeSpill_sameStanding (s : State) (x : Nat) : s.SameStanding (s.writeSpill x) :=
  .after (State.unitWrite_sameStanding ..) (s.freeBytes_sameStanding _)

theorem savedOf_withoutSaved (x : Nat) (m : List (Nat × CoreSt)) : savedOf x (withoutSaved x m) = [] := by
  simp [savedOf, withoutSaved, List.filter_filter]

theorem State.send_shelf (s : State) (o : Out) : (s.send o).shelf = s.shelf := by
  unfold State.send
  split <;> rfl

theorem State.send_spill (s : State) (o : Out) : (s.send o).spill = s.spill := by
  unfold State.send
  split <;> rfl

theorem State.send_ctxOf (s : State) (o : Out) (x : Nat) : (s.send o).ctxOf x = s.ctxOf x := by
  unfold State.send
  split <;> rfl

@[simp] theorem State.withSaved_shelf (s : State) (shelf spill : List (Nat × CoreSt)) :
    ({ s with shelf := shelf, spill := spill } : State).shelf = shelf := rfl

@[simp] theorem State.withSaved_spill (s : State) (shelf spill : List (Nat × CoreSt)) :
    ({ s with shelf := shelf, spill := spill } : State).spill = spill := rfl

/-- The shelved state of a context in its spill area, whose bytes are written. -/
def State.spilled (s : State) (x : Nat) : State :=
  let c := s.ctxOf x
  let s := { s with spill := (savedOf x s.shelf).foldl (fun m (e : Nat × CoreSt) => setKey m e.1 e.2) (withoutSaved x s.spill), shelf := withoutSaved x s.shelf }
  let s := s.setPartOf c.part { s.partOf c.part with shelf := none }
  (s.setCtxOf x { c with st := if c.st = .shelved then CtxState.spilled else c.st, loc := .spill, moving := none }).send (.spilled x)

theorem State.spillNow_eq (s : State) (x : Nat) : s.spillNow x = (s.writeSpill x).spilled x := rfl

section
variable {s : State} {x y part : Nat}

/-- A shelved state that moves to its spill area leaves the shelf, and its context is where the area is. -/
theorem State.spilled_leaves (s : State) (x : Nat) : (s.spilled x).mem = s.mem ∧
    ((s.spilled x).ctxOf x).st = (if (s.ctxOf x).st = .shelved then .spilled else (s.ctxOf x).st) ∧ ((s.spilled x).ctxOf x).loc = .spill ∧
    ((s.spilled x).ctxOf x).moving = none ∧ savedOf x (s.spilled x).shelf = [] := by
  unfold State.spilled
  rw [State.send_mem, State.send_shelf, State.send_ctxOf, State.ctxOf_setCtxOf, if_pos rfl, State.setCtxOf_mem, State.setPartOf_mem,
    State.withSaved_mem, State.setCtxOf_shelf, State.setPartOf_shelf, State.withSaved_shelf]
  exact ⟨rfl, rfl, rfl, rfl, savedOf_withoutSaved x s.shelf⟩

theorem execSpillComplete_spilled (hm : (s.ctxOf x).moving = some true) (hl : (s.ctxOf x).loc = .shelf) :
    execSpillComplete x s = .next ((s.writeSpill x).spilled x) := by
  rw [execSpillComplete, if_pos hm, if_pos hl, State.spillNow_eq]

theorem execFillComplete_filled (hm : (s.ctxOf x).moving = some false) (hb : s.spillBad x = false) : ∃ t, execFillComplete x s = .next t ∧
    (t.ctxOf x).st = (if (s.ctxOf x).st = .spilled then .shelved else (s.ctxOf x).st) ∧ (t.ctxOf x).loc = .shelf ∧
    (t.ctxOf x).moving = none ∧ savedOf x t.spill = [] ∧ t.mem = s.mem := by
  unfold execFillComplete
  rw [if_pos hm, if_neg (by rw [hb]; exact Bool.false_ne_true)]
  refine ⟨_, rfl, ?_⟩
  rw [State.send_mem, State.send_spill, State.send_ctxOf, State.ctxOf_setCtxOf, if_pos rfl, State.setCtxOf_mem, State.setCtxOf_spill,
    State.withSaved_mem, State.withSaved_spill]
  exact ⟨rfl, rfl, rfl, savedOf_withoutSaved x s.spill, rfl⟩

/-- An exchange brings the next context onto the cores of a partition that v leaves free, unless it may not run. -/
theorem execSwapExchangeComplete_exchanged {u v : State} {nx sh : Option Nat} (hout : s.outgoing (s.partOf part) = true)
    (hnx : nx = (s.partOf part).next.filter (fun x => (s.ctxOf x).mayRun))
    (hu : u = match (s.partOf part).live with
      | some y => if (s.partOf part).shelf.isSome && (s.partOf part).shelf == nx then s.shelve y else (s.freeShelf part y).shelve y
      | none => s)
    (hsh : sh = if (s.partOf part).live.isSome then (s.partOf part).live
      else if (s.partOf part).shelf.isSome && (s.partOf part).shelf == nx then none else (s.partOf part).shelf)
    (hv : v = u.setPartOf part { u.partOf part with live := none, next := none, swap := false, shelf := sh }) :
    execSwapExchangeComplete part s = .next (((match nx with
      | some x => v.bringIn x
      | none => v).forEach (s.partOf part).dies (fun d s => s.count 8 d 1)).serveAfter part) := by
  subst hnx hu hsh hv
  unfold execSwapExchangeComplete
  exact if_neg (by simp [hout])

end

/-- Settles O46: each claim is one case of what the event does. -/
theorem contextSwitches : Obligations.ContextSwitches := by
  intro s x k part
  refine ⟨fun hst hstop hd => if_pos ⟨hst, hstop, hd⟩, fun u hl hn hs hu => ?idle, fun y u v nx hl hw hy hnx hu hv => ?exchange,
    fun hm hl => ?spilled, fun hm => ⟨fun hb => ?bad, fun hb => execFillComplete_filled hm hb⟩,
    fun hst hk hcsr htask hend => ?watchdog⟩
  case idle =>
    have hout : s.outgoing (s.partOf part) = true := by simp [State.outgoing, hl, hn]
    have hwas : ((s.partOf part).shelf.isSome && (s.partOf part).shelf == (some x).filter (fun x => (s.ctxOf x).mayRun)) = false := by
      by_cases hrun : (s.ctxOf x).mayRun = true
      · simp [Option.filter_some, hrun, hs]
      · cases hsh : (s.partOf part).shelf <;> simp [Option.filter_some, hrun]
    refine (execSwapExchangeComplete_exchanged (u := s) (v := u) (sh := (s.partOf part).shelf) hout rfl ?_ ?_ hu).trans ?_
    · rw [hl]
    · rw [hl, hn, hwas]
      rfl
    · rw [hn, Option.filter_some]
      by_cases hrun : (s.ctxOf x).mayRun = true <;> simp [hrun]
  case exchange =>
    have hout : s.outgoing (s.partOf part) = true := by
      simp only [State.outgoing, hl, hw, Bool.true_and, Bool.or_eq_true, Bool.and_eq_true, beq_iff_eq, Option.isNone_iff_eq_none]
      exact hy.imp (fun h => ⟨⟨h.1, h.2.1⟩, h.2.2⟩) fun h => h
    refine execSwapExchangeComplete_exchanged hout hnx ?_ (by rw [hl]; rfl) hv
    rw [hu, hl]
    have hiff : ((s.partOf part).shelf.isSome && (s.partOf part).shelf == nx) = true ↔ nx.isSome = true ∧ (s.partOf part).shelf = nx := by
      rw [Bool.and_eq_true, beq_iff_eq]
      exact and_congr_left fun h => by rw [h]
    by_cases hwas : nx.isSome = true ∧ (s.partOf part).shelf = nx
    · simp only [hiff.2 hwas, if_true, if_pos hwas]
    · simp only [mt hiff.1 hwas, if_neg hwas]
      rfl
  case spilled =>
    obtain ⟨hmem, hst, hloc, hmov, hshelf⟩ := (s.writeSpill x).spilled_leaves x
    refine ⟨_, execSpillComplete_spilled hm hl, hmem, ?_, hloc, hmov, hshelf⟩
    rw [hst, (s.writeSpill_sameStanding x).st]
  case bad =>
    rw [exec_fillComplete, execFillComplete, if_pos hm, if_pos hb]
  case watchdog => exact if_pos ⟨hst, hk, hcsr, htask, by simp [hend]⟩

end Sys2Proof.Machine

/-! ## Software traps (O54) -/

namespace Sys2Proof.Machine

open Claims

section
variable (s : State)

/-! ### A context that stops (R414, R415) -/

/-- A context that stops drains with the cause that stopped it first, and its cores keep their trap records. -/
theorem State.stopCtx_drains (x code : Nat) : ((s.stopCtx x code).ctxOf x).st = .draining ∧
    ((s.stopCtx x code).ctxOf x).stop = some ((s.ctxOf x).stop.getD code) ∧ (s.stopCtx x code).core.held = s.core.held := by
  unfold State.stopCtx
  extract_lets t u v c
  have ht : s.SameHeld t := .ite (s.breakFor_sameHeld x) (.refl s)
  have hu : t.SameHeld u := t.breakGroups_sameHeld x
  have hv : u.SameHeld v := State.forEach_sameHeld fun c w => w.dropWaits_sameHeld c.2
  have hsv : s.SameHeld v := hv.after (hu.after ht)
  have hsend := State.sendFirst_sameHeld (v.setCtxOf x { c with st := .draining, stop := some (c.stop.getD code) }) c x code
  refine ⟨?_, ?_, hsend.here.trans hsv.here⟩
  · rw [hsend.st, State.ctxOf_setCtxOf, if_pos rfl]
  · rw [hsend.stop, State.ctxOf_setCtxOf, if_pos rfl, show c.stop = (s.ctxOf x).stop from hsv.stop x]

end

/-! ### The trap record (Table 18-4a) -/

section
variable {s : State} {k code addr detail : Nat} {w : Site} {hnd : Bool}

theorem State.core_record : (s.record s.cur w code addr detail hnd).core = s.core.record (s.lcoreOf s.cur) w code addr detail hnd :=
  (State.coreOf_setCoreOf ..).trans (if_pos rfl)

theorem CoreSt.record_code (c : CoreSt) (lc : Nat) (w : Site) (code addr detail : Nat) (hnd : Bool) :
    (c.record lc w code addr detail hnd).csr 0x308 = BitVec.ofNat 64 (code + hnd.toNat * 512) := by
  simp [CoreSt.record, CoreSt.csr, CoreSt.setCsr, find?_setKey]

theorem CoreSt.record_mpc (c : CoreSt) (lc : Nat) (w : Site) (code addr detail : Nat) (hnd : Bool) :
    (c.record lc w code addr detail hnd).csr 0x30C = BitVec.ofNat 64 w.mpc := by
  simp [CoreSt.record, CoreSt.csr, CoreSt.setCsr, find?_setKey]

theorem CoreSt.record_hand (c : CoreSt) (lc : Nat) (w : Site) (code addr detail : Nat) (hnd : Bool) :
    (c.record lc w code addr detail hnd).hand = c.hand := by simp only [CoreSt.record, CoreSt.setCsr]

/-- A context stopped after a core's trap record is written drains, and the record stays. -/
theorem State.record_stopCtx_drains (x c : Nat) : (((s.record s.cur w code addr detail hnd).stopCtx x c).ctxOf x).st = .draining ∧
    (((s.record s.cur w code addr detail hnd).stopCtx x c).ctxOf x).stop = some ((s.ctxOf x).stop.getD c) ∧
    ((s.record s.cur w code addr detail hnd).stopCtx x c).core.hand = s.core.hand ∧
    ((s.record s.cur w code addr detail hnd).stopCtx x c).core.csr 0x308 = BitVec.ofNat 64 (code + hnd.toNat * 512) ∧
    ((s.record s.cur w code addr detail hnd).stopCtx x c).core.csr 0x30C = BitVec.ofNat 64 w.mpc := by
  obtain ⟨hst, hstop, hheld⟩ := (s.record s.cur w code addr detail hnd).stopCtx_drains x c
  refine ⟨hst, hstop, ?_, ?_, ?_⟩
  · rw [CoreSt.hand_of_held hheld, State.core_record, CoreSt.record_hand]
  · rw [CoreSt.csr_of_held hheld, State.core_record, CoreSt.record_code]
  · rw [CoreSt.csr_of_held hheld, State.core_record, CoreSt.record_mpc]

end

/-! ### A trap that is taken -/

section
variable {s : State} {d : BitVec 5}

theorem trap_class (d : BitVec 5) : (0x1E0 + d.toNat) / 32 = 15 := by omega

theorem State.handlerOf_trap : s.handlerOf (0x1E0 + d.toNat) = s.handlerEntry s.ctxNo 15 := by
  rw [State.handlerOf, trap_class]
  exact if_neg (by decide)

/-- A trap of a RUNNING context outside a handler is taken, once its handler would find nothing owed. -/
theorem State.raisable_trap (hst : (s.ctxOf s.ctxNo).st = .running) (hh : s.core.hand = none)
    (howes : s.core.owes = false ∨ s.handlerEntry s.ctxNo 15 = none) : s.raisable .C (0x1E0 + d.toNat) = true := by
  have howed : s.owedFirst (0x1E0 + d.toNat) = false := by
    rw [State.owedFirst, State.handlerOf_trap]
    rcases howes with h | h <;> simp [h]
  simp [State.raisable, hst, hh, howed]

theorem exec_trap_taken (hst : (s.ctxOf s.ctxNo).st = .running) (hh : s.core.hand = none)
    (howes : s.core.owes = false ∨ s.handlerEntry s.ctxNo 15 = none) :
    exec (.trap d) s = .next (match s.entryBad s.ctxNo 15 with
      | some (c, a, e) => (s.record s.cur (s.siteC false) c a e false).stopCtx s.ctxNo c
      | none => match s.handlerEntry s.ctxNo 15 with
        | some he => (s.record s.cur (s.siteC false) (0x1E0 + d.toNat) 0 0 true).enterHandler .C s.c.pc none (0x1E0 + d.toNat) he
        | none => (s.record s.cur (s.siteC false) (0x1E0 + d.toNat) 0 0 false).stopCtx s.ctxNo (0x1E0 + d.toNat)) := by
  rw [execTrap_caused, caused, State.raise, State.raiseAt]
  dsimp only
  rw [if_neg (by simp [State.raisable_trap hst hh howes]), if_neg (by simp [hh]), if_neg (by omega), trap_class,
    if_neg (show ¬(15 = 13 ∨ 15 = 14) by decide), State.handlerOf_trap, if_neg (show ¬0x1E0 + d.toNat = 0x162 by omega)]
  rfl

end
end Sys2Proof.Machine

namespace Sys2Proof.Machine

open Claims

/-! ### The save area of a handler (R417) -/

/-- What is saved where a handler is entered: the macro-PC, then s1 to s31. -/
def CoreSt.saveImage (c : CoreSt) (pc : Nat) : List Byte :=
  toLE 8 pc ++ (List.range' 1 31).flatMap (fun n => toLE 8 (c.sreg (BitVec.ofNat 5 n)).toNat)

theorem CoreSt.saveImage_eq (c : CoreSt) (pc : Nat) :
    c.saveImage pc = (List.range 32).flatMap (fun n => toLE 8 (if n = 0 then pc else (c.sreg (BitVec.ofNat 5 n)).toNat)) := by
  rw [show List.range 32 = 0 :: List.range' 1 31 from rfl, List.flatMap_cons, CoreSt.saveImage, if_pos rfl]
  refine congrArg _ (List.flatMap_congr fun n hn => ?_)
  rw [if_neg (by have := List.left_le_of_mem_range' hn; omega)]

theorem CoreSt.saveImage_getD (c : CoreSt) (pc : Nat) {n j : Nat} (hn : n < 32) (hj : j < 8) :
    (c.saveImage pc).getD (8 * n + j) 0 = (toLE 8 (if n = 0 then pc else (c.sreg (BitVec.ofNat 5 n)).toNat)).getD j 0 := by
  rw [List.getD_eq_getElem?_getD, CoreSt.saveImage_eq, getElem?_flatMap_of_length (fun _ => toLE_length ..) hj, List.getElem?_range hn]
  exact (List.getD_eq_getElem?_getD ..).symm

theorem CoreSt.saveImage_length (c : CoreSt) (pc : Nat) : (c.saveImage pc).length = 256 := by
  simp [CoreSt.saveImage_eq, List.length_flatMap]

section
variable {s : State} {x p a n : Nat} {bs : List Byte} {r : List Seg × SysOut}

/-- Bytes outside a write that is carried out read as before. -/
theorem State.sysAct_look (h : r.2 = .done → outside r.1 a) : look 0 (s.sysAct x r bs).mem a = look 0 s.mem a := by
  unfold State.sysAct
  split
  next hr =>
    rw [State.touch_mem]
    exact State.perform_look _ _ _ _ (h hr)
  next => rfl
  next => rfl

theorem State.sysAct_imageSegs (s : State) (x : Nat) (r : List Seg × SysOut) (bs : List Byte) : (s.sysAct x r bs).imageSegs = s.imageSegs := by
  have hkernels : (s.sysAct x r bs).kernels = s.kernels := by
    unfold State.sysAct
    split
    next => exact (State.touch_kernels ..).trans (s.perform_sameHomes r.1 bs).kernels
    next => rfl
    next => rfl
  rw [State.imageSegs, hkernels]
  rfl

/-- A part of a stretch that meets no kernel image meets none. -/
theorem overlap_part {g : List Seg} {q m : Nat} (h : overlap [⟨p, n⟩] g = false) (hp : p ≤ q) (hq : q + m ≤ p + n) : overlap [⟨q, m⟩] g = false := by
  simp only [overlap, List.any_cons, List.any_nil, Bool.or_false, List.any_eq_false, Bool.and_eq_true, decide_eq_true_eq] at h ⊢
  exact fun y hy hc => h y hy ⟨by omega, by omega⟩

/-- A stretch of bytes that is written and meets no kernel image reads back. -/
theorem State.perform_written (himg : overlap [⟨p, n⟩] s.imageSegs = false) (hb : bs.length = n) :
    look 0 (s.perform [⟨p, n⟩] bs).mem a = if p ≤ a ∧ a < p + n then bs.getD (a - p) 0 else look 0 s.mem a := by
  split
  next h =>
    rw [State.perform_mem]
    simp only [storeAround, himg, Bool.false_eq_true, if_false, storeSegs, List.take_of_length_le hb.le]
    obtain ⟨i, rfl⟩ := Nat.exists_eq_add_of_le h.1
    rw [Nat.add_sub_cancel_left]
    exact look_setBytes _ _ _ _ (by omega)
  next h =>
    refine State.perform_look _ _ _ _ fun c hc => ?_
    rw [List.mem_singleton.1 hc]
    dsimp only
    omega

theorem State.sysAct_written (himg : overlap [⟨p, n⟩] s.imageSegs = false) (hb : bs.length = n) :
    look 0 (s.sysAct x ([⟨p, n⟩], .done) bs).mem a = if p ≤ a ∧ a < p + n then bs.getD (a - p) 0 else look 0 s.mem a := by
  unfold State.sysAct
  rw [State.touch_mem]
  exact State.perform_written himg hb

/-- Lines of 64 bytes written one after another read back as the stretch they make up. -/
theorem State.forN_lines_written (himg : overlap [⟨p, 64 * n⟩] s.imageSegs = false) (hb : 64 * n ≤ bs.length) :
    let t := s.forN n (fun i u => u.sysAct x ([⟨p + 64 * i, 64⟩], .done) ((bs.drop (64 * i)).take 64))
    t.imageSegs = s.imageSegs ∧ look 0 t.mem a = if p ≤ a ∧ a < p + 64 * n then bs.getD (a - p) 0 else look 0 s.mem a := by
  induction n with
  | zero => exact ⟨rfl, (if_neg (by omega)).symm⟩
  | succ n ih =>
    obtain ⟨hsame, hlook⟩ := ih (overlap_part himg (Nat.le_refl p) (by omega)) (by omega)
    dsimp only at hsame hlook ⊢
    rw [State.forN, List.range_succ, List.foldl_append, List.foldl_cons, List.foldl_nil, ← State.forN]
    refine ⟨(State.sysAct_imageSegs ..).trans hsame, ?_⟩
    rw [State.sysAct_written (by rw [hsame]; exact overlap_part himg (by omega) (by omega)) (by simp; omega), hlook]
    by_cases h1 : p + 64 * n ≤ a ∧ a < p + 64 * n + 64
    · rw [if_pos h1, if_pos (by omega), List.getD_eq_getElem?_getD, List.getD_eq_getElem?_getD, List.getElem?_take, if_pos (by omega),
        List.getElem?_drop]
      congr 2
      omega
    · rw [if_neg h1]
      by_cases h2 : p ≤ a ∧ a < p + 64 * n
      · rw [if_pos h2, if_pos (by omega)]
      · rw [if_neg h2, if_neg (by omega)]

end

/-! ### A handler that is entered -/

/-- The state in which the registers of the core are saved and its waits have ended, before the handler of code starts. -/
def State.savedFor (s : State) (code : Nat) (he : Nat × Nat × Nat) (pc : Nat) : State :=
  ((s.dropWaits s.cur).touch s.ctxNo ((s.segsAt s.ctxNo (bits (((s.ctxOf s.ctxNo).csr 0x301).toNat + code / 32 * 32) 55 0) 32).filterMap
    (fun c => homeDie c.pa))).forEach ((s.saveLines s.ctxNo (s.saveArea he)).zip
      ((List.range 4).map (fun i => ((s.core.saveImage pc).drop (64 * i)).take 64))) (fun e u => u.sysAct s.ctxNo e.1 e.2)

/-- A core that starts in a handler, from the C stream's macro-PC. -/
def CoreSt.handling (c : CoreSt) (he : Nat × Nat × Nat) (sv mpc pc : Nat) : CoreSt :=
  { c.leaveRing .C with
    sregs := [], hand := some ⟨he.1, sv, .C, mpc, none, pc, c.cS.seq, c.sleep, c.bwait, c.wait, c.ringOver .C⟩,
    sleep := none, bwait := .none, wait := .none }

theorem State.enterHandler_eq (s : State) (mpc code : Nat) (he : Nat × Nat × Nat) : s.enterHandler .C mpc none code he =
    (let u := s.savedFor code he s.core.cS.pc
     let c := (((u.core.handling he (s.saveArea he) mpc s.core.cS.pc).setSreg 1 (BitVec.ofNat 64 he.2.2)).setSreg 2
      (BitVec.ofNat 64 code)).setSreg 3 (BitVec.ofNat 64 (s.saveArea he))
     u.setCore { c with cS := { c.cS with pc := 0, waiting := false } }) := rfl

section
variable {s : State} {mpc code pc : Nat} {he : Nat × Nat × Nat}

theorem State.savedFor_sameHeld : s.SameHeld (s.savedFor code he pc) :=
  .after (State.forEach_sameHeld fun _ u => u.sysAct_sameHeld ..) (.after (State.touch_sameHeld ..) (s.dropWaits_sameHeld s.cur))

/-- Entering a handler leaves every byte of memory outside the lines of its save area. -/
theorem State.savedFor_look {a : Nat} (ha : ∀ g ∈ s.saveLines s.ctxNo (s.saveArea he), g.2 = .done → outside g.1 a) :
    look 0 (s.savedFor code he pc).mem a = look 0 s.mem a := by
  refine State.forEach_inv (P := fun u => look 0 u.mem a = look 0 s.mem a) ?_ fun e hmem u hu => ?_
  · rw [State.touch_mem, State.dropWaits_mem]
  · exact (State.sysAct_look (ha e.1 (List.of_mem_zip hmem).1)).trans hu

theorem State.dropWaits_kernels (s : State) (core : Nat) : (s.dropWaits core).kernels = s.kernels := by
  unfold State.dropWaits
  extract_lets c w u v y
  have hv : v.kernels = u.kernels := by
    unfold v State.setAside
    dsimp only
    split <;> rfl
  have hy : y.kernels = v.kernels := State.forN_inv (P := fun t => t.kernels = v.kernels) rfl fun _ _ _ ht => ht
  exact hy.trans hv

/-- A save area that lies in one stretch, clear of kernel images, takes the macro-PC and s1 to s31. -/
theorem State.savedFor_written {p n j : Nat}
    (hlines : s.saveLines s.ctxNo (s.saveArea he) = (List.range 4).map (fun i => ([⟨p + 64 * i, 64⟩], .done)))
    (himg : overlap [⟨p, 256⟩] s.imageSegs = false) (hn : n < 32) (hj : j < 8) :
    look 0 (s.savedFor code he pc).mem (p + 8 * n + j) = (toLE 8 (if n = 0 then pc else (s.core.sreg (BitVec.ofNat 5 n)).toNat)).getD j 0 := by
  unfold State.savedFor
  rw [hlines, List.zip_map', State.forEach, List.foldl_map]
  refine (State.forN_lines_written (n := 4) (p := p) (bs := s.core.saveImage pc) ?_ (by rw [CoreSt.saveImage_length])).2.trans ?_
  · rwa [State.imageSegs, State.touch_kernels, State.dropWaits_kernels]
  · rw [if_pos (by omega), show p + 8 * n + j - p = 8 * n + j by omega, CoreSt.saveImage_getD _ _ hn hj]

/-- The core of an entered handler: it starts at its word 0 with its three arguments, and holds what ERET needs. -/
theorem State.enterHandler_core {t : State} (ht : t = s.enterHandler .C mpc none code he) :
    (∃ h, t.core.hand = some h ∧ h.code = he.1 ∧ h.save = s.saveArea he ∧ h.strm = .C ∧ h.mpc = mpc ∧ h.cpc = s.c.pc ∧ h.sleep = s.core.sleep) ∧
      t.core.sleep = none ∧ t.core.cS.pc = 0 ∧ t.core.sreg 1 = BitVec.ofNat 64 he.2.2 ∧ t.core.sreg 2 = BitVec.ofNat 64 code ∧
      t.core.sreg 3 = BitVec.ofNat 64 (s.saveArea he) ∧ (∀ r : Reg, 3 < r.toNat → t.core.sreg r = 0) ∧ (∀ n, t.core.csr n = s.core.csr n) ∧
      t.mem = (s.savedFor code he s.c.pc).mem := by
  have hheld : s.SameHeld (s.savedFor code he s.core.cS.pc) := State.savedFor_sameHeld
  rw [State.enterHandler_eq] at ht
  obtain ⟨u, hu⟩ : ∃ u, u = s.savedFor code he s.core.cS.pc := ⟨_, rfl⟩
  rw [← hu] at ht hheld
  obtain ⟨c, hc⟩ : ∃ c, c = u.core.handling he (s.saveArea he) mpc s.core.cS.pc := ⟨_, rfl⟩
  dsimp only at ht
  rw [← hc] at ht
  have hcore := congrArg State.core ht
  rw [State.core_setCore] at hcore
  have hsreg (r : Reg) : t.core.sreg r = (((c.setSreg 1 (BitVec.ofNat 64 he.2.2)).setSreg 2 (BitVec.ofNat 64 code)).setSreg 3
      (BitVec.ofNat 64 (s.saveArea he))).sreg r := by rw [hcore]; rfl
  have hargs {β : Type} (f : CoreSt → β) (hf : ∀ (e : CoreSt) (r : Reg) v, f (e.setSreg r v) = f e) :
      f (((c.setSreg 1 (BitVec.ofNat 64 he.2.2)).setSreg 2 (BitVec.ofNat 64 code)).setSreg 3 (BitVec.ofNat 64 (s.saveArea he))) = f c := by
    rw [hf, hf, hf]
  refine ⟨⟨⟨he.1, s.saveArea he, .C, mpc, none, s.core.cS.pc, u.core.cS.seq, u.core.sleep, u.core.bwait, u.core.wait, u.core.ringOver .C⟩,
    ?_, rfl, rfl, rfl, rfl, rfl, CoreSt.sleep_of_held hheld.here⟩, ?_, ?_, ?_, ?_, ?_, fun r hr => ?_, fun n => ?_, ?_⟩
  · rw [hcore]
    exact (hargs CoreSt.hand CoreSt.setSreg_hand).trans (by rw [hc]; rfl)
  · rw [hcore]
    exact (hargs CoreSt.sleep CoreSt.setSreg_sleep).trans (by rw [hc]; rfl)
  · rw [hcore]
  · simp [hsreg]
  · simp [hsreg]
  · simp [hsreg]
  · have h1 : r ≠ 1 := fun h => by subst h; exact absurd hr (by decide)
    have h2 : r ≠ 2 := fun h => by subst h; exact absurd hr (by decide)
    have h3 : r ≠ 3 := fun h => by subst h; exact absurd hr (by decide)
    rw [hsreg, CoreSt.sreg_setSreg, if_neg h3, CoreSt.sreg_setSreg, if_neg h2, CoreSt.sreg_setSreg, if_neg h1, hc]
    exact ite_self _
  · rw [← CoreSt.csr_of_held hheld.here, hcore]
    exact congrArg (fun l => (find? l n).getD (csrReset n)) ((hargs CoreSt.csrs CoreSt.setSreg_csrs).trans (by rw [hc]; rfl))
  · rw [ht, hu]
    rfl

theorem CoreSt.record_task (c : CoreSt) (lc : Nat) (w : Site) (code addr detail : Nat) (hnd : Bool) :
    (c.record lc w code addr detail hnd).task = c.task := by simp only [CoreSt.record, CoreSt.setCsr]

theorem CoreSt.record_sleep (c : CoreSt) (lc : Nat) (w : Site) (code addr detail : Nat) (hnd : Bool) :
    (c.record lc w code addr detail hnd).sleep = c.sleep := by simp only [CoreSt.record, CoreSt.setCsr]

theorem CoreSt.record_cS (c : CoreSt) (lc : Nat) (w : Site) (code addr detail : Nat) (hnd : Bool) :
    (c.record lc w code addr detail hnd).cS = c.cS := by simp only [CoreSt.record, CoreSt.setCsr]

theorem CoreSt.record_sreg (c : CoreSt) (lc : Nat) (w : Site) (code addr detail : Nat) (hnd : Bool) (r : Reg) :
    (c.record lc w code addr detail hnd).sreg r = c.sreg r := by simp only [CoreSt.record, CoreSt.setCsr, CoreSt.sreg]

/-- Where a core saves its registers is the same before its trap record is written as after it. -/
theorem State.record_saveLines {k addr detail : Nat} {w : Site} {hnd : Bool} (x sv : Nat) :
    (s.record k w code addr detail hnd).saveLines x sv = s.saveLines x sv := by
  have htables : s.SameTables (s.record k w code addr detail hnd) := ⟨rfl, rfl, rfl, rfl, fun _ => rfl, fun _ => rfl⟩
  have htask : ((s.record k w code addr detail hnd).coreOf s.cur).task = (s.coreOf s.cur).task := by
    rw [State.record, State.coreOf_setCoreOf]
    split
    next hk => rw [hk, CoreSt.record_task]
    next => rfl
  have hrun : (s.record k w code addr detail hnd).runLid = s.runLid := by
    unfold State.runLid State.runOf
    rw [show (s.record k w code addr detail hnd).cur = s.cur from rfl, htask]
    rfl
  unfold State.saveLines State.sysPlan State.sysPlanWith
  simp only [htables.xlate, hrun]
  rfl

end
/-- Settles O54: the trap is taken, and then the handler's area, its entry and the stop are each one case. -/
theorem trapEntersHandlerOrStops : Obligations.TrapEntersHandlerOrStops := by
  rintro s d x rfl hst hh
  refine ⟨fun code saveb data sv hentry hbad howes hsv => ?entered, fun c a e hbad howes => ?bad, fun hentry hbad => ?stopped⟩
  case entered =>
    obtain ⟨r, hr⟩ : ∃ r, r = s.record s.cur (s.siteC false) (0x1E0 + d.toNat) 0 0 true := ⟨_, rfl⟩
    have hexec : exec (.trap d) s = .next (r.enterHandler .C s.c.pc none (0x1E0 + d.toNat) (code, saveb, data)) := by
      rw [exec_trap_taken hst hh (.inl howes), hbad, hentry, hr]
    have hrcore : r.core = s.core.record (s.lcoreOf s.cur) (s.siteC false) (0x1E0 + d.toNat) 0 0 true := hr ▸ State.core_record
    have harea : r.saveArea (code, saveb, data) = sv := by
      rw [hsv, hr]
      rfl
    have hpc : r.c.pc = s.c.pc := by rw [State.c, hrcore, CoreSt.record_cS]; rfl
    have hlines : r.saveLines r.ctxNo (r.saveArea (code, saveb, data)) = s.saveLines s.ctxNo sv := by
      rw [harea, hr]
      exact State.record_saveLines ..
    have hmemr : r.mem = s.mem := hr ▸ rfl
    obtain ⟨⟨h, hhand, hcode, hsave, hstrm, hmpc, hcpc, hsleep⟩, hsl, hpc0, h1, h2, h3, hregs, hcsr, hmem⟩ :=
      State.enterHandler_core (s := r) (mpc := s.c.pc) (code := 0x1E0 + d.toNat) (he := (code, saveb, data)) rfl
    refine ⟨_, h, hexec, hhand, hcode, hsave.trans harea, hstrm, hmpc, hcpc.trans hpc, ?_, hsl, hpc0, h1, h2, ?_, hregs, ?_, ?_, ?_, ?_⟩
    · rw [hsleep, hrcore, CoreSt.record_sleep]
    · rw [h3, harea]
    · rw [hcsr, hrcore, CoreSt.record_code]
      rfl
    · rw [hcsr, hrcore, CoreSt.record_mpc]
      rfl
    · intro p n j hp himg hn hj
      rw [hmem, State.savedFor_written (hlines.trans hp) (by rw [hr]; exact himg) hn hj, hpc, hrcore, CoreSt.record_sreg]
    · intro a ha
      rw [hmem, State.savedFor_look (by rw [hlines]; exact ha), hmemr]
  case bad =>
    obtain ⟨hdrain, hstop, hhand, -, -⟩ := s.record_stopCtx_drains (w := s.siteC false) (code := c) (addr := a) (detail := e) (hnd := false) s.ctxNo c
    exact ⟨_, by rw [exec_trap_taken hst hh (.inl howes), hbad], hdrain, hstop, hhand.trans hh⟩
  case stopped =>
    obtain ⟨hdrain, hstop, hhand, hcode, hmpc⟩ := s.record_stopCtx_drains (w := s.siteC false) (code := 0x1E0 + d.toNat) (addr := 0) (detail := 0)
      (hnd := false) s.ctxNo (0x1E0 + d.toNat)
    exact ⟨_, by rw [exec_trap_taken hst hh (.inr hentry), hbad, hentry], hdrain, hstop, hhand.trans hh, hcode, hmpc⟩

end Sys2Proof.Machine

/-! ## Commands on partitions, contexts and memory (O49) -/

namespace Sys2Proof.Machine

open Claims

/-! ### The cores of a partition (R404) -/

theorem mem_insertNum {e f : Nat × Nat} {l : List (Nat × Nat)} : f ∈ insertNum e l ↔ f = e ∨ f ∈ l := by
  induction l with
  | nil => simp [insertNum]
  | cons g r ih =>
    unfold insertNum
    split
    · exact List.mem_cons
    · rw [List.mem_cons, ih, List.mem_cons]
      tauto

theorem mem_sortNat {k : Nat} {l : List Nat} : k ∈ sortNat l ↔ k ∈ l := by
  have hfold (a : List (Nat × Nat)) : k ∈ (l.foldl (fun a k => insertNum (k, k) a) a).map (fun e => e.1) ↔ k ∈ l ∨ k ∈ a.map (fun e => e.1) := by
    induction l generalizing a with
    | nil => simp
    | cons x r ih =>
      rw [List.foldl_cons, ih, List.mem_cons]
      simp only [List.mem_map, mem_insertNum, exists_eq_or_imp]
      tauto
  exact (hfold []).trans (by simp)

section
variable {s : State} {p k x : Nat} {add rem : List Nat}

/-- The physical cores of a partition. -/
def State.coreSet (s : State) (p : Nat) : List Nat := (s.partOf p).cores.map (fun c => c.2)

theorem State.mem_coreSet_removeCore : x ∈ (s.removeCore p k).coreSet p ↔ x ∈ s.coreSet p ∧ x ≠ k := by
  unfold State.removeCore
  split
  next hf =>
    have hk : k ∉ s.coreSet p := fun h => by
      obtain ⟨e, he, rfl⟩ := List.mem_map.1 h
      exact List.find?_eq_none.1 hf e he (beq_self_eq_true _)
    exact ⟨fun h => ⟨h, fun hx => hk (hx ▸ h)⟩, And.left⟩
  next c hf =>
    extract_lets xs u v
    have hu : s.SameStanding u := .ite (.refl s) (State.forEach_sameStanding fun y w => w.returnLost_sameStanding y _)
    have hv : v.partOf p = s.partOf p := hu.partOf p
    rw [State.coreSet, State.partOf_setPartOf, if_pos rfl, State.coreSet, hv]
    simp only [List.mem_map, List.mem_filter, bne_iff_ne]
    exact ⟨fun ⟨e, ⟨he, hk⟩, hx⟩ => ⟨⟨e, he, hx⟩, hx ▸ hk⟩, fun ⟨⟨e, he, hx⟩, hk⟩ => ⟨e, ⟨he, hx ▸ hk⟩, hx⟩⟩

theorem State.mem_coreSet_addCore : x ∈ (s.addCore p k).coreSet p ↔ x = k ∨ x ∈ s.coreSet p := by
  unfold State.addCore
  dsimp only
  rw [State.coreSet, State.partOf_setPartOf, if_pos rfl]
  simp only [List.mem_map, mem_insertNum, exists_eq_or_imp, State.coreSet]
  exact or_congr eq_comm Iff.rfl

theorem State.mem_coreSet_removeAll : x ∈ (s.forEach rem (fun k s => s.removeCore p k)).coreSet p ↔ x ∈ s.coreSet p ∧ x ∉ rem := by
  induction rem generalizing s with
  | nil => exact ⟨fun h => ⟨h, List.not_mem_nil⟩, And.left⟩
  | cons k r ih =>
    refine (ih (s := s.removeCore p k)).trans ?_
    rw [State.mem_coreSet_removeCore, List.mem_cons, not_or, and_assoc]

theorem State.mem_coreSet_addAll : x ∈ (s.forEach add (fun k s => s.addCore p k)).coreSet p ↔ x ∈ add ∨ x ∈ s.coreSet p := by
  induction add generalizing s with
  | nil => simp [State.forEach]
  | cons k r ih =>
    refine (ih (s := s.addCore p k)).trans ?_
    rw [State.mem_coreSet_addCore, List.mem_cons]
    tauto

end

/-- A partition whose cores are numbered anew keeps them. -/
theorem State.mem_coreSet_renumbered {s : State} {p x : Nat} : x ∈ (s.setPartOf p { s.partOf p with
    cores := (List.range (sortNat (s.coreSet p)).length).zip (sortNat (s.coreSet p)) }).coreSet p ↔ x ∈ s.coreSet p := by
  rw [State.coreSet, State.partOf_setPartOf, if_pos rfl, List.map_snd_zip (by simp), mem_sortNat]

/-- The cores of a partition after a PARTSET that its checks let pass: those it had without those removed, and those added. -/
theorem execPartset_answered {s : State} {j : Jec} {p : Nat} {add rem : List Nat} (hacc : accepts s j) (hp : p < 16)
    (hk : ∀ k ∈ add ++ rem, k < 256) (hadd : add.Nodup) (hrem : ∀ k ∈ rem, k ∈ (s.partOf p).cores.map (fun c => c.2))
    (hidle : ∀ y ∈ s.boundTo p, (s.ctxOf y).st ≠ .running ∧ (s.ctxOf y).st ≠ .draining)
    (hfree : ∀ k ∈ add, ∀ q ∈ s.parts, ∀ c ∈ q.2.cores, c.2 ≠ k) :
    ∃ t, execPartset j p add rem s = answered j t ∧
      ∀ k, k ∈ (t.partOf p).cores.map (fun c => c.2) ↔ k ∈ add ∨ k ∈ (s.partOf p).cores.map (fun c => c.2) ∧ k ∉ rem := by
  have hbounds : (add ++ rem).any (fun k => decide (256 ≤ k)) = false := List.any_eq_false.2 fun k hmem => by simpa using hk k hmem
  have hmine : rem.all (fun k => ((s.partOf p).cores.map (fun c => c.2)).contains k) = true :=
    List.all_eq_true.2 fun k hmem => List.contains_iff_mem.2 (hrem k hmem)
  have hrange : (decide (16 ≤ p) || (add ++ rem).any (fun k => decide (256 ≤ k)) || !decide (add.Nodup) ||
      !rem.all (fun k => ((s.partOf p).cores.map (fun c => c.2)).contains k)) = false := by
    rw [hbounds, hmine, decide_eq_true hadd, decide_eq_false (Nat.not_le.2 hp)]
    rfl
  have hnew : add.any (fun k => s.parts.any (fun q => q.2.cores.any (fun c => c.2 == k))) = false := by
    simpa using fun k hk n q hq l hl => hfree k hk (n, q) hq (l, k) hl rfl
  have hbusy : ((s.boundTo p).any (fun x => (s.ctxOf x).st == .running || (s.ctxOf x).st == .draining)) = false := by
    simpa using hidle
  have hidle' : (((s.boundTo p).any (fun x => (s.ctxOf x).st == .running || (s.ctxOf x).st == .draining)) && !(add.isEmpty && rem.all s.outOfService)) = false := by
    rw [hbusy, Bool.false_and]
  obtain ⟨u, hu⟩ : ∃ u, u = (s.forEach rem (fun k s => s.removeCore p k)).forEach (sortNat add) (fun k s => s.addCore p k) := ⟨_, rfl⟩
  obtain ⟨v, hv⟩ : ∃ v, v = if (u.boundTo p).any (fun x => (u.ctxOf x).st == .running || (u.ctxOf x).st == .draining) then u
      else u.forN 4 (fun d s => s.setRpool p d { s.rpool p d with gc := 0 }) := ⟨_, rfl⟩
  have hset (k : Nat) : k ∈ v.coreSet p ↔ k ∈ add ∨ k ∈ s.coreSet p ∧ k ∉ rem := by
    have huv : u.SameStanding v := hv ▸ .ite (.refl u) (State.forN_sameStanding fun d w => w.setRpool_sameStanding p d _)
    rw [State.coreSet, huv.partOf, ← State.coreSet, hu, State.mem_coreSet_addAll, mem_sortNat, State.mem_coreSet_removeAll]
  have hexec : execPartset j p add rem s = answered j (if (v.boundTo p).all (fun x => (v.ctxOf x).st == .dead) then
      v.setPartOf p { v.partOf p with cores := (List.range (sortNat (v.coreSet p)).length).zip (sortNat (v.coreSet p)) } else v) := by
    rw [execPartset]
    refine command_answered hacc ?_
    dsimp only
    rw [Done.unless_passed hrange, Done.unless_passed hidle', Done.unless_passed hnew, ← hu, ← hv]
    split <;> rfl
  refine ⟨_, hexec, fun k => ?_⟩
  split
  · exact State.mem_coreSet_renumbered.trans (hset k)
  · exact hset k

/-! ### Contexts (R405 to R407, R414, R422 to R424) -/

theorem contextCommands_holds : Claims.contextCommands := by
  rintro s j p x c hacc rfl
  refine ⟨fun add rem hp hk hadd hrem hidle hfree => execPartset_answered hacc hp hk hadd hrem hidle hfree,
    fun r t hx hpart hwdog hsync hst ht hspill hpin => ⟨fun hb => ?ctxnew, fun hb hok => ?ctxnewHandlers⟩, fun hst hq => ?ctxfree,
    fun t hst ht => ?run, fun t hst ht => ?preempt, fun hst hmov hnext hafter => ⟨fun hl => ?spill, fun hl => ?spilledAlready⟩,
    fun hst hsh hmov => ?fill, fun u e hst hstop hheld hu he => ⟨fun t hl hn ht => ?resumeHere, fun t hor ht => ?resumeLater⟩, fun hal => ?kill⟩
  case ctxnew =>
    subst ht
    rw [exec_ctxnew, execCtxnew]
    refine command_answered hacc ?_
    rw [Done.unless_passed (by simp [hx, hpart, hsync]; exact hwdog), Done.unless_passed (by simp [hst])]
    dsimp only
    rw [Done.unless_passed (by simp [hspill, hpin]), if_pos hb]
  case ctxnewHandlers =>
    subst ht
    rw [exec_ctxnew, execCtxnew]
    refine command_answered hacc ?_
    rw [Done.unless_passed (by simp [hx, hpart, hsync]; exact hwdog), Done.unless_passed (by simp [hst])]
    dsimp only
    rw [Done.unless_passed (by simp [hspill, hpin]), if_neg hb, hok]
  case ctxfree =>
    rw [exec_ctxfree, execCtxfree]
    refine ⟨_, command_answered hacc (Done.unless_passed (by simp [hst, hq])), ?_, ?_, ?_, ?_⟩
    · exact congrArg Ctx.st ((State.ctxOf_setCtxOf ..).trans (if_pos rfl))
    · exact fun q hq => by simpa using (List.mem_filter.1 hq).2
    · exact fun i hi => by simpa using (List.mem_filter.1 hi).2
    · exact fun g hg => by simpa using (List.mem_filter.1 hg).2
  case run =>
    rw [exec_run, execRun]
    refine command_answered hacc ?_
    rw [Done.unless_passed (by rcases hst with h | h <;> simp [h]), ht]
  case preempt =>
    subst ht
    rw [exec_preempt, execPreempt]
    exact command_answered hacc (Done.unless_passed (by simp [hst]))
  case spill =>
    rw [exec_spill, execSpill]
    refine command_answered hacc ?_
    dsimp only
    rw [Done.unless_passed (by rcases hst with h | h <;> simp [h, hmov, hnext, hafter]), if_neg hl]
  case spilledAlready =>
    rw [exec_spill, execSpill]
    refine command_answered hacc ?_
    dsimp only
    rw [Done.unless_passed (by rcases hst with h | h <;> simp [h, hmov, hnext, hafter]), if_pos hl]
  case fill =>
    rw [exec_fill, execFill]
    exact command_answered hacc (Done.unless_passed (by simp [hst, hsh, hmov]))
  case resumeHere =>
    subst ht he hu
    rw [exec_resume, execResume]
    refine command_answered hacc ?_
    rw [Done.unless_passed (by simp [hst, hstop, hheld])]
    exact if_pos ⟨hl, by rw [hn]; rfl⟩
  case resumeLater =>
    subst ht he hu
    rw [exec_resume, execResume]
    refine command_answered hacc ?_
    rw [Done.unless_passed (by simp [hst, hstop, hheld])]
    refine if_neg ?_
    rintro ⟨hl, hn⟩
    rcases hor with h | h
    · exact h hl
    · rw [Option.isNone_iff_eq_none.1 hn] at h
      cases h
  case kill =>
    rw [exec_kill, execKill]
    exact command_answered hacc (Done.unless_passed (by simp [hal]))

end Sys2Proof.Machine

namespace Sys2Proof.Machine

open Claims

/-! ### Memory through the port (R402, R442, R472) -/

theorem State.restoreGroup_ctxs (s : State) (x : Nat) (b : List Byte) : (s.restoreGroup x b).ctxs = s.ctxs := by
  unfold State.restoreGroup
  dsimp only
  split <;> rfl

/-- A RESTORE of an image with one header record brings back the launch number that it records. -/
theorem execRestore_restored {s : State} {j : Jec} {x : Nat} {d : List Byte} {rs : List (Nat × List Byte)} (hacc : accepts s j) (hal : s.alive x = true)
    (hno : s.tasks.any (fun t => t.2.ctx == x && !t.2.over) = false) (hrs : s.restorable x d = some rs) :
    ∃ t, execRestore j x d s = answered j t ∧
      ∀ b, (rs.filter (fun r => r.1 == 3)).map (fun r => r.2) = [b] → (t.ctxOf x).launch = fieldLE b 0 4 := by
  rw [execRestore]
  refine ⟨_, command_answered hacc ((Done.unless_passed (by simp [hal, hno])).trans (by rw [hrs])), fun b hb => ?_⟩
  refine State.forEach_inv (P := fun u => (u.ctxOf x).launch = fieldLE b 0 4) ?_ fun e _ u hu => ?_
  · dsimp only
    rw [hb]
    exact congrArg Ctx.launch ((State.ctxOf_setCtxOf ..).trans (if_pos rfl))
  · rwa [State.ctxOf, State.restoreGroup_ctxs]

theorem memoryCommands_holds : Claims.memoryCommands := by
  intro s j sp a n x d l hacc
  refine ⟨fun hl => ?mread, fun hl => ?mreadRefused, fun hl => ?mwritePhys, fun as hl hd has => ⟨fun hr => ?mwriteRefused, fun hr => ?mwriteCtx⟩,
    fun rs hal hno hrs => execRestore_restored hacc hal hno hrs, fun hal hno hrs => ?restoreRefused⟩
  case mread =>
    rw [exec_mread, execMread, command_accepted hacc, hl]
    rfl
  case mreadRefused =>
    rw [exec_mread, execMread]
    exact command_refused hacc (by rw [hl])
  case mwritePhys =>
    rw [exec_mwrite, execMwrite, command_accepted hacc, hl]
    rfl
  case mwriteRefused =>
    subst has
    rw [exec_mwrite, execMwrite]
    refine command_refused hacc ?_
    rw [hl]
    exact (Done.unless_passed hd).trans (Done.unless_failed hr)
  case mwriteCtx =>
    subst has
    rw [exec_mwrite, execMwrite, command_accepted hacc, hl]
    dsimp only
    rw [Done.unless_passed hd, Done.unless_passed hr]
    rfl
  case restoreRefused =>
    rw [exec_restore, execRestore]
    refine command_refused hacc ?_
    rw [Done.unless_passed (by simp [hal, hno]), hrs]

/-! ### An MWRITE that performs (R383, R472) -/

theorem outside_segSlice {g : List Seg} {a i n : Nat} (h : outside g a) : outside (segSlice g i n) a := by
  induction g generalizing i n with
  | nil => exact h
  | cons c r ih =>
    have hr : outside r a := fun e he => h e (List.mem_cons_of_mem _ he)
    unfold segSlice
    split
    · exact fun _ he => absurd he List.not_mem_nil
    split
    · exact ih hr
    · have hc := h c List.mem_cons_self
      refine List.forall_mem_cons.2 ⟨?_, ih hr⟩
      dsimp only
      omega

theorem segSlice_byte {p n i : Nat} (hi : i < n) : segSlice [⟨p, n⟩] i 1 = [⟨p + i, 1⟩] := by
  have hmin : min 1 (n - i) = 1 := by omega
  simp [segSlice, Nat.not_le.2 hi, hmin]

/-- Part of a stretch with no poisoned frame has none. -/
theorem State.placeBad_part {s : State} {p n q m x : Nat} (h : s.placeBad (.phys x [⟨p, n⟩]) = false) (hm : 0 < m) (hp : p ≤ q) (hq : q + m ≤ p + n) :
    s.placeBad (.phys x [⟨q, m⟩]) = false := by
  simp only [State.placeBad, Place.segs, List.any_cons, List.any_nil, Bool.or_false, List.any_eq_false, List.mem_range'_1] at h ⊢
  exact fun f hf => h f ⟨by omega, by omega⟩

section
variable {s : State} {x i : Nat} {g : List Seg}

/-- What every byte of an MWRITE keeps, whether it performs or is dropped, the whole keeps. -/
theorem State.portWrite_inv {P : State → Prop} (hperform : ∀ u i b, P u → P (u.perform (segSlice g i 1) [b])) (hstale : ∀ u, P u → P (u.stale x 1))
    (l : List (Byte × Option (Option VerTag))) (hs : P s) : P (State.portWrite x g l i s) := by
  induction l generalizing s i with
  | nil => exact hs
  | cons b r ih =>
    refine ih ?_
    split
    · exact hperform _ _ _ hs
    · exact hstale _ hs

theorem State.portWrite_dev (l : List (Byte × Option (Option VerTag))) : (State.portWrite x g l i s).dev = s.dev :=
  State.portWrite_inv (P := fun u => u.dev = s.dev)
    (fun _ _ _ hu => (State.evalWaits_field State.dev (fun _ _ _ _ => rfl) _ _).trans hu) (fun _ hu => hu) l rfl

theorem State.portWrite_look {a : Nat} (l : List (Byte × Option (Option VerTag))) (ha : outside g a) :
    look 0 (State.portWrite x g l i s).mem a = look 0 s.mem a :=
  State.portWrite_inv (P := fun u => look 0 u.mem a = look 0 s.mem a)
    (fun _ _ _ hu => (State.perform_look _ _ _ _ (outside_segSlice ha)).trans hu) (fun _ hu => hu) l rfl

/-- Bytes that nothing holds back are all in memory afterwards. -/
theorem State.portWrite_written {p n : Nat} {d : List Byte} (himg : overlap [⟨p, n⟩] s.imageSegs = false)
    (hbad : s.placeBad (.phys 0 [⟨p, n⟩]) = false) (hn : i + d.length ≤ n) (a : Nat) :
    look 0 (State.portWrite x [⟨p, n⟩] (d.map (fun b => (b, some none))) i s).mem a =
      if p + i ≤ a ∧ a < p + i + d.length then d.getD (a - (p + i)) 0 else look 0 s.mem a := by
  induction d generalizing s i with
  | nil => exact (if_neg (by simp)).symm
  | cons b r ih =>
    rw [List.length_cons] at hn
    have hslice : segSlice [⟨p, n⟩] i 1 = [⟨p + i, 1⟩] := segSlice_byte (by omega)
    have hlands : s.portLands [⟨p + i, 1⟩] (some none) = true := by
      simp [State.portLands, State.placeBad_part (q := p + i) (m := 1) hbad (by omega) (by omega) (by omega)]
    have hsame := s.perform_sameHomes [⟨p + i, 1⟩] [b]
    rw [List.map_cons, State.portWrite]
    dsimp only
    rw [hslice, if_pos hlands, ih (by rwa [hsame.imageSegs]) (by rw [← hbad]; simp only [State.placeBad, State.poisoned, hsame.poison]) (by omega),
      State.perform_written (p := p + i) (n := 1) (overlap_part himg (by omega) (by omega)) rfl, List.length_cons]
    by_cases h1 : a = p + i
    · rw [if_neg (by omega), if_pos (by omega), if_pos (by omega), h1, Nat.sub_self]
      rfl
    · by_cases h2 : p + (i + 1) ≤ a ∧ a < p + (i + 1) + r.length
      · rw [if_pos h2, if_pos (by omega), show a - (p + i) = a - (p + (i + 1)) + 1 by omega]
        rfl
      · rw [if_neg h2, if_neg (by omega), if_neg (by omega)]

/-- Each byte that is dropped counts once, up to the largest count. -/
theorem State.stale_counts (s : State) (x : Nat) :
    (((s.stale x 1).ctxOf x).csr 0x3DD).toNat = min (((s.ctxOf x).csr 0x3DD).toNat + 1) (2 ^ 32 - 1) := by
  rw [State.stale, State.ctxOf_setCtxOf, if_pos rfl, Ctx.csr, Ctx.setCsr, find?_setKey, if_pos rfl]
  exact (BitVec.toNat_ofNat ..).trans (Nat.mod_eq_of_lt (by omega))

/-- Bytes whose versions no longer admit them change no memory and are counted. -/
theorem State.portWrite_dropped (d : List Byte) (i : Nat) : (State.portWrite x g (d.map (fun b => (b, none))) i s).mem = s.mem ∧
    (d = [] ∨ (((State.portWrite x g (d.map (fun b => (b, none))) i s).ctxOf x).csr 0x3DD).toNat =
      min (((s.ctxOf x).csr 0x3DD).toNat + d.length) (2 ^ 32 - 1)) := by
  induction d generalizing s i with
  | nil => exact ⟨rfl, .inl rfl⟩
  | cons b r ih =>
    have hstep : State.portWrite x g ((b :: r).map (fun b => (b, none))) i s =
        State.portWrite x g (r.map (fun b => (b, none))) (i + 1) (s.stale x 1) := rfl
    rw [hstep, List.length_cons]
    obtain ⟨hmem, hcount⟩ := ih (s := s.stale x 1) (i := i + 1)
    refine ⟨hmem, .inr ?_⟩
    rcases hcount with rfl | hcount
    · exact s.stale_counts x
    · rw [hcount, s.stale_counts]
      omega

end

/-- The state in which an MWRITE has performed, before it is answered. -/
def State.portWritten (s : State) (w : PortWrite) : State :=
  State.portWrite w.ctx w.segs (w.data.zip w.admits) 0 { s with dev := { s.dev with pwrite := none } }

theorem execMemoryWritePerform_pending {s : State} {w : PortWrite} {t : Strm} {win n : Nat} (hw : s.dev.pwrite = some w) :
    execMemoryWritePerform 256 t win n s = .next ((s.portWritten w).answer ⟨w.seq, w.tag⟩ .ok []) := by
  rw [execMemoryWritePerform, if_pos rfl, State.portDone, hw]
  rfl

theorem zip_map_const {α β : Type} (l : List α) (v : β) : l.zip (l.map (fun _ => v)) = l.map (fun a => (a, v)) := by
  have h := List.zip_map' (f := id) (g := fun _ => v) (l := l)
  rwa [List.map_id] at h

theorem portWrites_holds : Claims.portWrites := by
  intro s w t win n p hw
  refine ⟨_, execMemoryWritePerform_pending hw, ?_, ?_, fun a ha => State.portWrite_look _ ha, fun hsegs himg hbad => ⟨fun hadm i hi => ?_, fun hadm => ?_⟩⟩
  · exact congrArg Device.pwrite (State.portWrite_dev ..)
  · rw [State.answer]
    dsimp only
    rw [List.take_succ_cons]
    exact if_pos rfl
  · rw [hsegs] at himg hbad
    have hlook := State.portWrite_written (x := w.ctx) (i := 0) (d := w.data) (s := { s with dev := { s.dev with pwrite := none } }) himg hbad
      (by omega) (p + i)
    rw [if_pos (by omega), show p + i - (p + 0) = i by omega, ← zip_map_const, ← hadm, ← hsegs] at hlook
    exact hlook
  · obtain ⟨hmem, hcount⟩ := State.portWrite_dropped (s := { s with dev := { s.dev with pwrite := none } }) (x := w.ctx) (g := w.segs) w.data 0
    rw [← zip_map_const, ← hadm] at hmem hcount
    exact hcount.symm.imp_left fun hcount => ⟨fun a => congrArg (fun m => look 0 m a) hmem, hcount⟩

/-- Settles O49: each claim is a command whose checks pass, or the one that fails, and an MWRITE performs byte by byte. -/
theorem contextAndMemoryCommands : Obligations.ContextAndMemoryCommands := ⟨contextCommands_holds, memoryCommands_holds, portWrites_holds⟩

end Sys2Proof.Machine
